-- ==== Sys2Proof/Word.lean ====
section
/-!
DEFINITION. The word types of the device (R3, R79) and the plainest bit access. Bit 0 is the least significant bit
of every field, register, word and record (R3).
-/

namespace Sys2Proof

/-- A byte of memory. -/
abbrev Byte := BitVec 8
/-- A 32-bit word: an instruction word, a lane register's value in one lane, or a uniform register. -/
abbrev Word := BitVec 32
/-- A 64-bit value: a register pair, an address, a control register. -/
abbrev DWord := BitVec 64
/-- A program counter: a 30-bit word index into the code segment (R32). -/
abbrev PC := BitVec 30
/-- A mask with one bit for each lane of the widest group (R12). -/
abbrev Mask := BitVec 64
/-- One 32-bit value for each of the 64 lanes of a slot (R11). -/
abbrev LaneVec := Vector Word 64
/-- A register operand field (R79): 0 to 95 name v0 to v95, 96 to 127 name g0 to g31. -/
abbrev Reg := BitVec 7

/-- A 64-bit value from its low and high words (R79: low word first). -/
abbrev pair (lo hi : Word) : DWord := hi ++ lo
/-- The low word of a 64-bit value. -/
abbrev loWord (x : DWord) : Word := x.extractLsb' 0 32
/-- The high word of a 64-bit value. -/
abbrev hiWord (x : DWord) : Word := x.extractLsb' 32 32

/-- The field names a v-register (R79). -/
abbrev isV (r : Reg) : Bool := decide (r.toNat < 96)
/-- The field names a g-register (R79). -/
abbrev isG (r : Reg) : Bool := decide (96 ≤ r.toNat)
/-- The field names an even register of its class (R79, R80). -/
abbrev even (r : Reg) : Bool := !r.getLsbD 0
/-- The field names an even g-register: a 64-bit g operand (R80, R133). -/
abbrev evenG (r : Reg) : Bool := isG r && even r

end Sys2Proof
end

