-- ==== Sys2Proof/Config.lean ====
section
/-!
DEFINITION. What an implementation fixes and the spec leaves open. Every constant here is opaque: no proof can see its
value, so a theorem about the model holds for each value. A counter in State (freeCtr, log 2, DESIGN CHOICE) gives each use a fresh
argument where two uses need not agree.
-/

namespace Sys2Proof.Config

/-- A choice among finitely many (log 7, DESIGN CHOICE): which free engine slot, Stage run or pool block is taken. -/
opaque freeNat : Nat → Nat
/-- A choice between two outcomes (log 8, log 9, DESIGN CHOICE): old or new byte of a stopping chunk, a store seen or not seen. -/
opaque freeBool : Nat → Bool
/-- A fresh byte (log 4, log 10, DESIGN CHOICE): what an area the spec gives no content holds. -/
opaque freeByte : Nat → Byte

/-- A word whose value the spec does not state (log 16, DESIGN CHOICE): a result of geometry on coordinates that are no numbers. -/
opaque freeWord : Nat → BitVec 32

/-- The device's own value for an approximate result inside the bound of R114 (log 6, DESIGN CHOICE): the offset from the lower end of
the interval of permitted f32 codes, by operation number and operand. -/
opaque approxPick : Nat → Word → Nat

/-- SHAKE256 with a 512-bit output (R320): a function of its input bytes; the model uses no other property (log 10, DESIGN CHOICE). -/
opaque shake256 : List Byte → BitVec 512
/-- A Falcon-1024 signature under the vendor key verifies (R320, log 10, DESIGN CHOICE). -/
opaque falconVerify : List Byte → Bool
/-- The Falcon-1024 signature of some bytes under the identity key, its bytes (R321, log 10, DESIGN CHOICE). -/
opaque falconSign : List Byte → List Byte
/-- The identity public key (R321, log 10, DESIGN CHOICE). -/
opaque identityKey : List Byte
/-- The firmware version an image carries (R313, log 10, DESIGN CHOICE). -/
opaque firmwareVersion : List Byte → Word
/-- A debug unlock's signature verifies (R228, log 10, DESIGN CHOICE). -/
opaque unlockVerify : List Word → Bool
/-- The signed configuration's bytes (R313, R320, log 10, DESIGN CHOICE). -/
opaque signedConfig : List Byte
/-- The signed configuration lists a requester (R313, log 10, DESIGN CHOICE). -/
opaque requesterListed : Nat → Bool
/-- The quota that Carillon's policy grants when asked: by region, what is held and what is asked (R313, log 10, DESIGN CHOICE). -/
opaque quotaGrant : Nat → Nat → Nat → Nat
/-- Whether QUOTA from a program goes beyond the signed policy and is DENIED (R313, log 10, DESIGN CHOICE). -/
opaque quotaDenied : Nat → Nat → Bool
/-- Where Carillon places a new partition's page-table root (R314, log 10, DESIGN CHOICE). -/
opaque ptRoot : Nat → Nat
/-- Where Carillon places a spill ring of a queue, as an IA, and its capacity in bytes (R273, log 10, DESIGN CHOICE). -/
opaque spillRing : Nat → Nat × Nat
/-- Whether a capacity-tier channel holds bytes of the 64 KiB at a physical address (R160, R325, log 10, DESIGN CHOICE): by address and
channel. -/
opaque onChannel : Nat → Nat → Bool
/-- The intermediate address of a partition's launch area (R316, log 10, DESIGN CHOICE). -/
opaque launchArea : Nat → Nat

end Sys2Proof.Config
end

