-- ==== Sys2Proof/Fields.lean ====
section
/-!
DEFINITION. The sets of names an instruction's fields take (R49, R56, R83, R84, R91 to R97), and the names the events of the opcode
table use for the parts they act on.
-/

namespace Sys2Proof

/-- Rounding codes (R56). -/
inductive Rnd where | rne | rtz | rdn | rup | rna
  deriving DecidableEq, Repr

/-- Element formats (R49), codes 0 to 12. -/
inductive Fmt where | i8 | n8 | i4 | t2 | f8 | bf16 | h16 | f32 | i32 | i16 | n16 | f64 | s8
  deriving DecidableEq, Repr

/-- The float formats of lane arithmetic (R94, R112): f32 and f64. -/
inductive FFmt where | f32 | f64
  deriving DecidableEq, Repr

/-- The ten tests of `cmp` and `gcmp` (R117). -/
inductive CmpOp where | eq | ne | lt | le | gt | ge | ltN | leN | gtN | geN
  deriving DecidableEq, Repr

/-- The eight tests of `fcmp` (R118). -/
inductive FcmpOp where | eq | ne | lt | le | gt | ge | ord | unord
  deriving DecidableEq, Repr

/-- Combining types of the compares (R116). -/
inductive CType where | nrm | unc | and | or | orAndcm | andOrcm | andcm | orcm
  deriving DecidableEq, Repr

/-- Lane shuffles (R121). -/
inductive Shfl where | up | down | xor
  deriving DecidableEq, Repr

/-- The operations of scans and reductions (R122, R123). -/
inductive RedOp where | add | min | max | minN | maxN
  deriving DecidableEq, Repr

/-- Atomic operations (R93, R179). -/
inductive AtomOp where | add | fadd | min | max | minN | maxN | and | or | xor | xchg | cas | incwrap
  deriving DecidableEq, Repr

/-- Access sizes (R91, R176). -/
inductive Size where | b | sb | h | sh | w | d | q
  deriving DecidableEq, Repr

/-- Order flags (R91, R183). -/
inductive Order where | plain | acq | rel | acqrel
  deriving DecidableEq, Repr

/-- The six observer classes, in the order of their mask bits (R84, R200). -/
inductive Obs where | c | e | m | x | n | h
  deriving DecidableEq, Repr

/-- Memory operands (R83): base pair and scaled index, base pair alone, or a per-lane 64-bit address. -/
inductive MemAddr where
  /-- modes 0 to 3: g(2k):g(2k+1) + zext(idx) × 2^scale + off -/
  | idx (scale : BitVec 2) (k : BitVec 4) (r : Reg)
  /-- mode 4: g(2k):g(2k+1) + off -/
  | base (k : BitVec 4)
  /-- mode 5: the lane's vlo:vhi + off -/
  | lanes (r : Reg)
  deriving DecidableEq, Repr

/-- Branch hints (R91): timing only. -/
inductive Hint where | none | uni | div
  deriving DecidableEq, Repr

/-- The units of a cluster's coprocessor set (R276). -/
inductive CUnit where | rast | depth | blend | tess | filt | trav
  deriving DecidableEq, Repr

/-- A slot of a command engine, as handles name them (R191). -/
inductive EngineRef where
  | copy (core slot : Nat)
  | wload (cluster slot : Nat)
  | cins (core slot : Nat)
  deriving DecidableEq, Repr

/-- A hardware queue that spills (R273). -/
inductive QueueRef where
  | calls (cluster : Nat) (unit : CUnit)
  | port (grp port : Nat)
  | workList (grp : Nat) (desc : DWord)
  deriving DecidableEq, Repr

/-- The fields of a copy-engine command in flight, as it is saved (R226). -/
inductive CmdItem where
  | gen | issuer | form | reg (k : Nat) | range (e : Nat) | stgFirst | stgLines | obs | order | clave | notBefore | done | early | chunk
  | time (o : Obs) | cancel | paused | result
  deriving DecidableEq, Repr

/-- The saved-state items of R226 as the debug port names them (R228). -/
inductive DebugItem where
  | vreg (r lane : Nat) | xreg (lane idx : Nat) | greg (r : Nat) | ppred (p : Nat) | cpred (c : Nat) | pending
  | tileCfg (t : Nat) | tileByte (t off : Nat)
  | slotPc (s : Bool) | slotMask (s : Bool) | slotJoin (s : Bool) | current | count
  | reserve (pos : Nat) | ctl (n : Nat) | horizon (o : Obs) | unfinished
  | iterOpen (i : Nat) | iterDesc (i : Nat) | iterHi (i : Nat) | iterCursor (i : Nat) | iterPos (i : Nat)
  | portBound (q : Nat) | portPos (q : Nat) | sectionHeld (i : Nat) | arrived
  | slot | octet | parkedWord (k : Nat) | iterImage (i : Nat)
  | portKind (q : Nat) | portSpill (q : Nat) | portStage (q : Nat) | portScale (q : Nat) | portCount (q : Nat) | portStride (q : Nat)
  | portIndex (q : Nat) | portBase (q : Nat) | portFaultCause (q : Nat) | portFaultAddr (q : Nat) | portPaused (q : Nat) | quantum
  | sectionToken (i : Nat) | sectionTile (i : Nat)
  /-- a field of the command in a slot of the core's copy engine, and a word of the core's companding tables -/
  | command (slot : Nat) (x : CmdItem) | curve (k : Nat)
  deriving DecidableEq, Repr

/-- A watchpoint (R228): a virtual range [lo, hi), and the accesses it matches. -/
structure Watch where
  lo : DWord
  hi : DWord
  onRead : Bool
  onWrite : Bool
  deriving DecidableEq, Repr

/-- An access that arrives from outside the package (R214). -/
inductive ExtKind where
  | read (len : Nat)
  | write (bytes : List Byte)
  | atomic (op : AtomOp) (dbl : Bool) (operand compare : DWord)
  deriving DecidableEq, Repr

/-- Where a host access lands: the control BAR or the launch BAR (R316). -/
inductive HostBar where | control | launch
  deriving DecidableEq, Repr

/-- Where an uncorrectable error strikes (R165): a line of memory, by physical address, of the Stage, or of a die's shadow store. -/
inductive EccPlace where | memory | stage | shadow (die : Nat)
  deriving DecidableEq, Repr

/-- The parts Carillon fences (R325). -/
inductive PartKind where | core | slice | stack | channel | port
  deriving DecidableEq, Repr

end Sys2Proof
end

