-- ==== Sys2Proof/Machine/Codes.lean ====
section
/-!
DEFINITION. The code in the instruction word of each name of Sys2Proof/Fields.lean, and the rules its registers obey (R49, R56, R82 to
R84, R91 to R97, R276). A code function that is read backwards (ofCode) is total: a code the spec gives no name goes to some name whose
own code differs, and the decoder then refuses the word, because the instruction's encoding is not the word it read.
-/

namespace Sys2Proof

/-- The 3-bit code of a rounding mode (R56). -/
def Rnd.code : Rnd → BitVec 3 | .rne => 0 | .rtz => 1 | .rdn => 2 | .rup => 3 | .rna => 4
/-- The rounding mode of a code; codes 5 to 7 are ILL (R56). -/
def Rnd.ofCode (c : BitVec 3) : Rnd :=
  match c.toNat with | 0 => .rne | 1 => .rtz | 2 => .rdn | 3 => .rup | _ => .rna
/-- The 4-bit format code (R49). -/
def Fmt.code : Fmt → BitVec 4
  | .i8 => 0 | .n8 => 1 | .i4 => 2 | .t2 => 3 | .f8 => 4 | .bf16 => 5 | .h16 => 6 | .f32 => 7 | .i32 => 8
  | .i16 => 9 | .n16 => 10 | .f64 => 11 | .s8 => 12
/-- The format of a code; codes 13 to 15 are reserved (R49). -/
def Fmt.ofCode (c : BitVec 4) : Fmt :=
  match c.toNat with
  | 0 => .i8 | 1 => .n8 | 2 => .i4 | 3 => .t2 | 4 => .f8 | 5 => .bf16 | 6 => .h16 | 7 => .f32 | 8 => .i32
  | 9 => .i16 | 10 => .n16 | 11 => .f64 | _ => .s8
/-- Element width in bits (R49). -/
def Fmt.width : Fmt → Nat
  | .i8 => 8 | .n8 => 8 | .i4 => 4 | .t2 => 2 | .f8 => 8 | .bf16 => 16 | .h16 => 16 | .f32 => 32 | .i32 => 32
  | .i16 => 16 | .n16 => 16 | .f64 => 64 | .s8 => 8
/-- i8, t2 and f8 have an escape code (R51 to R53); `cvt.esc` needs i8 or f8 on one side (R125). -/
def Fmt.canEscape : Fmt → Bool | .i8 => true | .f8 => true | _ => false
/-- A `cvt` operand of this format may be in register r: codes 0 to 11, and f64 in an even pair (R125). -/
def Fmt.cvtOk (f : Fmt) (r : Reg) : Bool := match f with | .s8 => false | .f64 => even r | _ => true
/-- The formats `cvt` treats as floats (R54, R104). -/
def Fmt.isFloat : Fmt → Bool | .f8 => true | .bf16 => true | .h16 => true | .f32 => true | .f64 => true | _ => false
/-- The format code of a lane float form (R94). -/
def FFmt.code : FFmt → BitVec 4 | .f32 => 7 | .f64 => 11
/-- The lane float format of a code; any other code is ILL (R94). -/
def FFmt.ofCode (c : BitVec 4) : FFmt := if c == 11#4 then .f64 else .f32
/-- Under f64 an operand names an even register pair (R79, R112). -/
def FFmt.pairOk : FFmt → Reg → Bool | .f32, _ => true | .f64, r => even r
/-- The low four bits of the test's sub-opcode (R94). -/
def CmpOp.code : CmpOp → BitVec 4
  | .eq => 0 | .ne => 1 | .lt => 2 | .le => 3 | .gt => 4 | .ge => 5 | .ltN => 6 | .leN => 7 | .gtN => 8 | .geN => 9
/-- The test of a code (R94). -/
def CmpOp.ofCode (c : BitVec 4) : CmpOp :=
  match c.toNat with
  | 0 => .eq | 1 => .ne | 2 => .lt | 3 => .le | 4 => .gt | 5 => .ge | 6 => .ltN | 7 => .leN | 8 => .gtN | _ => .geN
/-- The sub-opcode of an `fcmp` test (R94). -/
def FcmpOp.code : FcmpOp → BitVec 3
  | .eq => 0 | .ne => 1 | .lt => 2 | .le => 3 | .gt => 4 | .ge => 5 | .ord => 6 | .unord => 7
/-- The `fcmp` test of a code (R94). -/
def FcmpOp.ofCode (c : BitVec 3) : FcmpOp :=
  match c.toNat with
  | 0 => .eq | 1 => .ne | 2 => .lt | 3 => .le | 4 => .gt | 5 => .ge | 6 => .ord | _ => .unord
/-- The ctype code (R116). -/
def CType.code : CType → BitVec 3
  | .nrm => 0 | .unc => 1 | .and => 2 | .or => 3 | .orAndcm => 4 | .andOrcm => 5 | .andcm => 6 | .orcm => 7
/-- The combining type of a code (R116). -/
def CType.ofCode (c : BitVec 3) : CType :=
  match c.toNat with
  | 0 => .nrm | 1 => .unc | 2 => .and | 3 => .or | 4 => .orAndcm | 5 => .andOrcm | 6 => .andcm | _ => .orcm
/-- The sub-opcode of a shuffle (R94). -/
def Shfl.code : Shfl → BitVec 2 | .up => 0 | .down => 1 | .xor => 2
/-- The shuffle of a code (R94). -/
def Shfl.ofCode (c : BitVec 2) : Shfl := match c.toNat with | 0 => .up | 1 => .down | _ => .xor
/-- The sub-opcode of a scan or reduction (R94). -/
def RedOp.code : RedOp → BitVec 3 | .add => 0 | .min => 1 | .max => 2 | .minN => 3 | .maxN => 4
/-- The scan or reduction of a code (R94). -/
def RedOp.ofCode (c : BitVec 3) : RedOp :=
  match c.toNat with | 0 => .add | 1 => .min | 2 => .max | 3 => .minN | _ => .maxN
/-- The atomic operation's code in E3 [19:16] (R93). -/
def AtomOp.code : AtomOp → BitVec 4
  | .add => 0 | .fadd => 1 | .min => 2 | .max => 3 | .minN => 4 | .maxN => 5 | .and => 6 | .or => 7 | .xor => 8
  | .xchg => 9 | .cas => 10 | .incwrap => 11
/-- The atomic operation of a code; 12 to 15 are ILL (R93). -/
def AtomOp.ofCode (c : BitVec 4) : AtomOp :=
  match c.toNat with
  | 0 => .add | 1 => .fadd | 2 => .min | 3 => .max | 4 => .minN | 5 => .maxN | 6 => .and | 7 => .or | 8 => .xor
  | 9 => .xchg | 10 => .cas | _ => .incwrap
/-- The register rule of R179: one register or an even pair under `.w` (`cas` an even pair), an even pair or a quad
under `.d`; and `fadd` is `.w` only (R93, R97). -/
def AtomOp.regOk (o : AtomOp) (dbl : Bool) (r : Reg) : Bool :=
  match o, dbl with
  | .cas, false => even r
  | .cas, true => r.extractLsb' 0 2 == 0#2
  | .fadd, true => false
  | _, true => even r
  | _, false => true
/-- The E3 size code (R91). -/
def Size.code : Size → BitVec 3 | .b => 0 | .sb => 1 | .h => 2 | .sh => 3 | .w => 4 | .d => 5 | .q => 6
/-- The size of a code; 7 is ILL (R91). -/
def Size.ofCode (c : BitVec 3) : Size :=
  match c.toNat with | 0 => .b | 1 => .sb | 2 => .h | 3 => .sh | 4 => .w | 5 => .d | _ => .q
/-- Bytes moved (R176). -/
def Size.bytes : Size → Nat | .b => 1 | .sb => 1 | .h => 2 | .sh => 2 | .w => 4 | .d => 8 | .q => 16
/-- The register rule of a size (R176): `.d` an even register, `.q` a multiple of 4. -/
def Size.regOk : Size → Reg → Bool | .d, r => even r | .q, r => isV r && r.extractLsb' 0 2 == 0#2 | _, _ => true
/-- A store has no sign-extending size (R97). -/
def Size.okStore : Size → Bool | .sb => false | .sh => false | _ => true
/-- The E3 order code (R91). -/
def Order.code : Order → BitVec 2 | .plain => 0 | .acq => 1 | .rel => 2 | .acqrel => 3
/-- The order of a code (R91). -/
def Order.ofCode (c : BitVec 2) : Order := match c.toNat with | 0 => .plain | 1 => .acq | 2 => .rel | _ => .acqrel
/-- A load may be plain or acquire (R97). -/
def Order.okLoad : Order → Bool | .plain => true | .acq => true | _ => false
/-- A store may be plain or release (R97). -/
def Order.okStore : Order → Bool | .plain => true | .rel => true | _ => false
/-- The order acquires. -/
def Order.acquires : Order → Bool | .acq => true | .acqrel => true | _ => false
/-- The order releases. -/
def Order.releases : Order → Bool | .rel => true | .acqrel => true | _ => false
/-- Plain requires observers zero, any other order requires them nonzero (R97). -/
def obsOk (o : Order) (m : BitVec 6) : Bool := (o == .plain) == (m == 0#6)
/-- The bit of an observer in a mask (R84). -/
def Obs.bit : Obs → Nat | .c => 0 | .e => 1 | .m => 2 | .x => 3 | .n => 4 | .h => 5
/-- All observers, in bit order. -/
def Obs.all : List Obs := [.c, .e, .m, .x, .n, .h]
/-- The a field of a memory operand (R83). -/
def MemAddr.fieldA : MemAddr → BitVec 7
  | .idx s k _ => 0#1 ++ s ++ k
  | .base k => 4#3 ++ k
  | .lanes _ => 5#3 ++ 0#4
/-- The b field of a memory operand (R83). -/
def MemAddr.fieldB : MemAddr → BitVec 7 | .idx _ _ r => r | .base _ => 0 | .lanes r => r
/-- The memory operand of the fields; modes 6 and 7 are ILL (R83). -/
def MemAddr.ofFields (a b : BitVec 7) : MemAddr :=
  match (a.extractLsb' 4 3).toNat with
  | 0 => .idx 0 (a.extractLsb' 0 4) b | 1 => .idx 1 (a.extractLsb' 0 4) b
  | 2 => .idx 2 (a.extractLsb' 0 4) b | 3 => .idx 3 (a.extractLsb' 0 4) b
  | 4 => .base (a.extractLsb' 0 4)
  | _ => .lanes b
/-- Mode 5 names an even v-register and is ILL in the Stage space (R80, R83). -/
def MemAddr.wf (m : MemAddr) (stage : Bool) : Bool :=
  match m with | .lanes r => isV r && even r && !stage | _ => true
/-- The E4 hint bits (R91). -/
def Hint.code : Hint → BitVec 2 | .none => 0 | .uni => 1 | .div => 2
/-- The hint of the bits; both set is ILL (R91). -/
def Hint.ofCode (c : BitVec 2) : Hint := match c.toNat with | 0 => .none | 1 => .uni | _ => .div
/-- The unit number (R276). -/
def CUnit.code : CUnit → BitVec 3 | .rast => 0 | .depth => 1 | .blend => 2 | .tess => 3 | .filt => 4 | .trav => 5
/-- The unit of a number; 6 and 7 are ILL (R94). -/
def CUnit.ofCode (c : BitVec 3) : CUnit :=
  match c.toNat with | 0 => .rast | 1 => .depth | 2 => .blend | 3 => .tess | 4 => .filt | _ => .trav
/-- All units in number order. -/
def CUnit.all : List CUnit := [.rast, .depth, .blend, .tess, .filt, .trav]
/-- Registers of a unit's call record of a type, `none` for a type R276 does not list. -/
def CUnit.callRegs (u : CUnit) (typ : Nat) : Option Nat :=
  match u, typ with
  | _, 0 => some 4
  | .rast, 1 => some 16 | .rast, 2 => some 16
  | .depth, 1 => some 8
  | .blend, 1 => some 16
  | .tess, 1 => some 8
  | .filt, 1 => some 8
  | .trav, 1 => some 16 | .trav, 2 => some 16 | .trav, 3 => some 16
  | _, _ => none
/-- Registers of a unit's return record (R276). -/
def CUnit.retRegs : CUnit → Nat | .filt => 8 | .trav => 8 | _ => 4
/-- `qcall` operands: a listed type, va a multiple of 4, and the record ends at or below v95 (R281). -/
def CUnit.callOk (u : CUnit) (typ : BitVec 7) (a : Reg) : Bool :=
  match u.callRegs typ.toNat with
  | some n => a.extractLsb' 0 2 == 0#2 && decide (a.toNat + n ≤ 96)
  | none => false
/-- `qret` operand: vd a multiple of the record's registers, within v0 to v95 (R281). -/
def CUnit.retOk (u : CUnit) (d : Reg) : Bool := decide (d.toNat % u.retRegs = 0) && decide (d.toNat + u.retRegs ≤ 96)
/-- A control register number that `mfc` may read (R82). -/
def ctlReadOk (n : BitVec 7) : Bool := decide (n.toNat < 20)
/-- A control register that `mtc` may write (R82); `rvsp` (3) has a form of its own in the opcode table. -/
def ctlWriteOk (n : BitVec 7) : Bool :=
  match n.toNat with
  | 0 => true | 1 => true | 2 => true | 9 => true | 10 => true | 11 => true | 13 => true | 14 => true | 15 => true
  | 16 => true | 18 => true | _ => false
/-- The 64-bit control registers (R82). -/
def ctlWide (n : BitVec 7) : Bool :=
  match n.toNat with
  | 0 => true | 2 => true | 3 => true | 4 => true | 5 => true | 15 => true | 16 => true | 17 => true | _ => false
/-- An E-shape block of n registers: it starts at an even g-register and ends at or below g31 (R97, R186). -/
def blockOk (a : Reg) (n : Nat) : Bool := evenG a && decide (a.toNat + n ≤ 128)
/-- An E-shape Clave field: 0 for none, or a g-register (R186). -/
def claveOk (b : Reg) : Bool := (b == 0#7) || isG b

end Sys2Proof
end

