-- ==== Sys2Proof/Machine/Float.lean ====
section
/-!
DEFINITION. Exact numbers and one rounding (R7, R49 to R58): values of the formats, rounding to a format with the sticky
flags of IEEE 754-2019 (tininess after rounding, R54), and the arithmetic of lane floats.
-/

namespace Sys2Proof.Machine

/-- An exact rational num / den with den positive. -/
structure Q where
  num : Int
  den : Nat
  deriving DecidableEq, Repr

/-- A rational from an integer. -/
def Q.ofInt (n : Int) : Q := ⟨n, 1⟩
/-- m × 2^e. -/
def Q.scale (m : Int) (e : Int) : Q := if 0 ≤ e then ⟨m * 2 ^ e.toNat, 1⟩ else ⟨m, 2 ^ (-e).toNat⟩
/-- Exact sum, over the larger denominator where one divides the other. -/
def Q.add (a b : Q) : Q :=
  if a.den % b.den = 0 then ⟨a.num + b.num * (a.den / b.den : Nat), a.den⟩
  else if b.den % a.den = 0 then ⟨a.num * (b.den / a.den : Nat) + b.num, b.den⟩
  else ⟨a.num * b.den + b.num * a.den, a.den * b.den⟩
/-- Negation. -/
def Q.neg (a : Q) : Q := ⟨-a.num, a.den⟩
/-- Exact difference. -/
def Q.sub (a b : Q) : Q := a.add b.neg
/-- Exact product. -/
def Q.mul (a b : Q) : Q := ⟨a.num * b.num, a.den * b.den⟩
/-- Exact quotient by a nonzero rational. -/
def Q.div (a b : Q) : Q :=
  if b.num < 0 then ⟨-(a.num * b.den), a.den * b.num.natAbs⟩ else ⟨a.num * b.den, a.den * b.num.natAbs⟩
/-- a < b. -/
def Q.lt (a b : Q) : Bool := decide (a.num * b.den < b.num * a.den)
/-- a ≤ b. -/
def Q.le (a b : Q) : Bool := decide (a.num * b.den ≤ b.num * a.den)
/-- a = b as numbers. -/
def Q.eqv (a b : Q) : Bool := decide (a.num * b.den = b.num * a.den)
/-- The floor. -/
def Q.floor (a : Q) : Int := a.num / a.den
/-- Zero. -/
def Q.zero : Q := ⟨0, 1⟩

/-- A value of a float format: a NaN (signalling or quiet), an infinity, or a finite magnitude with a sign. -/
inductive FNum where
  | nan (signalling : Bool)
  | inf (neg : Bool)
  | fin (neg : Bool) (mag : Q)
  deriving DecidableEq, Repr

/-- The signed exact value of a finite number. -/
def FNum.toQ : FNum → Q
  | .fin neg m => if neg then m.neg else m
  | _ => Q.zero
/-- The number is a NaN. -/
def FNum.isNan : FNum → Bool | .nan _ => true | _ => false
/-- The number is infinite. -/
def FNum.isInf : FNum → Bool | .inf _ => true | _ => false
/-- The number is a signalling NaN. -/
def FNum.isSnan : FNum → Bool | .nan s => s | _ => false
/-- The number is a zero. -/
def FNum.isZero : FNum → Bool | .fin _ m => decide (m.num = 0) | _ => false
/-- The sign of a number. -/
def FNum.sign : FNum → Bool | .nan _ => false | .inf n => n | .fin n _ => n
/-- The number with its sign flipped. -/
def FNum.flip : FNum → FNum | .nan s => .nan s | .inf n => .inf (!n) | .fin n m => .fin (!n) m
/-- A finite number from an exact value, a zero being positive. -/
def FNum.ofQ (q : Q) : FNum := .fin (decide (q.num < 0)) ⟨q.num.natAbs, q.den⟩

/-- The flags of `fsr` [4:0] (R59): nv, dz, of, uf, nx from bit 0. -/
abbrev FFlags := BitVec 5
/-- Invalid. -/
def fNV : FFlags := 1
/-- Divide by zero. -/
def fDZ : FFlags := 2
/-- Overflow. -/
def fOF : FFlags := 4
/-- Underflow. -/
def fUF : FFlags := 8
/-- Inexact. -/
def fNX : FFlags := 16
/-- A flag under a condition. -/
def flagIf (c : Bool) (f : FFlags) : FFlags := if c then f else 0

/-- An IEEE format: exponent bits, mantissa bits, bias (R54). -/
structure IEEE where
  ebits : Nat
  mbits : Nat
  bias : Int
  deriving DecidableEq, Repr

/-- binary16 -/
def ieeeH16 : IEEE := ⟨5, 10, 15⟩
/-- bf16 -/
def ieeeBf16 : IEEE := ⟨8, 7, 127⟩
/-- binary32 -/
def ieeeF32 : IEEE := ⟨8, 23, 127⟩
/-- binary64 -/
def ieeeF64 : IEEE := ⟨11, 52, 1023⟩

/-- The code of +∞. -/
def IEEE.infCode (p : IEEE) : Nat := (2 ^ p.ebits - 1) * 2 ^ p.mbits
/-- The canonical NaN (R55). -/
def IEEE.nanCode (p : IEEE) : Nat := p.infCode + 2 ^ (p.mbits - 1)
/-- The weight of the sign bit. -/
def IEEE.signBit (p : IEEE) : Nat := 2 ^ (p.ebits + p.mbits)
/-- The exponent of the smallest normal. -/
def IEEE.emin (p : IEEE) : Int := 1 - p.bias

/-- The value of a code (R54). -/
def IEEE.decode (p : IEEE) (c : Nat) : FNum :=
  let neg := decide (c / p.signBit % 2 = 1)
  let e := c / 2 ^ p.mbits % 2 ^ p.ebits
  let m := c % 2 ^ p.mbits
  if e = 2 ^ p.ebits - 1 then (if m = 0 then .inf neg else .nan (decide (m < 2 ^ (p.mbits - 1))))
  else if e = 0 then .fin neg (Q.scale m (p.emin - p.mbits))
  else .fin neg (Q.scale (m + 2 ^ p.mbits : Nat) (e - p.bias - p.mbits))

/-- Round the magnitude n / d to an integer under a mode: the integer, and whether it differs (R56). -/
def roundNat (mode : Rnd) (neg : Bool) (n d : Nat) : Nat × Bool :=
  let q := n / d
  let r := n % d
  let up :=
    match mode with
    | .rne => decide (d < 2 * r) || (decide (2 * r = d) && decide (q % 2 = 1))
    | .rtz => false
    | .rdn => neg && decide (r ≠ 0)
    | .rup => !neg && decide (r ≠ 0)
    | .rna => decide (d ≤ 2 * r)
  (if up then q + 1 else q, decide (r ≠ 0))

/-- ⌊log₂ (n / d)⌋ of a positive rational. -/
def floorLog2 (n d : Nat) : Int :=
  let e : Int := (Nat.log2 n : Int) - (Nat.log2 d : Int)
  if Q.le (Q.scale 1 e) ⟨n, d⟩ then e else e - 1

/-- A positive magnitude in units of 2^qe: numerator and denominator. -/
def inUnits (m : Q) (qe : Int) : Nat × Nat :=
  if 0 ≤ qe then (m.num.toNat, m.den * 2 ^ qe.toNat) else (m.num.toNat * 2 ^ (-qe).toNat, m.den)

/-- Round a positive magnitude on the grid of precision mbits + 1 bits with exponents down to emin: the code of the
magnitude counted from the smallest subnormal, whether it is inexact, whether it is tiny after rounding (R54, R58). -/
def roundGrid (mbits : Nat) (emin : Int) (mode : Rnd) (neg : Bool) (m : Q) : Nat × Bool × Bool :=
  let e := floorLog2 m.num.toNat m.den
  let qe := max e emin - mbits
  let u := inUnits m qe
  let r := roundNat mode neg u.1 u.2
  let w := inUnits m (e - mbits)
  let tiny := decide (e < emin) && Q.lt (Q.scale (roundNat mode neg w.1 w.2).1 (e - mbits)) (Q.scale 1 emin)
  ((qe - (emin - mbits)).toNat * 2 ^ mbits + r.1, r.2, tiny)

/-- The overflow result is infinite under this mode and sign (R57). -/
def overflowInf (mode : Rnd) (neg : Bool) : Bool :=
  match mode with | .rne => true | .rna => true | .rtz => false | .rdn => neg | .rup => !neg

/-- Round a number to an IEEE format (R54 to R57): its code and the flags raised. -/
def IEEE.round (p : IEEE) (mode : Rnd) (x : FNum) : Nat × FFlags :=
  match x with
  | .nan s => (p.nanCode, flagIf s fNV)
  | .inf neg => (p.infCode + (if neg then p.signBit else 0), 0)
  | .fin neg m =>
    let sgn := if neg then p.signBit else 0
    if m.num = 0 then (sgn, 0)
    else
      let r := roundGrid p.mbits p.emin mode neg m
      if p.infCode ≤ r.1 then
        (sgn + (if overflowInf mode neg then p.infCode else p.infCode - 1), fOF ||| fNX)
      else (sgn + r.1, flagIf r.2.1 fNX ||| flagIf (r.2.1 && r.2.2) fUF)

/-- The value of an f8 code with escapes disabled (R53). -/
def f8Decode (c : Nat) : FNum :=
  let neg := decide (c / 128 % 2 = 1)
  let e := c / 8 % 16
  let m := c % 8
  if c % 256 = 0x80 then .nan false
  else if e = 0 then .fin neg (Q.scale m (-9))
  else .fin neg (Q.scale (8 + m : Nat) ((e : Int) - 10))

/-- Conversion into f8 (R58). -/
def f8Round (mode : Rnd) (esc : Bool) (x : FNum) : Nat × FFlags :=
  match x with
  | .nan _ => (if esc then 0 else 0x80, fNV)
  | .inf neg => (if neg then 0xFF else 0x7F, fOF ||| fNX)
  | .fin neg m =>
    if m.num = 0 then (0, 0)
    else
      let r := roundGrid 3 (-6) mode neg m
      if 128 ≤ r.1 then (if neg then 0xFF else 0x7F, fOF ||| fNX)
      else if r.1 = 0 then (0, fUF ||| fNX)
      else (r.1 + (if neg then 128 else 0), flagIf r.2.1 fNX ||| flagIf (r.2.1 && r.2.2) fUF)

/-- Round an exact value to an integer under a mode, with its inexactness (R58). -/
def roundInt (mode : Rnd) (x : Q) : Int × Bool :=
  let neg := decide (x.num < 0)
  let r := roundNat mode neg x.num.natAbs x.den
  (if neg then -(r.1 : Int) else r.1, r.2)

/-- Conversion of a float into the integers lo to hi (R58): round, then saturate. -/
def intRound (mode : Rnd) (lo hi : Int) (x : FNum) : Int × FFlags :=
  match x with
  | .nan _ => (0, fNV)
  | .inf neg => (if neg then lo else hi, fNV)
  | .fin _ _ =>
    let r := roundInt mode x.toQ
    if r.1 < lo then (lo, fNV) else if hi < r.1 then (hi, fNV) else (r.1, flagIf r.2 fNX)

/-- The sign of an exact zero sum (IEEE 754-2019): that of both operands where they agree, else + except under rdn. -/
def zeroSumSign (mode : Rnd) (na nb : Bool) : Bool := if na = nb then na else mode == .rdn

/-- The exact sum of two numbers, and the invalid flag. -/
def FNum.add (mode : Rnd) (a b : FNum) : FNum × FFlags :=
  match a, b with
  | .nan s, y => (.nan false, flagIf (s || y.isSnan) fNV)
  | x, .nan t => (.nan false, flagIf (x.isSnan || t) fNV)
  | .inf na, .inf nb => if na = nb then (.inf na, 0) else (.nan false, fNV)
  | .inf na, .fin _ _ => (.inf na, 0)
  | .fin _ _, .inf nb => (.inf nb, 0)
  | .fin na ma, .fin nb mb =>
    let q := (FNum.fin na ma).toQ.add (FNum.fin nb mb).toQ
    if q.num = 0 then (.fin (zeroSumSign mode na nb) Q.zero, 0) else (FNum.ofQ q, 0)

/-- The exact product of two numbers, and the invalid flag. -/
def FNum.mul (a b : FNum) : FNum × FFlags :=
  match a, b with
  | .nan s, y => (.nan false, flagIf (s || y.isSnan) fNV)
  | x, .nan t => (.nan false, flagIf (x.isSnan || t) fNV)
  | .inf na, y => if y.isZero then (.nan false, fNV) else (.inf (xor na y.sign), 0)
  | x, .inf nb => if x.isZero then (.nan false, fNV) else (.inf (xor x.sign nb), 0)
  | .fin na ma, .fin nb mb => (.fin (xor na nb) (ma.mul mb), 0)

/-- a × b + c before rounding (R112): a 0 × ∞ product sets invalid whatever its addend. -/
def FNum.fma (mode : Rnd) (a b c : FNum) : FNum × FFlags :=
  let p := a.mul b
  if c.isNan then (.nan false, p.2 ||| flagIf c.isSnan fNV)
  else if p.1.isNan then p
  else p.1.add mode c

/-- Round the pair of a number and its flags. -/
def IEEE.roundWith (p : IEEE) (mode : Rnd) (x : FNum × FFlags) : Nat × FFlags :=
  let r := p.round mode x.1
  (r.1, r.2 ||| x.2)

/-- Float add (R112). -/
def IEEE.addOp (p : IEEE) (mode : Rnd) (a b : Nat) : Nat × FFlags :=
  p.roundWith mode ((p.decode a).add mode (p.decode b))
/-- Float subtract (R112). -/
def IEEE.subOp (p : IEEE) (mode : Rnd) (a b : Nat) : Nat × FFlags :=
  p.roundWith mode ((p.decode a).add mode (p.decode b).flip)
/-- Float multiply (R112). -/
def IEEE.mulOp (p : IEEE) (mode : Rnd) (a b : Nat) : Nat × FFlags :=
  p.roundWith mode ((p.decode a).mul (p.decode b))
/-- Fused multiply-add (R112). -/
def IEEE.fmaOp (p : IEEE) (mode : Rnd) (a b c : Nat) : Nat × FFlags :=
  p.roundWith mode ((p.decode a).fma mode (p.decode b) (p.decode c))

/-- Ordered comparison of two numbers that are no NaN: -1, 0 or 1, with −0 equal to +0. -/
def FNum.cmp (a b : FNum) : Int :=
  match a, b with
  | .inf na, .inf nb => if na = nb then 0 else if na then -1 else 1
  | .inf na, _ => if na then -1 else 1
  | _, .inf nb => if nb then 1 else -1
  | x, y => if x.toQ.eqv y.toQ then 0 else if x.toQ.lt y.toQ then -1 else 1

/-- The integer square root by bits: the largest r below 2^k + acc with r² ≤ n. -/
def isqrtFrom (n : Nat) : Nat → Nat → Nat
  | 0, acc => acc
  | k + 1, acc => isqrtFrom n k (if (acc + 2 ^ k) * (acc + 2 ^ k) ≤ n then acc + 2 ^ k else acc)

/-- The integer square root. -/
def isqrt (n : Nat) : Nat := isqrtFrom n (Nat.log2 n / 2 + 1) 0

/-- The correctly rounded square root (R114): the root is computed to 2 × mbits + 6 bits with a sticky bit below, which
decides every rounding as the exact root does. -/
def IEEE.sqrtOp (p : IEEE) (mode : Rnd) (a : Nat) : Nat × FFlags :=
  match p.decode a with
  | .nan s => (p.nanCode, flagIf s fNV)
  | .inf neg => if neg then (p.nanCode, fNV) else (p.infCode, 0)
  | .fin neg m =>
    if m.num = 0 then ((if neg then p.signBit else 0), 0)
    else if neg then (p.nanCode, fNV)
    else
      let e := floorLog2 m.num.toNat m.den / 2
      let k : Int := e - (2 * p.mbits + 6)
      let u := inUnits m (2 * k)
      let n := u.1 / u.2
      let r := isqrt n
      let exact := decide (r * r = n) && decide (u.1 % u.2 = 0)
      p.round mode (.fin false (Q.scale (2 * r + (if exact then 0 else 1) : Nat) (k - 1)))

/-- minimumNumber or maximumNumber (R113): a quiet NaN yields to a number, −0 is below +0; a signalling NaN raises
invalid. -/
def IEEE.minMax (p : IEEE) (isMax : Bool) (a b : Nat) : Nat × FFlags :=
  let x := p.decode a
  let y := p.decode b
  let fl := flagIf (x.isSnan || y.isSnan) fNV
  if x.isNan && y.isNan then (p.nanCode, fl)
  else if x.isNan then (b, fl)
  else if y.isNan then (a, fl)
  else
    let c := x.cmp y
    let aLess := decide (c < 0) || (decide (c = 0) && x.sign)
    (if aLess != isMax then a else b, fl)

end Sys2Proof.Machine
end

