-- ==== Sys2Proof/Machine/Formats.lean ====
section
/-!
DEFINITION. Element formats (R49 to R53): codes, values, conversions (R57, R58, R125, R126) and block scales (R61).
-/

namespace Sys2Proof

open Sys2Proof.Machine

/-- The two's-complement value of the low n bits of a number. -/
def sextN (x n : Nat) : Int :=
  let y := x % 2 ^ n
  if y < 2 ^ (n - 1) then y else (y : Int) - 2 ^ n

/-- The low n bits of an integer (its two's-complement code). -/
def codeN (x : Int) (n : Nat) : Nat := (x % (2 ^ n : Int)).toNat

/-- The value of a t2 code with escapes disabled (R51). -/
def t2Value (c : Nat) : Int := match c % 4 with | 1 => 1 | 3 => -1 | _ => 0

/-- The integer value of a code of an integer or ternary format (R49, R51, R52). -/
def Fmt.intValue (f : Fmt) (c : Nat) : Int :=
  match f with
  | .i8 => sextN c 8 | .i4 => sextN c 4 | .i16 => sextN c 16 | .i32 => sextN c 32
  | .n8 => (c % 2 ^ 8 : Nat) | .n16 => (c % 2 ^ 16 : Nat) | .t2 => t2Value c
  | _ => 0

/-- The value of a code with escapes disabled (R49 to R54). -/
def Fmt.value (f : Fmt) (c : Nat) : FNum :=
  match f with
  | .f8 => f8Decode (c % 2 ^ 8)
  | .bf16 => ieeeBf16.decode (c % 2 ^ 16)
  | .h16 => ieeeH16.decode (c % 2 ^ 16)
  | .f32 => ieeeF32.decode (c % 2 ^ 32)
  | .f64 => ieeeF64.decode (c % 2 ^ 64)
  | .s8 => if c % 256 = 0x80 then .fin false Q.zero else .fin false (Q.scale 1 (sextN c 8))
  | f => FNum.ofQ (Q.ofInt (f.intValue c))

/-- The code is its format's escape (R51 to R53). -/
def Fmt.isEscape (f : Fmt) (c : Nat) : Bool :=
  match f with
  | .i8 => decide (c % 256 = 0x80) | .f8 => decide (c % 256 = 0x80) | .t2 => decide (c % 4 = 2) | _ => false

/-- The ends of an integer or ternary format's range, with and without escapes (R52, R58, R126). -/
def Fmt.range (f : Fmt) (esc : Bool) : Int × Int :=
  match f with
  | .i8 => if esc then (-127, 127) else (-128, 127)
  | .n8 => (0, 255) | .i4 => (-8, 7) | .t2 => (-1, 1) | .i16 => (-32768, 32767) | .n16 => (0, 65535)
  | _ => (-(2 ^ 31), 2 ^ 31 - 1)

/-- Round a number into a float format (R57, R58): code and flags. -/
def Fmt.roundFloat (f : Fmt) (mode : Rnd) (esc : Bool) (x : FNum) : Nat × FFlags :=
  match f with
  | .f8 => f8Round mode esc x
  | .bf16 => ieeeBf16.round mode x
  | .h16 => ieeeH16.round mode x
  | .f64 => ieeeF64.round mode x
  | _ => ieeeF32.round mode x

/-- The lane form of a code (R49): integers sign- or zero-extended to 32 bits, float codes zero-extended, f64 whole. -/
def Fmt.laneForm (f : Fmt) (c : Nat) : DWord :=
  match f with
  | .i8 => BitVec.ofNat 64 (codeN (sextN c 8) 32)
  | .i4 => BitVec.ofNat 64 (codeN (sextN c 4) 32)
  | .i16 => BitVec.ofNat 64 (codeN (sextN c 16) 32)
  | .t2 => BitVec.ofNat 64 (codeN (t2Value c) 32)
  | f => BitVec.ofNat 64 (c % 2 ^ f.width)

/-- `cvt` and `cvt.esc` of one value (R125, R126): the destination's lane form and the flags. -/
def cvtOp (dst src : Fmt) (mode : Rnd) (esc : Bool) (x : DWord) : DWord × FFlags :=
  let c := x.toNat % 2 ^ src.width
  let isEsc := esc && src.isEscape c && src.canEscape
  if src.isFloat || isEsc then
    let v := if isEsc then .nan false else src.value c
    if dst.isFloat then
      let r := dst.roundFloat mode esc v
      (dst.laneForm r.1, r.2)
    else
      let rg := dst.range esc
      let r := intRound mode rg.1 rg.2 v
      (dst.laneForm (codeN r.1 dst.width), r.2)
  else
    let n := src.intValue c
    if dst.isFloat then
      let r := dst.roundFloat mode esc (FNum.ofQ (Q.ofInt n))
      (dst.laneForm r.1, r.2)
    else
      let rg := dst.range esc
      (dst.laneForm (codeN (max rg.1 (min rg.2 n)) dst.width), 0)

/-- The scale of a block (R61): kind 0 none, 1 s8, 2 bf16; `none` is the zero scale. -/
def scaleValue (kind c : Nat) : Option FNum :=
  match kind with
  | 0 => some (.fin false (Q.ofInt 1))
  | 1 => if c % 256 = 0x80 then none else some (Fmt.value .s8 c)
  | _ => some (Fmt.value .bf16 c)

end Sys2Proof
end

