-- ==== Sys2Proof/Syntax.lean ====
section
/-!
DEFINITION. The instructions and events of the device: one constructor for each row of spec/opcode_table.json. The first
231 rows are the encoded forms of R93 to R96 and R99; their arguments are the fields of R90 to R92 (g the guard, d a b c
register fields, i a 7-bit immediate, w the E1 word). ILLEGAL_PATTERN stands for every word that is no instruction (R98).
The other rows are the events and requests of the device's other agents, which have no encoding; their arguments name the
group, core, cluster, partition, queue place or request they concern.
-/

namespace Sys2Proof

/-- One row of the opcode table. -/
inductive Instr where
  /-- ADD (R105): Lane add of two registers, wrapping to 32 bits, short R form. -/
  | add (g : BitVec 3) (d : Reg) (a : Reg) (b : Reg)
  /-- ADD_IMM (R105): Lane add of a sign-extended 7-bit immediate, short I form. -/
  | addImm (g : BitVec 3) (d : Reg) (a : Reg) (i : BitVec 7)
  /-- ADD_IMM_LONG (R105): Lane add of a 32-bit E1 immediate, two-word I form. -/
  | addImmLong (g : BitVec 3) (d : Reg) (a : Reg) (w : BitVec 32)
  /-- SUB (R105): Lane subtract, wrapping, short R form. -/
  | sub (g : BitVec 3) (d : Reg) (a : Reg) (b : Reg)
  /-- MULLO (R105): Lane low 32 bits of a product, short R form. -/
  | mullo (g : BitVec 3) (d : Reg) (a : Reg) (b : Reg)
  /-- AND (R105): Lane bitwise AND, short R form. -/
  | and (g : BitVec 3) (d : Reg) (a : Reg) (b : Reg)
  /-- AND_IMM (R105): Lane bitwise AND with a 7-bit immediate. -/
  | andImm (g : BitVec 3) (d : Reg) (a : Reg) (i : BitVec 7)
  /-- AND_IMM_LONG (R105): Lane bitwise AND with an E1 immediate. -/
  | andImmLong (g : BitVec 3) (d : Reg) (a : Reg) (w : BitVec 32)
  /-- OR (R105): Lane bitwise OR, short R form. -/
  | or (g : BitVec 3) (d : Reg) (a : Reg) (b : Reg)
  /-- OR_IMM (R105): Lane bitwise OR with a 7-bit immediate. -/
  | orImm (g : BitVec 3) (d : Reg) (a : Reg) (i : BitVec 7)
  /-- OR_IMM_LONG (R105): Lane bitwise OR with an E1 immediate. -/
  | orImmLong (g : BitVec 3) (d : Reg) (a : Reg) (w : BitVec 32)
  /-- XOR (R105): Lane bitwise XOR, short R form. -/
  | xor (g : BitVec 3) (d : Reg) (a : Reg) (b : Reg)
  /-- SHL_IMM (R105): Lane logical left shift by an immediate 0-31. -/
  | shlImm (g : BitVec 3) (d : Reg) (a : Reg) (i : BitVec 7)
  /-- SHL_IMM_LONG (R105): Lane left shift by an E1 immediate 0-31. -/
  | shlImmLong (g : BitVec 3) (d : Reg) (a : Reg) (w : BitVec 32)
  /-- SHR_IMM (R105): Lane logical right shift by an immediate 0-31. -/
  | shrImm (g : BitVec 3) (d : Reg) (a : Reg) (i : BitVec 7)
  /-- SHR_IMM_LONG (R105): Lane logical right shift by an E1 immediate. -/
  | shrImmLong (g : BitVec 3) (d : Reg) (a : Reg) (w : BitVec 32)
  /-- SAR_IMM (R105): Lane arithmetic right shift by an immediate 0-31. -/
  | sarImm (g : BitVec 3) (d : Reg) (a : Reg) (i : BitVec 7)
  /-- SAR_IMM_LONG (R105): Lane arithmetic right shift by an E1 immediate. -/
  | sarImmLong (g : BitVec 3) (d : Reg) (a : Reg) (w : BitVec 32)
  /-- MOVI (R105): Lane move of a 7-bit immediate. -/
  | movi (g : BitVec 3) (d : Reg) (i : BitVec 7)
  /-- MOVI_LONG (R105): Lane move of a 32-bit E1 immediate. -/
  | moviLong (g : BitVec 3) (d : Reg) (w : BitVec 32)
  /-- MOV (R111): Lane register move d := a. -/
  | mov (g : BitVec 3) (d : Reg) (a : Reg)
  /-- MOV_POP_PORT (R198): Pops one queue-port element per acting lane once enough elements are held, or traps on a stopped stream. -/
  | movPopPort (g : BitVec 3) (d : Reg) (q : BitVec 4)
  /-- MOV_PUSH_PORT (R198): Pushes one element per acting lane to a store-stream port once room exists or it spills. -/
  | movPushPort (g : BitVec 3) (a : Reg) (q : BitVec 4)
  /-- ADD_X (R106): Extended signed add with wrap or sat overflow code. -/
  | addX (g : BitVec 3) (d : Reg) (a : Reg) (b : Reg) (sat : Bool)
  /-- ADD_N32 (R106): Extended unsigned add with wrap or sat. -/
  | addN32 (g : BitVec 3) (d : Reg) (a : Reg) (b : Reg) (sat : Bool)
  /-- SUB_X (R106): Extended signed subtract with wrap or sat. -/
  | subX (g : BitVec 3) (d : Reg) (a : Reg) (b : Reg) (sat : Bool)
  /-- SUB_N32 (R106): Extended unsigned subtract with wrap or sat. -/
  | subN32 (g : BitVec 3) (d : Reg) (a : Reg) (b : Reg) (sat : Bool)
  /-- ADDC (R108): Add with carry in and carry out through lane predicates. -/
  | addc (g : BitVec 3) (d : Reg) (a : Reg) (b : Reg) (pi : BitVec 3) (po : BitVec 3)
  /-- SUBB (R108): Subtract with borrow in and borrow out through lane predicates. -/
  | subb (g : BitVec 3) (d : Reg) (a : Reg) (b : Reg) (pi : BitVec 3) (po : BitVec 3)
  /-- NEG (R106): Lane negate with wrap or sat. -/
  | neg (g : BitVec 3) (d : Reg) (a : Reg) (sat : Bool)
  /-- ABS (R106): Lane absolute value with wrap or sat. -/
  | abs (g : BitVec 3) (d : Reg) (a : Reg) (sat : Bool)
  /-- MIN (R106): Lane signed minimum. -/
  | min (g : BitVec 3) (d : Reg) (a : Reg) (b : Reg)
  /-- MIN_N32 (R106): Lane unsigned minimum. -/
  | minN32 (g : BitVec 3) (d : Reg) (a : Reg) (b : Reg)
  /-- MAX (R106): Lane signed maximum. -/
  | max (g : BitVec 3) (d : Reg) (a : Reg) (b : Reg)
  /-- MAX_N32 (R106): Lane unsigned maximum. -/
  | maxN32 (g : BitVec 3) (d : Reg) (a : Reg) (b : Reg)
  /-- MULLO_X (R106): Extended form of the low 32 bits of a product. -/
  | mulloX (g : BitVec 3) (d : Reg) (a : Reg) (b : Reg)
  /-- MULHI (R106): High 32 bits of the signed 64-bit product. -/
  | mulhi (g : BitVec 3) (d : Reg) (a : Reg) (b : Reg)
  /-- MULHI_N32 (R106): High 32 bits of the unsigned 64-bit product. -/
  | mulhiN32 (g : BitVec 3) (d : Reg) (a : Reg) (b : Reg)
  /-- MAD (R106): Signed multiply-add a × b + c with wrap or sat. -/
  | mad (g : BitVec 3) (d : Reg) (a : Reg) (b : Reg) (c : Reg) (sat : Bool)
  /-- MAD_N32 (R106): Unsigned multiply-add with wrap or sat. -/
  | madN32 (g : BitVec 3) (d : Reg) (a : Reg) (b : Reg) (c : Reg) (sat : Bool)
  /-- SAD (R106): Signed absolute difference plus c. -/
  | sad (g : BitVec 3) (d : Reg) (a : Reg) (b : Reg) (c : Reg)
  /-- SAD_N32 (R106): Unsigned absolute difference plus c. -/
  | sadN32 (g : BitVec 3) (d : Reg) (a : Reg) (b : Reg) (c : Reg)
  /-- SHL (R109): Left shift by a register amount; 32 or more gives 0. -/
  | shl (g : BitVec 3) (d : Reg) (a : Reg) (b : Reg)
  /-- SHR (R109): Logical right shift by a register amount. -/
  | shr (g : BitVec 3) (d : Reg) (a : Reg) (b : Reg)
  /-- SAR (R109): Arithmetic right shift by a register amount. -/
  | sar (g : BitVec 3) (d : Reg) (a : Reg) (b : Reg)
  /-- ROT (R109): Rotate left by the register amount mod 32. -/
  | rot (g : BitVec 3) (d : Reg) (a : Reg) (b : Reg)
  /-- AND_X (R106): Extended bitwise AND. -/
  | andX (g : BitVec 3) (d : Reg) (a : Reg) (b : Reg)
  /-- OR_X (R106): Extended bitwise OR. -/
  | orX (g : BitVec 3) (d : Reg) (a : Reg) (b : Reg)
  /-- XOR_X (R106): Extended bitwise XOR. -/
  | xorX (g : BitVec 3) (d : Reg) (a : Reg) (b : Reg)
  /-- ANDN (R106): Bitwise a AND NOT b. -/
  | andn (g : BitVec 3) (d : Reg) (a : Reg) (b : Reg)
  /-- NOT (R106): Bitwise complement. -/
  | not (g : BitVec 3) (d : Reg) (a : Reg)
  /-- BFX (R110): Extracts a zero-extended bitfield. -/
  | bfx (g : BitVec 3) (d : Reg) (a : Reg) (b : Reg) (c : Reg)
  /-- BFI (R110): Inserts a bitfield of length from aux. -/
  | bfi (g : BitVec 3) (d : Reg) (a : Reg) (b : Reg) (c : Reg) (len : BitVec 6)
  /-- POPC (R106): Counts one bits. -/
  | popc (g : BitVec 3) (d : Reg) (a : Reg)
  /-- CLZ (R106): Counts leading zero bits. -/
  | clz (g : BitVec 3) (d : Reg) (a : Reg)
  /-- BREV (R106): Reverses the bits of a word. -/
  | brev (g : BitVec 3) (d : Reg) (a : Reg)
  /-- LEA (R106): Computes a + (b << s). -/
  | lea (g : BitVec 3) (d : Reg) (a : Reg) (b : Reg) (s : BitVec 2)
  /-- FADD (R112): Short f32 add under rne. -/
  | fadd (g : BitVec 3) (d : Reg) (a : Reg) (b : Reg)
  /-- FSUB (R112): Short f32 subtract under rne. -/
  | fsub (g : BitVec 3) (d : Reg) (a : Reg) (b : Reg)
  /-- FMUL (R112): Short f32 multiply under rne. -/
  | fmul (g : BitVec 3) (d : Reg) (a : Reg) (b : Reg)
  /-- FFMA (R112): Short f32 fused multiply-add d := a × b + d. -/
  | ffma (g : BitVec 3) (d : Reg) (a : Reg) (b : Reg)
  /-- FMIN (R113): Short f32 minimumNumber. -/
  | fmin (g : BitVec 3) (d : Reg) (a : Reg) (b : Reg)
  /-- FMAX (R113): Short f32 maximumNumber. -/
  | fmax (g : BitVec 3) (d : Reg) (a : Reg) (b : Reg)
  /-- FADD_X (R112): Extended float add with format and rounding code. -/
  | faddX (g : BitVec 3) (d : Reg) (a : Reg) (b : Reg) (ff : FFmt) (rnd : Rnd)
  /-- FSUB_X (R112): Extended float subtract. -/
  | fsubX (g : BitVec 3) (d : Reg) (a : Reg) (b : Reg) (ff : FFmt) (rnd : Rnd)
  /-- FMUL_X (R112): Extended float multiply. -/
  | fmulX (g : BitVec 3) (d : Reg) (a : Reg) (b : Reg) (ff : FFmt) (rnd : Rnd)
  /-- FFMA_X (R112): Extended fused multiply-add with separate c. -/
  | ffmaX (g : BitVec 3) (d : Reg) (a : Reg) (b : Reg) (c : Reg) (ff : FFmt) (rnd : Rnd)
  /-- FMIN_X (R113): Extended minimumNumber, f32 or f64. -/
  | fminX (g : BitVec 3) (d : Reg) (a : Reg) (b : Reg) (ff : FFmt)
  /-- FMAX_X (R113): Extended maximumNumber, f32 or f64. -/
  | fmaxX (g : BitVec 3) (d : Reg) (a : Reg) (b : Reg) (ff : FFmt)
  /-- FRCP (R114): Approximate reciprocal within 1 ulp. -/
  | frcp (g : BitVec 3) (d : Reg) (a : Reg)
  /-- FRSQ (R114): Approximate reciprocal square root. -/
  | frsq (g : BitVec 3) (d : Reg) (a : Reg)
  /-- FSQRT (R114): Correctly rounded square root, f32 or f64. -/
  | fsqrt (g : BitVec 3) (d : Reg) (a : Reg) (ff : FFmt) (rnd : Rnd)
  /-- FEXP2 (R114): Approximate 2 to the power a. -/
  | fexp2 (g : BitVec 3) (d : Reg) (a : Reg)
  /-- FLOG2 (R114): Approximate base-2 logarithm. -/
  | flog2 (g : BitVec 3) (d : Reg) (a : Reg)
  /-- FSIN (R114): Approximate sin(π a). -/
  | fsin (g : BitVec 3) (d : Reg) (a : Reg)
  /-- FCOS (R114): Approximate cos(π a). -/
  | fcos (g : BitVec 3) (d : Reg) (a : Reg)
  /-- FCLASS (R115): Writes a one-hot class word for a float. -/
  | fclass (g : BitVec 3) (d : Reg) (a : Reg) (ff : FFmt)
  /-- CMP (R117): Integer compare of two registers into two predicates by combining type. -/
  | cmp (g : BitVec 3) (pd : BitVec 3) (pe : BitVec 3) (a : Reg) (b : Reg) (op : CmpOp) (ct : CType)
  /-- CMP_IMM (R117): Integer compare against a 7-bit immediate. -/
  | cmpImm (g : BitVec 3) (pd : BitVec 3) (pe : BitVec 3) (a : Reg) (i : BitVec 7) (op : CmpOp) (ct : CType)
  /-- FCMP (R118): Float compare into two predicates. -/
  | fcmp (g : BitVec 3) (pd : BitVec 3) (pe : BitVec 3) (a : Reg) (b : Reg) (fop : FcmpOp) (ct : CType) (ff : FFmt)
  /-- TST (R117): Tests (a AND b) ≠ 0 into two predicates. -/
  | tst (g : BitVec 3) (pd : BitVec 3) (pe : BitVec 3) (a : Reg) (b : Reg) (ct : CType)
  /-- PAND (R119): Lane predicate AND. -/
  | pand (g : BitVec 3) (pd : BitVec 3) (pa : BitVec 3) (pb : BitVec 3)
  /-- POR (R119): Lane predicate OR. -/
  | por (g : BitVec 3) (pd : BitVec 3) (pa : BitVec 3) (pb : BitVec 3)
  /-- PXOR (R119): Lane predicate XOR. -/
  | pxor (g : BitVec 3) (pd : BitVec 3) (pa : BitVec 3) (pb : BitVec 3)
  /-- PMOV (R119): Lane predicate move. -/
  | pmov (g : BitVec 3) (pd : BitVec 3) (pa : BitVec 3)
  /-- SEL (R119): Selects a or b per lane by a predicate. -/
  | sel (g : BitVec 3) (d : Reg) (a : Reg) (b : Reg) (px : BitVec 3)
  /-- VPERM (R120): Fetches a from the lane indexed by b. -/
  | vperm (g : BitVec 3) (d : Reg) (a : Reg) (b : Reg)
  /-- VSHFL (R121): Shuffles up, down or by xor across lanes. -/
  | vshfl (g : BitVec 3) (d : Reg) (a : Reg) (b : Reg) (sh : Shfl)
  /-- VBCAST (R120): Broadcasts one lane's value to acting lanes. -/
  | vbcast (g : BitVec 3) (d : Reg) (a : Reg) (k : BitVec 6)
  /-- VSCAN (R122): Inclusive segmented scan over acting lanes. -/
  | vscan (g : BitVec 3) (d : Reg) (a : Reg) (px : BitVec 3) (rop : RedOp)
  /-- VRED (R123): Reduces acting lanes into a g-register. -/
  | vred (g : BitVec 3) (d : Reg) (a : Reg) (rop : RedOp)
  /-- VVOTE_ANY (R124): Writes OR of a predicate over acting lanes. -/
  | vvoteAny (g : BitVec 3) (pd : BitVec 3) (pa : BitVec 3)
  /-- VVOTE_ALL (R124): Writes AND of a predicate over acting lanes. -/
  | vvoteAll (g : BitVec 3) (pd : BitVec 3) (pa : BitVec 3)
  /-- VVOTE_MASK (R124): Writes the mask of acting lanes with the predicate set into a 64-bit g operand. -/
  | vvoteMask (g : BitVec 3) (d : Reg) (pa : BitVec 3)
  /-- VFIRST (R124): Writes the lowest acting lane with the predicate set. -/
  | vfirst (g : BitVec 3) (d : Reg) (pa : BitVec 3)
  /-- CVT (R126): Converts between formats under a rounding code. -/
  | cvt (g : BitVec 3) (d : Reg) (a : Reg) (dst : Fmt) (src : Fmt) (rnd : Rnd)
  /-- CVT_ESC (R126): Converts with escapes enabled. -/
  | cvtEsc (g : BitVec 3) (d : Reg) (a : Reg) (dst : Fmt) (src : Fmt) (rnd : Rnd)
  /-- VDEC_GAP (R127): Decodes gap-coded stream elements from the Stage into lanes. -/
  | vdecGap (g : BitVec 3) (d : Reg) (a : Reg) (b : Reg) (wd : BitVec 7)
  /-- VDEC_VARINT (R127): Decodes varint stream elements from the Stage. -/
  | vdecVarint (g : BitVec 3) (d : Reg) (a : Reg) (b : Reg) (wd : BitVec 7)
  /-- VDEC_BITPLANE (R127): Decodes bitplane stream elements from the Stage. -/
  | vdecBitplane (g : BitVec 3) (d : Reg) (a : Reg) (b : Reg) (wd : BitVec 7)
  /-- LD (R177): Lane load of the named size per acting lane. -/
  | ld (g : BitVec 3) (d : Reg) (mem : MemAddr) (obs : BitVec 6) (order : Order) (stage : Bool) (size : Size) (off : BitVec 20)
  /-- ST (R177): Lane store per acting lane. -/
  | st (g : BitVec 3) (d : Reg) (mem : MemAddr) (obs : BitVec 6) (order : Order) (stage : Bool) (size : Size) (off : BitVec 20)
  /-- ATOM (R179): Lane atomic read-modify-write returning the old value. -/
  | atom (g : BitVec 3) (d : Reg) (mem : MemAddr) (obs : BitVec 6) (order : Order) (stage : Bool) (dbl : Bool) (aop : AtomOp) (off16 : BitVec 16)
  /-- PREF (R181): Asks the L2 for the line of each lane's address; timing only. -/
  | pref (g : BitVec 3) (mem : MemAddr) (off : BitVec 20)
  /-- XLD (R129): Reads a register-array word at a per-lane index. -/
  | xld (g : BitVec 3) (d : Reg) (a : Reg) (i : BitVec 7)
  /-- XLD_LONG (R129): Register-array read with an E1 offset. -/
  | xldLong (g : BitVec 3) (d : Reg) (a : Reg) (w : BitVec 32)
  /-- XST (R129): Writes a register-array word at a per-lane index. -/
  | xst (g : BitVec 3) (d : Reg) (a : Reg) (i : BitVec 7)
  /-- XST_LONG (R129): Register-array write with an E1 offset. -/
  | xstLong (g : BitVec 3) (d : Reg) (a : Reg) (w : BitVec 32)
  /-- CINS (R264): Issues a Collection Engine insert command for the acting lanes' pairs and writes a handle. -/
  | cins (g : BitVec 3) (d : Reg) (a : Reg) (b : Reg) (c : Reg) (obs : BitVec 6)
  /-- CREM (R265): Removes one instance of each acting lane's pair at one engine instant. -/
  | crem (g : BitVec 3) (pd : BitVec 3) (a : Reg) (b : Reg) (c : Reg)
  /-- CNEXT (R268): Fills acting lanes with the next elements of an open iterator, reading blocks as needed. -/
  | cnext (g : BitVec 3) (d : Reg) (ita : BitVec 3) (b : Reg) (px : BitVec 3)
  /-- WLPUSH (R272): Appends acting lanes' values to a work list. -/
  | wlpush (g : BitVec 3) (a : Reg) (c : Reg)
  /-- WLPOP (R272): Pops the oldest values of a work list into acting lanes. -/
  | wlpop (g : BitVec 3) (d : Reg) (c : Reg) (px : BitVec 3)
  /-- WLINS (R272): Appends values not yet in the membership set. -/
  | wlins (g : BitVec 3) (a : Reg) (c : Reg) (px : BitVec 3)
  /-- QCALL (R280): Pushes one call record per acting lane into a unit's call queue once it has room. -/
  | qcall (g : BitVec 3) (a : Reg) (typ : BitVec 7) (unit : CUnit) (sp : Bool)
  /-- QRET (R280): Delivers each acting lane's oldest return record once every lane has one. -/
  | qret (g : BitVec 3) (d : Reg) (unit : CUnit)
  /-- QRET_TRAP (R280): As qret, but lanes with nonzero status raise COPROC. -/
  | qretTrap (g : BitVec 3) (d : Reg) (unit : CUnit)
  /-- GADD (R134): Scalar add, short R form. -/
  | gadd (g : BitVec 3) (d : Reg) (a : Reg) (b : Reg)
  /-- GADD_IMM (R134): Scalar add of a 7-bit immediate. -/
  | gaddImm (g : BitVec 3) (d : Reg) (a : Reg) (i : BitVec 7)
  /-- GADD_IMM_LONG (R134): Scalar add of an E1 immediate. -/
  | gaddImmLong (g : BitVec 3) (d : Reg) (a : Reg) (w : BitVec 32)
  /-- GSUB (R134): Scalar subtract. -/
  | gsub (g : BitVec 3) (d : Reg) (a : Reg) (b : Reg)
  /-- GMUL (R134): Scalar multiply, low 32 bits. -/
  | gmul (g : BitVec 3) (d : Reg) (a : Reg) (b : Reg)
  /-- GAND (R134): Scalar AND. -/
  | gand (g : BitVec 3) (d : Reg) (a : Reg) (b : Reg)
  /-- GAND_IMM (R134): Scalar AND with a 7-bit immediate. -/
  | gandImm (g : BitVec 3) (d : Reg) (a : Reg) (i : BitVec 7)
  /-- GAND_IMM_LONG (R134): Scalar AND with an E1 immediate. -/
  | gandImmLong (g : BitVec 3) (d : Reg) (a : Reg) (w : BitVec 32)
  /-- GOR (R134): Scalar OR. -/
  | gor (g : BitVec 3) (d : Reg) (a : Reg) (b : Reg)
  /-- GOR_IMM (R134): Scalar OR with a 7-bit immediate. -/
  | gorImm (g : BitVec 3) (d : Reg) (a : Reg) (i : BitVec 7)
  /-- GOR_IMM_LONG (R134): Scalar OR with an E1 immediate. -/
  | gorImmLong (g : BitVec 3) (d : Reg) (a : Reg) (w : BitVec 32)
  /-- GXOR (R134): Scalar XOR. -/
  | gxor (g : BitVec 3) (d : Reg) (a : Reg) (b : Reg)
  /-- GSHL_IMM (R134): Scalar left shift by an immediate. -/
  | gshlImm (g : BitVec 3) (d : Reg) (a : Reg) (i : BitVec 7)
  /-- GSHL_IMM_LONG (R134): Scalar left shift by an E1 immediate. -/
  | gshlImmLong (g : BitVec 3) (d : Reg) (a : Reg) (w : BitVec 32)
  /-- GSHR_IMM (R134): Scalar logical right shift by an immediate. -/
  | gshrImm (g : BitVec 3) (d : Reg) (a : Reg) (i : BitVec 7)
  /-- GSHR_IMM_LONG (R134): Scalar logical right shift by an E1 immediate. -/
  | gshrImmLong (g : BitVec 3) (d : Reg) (a : Reg) (w : BitVec 32)
  /-- GSAR_IMM (R134): Scalar arithmetic right shift by an immediate. -/
  | gsarImm (g : BitVec 3) (d : Reg) (a : Reg) (i : BitVec 7)
  /-- GSAR_IMM_LONG (R134): Scalar arithmetic right shift by an E1 immediate. -/
  | gsarImmLong (g : BitVec 3) (d : Reg) (a : Reg) (w : BitVec 32)
  /-- GMOVI (R134): Scalar move of a 7-bit immediate. -/
  | gmovi (g : BitVec 3) (d : Reg) (i : BitVec 7)
  /-- GMOVI_LONG (R134): Scalar move of an E1 immediate. -/
  | gmoviLong (g : BitVec 3) (d : Reg) (w : BitVec 32)
  /-- GMOV (R134): Scalar move; a v-register source reads the leader lane. -/
  | gmov (g : BitVec 3) (d : Reg) (a : Reg)
  /-- GADD_X (R135): Extended scalar add. -/
  | gaddX (g : BitVec 3) (d : Reg) (a : Reg) (b : Reg)
  /-- GSUB_X (R135): Extended scalar subtract. -/
  | gsubX (g : BitVec 3) (d : Reg) (a : Reg) (b : Reg)
  /-- GMUL_X (R135): Extended scalar multiply. -/
  | gmulX (g : BitVec 3) (d : Reg) (a : Reg) (b : Reg)
  /-- GSHL (R135): Scalar left shift by a register amount. -/
  | gshl (g : BitVec 3) (d : Reg) (a : Reg) (b : Reg)
  /-- GSHR (R135): Scalar logical right shift by a register amount. -/
  | gshr (g : BitVec 3) (d : Reg) (a : Reg) (b : Reg)
  /-- GSAR (R135): Scalar arithmetic right shift by a register amount. -/
  | gsar (g : BitVec 3) (d : Reg) (a : Reg) (b : Reg)
  /-- GAND_X (R135): Extended scalar AND. -/
  | gandX (g : BitVec 3) (d : Reg) (a : Reg) (b : Reg)
  /-- GOR_X (R135): Extended scalar OR. -/
  | gorX (g : BitVec 3) (d : Reg) (a : Reg) (b : Reg)
  /-- GXOR_X (R135): Extended scalar XOR. -/
  | gxorX (g : BitVec 3) (d : Reg) (a : Reg) (b : Reg)
  /-- GMOV_X (R135): Extended scalar move. -/
  | gmovX (g : BitVec 3) (d : Reg) (a : Reg)
  /-- GLEA (R135): Scalar a + (b << s). -/
  | glea (g : BitVec 3) (d : Reg) (a : Reg) (b : Reg) (s : BitVec 2)
  /-- GSEL (R135): Scalar select by a c-predicate. -/
  | gsel (g : BitVec 3) (d : Reg) (a : Reg) (b : Reg) (px : BitVec 3)
  /-- GADD_D (R135): 64-bit scalar add on register pairs. -/
  | gaddD (g : BitVec 3) (d : Reg) (a : Reg) (b : Reg)
  /-- GSUB_D (R135): 64-bit scalar subtract. -/
  | gsubD (g : BitVec 3) (d : Reg) (a : Reg) (b : Reg)
  /-- GMUL_D (R135): 64-bit scalar multiply. -/
  | gmulD (g : BitVec 3) (d : Reg) (a : Reg) (b : Reg)
  /-- GSHL_D (R135): 64-bit scalar left shift. -/
  | gshlD (g : BitVec 3) (d : Reg) (a : Reg) (b : Reg)
  /-- GSHR_D (R135): 64-bit scalar logical right shift. -/
  | gshrD (g : BitVec 3) (d : Reg) (a : Reg) (b : Reg)
  /-- GSAR_D (R135): 64-bit scalar arithmetic right shift. -/
  | gsarD (g : BitVec 3) (d : Reg) (a : Reg) (b : Reg)
  /-- GAND_D (R135): 64-bit scalar AND. -/
  | gandD (g : BitVec 3) (d : Reg) (a : Reg) (b : Reg)
  /-- GOR_D (R135): 64-bit scalar OR. -/
  | gorD (g : BitVec 3) (d : Reg) (a : Reg) (b : Reg)
  /-- GXOR_D (R135): 64-bit scalar XOR. -/
  | gxorD (g : BitVec 3) (d : Reg) (a : Reg) (b : Reg)
  /-- GMOV_D (R135): 64-bit scalar move. -/
  | gmovD (g : BitVec 3) (d : Reg) (a : Reg)
  /-- GLEA_D (R135): 64-bit scalar a + (b << s). -/
  | gleaD (g : BitVec 3) (d : Reg) (a : Reg) (b : Reg) (s : BitVec 2)
  /-- GSEL_D (R135): 64-bit scalar select. -/
  | gselD (g : BitVec 3) (d : Reg) (a : Reg) (b : Reg) (px : BitVec 3)
  /-- GCMP (R136): Scalar compare of two registers into two c-predicates. -/
  | gcmp (g : BitVec 3) (pd : BitVec 3) (pe : BitVec 3) (a : Reg) (b : Reg) (op : CmpOp) (ct : CType)
  /-- GCMP_IMM (R136): Scalar compare against a 7-bit immediate. -/
  | gcmpImm (g : BitVec 3) (pd : BitVec 3) (pe : BitVec 3) (a : Reg) (i : BitVec 7) (op : CmpOp) (ct : CType)
  /-- BRA (R138): Uniform conditional branch on a c-predicate moving the whole path. -/
  | bra (g : BitVec 3) (cq : BitVec 3) (off18 : BitVec 18)
  /-- JMP (R139): Unconditional jump by a 21-bit offset. -/
  | jmp (g : BitVec 3) (off21 : BitVec 21)
  /-- JMP_ABS (R139): Unconditional jump to an absolute PC in E1. -/
  | jmpAbs (g : BitVec 3) (pc : BitVec 30)
  /-- BRA_V (R141): Vote branch over the effective mask, splitting the path and pushing stack entries on divergence. -/
  | braV (g : BitVec 3) (pq : BitVec 3) (off18 : BitVec 18) (join : BitVec 20) (hint : Hint)
  /-- BRX (R139): Jump to the PC held in a register. -/
  | brx (g : BitVec 3) (a : Reg)
  /-- CALL (R140): Writes the return PC to a link register and branches. -/
  | call (g : BitVec 3) (d : Reg) (w : BitVec 32)
  /-- RET (R140): Continues at the PC held in a register. -/
  | ret (g : BitVec 3) (a : Reg)
  /-- RVPOP (R142): Ends the issuing path and refills its slot from the reconvergence stack, ending a trap on a TRAP entry. -/
  | rvpop (g : BitVec 3)
  /-- RVPUSH (R143): Pushes a MARK entry built from two g operands. -/
  | rvpush (g : BitVec 3) (a : Reg) (b : Reg)
  /-- YIELD (R144): Moves the group behind the other ready groups of its class. -/
  | yield (g : BitVec 3)
  /-- SLEEP (R145): Records a device-time deadline and makes the group not ready until it passes. -/
  | sleep (g : BitVec 3) (i : BitVec 7)
  /-- SLEEP_LONG (R145): Sleep with an E1 immediate. -/
  | sleepLong (g : BitVec 3) (w : BitVec 32)
  /-- BAR (R146): Arrives at the cohort barrier and waits for the phase. -/
  | bar (g : BitVec 3)
  /-- SPAWN (R41): Creates a child group in the cohort or clears the result predicate on failure. -/
  | spawn (g : BitVec 3) (cq : BitVec 3) (a : Reg) (w : BitVec 32)
  /-- ROLE (R42): Switches the group to a role-table entry, changing allotment, prio and trap vector. -/
  | role (g : BitVec 3) (cq : BitVec 3) (n : BitVec 4)
  /-- EXIT (R149): Ends the group, freeing its resources and settling its streams, iterators and sections. -/
  | exit (g : BitVec 3)
  /-- MFC (R150): Reads a control register at issue. -/
  | mfc (g : BitVec 3) (d : Reg) (ctl : BitVec 7)
  /-- MTC (R151): Writes a control register that R82 allows. -/
  | mtc (g : BitVec 3) (ctl : BitVec 7) (a : Reg)
  /-- MTC_RVSP (R221): Writes rvsp cap and depth, spilling held trap-reserve entries to memory or raising RVSTACK-OVF. -/
  | mtcRvsp (g : BitVec 3) (a : Reg)
  /-- XMSET (R153): Rewrites xm for the issuing path's lanes from a lane predicate. -/
  | xmset (g : BitVec 3) (pa : BitVec 3)
  /-- TRAP (R154): Raises SYS with a number. -/
  | trap (g : BitVec 3) (n7 : BitVec 7)
  /-- SYS (R155): Sends a Carillon service request once wct has passed and waits for the reply. -/
  | sys (g : BitVec 3) (n7 : BitVec 7)
  /-- BRK (R154): Raises BRK, or halts the group under a debugger. -/
  | brk (g : BitVec 3) (n7 : BitVec 7)
  /-- NOP (R99): Hint-space word with no effect. -/
  | nop (g : BitVec 3) (d : BitVec 7) (a : BitVec 7) (b : BitVec 7) (hx : Option (BitVec 32))
  /-- PREFC (R99): Two-word code-fetch hint for PC + offset. -/
  | prefc (g : BitVec 3) (d : BitVec 7) (a : BitVec 7) (hx : Option (BitVec 32))
  /-- TCFG (R236): Writes a tile configuration from a register and zeroes the tile. -/
  | tcfg (g : BitVec 3) (t : BitVec 6) (b : Reg)
  /-- TCFG_IMM (R236): Writes a tile configuration from E1 and zeroes the tile. -/
  | tcfgImm (g : BitVec 3) (t : BitVec 6) (w : BitVec 32)
  /-- TZERO (R236): Zeroes a tile's data. -/
  | tzero (g : BitVec 3) (t : BitVec 6)
  /-- TLD (R237): Loads configured tile rows from memory or the Stage. -/
  | tld (g : BitVec 3) (t : BitVec 6) (k : BitVec 4) (b : Reg) (obs : BitVec 6) (order : Order) (stage : Bool) (off : BitVec 20)
  /-- TSV (R237): Stores configured tile rows to memory or the Stage. -/
  | tsv (g : BitVec 3) (t : BitVec 6) (k : BitVec 4) (b : Reg) (obs : BitVec 6) (order : Order) (stage : Bool) (off : BitVec 20)
  /-- TCVT (R238): Converts every element of a tile into another format. -/
  | tcvt (g : BitVec 3) (t : BitVec 6) (ta : BitVec 6) (dst : Fmt) (rnd : Rnd)
  /-- TMV_V (R239): Moves a tile row segment into lanes. -/
  | tmvV (g : BitVec 3) (d : Reg) (ta : BitVec 6) (b : Reg)
  /-- TMV_T (R239): Moves lane values into a tile row segment. -/
  | tmvT (g : BitVec 3) (t : BitVec 6) (a : Reg) (b : Reg)
  /-- MMA (R241): Per-octet matrix product with a shared B tile. -/
  | mma (g : BitVec 3) (t : BitVec 6) (ta : BitVec 6) (tb : BitVec 6) (c : Reg) (rnd : Rnd) (z : Bool)
  /-- MMAT (R241): Per-octet matrix product with a shared A tile. -/
  | mmat (g : BitVec 3) (t : BitVec 6) (ta : BitVec 6) (tb : BitVec 6) (c : Reg) (rnd : Rnd) (z : Bool)
  /-- MMAG (R244): Grouped matrix product driven by a group table. -/
  | mmag (g : BitVec 3) (t : BitVec 6) (ta : BitVec 6) (tb : BitVec 6) (c : Reg) (gx : Reg) (rnd : Rnd) (z : Bool)
  /-- MMX (R245): Cluster-cooperative product that waits for its partners then multiplies with broadcast B tiles. -/
  | mmx (g : BitVec 3) (t : BitVec 6) (ta : BitVec 6) (tb : BitVec 6) (c : Reg) (rnd : Rnd) (z : Bool)
  /-- QUANT (R246): Quantises a tile under a format block, electing outliers into a list. -/
  | quant (g : BitVec 3) (t : BitVec 6) (ta : BitVec 6) (c : Reg) (rnd : Rnd)
  /-- CTLD (R240): Installs a companding table of the core from a memory image. -/
  | ctld (g : BitVec 3) (n : BitVec 3) (a : Reg)
  /-- ACP (R187): Issues a linear async copy command. -/
  | acp (g : BitVec 3) (d : Reg) (a : Reg) (b : Reg) (obs : BitVec 6) (order : Order) (ds : Bool) (fs : Bool)
  /-- ACP2 (R187): Issues a two-dimensional async copy command. -/
  | acp2 (g : BitVec 3) (d : Reg) (a : Reg) (b : Reg) (obs : BitVec 6) (order : Order) (ds : Bool) (fs : Bool)
  /-- ACPG (R187): Issues an indexed gather copy command. -/
  | acpg (g : BitVec 3) (d : Reg) (a : Reg) (b : Reg) (obs : BitVec 6) (order : Order) (ds : Bool) (fs : Bool)
  /-- AFILL (R187): Issues a fill command. -/
  | afill (g : BitVec 3) (d : Reg) (a : Reg) (b : Reg) (obs : BitVec 6) (order : Order) (ds : Bool)
  /-- WLOAD (R248): Issues a weight-stream load of records into tiles. -/
  | wload (g : BitVec 3) (d : Reg) (a : Reg) (b : Reg) (obs : BitVec 6) (order : Order) (prec : BitVec 3)
  /-- CLV_INIT (R195): Initialises a Clave. -/
  | clvInit (g : BitVec 3) (a : Reg) (b : Reg)
  /-- CLV_ARM (R195): Sets a Clave's expected count and applies the completion step. -/
  | clvArm (g : BitVec 3) (a : Reg) (b : Reg)
  /-- CLV_WAIT (R195): Waits while the Clave phase equals the operand, then acquires. -/
  | clvWait (g : BitVec 3) (a : Reg) (b : Reg)
  /-- HWAIT (R193): Waits for a handle's command and writes its status. -/
  | hwait (g : BitVec 3) (d : Reg) (a : Reg)
  /-- HTST (R193): Tests whether a handle's command is complete. -/
  | htst (g : BitVec 3) (cq : BitVec 3) (a : Reg)
  /-- HCAN (R193): Asks a handle's command to stop. -/
  | hcan (g : BitVec 3) (a : Reg)
  /-- HMOV (R193): Copies a handle or status without waiting. -/
  | hmov (g : BitVec 3) (d : Reg) (a : Reg)
  /-- AP_GO (R196): Reads a stream list and binds streams to queue ports. -/
  | apGo (g : BitVec 3) (a : Reg)
  /-- AP_STOP (R198): Ends every stream of the group and unbinds its ports. -/
  | apStop (g : BitVec 3)
  /-- QTST (R198): Tests whether a port holds an element or has a running stream. -/
  | qtst (g : BitVec 3) (cq : BitVec 3) (qa : BitVec 4)
  /-- GLD (R178): Uniform load performed once for the group. -/
  | gld (g : BitVec 3) (d : Reg) (mem : MemAddr) (obs : BitVec 6) (order : Order) (stage : Bool) (size : Size) (off : BitVec 20)
  /-- GST (R178): Uniform store performed once for the group. -/
  | gst (g : BitVec 3) (d : Reg) (mem : MemAddr) (obs : BitVec 6) (order : Order) (stage : Bool) (size : Size) (off : BitVec 20)
  /-- GATOM (R179): Uniform atomic read-modify-write. -/
  | gatom (g : BitVec 3) (d : Reg) (mem : MemAddr) (obs : BitVec 6) (order : Order) (stage : Bool) (dbl : Bool) (aop : AtomOp) (off16 : BitVec 16)
  /-- FENCE (R184): Blocks the group until earlier loads return and horizons of the named observers pass. -/
  | fence (g : BitVec 3) (obs : BitVec 6)
  /-- COPEN (R267): Opens an iterator over a key range. -/
  | copen (g : BitVec 3) (it : BitVec 3) (a : Reg) (b : Reg) (c : Reg)
  /-- CCLOSE (R267): Closes an iterator. -/
  | cclose (g : BitVec 3) (ita : BitVec 3)
  /-- CCOUNT (R266): Counts elements with keys in a range at one engine instant. -/
  | ccount (g : BitVec 3) (d : Reg) (a : Reg) (b : Reg) (c : Reg)
  /-- WLCLR (R272): Empties a work list and its membership collection. -/
  | wlclr (g : BitVec 3) (c : Reg)
  /-- WLCNT (R272): Reads a work list's element count. -/
  | wlcnt (g : BitVec 3) (d : Reg) (c : Reg)
  /-- QTOK (R283): Reserves a run of chime tokens on a stream, waiting if too far ahead of the base. -/
  | qtok (g : BitVec 3) (d : Reg) (a : Reg)
  /-- TSEC_ENTER (R295): Settles its token and waits to hold a tile section. -/
  | tsecEnter (g : BitVec 3) (a : Reg) (b : Reg)
  /-- TSEC_EXIT (R295): Releases a held tile section or withdraws a pending request. -/
  | tsecExit (g : BitVec 3) (a : Reg) (b : Reg)
  /-- GLAUNCH (R156): Submits a copy of a launch entry to the partition's launch queue. -/
  | glaunch (g : BitVec 3) (cq : BitVec 3) (a : Reg)
  /-- ILLEGAL_PATTERN (R98): A word pattern that is not an instruction raises ILL precisely. -/
  | illegalPattern (w0 w1 : BitVec 32)
  /-- FETCH_FAULT (R175): Instruction fetch meets PERM or fatal PAGE and traps without issuing. -/
  | fetchFault (grp : Nat) (fatal second : Bool) (addr : DWord)
  /-- PATH_JOIN (R37): A path whose next PC equals its join ends, emptying its slot or popping the stack. -/
  | pathJoin (grp : Nat) (sl : Bool)
  /-- PATH_SWITCH (R35): Current designation passes to the other path when the quantum is exhausted. -/
  | pathSwitch (grp : Nat)
  /-- SLOT_ISSUE_CYCLE (R308): Each cycle the slot ranks ready groups and issues up to four lane and one uniform instruction. -/
  | slotIssueCycle (core slot : Nat)
  /-- GROUP_AGED (R307): A ready group that has not issued for N × Q cycles becomes aged. -/
  | groupAged (grp : Nat)
  /-- TRAP_ENTRY (R219): After earlier instructions retire, pushes companion and TRAP entries and starts the handler. -/
  | trapEntry (grp : Nat)
  /-- FAULT_RECORD (R223): Writes a fault record and releases the incremented count, possibly once its page is resident. -/
  | faultRecord (n : Nat)
  /-- PARKED_REPLAY (R173): A parked group re-executes its instruction for the unfinished lanes once pages resolve. -/
  | parkedReplay (grp : Nat)
  /-- PAGE_FAULT_RESOLVE (R170): Carillon makes a reported page resident or marks it fatal. -/
  | pageFaultResolve (part : Nat) (ia : BitVec 52) (entries : List (Nat × BitVec 128))
  /-- PAGE_MIGRATION_START (R172): Carillon sets a leaf to migrating and drops cached entries. -/
  | pageMigrationStart (part : Nat) (ia : BitVec 52)
  /-- PAGE_MIGRATION_END (R172): After write-back and copy, the leaf is rewritten resident and parked lanes replay. -/
  | pageMigrationEnd (part : Nat) (ia : BitVec 52) (pfn : BitVec 29) (tier : Bool) (home : BitVec 6)
  /-- HOT_UPDATE (R171): Walkers add batched line fills and write-backs to a leaf's hot counter. -/
  | hotUpdate (n : Nat)
  /-- LINE_MIGRATE (R164): An L2 line moves to another slice, leaving a forwarding entry. -/
  | lineMigrate (line slice : Nat)
  /-- LINE_EVICT (R164): A migrated line is written back and its forwarding entry removed. -/
  | lineEvict (line : Nat)
  /-- LEASE_EXPIRY (R203): A replica's lease expires and it no longer serves reads. -/
  | leaseExpiry (n : Nat)
  /-- ECC_CORRECTABLE (R165): A correctable soft error is corrected in place and counted. -/
  | eccCorrectable (die : Nat)
  /-- ECC_UNCORRECTABLE (R165): An uncorrectable error poisons the line. -/
  | eccUncorrectable (place : EccPlace) (line : Nat)
  /-- ENGINE_CHUNK_COMPLETE (R189): A copy-engine command finishes a chunk, pausing, ending or cancelling at its boundary. -/
  | engineChunkComplete (core slot : Nat)
  /-- CLAVE_CREDIT (R195): After the chunk's writes are visible, credits a Clave and applies the completion step. -/
  | claveCredit (n : Nat)
  /-- ENGINE_COMMAND_COMPLETE (R190): An engine command's status becomes readable through its handle. -/
  | engineCommandComplete (eng : EngineRef)
  /-- CINS_APPLY (R264): The home engine applies a pending insert at one instant of engine order, or cancels it. -/
  | cinsApply (core slot : Nat)
  /-- WLOAD_RECORD (R251): The weight-stream loader decodes one record into a tile and credits the Clave. -/
  | wloadRecord (cluster slot : Nat)
  /-- STREAM_LOAD_ELEMENT (R197): A load stream reads its next element into its port while the port has room. -/
  | streamLoadElement (grp port : Nat)
  /-- STREAM_STORE_ELEMENT (R197): A store stream writes a pushed element as a plain store. -/
  | streamStoreElement (grp port : Nat)
  /-- QUEUE_SPILL_REFILL (R273): Spilled elements return from a ring to their queue in order. -/
  | queueSpillRefill (q : QueueRef)
  /-- COPROC_RECORD (R286): A unit processes one call record and produces its return. -/
  | coprocRecord (cluster : Nat) (unit : CUnit)
  /-- FRAGMENT_TURN (R286): One fragment's depth and blend processing in chime-token order on its tile. -/
  | fragmentTurn (cluster n : Nat)
  /-- CONSUMER_WAIT_EXPIRY (R277): The oldest unconsumed record has waited 10 µs, launching a partial batch. -/
  | consumerWaitExpiry (part consumer : Nat)
  /-- SECTION_TIMEOUT (R296): A tsec.enter wait passes the sect limit and raises SECTION-TIMEOUT. -/
  | sectionTimeout (grp : Nat)
  /-- BARRIER_PHASE_COMPLETE (R146): All live groups have arrived or exited and waiting groups resume. -/
  | barrierPhaseComplete (cohort : Nat)
  /-- SLEEP_DEADLINE (R145): Device time reaches a sleeping group's deadline. -/
  | sleepDeadline (grp : Nat)
  /-- SYS_REPLY (R155): Carillon's reply overwrites g8-g15 and the group continues. -/
  | sysReply (grp : Nat)
  /-- LAUNCH_DISPATCH (R302): The dispatcher places the first eligible head cohort that fits. -/
  | launchDispatch (part : Nat)
  /-- LAUNCH_REFUSED (R301): A launch is refused and a REFUSED record is written. -/
  | launchRefused (part launch : Nat)
  /-- PRECONDITION_READ (R300): The dispatcher re-reads a precondition word at most every 2 µs. -/
  | preconditionRead (part launch : Nat)
  /-- COHORT_RESERVED (R302): A head cohort skipped for 100 µs becomes reserved. -/
  | cohortReserved (part launch : Nat)
  /-- PREEMPT (R225): Carillon stops, drains and saves a partition. -/
  | preempt (part : Nat)
  /-- RESTORE (R227): Carillon returns saved contexts and resumes engines and streams. -/
  | restore (part : Nat)
  /-- ISLAND_FREQUENCY_CHANGE (R24): Carillon changes an island's voltage and frequency. -/
  | islandFrequencyChange (island setting : Nat)
  /-- DEBUG_HALT (R228): Debug port stops a group at its next instruction boundary. -/
  | debugHalt (grp : Nat)
  /-- DEBUG_RESUME (R228): Debug port makes a halted group ready. -/
  | debugResume (grp : Nat)
  /-- DEBUG_STEP (R228): Debug port issues one instruction then halts. -/
  | debugStep (grp : Nat)
  /-- DEBUG_READ (R228): Debug port reads a saved-state item. -/
  | debugRead (grp : Nat) (item : DebugItem)
  /-- DEBUG_WRITE (R229): Debug port writes a saved-state item, refused with PENDING on pending registers. -/
  | debugWrite (grp : Nat) (item : DebugItem) (value : Nat)
  /-- DEBUG_DRAIN (R228): Debug port waits until the group has no outstanding loads or pending registers. -/
  | debugDrain (grp timeout : Nat)
  /-- DEBUG_DRAIN_TIMEOUT (R228): A DRAIN command's timeout expires and it answers TIMEOUT. -/
  | debugDrainTimeout (grp : Nat)
  /-- DEBUG_WATCH (R228): Sets or clears a watchpoint. -/
  | debugWatch (core idx : Nat) (watch : Option Watch)
  /-- DEBUG_TRAPMODE (R228): Selects trap or halt for BRK or WATCH. -/
  | debugTrapmode (onWatch halt : Bool)
  /-- GONG (R230): Stops every clock within 640 ns and freezes the device. -/
  | gong
  /-- DEVICE_RESET (R230): Reset discards all saved state, Stage and L2. -/
  | deviceReset
  /-- POWER_UP_BOOT (R320): The boot ROM verifies a flash image, extends mreg0 and runs it or enters recovery. -/
  | powerUpBoot
  /-- PING (R313): Service request returning firmware version and DSTAT. -/
  | ping (r : Nat)
  /-- LAUNCH (R313): Service request submitting a launch entry with a precondition. -/
  | launch (r : Nat)
  /-- STATUS (R313): Service request returning DSTAT. -/
  | status (r : Nat)
  /-- QUOTE (R321): Service request writing a signed 2,048-byte attestation quote. -/
  | quote (r : Nat)
  /-- HOT (R313): Service request returning a page's hot counter, tier, home and size. -/
  | hot (r : Nat)
  /-- RELOAD (R166): Service request reloading range tables of a region's resident groups. -/
  | reload (r : Nat)
  /-- MONITOR (R324): Service request returning a monitor point's last window and starting a new one. -/
  | monitor (r : Nat)
  /-- MIGRATE (R313): Service request hinting a page migration. -/
  | migrate (r : Nat)
  /-- QUOTA (R313): Service request asking for more spill quota. -/
  | quota (r : Nat)
  /-- PARTITION_CREATE (R314): Creates a partition from a descriptor. -/
  | partitionCreate (r : Nat)
  /-- PARTITION_RESIZE (R314): Replaces a partition's clusters, Stage and ranges. -/
  | partitionResize (r : Nat)
  /-- PARTITION_DESTROY (R314): Removes a partition and discards its queues and tables. -/
  | partitionDestroy (r : Nat)
  /-- PARTITION_HALT (R314): Pre-empts a partition and replies once halted. -/
  | partitionHalt (r : Nat)
  /-- PARTITION_RESUME (R314): Restores a halted partition and replies once ready. -/
  | partitionResume (r : Nat)
  /-- PARTITION_QUERY (R314): Returns a partition's descriptor and halted state. -/
  | partitionQuery (r : Nat)
  /-- CONSUMERS (R277): Installs a partition's consumer table and extends mreg3. -/
  | consumers (r : Nat)
  /-- DEBUG (R228): Service request carrying a signed debug unlock. -/
  | debug (r : Nat)
  /-- FWUPD (R313): Service request writing a firmware image to flash. -/
  | fwupd (r : Nat)
  /-- PEERS (R315): Installs a partition's peer table. -/
  | peers (r : Nat)
  /-- EXPORT (R315): Installs a partition's export list. -/
  | exportList (r : Nat)
  /-- HOST_LINK_TRAIN (R316): The PCIe host link trains or is lost, updating DSTAT. -/
  | hostLinkTrain (up : Bool)
  /-- HOST_ACCESS (R214): An access arriving from the host link is performed in PCIe order. -/
  | hostAccess (bar : HostBar) (off : Nat) (kind : ExtKind)
  /-- PEER_ACCESS (R319): An incoming RMA access is performed on an exported range or refused. -/
  | peerAccess (part : Nat) (ia : BitVec 52) (kind : ExtKind)
  /-- PART_FENCE (R325): Carillon fences a part that failed its power-up test or reports uncorrectable faults. -/
  | partFence (kind : PartKind) (n : Nat)
  /-- PART_FAILURE (R326): A part failing in use is fenced at once, killing its groups and failing dependent commands. -/
  | partFailure (kind : PartKind) (n : Nat)
  /-- POWER_LOSS (R25): The package loses power and every island loses its state. -/
  | powerLoss
  /-- PEER_TRANSPORT_FAILURE (R319): A peer transport failure after the standard's retry limit gives fatal PAGE to waiting lanes and status PAGE to engines and units. -/
  | peerTransportFailure (part peer : Nat)
  /-- MONITOR_WINDOW_END (R324): A monitor point's window reaches its requested length and becomes the last completed window that MONITOR returns. -/
  | monitorWindowEnd (point : Nat)
  deriving DecidableEq, Repr

end Sys2Proof
end

