-- ==== Sys2Proof/Machine/Checks.lean ====
section
/-!
DEFINITION. The checks of R80, R82, R83, R91 to R97 on the fields of an encoded instruction, one arm for each constructor of Instr.
-/

namespace Sys2Proof.Machine

/-- Every field holds a value its place permits (R80, R97). An event has no fields to check. -/
def fieldsOk (i : Instr) : Bool :=
  match i with
  | .add _ d _ _ => isV d
  | .addImm _ d _ _ => isV d
  | .addImmLong _ d _ _ => isV d
  | .sub _ d _ _ => isV d
  | .mullo _ d _ _ => isV d
  | .and _ d _ _ => isV d
  | .andImm _ d _ _ => isV d
  | .andImmLong _ d _ _ => isV d
  | .or _ d _ _ => isV d
  | .orImm _ d _ _ => isV d
  | .orImmLong _ d _ _ => isV d
  | .xor _ d _ _ => isV d
  | .shlImm _ d _ i => isV d && decide (i.toNat < 32)
  | .shlImmLong _ d _ w => isV d && decide (w.toNat < 32)
  | .shrImm _ d _ i => isV d && decide (i.toNat < 32)
  | .shrImmLong _ d _ w => isV d && decide (w.toNat < 32)
  | .sarImm _ d _ i => isV d && decide (i.toNat < 32)
  | .sarImmLong _ d _ w => isV d && decide (w.toNat < 32)
  | .movi _ d _ => isV d
  | .moviLong _ d _ => isV d
  | .mov _ d _ => isV d
  | .movPopPort _ d _ => isV d
  | .movPushPort _ _ _ => true
  | .addX _ d _ _ _ => isV d
  | .addN32 _ d _ _ _ => isV d
  | .subX _ d _ _ _ => isV d
  | .subN32 _ d _ _ _ => isV d
  | .addc _ d _ _ _ _ => isV d
  | .subb _ d _ _ _ _ => isV d
  | .neg _ d _ _ => isV d
  | .abs _ d _ _ => isV d
  | .min _ d _ _ => isV d
  | .minN32 _ d _ _ => isV d
  | .max _ d _ _ => isV d
  | .maxN32 _ d _ _ => isV d
  | .mulloX _ d _ _ => isV d
  | .mulhi _ d _ _ => isV d
  | .mulhiN32 _ d _ _ => isV d
  | .mad _ d _ _ _ _ => isV d
  | .madN32 _ d _ _ _ _ => isV d
  | .sad _ d _ _ _ => isV d
  | .sadN32 _ d _ _ _ => isV d
  | .shl _ d _ _ => isV d
  | .shr _ d _ _ => isV d
  | .sar _ d _ _ => isV d
  | .rot _ d _ _ => isV d
  | .andX _ d _ _ => isV d
  | .orX _ d _ _ => isV d
  | .xorX _ d _ _ => isV d
  | .andn _ d _ _ => isV d
  | .not _ d _ => isV d
  | .bfx _ d _ _ _ => isV d
  | .bfi _ d _ _ _ len => isV d && decide (len.toNat ≤ 32)
  | .popc _ d _ => isV d
  | .clz _ d _ => isV d
  | .brev _ d _ => isV d
  | .lea _ d _ _ _ => isV d
  | .fadd _ d _ _ => isV d
  | .fsub _ d _ _ => isV d
  | .fmul _ d _ _ => isV d
  | .ffma _ d _ _ => isV d
  | .fmin _ d _ _ => isV d
  | .fmax _ d _ _ => isV d
  | .faddX _ d a b ff _ => isV d && ff.pairOk d && ff.pairOk a && ff.pairOk b
  | .fsubX _ d a b ff _ => isV d && ff.pairOk d && ff.pairOk a && ff.pairOk b
  | .fmulX _ d a b ff _ => isV d && ff.pairOk d && ff.pairOk a && ff.pairOk b
  | .ffmaX _ d a b c ff _ => isV d && ff.pairOk d && ff.pairOk a && ff.pairOk b && ff.pairOk c
  | .fminX _ d a b ff => isV d && ff.pairOk d && ff.pairOk a && ff.pairOk b
  | .fmaxX _ d a b ff => isV d && ff.pairOk d && ff.pairOk a && ff.pairOk b
  | .frcp _ d _ => isV d
  | .frsq _ d _ => isV d
  | .fsqrt _ d a ff _ => isV d && ff.pairOk d && ff.pairOk a
  | .fexp2 _ d _ => isV d
  | .flog2 _ d _ => isV d
  | .fsin _ d _ => isV d
  | .fcos _ d _ => isV d
  | .fclass _ d a ff => isV d && ff.pairOk a
  | .cmp _ _ _ _ _ _ _ => true
  | .cmpImm _ _ _ _ _ _ _ => true
  | .fcmp _ _ _ a b _ _ ff => ff.pairOk a && ff.pairOk b
  | .tst _ _ _ _ _ _ => true
  | .pand _ _ _ _ => true
  | .por _ _ _ _ => true
  | .pxor _ _ _ _ => true
  | .pmov _ _ _ => true
  | .sel _ d _ _ _ => isV d
  | .vperm _ d _ _ => isV d
  | .vshfl _ d _ _ _ => isV d
  | .vbcast _ d _ _ => isV d
  | .vscan _ d _ _ _ => isV d
  | .vred _ d _ _ => isG d
  | .vvoteAny _ _ _ => true
  | .vvoteAll _ _ _ => true
  | .vvoteMask _ d _ => evenG d
  | .vfirst _ d _ => isG d
  | .cvt _ d a dst src _ => isV d && dst.cvtOk d && src.cvtOk a
  | .cvtEsc _ d a dst src _ => isV d && dst.cvtOk d && src.cvtOk a && (dst.canEscape || src.canEscape)
  | .vdecGap _ d a _ wd => isV d && even d && evenG a && decide (1 ≤ wd.toNat) && decide (wd.toNat ≤ 32)
  | .vdecVarint _ d a _ wd => isV d && even d && evenG a && decide (2 ≤ wd.toNat) && decide (wd.toNat ≤ 32)
  | .vdecBitplane _ d a _ wd => isV d && even d && evenG a && decide (1 ≤ wd.toNat) && decide (wd.toNat ≤ 32)
  | .ld _ d mem obs order stage size _ => isV d && mem.wf stage && obsOk order obs && order.okLoad && size.regOk d
  | .st _ d mem obs order stage size _ => isV d && mem.wf stage && obsOk order obs && order.okStore && size.okStore && size.regOk d
  | .atom _ d mem obs order stage dbl aop _ => isV d && mem.wf stage && obsOk order obs && aop.regOk dbl d
  | .pref _ mem _ => mem.wf false
  | .xld _ d _ _ => isV d
  | .xldLong _ d _ _ => isV d
  | .xst _ d _ _ => isV d
  | .xstLong _ d _ _ => isV d
  | .cins _ d _ _ c _ => evenG d && evenG c
  | .crem _ _ _ _ c => evenG c
  | .cnext _ d _ b _ => isV d && isV b
  | .wlpush _ _ c => evenG c
  | .wlpop _ d c _ => isV d && evenG c
  | .wlins _ _ c _ => evenG c
  | .qcall _ a typ unit _ => unit.callOk typ a
  | .qret _ d unit => unit.retOk d
  | .qretTrap _ d unit => unit.retOk d
  | .gadd _ _ _ _ => true
  | .gaddImm _ _ _ _ => true
  | .gaddImmLong _ _ _ _ => true
  | .gsub _ _ _ _ => true
  | .gmul _ _ _ _ => true
  | .gand _ _ _ _ => true
  | .gandImm _ _ _ _ => true
  | .gandImmLong _ _ _ _ => true
  | .gor _ _ _ _ => true
  | .gorImm _ _ _ _ => true
  | .gorImmLong _ _ _ _ => true
  | .gxor _ _ _ _ => true
  | .gshlImm _ _ _ i => decide (i.toNat < 32)
  | .gshlImmLong _ _ _ w => decide (w.toNat < 32)
  | .gshrImm _ _ _ i => decide (i.toNat < 32)
  | .gshrImmLong _ _ _ w => decide (w.toNat < 32)
  | .gsarImm _ _ _ i => decide (i.toNat < 32)
  | .gsarImmLong _ _ _ w => decide (w.toNat < 32)
  | .gmovi _ _ _ => true
  | .gmoviLong _ _ _ => true
  | .gmov _ _ _ => true
  | .gaddX _ _ _ _ => true
  | .gsubX _ _ _ _ => true
  | .gmulX _ _ _ _ => true
  | .gshl _ _ _ _ => true
  | .gshr _ _ _ _ => true
  | .gsar _ _ _ _ => true
  | .gandX _ _ _ _ => true
  | .gorX _ _ _ _ => true
  | .gxorX _ _ _ _ => true
  | .gmovX _ _ _ => true
  | .glea _ _ _ _ _ => true
  | .gsel _ _ _ _ _ => true
  | .gaddD _ d a b => even d && even a && even b
  | .gsubD _ d a b => even d && even a && even b
  | .gmulD _ d a b => even d && even a && even b
  | .gshlD _ d a b => even d && even a && even b
  | .gshrD _ d a b => even d && even a && even b
  | .gsarD _ d a b => even d && even a && even b
  | .gandD _ d a b => even d && even a && even b
  | .gorD _ d a b => even d && even a && even b
  | .gxorD _ d a b => even d && even a && even b
  | .gmovD _ d a => even d && even a
  | .gleaD _ d a b _ => even d && even a && even b
  | .gselD _ d a b _ => even d && even a && even b
  | .gcmp _ _ _ _ _ _ _ => true
  | .gcmpImm _ _ _ _ _ _ _ => true
  | .bra _ _ _ => true
  | .jmp _ _ => true
  | .jmpAbs _ _ => true
  | .braV _ _ _ _ _ => true
  | .brx _ _ => true
  | .call _ d _ => isG d
  | .ret _ _ => true
  | .rvpop _ => true
  | .rvpush _ a b => evenG a && evenG b
  | .yield _ => true
  | .sleep _ i => !i.msb
  | .sleepLong _ w => !w.msb
  | .bar _ => true
  | .spawn _ _ a _ => isG a && decide (a.toNat ≤ 120)
  | .role _ _ _ => true
  | .exit _ => true
  | .mfc _ d ctl => ctlReadOk ctl && (even d || !ctlWide ctl)
  | .mtc _ ctl a => ctlWriteOk ctl && (even a || !ctlWide ctl)
  | .mtcRvsp _ a => even a
  | .xmset _ _ => true
  | .trap _ _ => true
  | .sys _ _ => true
  | .brk _ _ => true
  | .nop _ _ _ b _ => b != 1#7
  | .prefc _ _ _ _ => true
  | .tcfg _ _ _ => true
  | .tcfgImm _ _ _ => true
  | .tzero _ _ => true
  | .tld _ _ _ b obs order _ _ => isG b && obsOk order obs && order.okLoad
  | .tsv _ _ _ b obs order _ _ => isG b && obsOk order obs && order.okStore
  | .tcvt _ _ _ dst _ => decide (dst.code.toNat ≤ 10)
  | .tmvV _ d _ _ => isV d
  | .tmvT _ _ _ _ => true
  | .mma _ _ _ _ c _ _ => evenG c
  | .mmat _ _ _ _ c _ _ => evenG c
  | .mmag _ _ _ _ c gx _ _ => evenG c && evenG gx
  | .mmx _ _ _ _ c _ _ => evenG c
  | .quant _ _ _ c _ => evenG c
  | .ctld _ _ a => evenG a
  | .acp _ d a b obs order _ _ => evenG d && blockOk a 5 && claveOk b && obsOk order obs
  | .acp2 _ d a b obs order _ _ => evenG d && blockOk a 8 && claveOk b && obsOk order obs
  | .acpg _ d a b obs order _ _ => evenG d && blockOk a 7 && claveOk b && obsOk order obs
  | .afill _ d a b obs order _ => evenG d && blockOk a 4 && claveOk b && obsOk order obs
  | .wload _ d a b obs order _ => evenG d && blockOk a 4 && claveOk b && obsOk order obs
  | .clvInit _ _ _ => true
  | .clvArm _ _ _ => true
  | .clvWait _ _ _ => true
  | .hwait _ d a => evenG d && evenG a
  | .htst _ _ a => evenG a
  | .hcan _ a => evenG a
  | .hmov _ d a => evenG d && evenG a
  | .apGo _ a => evenG a
  | .apStop _ => true
  | .qtst _ _ _ => true
  | .gld _ d mem obs order stage size _ => mem.wf stage && obsOk order obs && order.okLoad && size.regOk d
  | .gst _ d mem obs order stage size _ => mem.wf stage && obsOk order obs && order.okStore && size.okStore && size.regOk d
  | .gatom _ d mem obs order stage dbl aop _ => mem.wf stage && obsOk order obs && aop.regOk dbl d
  | .fence _ obs => obs != 0#6
  | .copen _ _ _ _ c => evenG c
  | .cclose _ _ => true
  | .ccount _ _ _ _ c => evenG c
  | .wlclr _ c => evenG c
  | .wlcnt _ _ c => evenG c
  | .qtok _ _ _ => true
  | .tsecEnter _ _ _ => true
  | .tsecExit _ _ _ => true
  | .glaunch _ _ a => evenG a
  | .illegalPattern _ _ => true
  | .fetchFault _ _ _ _ => true
  | .pathJoin _ _ => true
  | .pathSwitch _ => true
  | .slotIssueCycle _ _ => true
  | .groupAged _ => true
  | .trapEntry _ => true
  | .faultRecord _ => true
  | .parkedReplay _ => true
  | .pageFaultResolve _ _ _ => true
  | .pageMigrationStart _ _ => true
  | .pageMigrationEnd _ _ _ _ _ => true
  | .hotUpdate _ => true
  | .lineMigrate _ _ => true
  | .lineEvict _ => true
  | .leaseExpiry _ => true
  | .eccCorrectable _ => true
  | .eccUncorrectable _ _ => true
  | .engineChunkComplete _ _ => true
  | .claveCredit _ => true
  | .engineCommandComplete _ => true
  | .cinsApply _ _ => true
  | .wloadRecord _ _ => true
  | .streamLoadElement _ _ => true
  | .streamStoreElement _ _ => true
  | .queueSpillRefill _ => true
  | .coprocRecord _ _ => true
  | .fragmentTurn _ _ => true
  | .consumerWaitExpiry _ _ => true
  | .sectionTimeout _ => true
  | .barrierPhaseComplete _ => true
  | .sleepDeadline _ => true
  | .sysReply _ => true
  | .launchDispatch _ => true
  | .launchRefused _ _ => true
  | .preconditionRead _ _ => true
  | .cohortReserved _ _ => true
  | .preempt _ => true
  | .restore _ => true
  | .islandFrequencyChange _ _ => true
  | .debugHalt _ => true
  | .debugResume _ => true
  | .debugStep _ => true
  | .debugRead _ _ => true
  | .debugWrite _ _ _ => true
  | .debugDrain _ _ => true
  | .debugDrainTimeout _ => true
  | .debugWatch _ _ _ => true
  | .debugTrapmode _ _ => true
  | .gong => true
  | .deviceReset => true
  | .powerUpBoot => true
  | .ping _ => true
  | .launch _ => true
  | .status _ => true
  | .quote _ => true
  | .hot _ => true
  | .reload _ => true
  | .monitor _ => true
  | .migrate _ => true
  | .quota _ => true
  | .partitionCreate _ => true
  | .partitionResize _ => true
  | .partitionDestroy _ => true
  | .partitionHalt _ => true
  | .partitionResume _ => true
  | .partitionQuery _ => true
  | .consumers _ => true
  | .debug _ => true
  | .fwupd _ => true
  | .peers _ => true
  | .exportList _ => true
  | .hostLinkTrain _ => true
  | .hostAccess _ _ _ => true
  | .peerAccess _ _ _ => true
  | .partFence _ _ => true
  | .partFailure _ _ => true
  | .powerLoss => true
  | .peerTransportFailure _ _ => true
  | .monitorWindowEnd _ => true

end Sys2Proof.Machine
end

