-- ==== Sys2Proof/WellFormed.lean ====
section
/-!
DEFINITION. An instruction is well formed when every field holds a value its place permits (R80, R97). A word whose fields break a check
is ILL (R98).
-/

namespace Sys2Proof

/-- Every field holds a value its place permits (R80, R97). -/
def Instr.wellFormed (i : Instr) : Bool := Machine.fieldsOk i

end Sys2Proof
end

