-- ==== Sys2Proof/Decode.lean ====
section
/-!
DEFINITION. Instruction words (R89 to R99): the four second-word formats, the encoder, and the decoder. The decoder names
the form the primary and sub-opcode select, takes its fields, and then requires that the form is well formed and that
its own encoding is the word that was read; so every field the map requires to be zero is checked, and no bit is dropped.
-/

namespace Sys2Proof

/-- The first word (R90): set, L, primary, guard, d, a, b. -/
structure Head where
  uni : Bool
  ext : Bool
  prim : BitVec 6
  g : BitVec 3
  d : BitVec 7
  a : BitVec 7
  b : BitVec 7
  deriving DecidableEq, Repr
/-- The first word of its fields (R90). -/
def Head.toWord (h : Head) : Word := BitVec.ofBool h.uni ++ BitVec.ofBool h.ext ++ h.prim ++ h.g ++ h.d ++ h.a ++ h.b
/-- The fields of a first word (R90). -/
def Head.ofWord (w : Word) : Head :=
  ⟨w.getLsbD 31, w.getLsbD 30, w.extractLsb' 24 6, w.extractLsb' 21 3, w.extractLsb' 14 7, w.extractLsb' 7 7, w.extractLsb' 0 7⟩
/-- Bits [20:0] as one field: shapes B, J and V (R92). -/
def Head.low21 (h : Head) : BitVec 21 := h.d ++ h.a ++ h.b
/-- A first word whose bits [20:0] are one field (R92). -/
def Head.mk21 (uni ext : Bool) (prim : BitVec 6) (g : BitVec 3) (x : BitVec 21) : Head :=
  ⟨uni, ext, prim, g, x.extractLsb' 14 7, x.extractLsb' 7 7, x.extractLsb' 0 7⟩

/-- The extended second word (R91): format, rounding, ctype, c, aux, sub-opcode. -/
structure E2 where
  fmt : BitVec 4
  rnd : BitVec 3
  ct : BitVec 3
  c : BitVec 7
  aux : BitVec 7
  sub : BitVec 8
  deriving DecidableEq, Repr
/-- The E2 word of its fields (R91). -/
def E2.toWord (x : E2) : Word := x.fmt ++ x.rnd ++ x.ct ++ x.c ++ x.aux ++ x.sub
/-- The fields of an E2 word (R91). -/
def E2.ofWord (w : Word) : E2 :=
  ⟨w.extractLsb' 28 4, w.extractLsb' 25 3, w.extractLsb' 22 3, w.extractLsb' 15 7, w.extractLsb' 8 7, w.extractLsb' 0 8⟩

/-- The memory second word (R91): observers, order, space, size, offset. -/
structure E3 where
  obs : BitVec 6
  order : BitVec 2
  space : Bool
  size : BitVec 3
  off : BitVec 20
  deriving DecidableEq, Repr
/-- The E3 word of its fields (R91). -/
def E3.toWord (x : E3) : Word := x.obs ++ x.order ++ BitVec.ofBool x.space ++ x.size ++ x.off
/-- The fields of an E3 word (R91). -/
def E3.ofWord (w : Word) : E3 :=
  ⟨w.extractLsb' 26 6, w.extractLsb' 24 2, w.getLsbD 23, w.extractLsb' 20 3, w.extractLsb' 0 20⟩

/-- The control second word (R91): join offset and hints. -/
structure E4 where
  join : BitVec 20
  hints : BitVec 12
  deriving DecidableEq, Repr
/-- The E4 word of its fields (R91). -/
def E4.toWord (x : E4) : Word := x.join ++ x.hints
/-- The fields of an E4 word (R91). -/
def E4.ofWord (w : Word) : E4 := ⟨w.extractLsb' 12 20, w.extractLsb' 0 12⟩

/-- Bits [1:0]. -/
def lo2 (x : BitVec 7) : BitVec 2 := x.extractLsb' 0 2
/-- Bits [2:0]: a predicate, iterator or unit place. -/
def lo3 (x : BitVec 7) : BitVec 3 := x.extractLsb' 0 3
/-- Bits [5:3]: the second predicate of PP, or a carry-out place (R92, R94). -/
def mid3 (x : BitVec 7) : BitVec 3 := x.extractLsb' 3 3
/-- Bits [3:0]: a port place or a role index. -/
def lo4 (x : BitVec 7) : BitVec 4 := x.extractLsb' 0 4
/-- Bits [5:0]: a tile place, a lane number, a length. -/
def lo6 (x : BitVec 7) : BitVec 6 := x.extractLsb' 0 6
/-- The overflow code in the rounding field (R91): 0 wrap, 1 sat. -/
def ovf (sat : Bool) : BitVec 3 := if sat then 1 else 0


/-- The words of an encoded instruction (R89 to R97): one word, or two when its L bit is set. An event, and an ILL pattern,
has no encoding of its own. -/
def encode (i : Instr) : List Word :=
  match i with
  | .add g d a b => [Head.toWord ⟨false, false, 0x00#6, g, d, a, b⟩]
  | .addImm g d a i => [Head.toWord ⟨false, false, 0x01#6, g, d, a, i⟩]
  | .addImmLong g d a w => [Head.toWord ⟨false, true, 0x01#6, g, d, a, 0#7⟩, w]
  | .sub g d a b => [Head.toWord ⟨false, false, 0x02#6, g, d, a, b⟩]
  | .mullo g d a b => [Head.toWord ⟨false, false, 0x03#6, g, d, a, b⟩]
  | .and g d a b => [Head.toWord ⟨false, false, 0x04#6, g, d, a, b⟩]
  | .andImm g d a i => [Head.toWord ⟨false, false, 0x05#6, g, d, a, i⟩]
  | .andImmLong g d a w => [Head.toWord ⟨false, true, 0x05#6, g, d, a, 0#7⟩, w]
  | .or g d a b => [Head.toWord ⟨false, false, 0x06#6, g, d, a, b⟩]
  | .orImm g d a i => [Head.toWord ⟨false, false, 0x07#6, g, d, a, i⟩]
  | .orImmLong g d a w => [Head.toWord ⟨false, true, 0x07#6, g, d, a, 0#7⟩, w]
  | .xor g d a b => [Head.toWord ⟨false, false, 0x08#6, g, d, a, b⟩]
  | .shlImm g d a i => [Head.toWord ⟨false, false, 0x09#6, g, d, a, i⟩]
  | .shlImmLong g d a w => [Head.toWord ⟨false, true, 0x09#6, g, d, a, 0#7⟩, w]
  | .shrImm g d a i => [Head.toWord ⟨false, false, 0x0A#6, g, d, a, i⟩]
  | .shrImmLong g d a w => [Head.toWord ⟨false, true, 0x0A#6, g, d, a, 0#7⟩, w]
  | .sarImm g d a i => [Head.toWord ⟨false, false, 0x0B#6, g, d, a, i⟩]
  | .sarImmLong g d a w => [Head.toWord ⟨false, true, 0x0B#6, g, d, a, 0#7⟩, w]
  | .movi g d i => [Head.toWord ⟨false, false, 0x0C#6, g, d, 0#7, i⟩]
  | .moviLong g d w => [Head.toWord ⟨false, true, 0x0C#6, g, d, 0#7, 0#7⟩, w]
  | .mov g d a => [Head.toWord ⟨false, false, 0x0D#6, g, d, a, 0#7⟩]
  | .movPopPort g d q => [Head.toWord ⟨false, false, 0x0D#6, g, d, 0#7, (1#3 ++ q)⟩]
  | .movPushPort g a q => [Head.toWord ⟨false, false, 0x0D#6, g, 0#7, a, (2#3 ++ q)⟩]
  | .addX g d a b sat => [Head.toWord ⟨false, true, 0x0E#6, g, d, a, b⟩, E2.toWord ⟨0#4, ovf sat, 0#3, 0#7, 0#7, 0x00#8⟩]
  | .addN32 g d a b sat => [Head.toWord ⟨false, true, 0x0E#6, g, d, a, b⟩, E2.toWord ⟨0#4, ovf sat, 0#3, 0#7, 0#7, 0x01#8⟩]
  | .subX g d a b sat => [Head.toWord ⟨false, true, 0x0E#6, g, d, a, b⟩, E2.toWord ⟨0#4, ovf sat, 0#3, 0#7, 0#7, 0x02#8⟩]
  | .subN32 g d a b sat => [Head.toWord ⟨false, true, 0x0E#6, g, d, a, b⟩, E2.toWord ⟨0#4, ovf sat, 0#3, 0#7, 0#7, 0x03#8⟩]
  | .addc g d a b pi po => [Head.toWord ⟨false, true, 0x0E#6, g, d, a, b⟩, E2.toWord ⟨0#4, 0#3, 0#3, 0#7, (0#1 ++ po ++ pi), 0x04#8⟩]
  | .subb g d a b pi po => [Head.toWord ⟨false, true, 0x0E#6, g, d, a, b⟩, E2.toWord ⟨0#4, 0#3, 0#3, 0#7, (0#1 ++ po ++ pi), 0x05#8⟩]
  | .neg g d a sat => [Head.toWord ⟨false, true, 0x0E#6, g, d, a, 0#7⟩, E2.toWord ⟨0#4, ovf sat, 0#3, 0#7, 0#7, 0x06#8⟩]
  | .abs g d a sat => [Head.toWord ⟨false, true, 0x0E#6, g, d, a, 0#7⟩, E2.toWord ⟨0#4, ovf sat, 0#3, 0#7, 0#7, 0x07#8⟩]
  | .min g d a b => [Head.toWord ⟨false, true, 0x0E#6, g, d, a, b⟩, E2.toWord ⟨0#4, 0#3, 0#3, 0#7, 0#7, 0x08#8⟩]
  | .minN32 g d a b => [Head.toWord ⟨false, true, 0x0E#6, g, d, a, b⟩, E2.toWord ⟨0#4, 0#3, 0#3, 0#7, 0#7, 0x09#8⟩]
  | .max g d a b => [Head.toWord ⟨false, true, 0x0E#6, g, d, a, b⟩, E2.toWord ⟨0#4, 0#3, 0#3, 0#7, 0#7, 0x0A#8⟩]
  | .maxN32 g d a b => [Head.toWord ⟨false, true, 0x0E#6, g, d, a, b⟩, E2.toWord ⟨0#4, 0#3, 0#3, 0#7, 0#7, 0x0B#8⟩]
  | .mulloX g d a b => [Head.toWord ⟨false, true, 0x0E#6, g, d, a, b⟩, E2.toWord ⟨0#4, 0#3, 0#3, 0#7, 0#7, 0x0C#8⟩]
  | .mulhi g d a b => [Head.toWord ⟨false, true, 0x0E#6, g, d, a, b⟩, E2.toWord ⟨0#4, 0#3, 0#3, 0#7, 0#7, 0x0D#8⟩]
  | .mulhiN32 g d a b => [Head.toWord ⟨false, true, 0x0E#6, g, d, a, b⟩, E2.toWord ⟨0#4, 0#3, 0#3, 0#7, 0#7, 0x0E#8⟩]
  | .mad g d a b c sat => [Head.toWord ⟨false, true, 0x0E#6, g, d, a, b⟩, E2.toWord ⟨0#4, ovf sat, 0#3, c, 0#7, 0x0F#8⟩]
  | .madN32 g d a b c sat => [Head.toWord ⟨false, true, 0x0E#6, g, d, a, b⟩, E2.toWord ⟨0#4, ovf sat, 0#3, c, 0#7, 0x10#8⟩]
  | .sad g d a b c => [Head.toWord ⟨false, true, 0x0E#6, g, d, a, b⟩, E2.toWord ⟨0#4, 0#3, 0#3, c, 0#7, 0x11#8⟩]
  | .sadN32 g d a b c => [Head.toWord ⟨false, true, 0x0E#6, g, d, a, b⟩, E2.toWord ⟨0#4, 0#3, 0#3, c, 0#7, 0x12#8⟩]
  | .shl g d a b => [Head.toWord ⟨false, true, 0x0E#6, g, d, a, b⟩, E2.toWord ⟨0#4, 0#3, 0#3, 0#7, 0#7, 0x13#8⟩]
  | .shr g d a b => [Head.toWord ⟨false, true, 0x0E#6, g, d, a, b⟩, E2.toWord ⟨0#4, 0#3, 0#3, 0#7, 0#7, 0x14#8⟩]
  | .sar g d a b => [Head.toWord ⟨false, true, 0x0E#6, g, d, a, b⟩, E2.toWord ⟨0#4, 0#3, 0#3, 0#7, 0#7, 0x15#8⟩]
  | .rot g d a b => [Head.toWord ⟨false, true, 0x0E#6, g, d, a, b⟩, E2.toWord ⟨0#4, 0#3, 0#3, 0#7, 0#7, 0x16#8⟩]
  | .andX g d a b => [Head.toWord ⟨false, true, 0x0E#6, g, d, a, b⟩, E2.toWord ⟨0#4, 0#3, 0#3, 0#7, 0#7, 0x17#8⟩]
  | .orX g d a b => [Head.toWord ⟨false, true, 0x0E#6, g, d, a, b⟩, E2.toWord ⟨0#4, 0#3, 0#3, 0#7, 0#7, 0x18#8⟩]
  | .xorX g d a b => [Head.toWord ⟨false, true, 0x0E#6, g, d, a, b⟩, E2.toWord ⟨0#4, 0#3, 0#3, 0#7, 0#7, 0x19#8⟩]
  | .andn g d a b => [Head.toWord ⟨false, true, 0x0E#6, g, d, a, b⟩, E2.toWord ⟨0#4, 0#3, 0#3, 0#7, 0#7, 0x1A#8⟩]
  | .not g d a => [Head.toWord ⟨false, true, 0x0E#6, g, d, a, 0#7⟩, E2.toWord ⟨0#4, 0#3, 0#3, 0#7, 0#7, 0x1B#8⟩]
  | .bfx g d a b c => [Head.toWord ⟨false, true, 0x0E#6, g, d, a, b⟩, E2.toWord ⟨0#4, 0#3, 0#3, c, 0#7, 0x1C#8⟩]
  | .bfi g d a b c len => [Head.toWord ⟨false, true, 0x0E#6, g, d, a, b⟩, E2.toWord ⟨0#4, 0#3, 0#3, c, (0#1 ++ len), 0x1D#8⟩]
  | .popc g d a => [Head.toWord ⟨false, true, 0x0E#6, g, d, a, 0#7⟩, E2.toWord ⟨0#4, 0#3, 0#3, 0#7, 0#7, 0x1E#8⟩]
  | .clz g d a => [Head.toWord ⟨false, true, 0x0E#6, g, d, a, 0#7⟩, E2.toWord ⟨0#4, 0#3, 0#3, 0#7, 0#7, 0x1F#8⟩]
  | .brev g d a => [Head.toWord ⟨false, true, 0x0E#6, g, d, a, 0#7⟩, E2.toWord ⟨0#4, 0#3, 0#3, 0#7, 0#7, 0x20#8⟩]
  | .lea g d a b s => [Head.toWord ⟨false, true, 0x0E#6, g, d, a, b⟩, E2.toWord ⟨0#4, 0#3, 0#3, 0#7, (0#5 ++ s), 0x21#8⟩]
  | .fadd g d a b => [Head.toWord ⟨false, false, 0x10#6, g, d, a, b⟩]
  | .fsub g d a b => [Head.toWord ⟨false, false, 0x11#6, g, d, a, b⟩]
  | .fmul g d a b => [Head.toWord ⟨false, false, 0x12#6, g, d, a, b⟩]
  | .ffma g d a b => [Head.toWord ⟨false, false, 0x13#6, g, d, a, b⟩]
  | .fmin g d a b => [Head.toWord ⟨false, false, 0x14#6, g, d, a, b⟩]
  | .fmax g d a b => [Head.toWord ⟨false, false, 0x15#6, g, d, a, b⟩]
  | .faddX g d a b ff rnd => [Head.toWord ⟨false, true, 0x16#6, g, d, a, b⟩, E2.toWord ⟨ff.code, rnd.code, 0#3, 0#7, 0#7, 0x00#8⟩]
  | .fsubX g d a b ff rnd => [Head.toWord ⟨false, true, 0x16#6, g, d, a, b⟩, E2.toWord ⟨ff.code, rnd.code, 0#3, 0#7, 0#7, 0x01#8⟩]
  | .fmulX g d a b ff rnd => [Head.toWord ⟨false, true, 0x16#6, g, d, a, b⟩, E2.toWord ⟨ff.code, rnd.code, 0#3, 0#7, 0#7, 0x02#8⟩]
  | .ffmaX g d a b c ff rnd => [Head.toWord ⟨false, true, 0x16#6, g, d, a, b⟩, E2.toWord ⟨ff.code, rnd.code, 0#3, c, 0#7, 0x03#8⟩]
  | .fminX g d a b ff => [Head.toWord ⟨false, true, 0x16#6, g, d, a, b⟩, E2.toWord ⟨ff.code, 0#3, 0#3, 0#7, 0#7, 0x04#8⟩]
  | .fmaxX g d a b ff => [Head.toWord ⟨false, true, 0x16#6, g, d, a, b⟩, E2.toWord ⟨ff.code, 0#3, 0#3, 0#7, 0#7, 0x05#8⟩]
  | .frcp g d a => [Head.toWord ⟨false, true, 0x16#6, g, d, a, 0#7⟩, E2.toWord ⟨7#4, 0#3, 0#3, 0#7, 0#7, 0x06#8⟩]
  | .frsq g d a => [Head.toWord ⟨false, true, 0x16#6, g, d, a, 0#7⟩, E2.toWord ⟨7#4, 0#3, 0#3, 0#7, 0#7, 0x07#8⟩]
  | .fsqrt g d a ff rnd => [Head.toWord ⟨false, true, 0x16#6, g, d, a, 0#7⟩, E2.toWord ⟨ff.code, rnd.code, 0#3, 0#7, 0#7, 0x08#8⟩]
  | .fexp2 g d a => [Head.toWord ⟨false, true, 0x16#6, g, d, a, 0#7⟩, E2.toWord ⟨7#4, 0#3, 0#3, 0#7, 0#7, 0x09#8⟩]
  | .flog2 g d a => [Head.toWord ⟨false, true, 0x16#6, g, d, a, 0#7⟩, E2.toWord ⟨7#4, 0#3, 0#3, 0#7, 0#7, 0x0A#8⟩]
  | .fsin g d a => [Head.toWord ⟨false, true, 0x16#6, g, d, a, 0#7⟩, E2.toWord ⟨7#4, 0#3, 0#3, 0#7, 0#7, 0x0B#8⟩]
  | .fcos g d a => [Head.toWord ⟨false, true, 0x16#6, g, d, a, 0#7⟩, E2.toWord ⟨7#4, 0#3, 0#3, 0#7, 0#7, 0x0C#8⟩]
  | .fclass g d a ff => [Head.toWord ⟨false, true, 0x16#6, g, d, a, 0#7⟩, E2.toWord ⟨ff.code, 0#3, 0#3, 0#7, 0#7, 0x0D#8⟩]
  | .cmp g pd pe a b op ct => [Head.toWord ⟨false, true, 0x20#6, g, (0#1 ++ pe ++ pd), a, b⟩, E2.toWord ⟨0#4, 0#3, ct.code, 0#7, 0#7, (0#4 ++ op.code)⟩]
  | .cmpImm g pd pe a i op ct => [Head.toWord ⟨false, true, 0x20#6, g, (0#1 ++ pe ++ pd), a, i⟩, E2.toWord ⟨0#4, 0#3, ct.code, 0#7, 0#7, (1#4 ++ op.code)⟩]
  | .fcmp g pd pe a b fop ct ff => [Head.toWord ⟨false, true, 0x21#6, g, (0#1 ++ pe ++ pd), a, b⟩, E2.toWord ⟨ff.code, 0#3, ct.code, 0#7, 0#7, (0#5 ++ fop.code)⟩]
  | .tst g pd pe a b ct => [Head.toWord ⟨false, true, 0x22#6, g, (0#1 ++ pe ++ pd), a, b⟩, E2.toWord ⟨0#4, 0#3, ct.code, 0#7, 0#7, 0x00#8⟩]
  | .pand g pd pa pb => [Head.toWord ⟨false, false, 0x23#6, g, (0#4 ++ pd), (0#4 ++ pa), (0#2 ++ 0#2 ++ pb)⟩]
  | .por g pd pa pb => [Head.toWord ⟨false, false, 0x23#6, g, (0#4 ++ pd), (0#4 ++ pa), (0#2 ++ 1#2 ++ pb)⟩]
  | .pxor g pd pa pb => [Head.toWord ⟨false, false, 0x23#6, g, (0#4 ++ pd), (0#4 ++ pa), (0#2 ++ 2#2 ++ pb)⟩]
  | .pmov g pd pa => [Head.toWord ⟨false, false, 0x23#6, g, (0#4 ++ pd), (0#4 ++ pa), 24#7⟩]
  | .sel g d a b px => [Head.toWord ⟨false, true, 0x24#6, g, d, a, b⟩, E2.toWord ⟨0#4, 0#3, 0#3, 0#7, (0#4 ++ px), 0x00#8⟩]
  | .vperm g d a b => [Head.toWord ⟨false, false, 0x28#6, g, d, a, b⟩]
  | .vshfl g d a b sh => [Head.toWord ⟨false, true, 0x29#6, g, d, a, b⟩, E2.toWord ⟨0#4, 0#3, 0#3, 0#7, 0#7, (0#6 ++ sh.code)⟩]
  | .vbcast g d a k => [Head.toWord ⟨false, false, 0x2A#6, g, d, a, (0#1 ++ k)⟩]
  | .vscan g d a px rop => [Head.toWord ⟨false, true, 0x2B#6, g, d, a, 0#7⟩, E2.toWord ⟨0#4, 0#3, 0#3, 0#7, (0#4 ++ px), (0#5 ++ rop.code)⟩]
  | .vred g d a rop => [Head.toWord ⟨false, true, 0x2C#6, g, d, a, 0#7⟩, E2.toWord ⟨0#4, 0#3, 0#3, 0#7, 0#7, (0#5 ++ rop.code)⟩]
  | .vvoteAny g pd pa => [Head.toWord ⟨false, true, 0x2D#6, g, (0#4 ++ pd), (0#4 ++ pa), 0#7⟩, E2.toWord ⟨0#4, 0#3, 0#3, 0#7, 0#7, 0x00#8⟩]
  | .vvoteAll g pd pa => [Head.toWord ⟨false, true, 0x2D#6, g, (0#4 ++ pd), (0#4 ++ pa), 0#7⟩, E2.toWord ⟨0#4, 0#3, 0#3, 0#7, 0#7, 0x01#8⟩]
  | .vvoteMask g d pa => [Head.toWord ⟨false, true, 0x2D#6, g, d, (0#4 ++ pa), 0#7⟩, E2.toWord ⟨0#4, 0#3, 0#3, 0#7, 0#7, 0x02#8⟩]
  | .vfirst g d pa => [Head.toWord ⟨false, false, 0x2E#6, g, d, (0#4 ++ pa), 0#7⟩]
  | .cvt g d a dst src rnd => [Head.toWord ⟨false, true, 0x30#6, g, d, a, 0#7⟩, E2.toWord ⟨dst.code, rnd.code, 0#3, 0#7, (0#3 ++ src.code), 0x00#8⟩]
  | .cvtEsc g d a dst src rnd => [Head.toWord ⟨false, true, 0x30#6, g, d, a, 0#7⟩, E2.toWord ⟨dst.code, rnd.code, 0#3, 0#7, (0#3 ++ src.code), 0x01#8⟩]
  | .vdecGap g d a b wd => [Head.toWord ⟨false, true, 0x31#6, g, d, a, b⟩, E2.toWord ⟨0#4, 0#3, 0#3, 0#7, wd, 0x00#8⟩]
  | .vdecVarint g d a b wd => [Head.toWord ⟨false, true, 0x31#6, g, d, a, b⟩, E2.toWord ⟨0#4, 0#3, 0#3, 0#7, wd, 0x01#8⟩]
  | .vdecBitplane g d a b wd => [Head.toWord ⟨false, true, 0x31#6, g, d, a, b⟩, E2.toWord ⟨0#4, 0#3, 0#3, 0#7, wd, 0x02#8⟩]
  | .ld g d mem obs order stage size off => [Head.toWord ⟨false, true, 0x38#6, g, d, mem.fieldA, mem.fieldB⟩, E3.toWord ⟨obs, order.code, stage, size.code, off⟩]
  | .st g d mem obs order stage size off => [Head.toWord ⟨false, true, 0x39#6, g, d, mem.fieldA, mem.fieldB⟩, E3.toWord ⟨obs, order.code, stage, size.code, off⟩]
  | .atom g d mem obs order stage dbl aop off16 => [Head.toWord ⟨false, true, 0x3A#6, g, d, mem.fieldA, mem.fieldB⟩, E3.toWord ⟨obs, order.code, stage, (if dbl then 5#3 else 4#3), (aop.code ++ off16)⟩]
  | .pref g mem off => [Head.toWord ⟨false, true, 0x3B#6, g, 0#7, mem.fieldA, mem.fieldB⟩, E3.toWord ⟨0#6, 0#2, false, 0#3, off⟩]
  | .xld g d a i => [Head.toWord ⟨false, false, 0x3C#6, g, d, a, i⟩]
  | .xldLong g d a w => [Head.toWord ⟨false, true, 0x3C#6, g, d, a, 0#7⟩, w]
  | .xst g d a i => [Head.toWord ⟨false, false, 0x3D#6, g, d, a, i⟩]
  | .xstLong g d a w => [Head.toWord ⟨false, true, 0x3D#6, g, d, a, 0#7⟩, w]
  | .cins g d a b c obs => [Head.toWord ⟨false, true, 0x3E#6, g, d, a, b⟩, E2.toWord ⟨0#4, 0#3, 0#3, c, (0#1 ++ obs), 0x00#8⟩]
  | .crem g pd a b c => [Head.toWord ⟨false, true, 0x3E#6, g, (0#4 ++ pd), a, b⟩, E2.toWord ⟨0#4, 0#3, 0#3, c, 0#7, 0x01#8⟩]
  | .cnext g d ita b px => [Head.toWord ⟨false, true, 0x3E#6, g, d, (0#4 ++ ita), b⟩, E2.toWord ⟨0#4, 0#3, 0#3, 0#7, (0#4 ++ px), 0x02#8⟩]
  | .wlpush g a c => [Head.toWord ⟨false, true, 0x3E#6, g, 0#7, a, 0#7⟩, E2.toWord ⟨0#4, 0#3, 0#3, c, 0#7, 0x08#8⟩]
  | .wlpop g d c px => [Head.toWord ⟨false, true, 0x3E#6, g, d, 0#7, 0#7⟩, E2.toWord ⟨0#4, 0#3, 0#3, c, (0#4 ++ px), 0x09#8⟩]
  | .wlins g a c px => [Head.toWord ⟨false, true, 0x3E#6, g, 0#7, a, 0#7⟩, E2.toWord ⟨0#4, 0#3, 0#3, c, (0#4 ++ px), 0x0A#8⟩]
  | .qcall g a typ unit sp => [Head.toWord ⟨false, true, 0x3F#6, g, 0#7, a, typ⟩, E2.toWord ⟨0#4, 0#3, 0#3, 0#7, (0#3 ++ BitVec.ofBool sp ++ unit.code), 0x00#8⟩]
  | .qret g d unit => [Head.toWord ⟨false, true, 0x3F#6, g, d, 0#7, 0#7⟩, E2.toWord ⟨0#4, 0#3, 0#3, 0#7, (0#4 ++ unit.code), 0x01#8⟩]
  | .qretTrap g d unit => [Head.toWord ⟨false, true, 0x3F#6, g, d, 0#7, 0#7⟩, E2.toWord ⟨0#4, 0#3, 0#3, 0#7, (0#4 ++ unit.code), 0x02#8⟩]
  | .gadd g d a b => [Head.toWord ⟨true, false, 0x00#6, g, d, a, b⟩]
  | .gaddImm g d a i => [Head.toWord ⟨true, false, 0x01#6, g, d, a, i⟩]
  | .gaddImmLong g d a w => [Head.toWord ⟨true, true, 0x01#6, g, d, a, 0#7⟩, w]
  | .gsub g d a b => [Head.toWord ⟨true, false, 0x02#6, g, d, a, b⟩]
  | .gmul g d a b => [Head.toWord ⟨true, false, 0x03#6, g, d, a, b⟩]
  | .gand g d a b => [Head.toWord ⟨true, false, 0x04#6, g, d, a, b⟩]
  | .gandImm g d a i => [Head.toWord ⟨true, false, 0x05#6, g, d, a, i⟩]
  | .gandImmLong g d a w => [Head.toWord ⟨true, true, 0x05#6, g, d, a, 0#7⟩, w]
  | .gor g d a b => [Head.toWord ⟨true, false, 0x06#6, g, d, a, b⟩]
  | .gorImm g d a i => [Head.toWord ⟨true, false, 0x07#6, g, d, a, i⟩]
  | .gorImmLong g d a w => [Head.toWord ⟨true, true, 0x07#6, g, d, a, 0#7⟩, w]
  | .gxor g d a b => [Head.toWord ⟨true, false, 0x08#6, g, d, a, b⟩]
  | .gshlImm g d a i => [Head.toWord ⟨true, false, 0x09#6, g, d, a, i⟩]
  | .gshlImmLong g d a w => [Head.toWord ⟨true, true, 0x09#6, g, d, a, 0#7⟩, w]
  | .gshrImm g d a i => [Head.toWord ⟨true, false, 0x0A#6, g, d, a, i⟩]
  | .gshrImmLong g d a w => [Head.toWord ⟨true, true, 0x0A#6, g, d, a, 0#7⟩, w]
  | .gsarImm g d a i => [Head.toWord ⟨true, false, 0x0B#6, g, d, a, i⟩]
  | .gsarImmLong g d a w => [Head.toWord ⟨true, true, 0x0B#6, g, d, a, 0#7⟩, w]
  | .gmovi g d i => [Head.toWord ⟨true, false, 0x0C#6, g, d, 0#7, i⟩]
  | .gmoviLong g d w => [Head.toWord ⟨true, true, 0x0C#6, g, d, 0#7, 0#7⟩, w]
  | .gmov g d a => [Head.toWord ⟨true, false, 0x0D#6, g, d, a, 0#7⟩]
  | .gaddX g d a b => [Head.toWord ⟨true, true, 0x0E#6, g, d, a, b⟩, E2.toWord ⟨0#4, 0#3, 0#3, 0#7, 0#7, 0x00#8⟩]
  | .gsubX g d a b => [Head.toWord ⟨true, true, 0x0E#6, g, d, a, b⟩, E2.toWord ⟨0#4, 0#3, 0#3, 0#7, 0#7, 0x01#8⟩]
  | .gmulX g d a b => [Head.toWord ⟨true, true, 0x0E#6, g, d, a, b⟩, E2.toWord ⟨0#4, 0#3, 0#3, 0#7, 0#7, 0x02#8⟩]
  | .gshl g d a b => [Head.toWord ⟨true, true, 0x0E#6, g, d, a, b⟩, E2.toWord ⟨0#4, 0#3, 0#3, 0#7, 0#7, 0x03#8⟩]
  | .gshr g d a b => [Head.toWord ⟨true, true, 0x0E#6, g, d, a, b⟩, E2.toWord ⟨0#4, 0#3, 0#3, 0#7, 0#7, 0x04#8⟩]
  | .gsar g d a b => [Head.toWord ⟨true, true, 0x0E#6, g, d, a, b⟩, E2.toWord ⟨0#4, 0#3, 0#3, 0#7, 0#7, 0x05#8⟩]
  | .gandX g d a b => [Head.toWord ⟨true, true, 0x0E#6, g, d, a, b⟩, E2.toWord ⟨0#4, 0#3, 0#3, 0#7, 0#7, 0x06#8⟩]
  | .gorX g d a b => [Head.toWord ⟨true, true, 0x0E#6, g, d, a, b⟩, E2.toWord ⟨0#4, 0#3, 0#3, 0#7, 0#7, 0x07#8⟩]
  | .gxorX g d a b => [Head.toWord ⟨true, true, 0x0E#6, g, d, a, b⟩, E2.toWord ⟨0#4, 0#3, 0#3, 0#7, 0#7, 0x08#8⟩]
  | .gmovX g d a => [Head.toWord ⟨true, true, 0x0E#6, g, d, a, 0#7⟩, E2.toWord ⟨0#4, 0#3, 0#3, 0#7, 0#7, 0x09#8⟩]
  | .glea g d a b s => [Head.toWord ⟨true, true, 0x0E#6, g, d, a, b⟩, E2.toWord ⟨0#4, 0#3, 0#3, 0#7, (0#5 ++ s), 0x0A#8⟩]
  | .gsel g d a b px => [Head.toWord ⟨true, true, 0x0E#6, g, d, a, b⟩, E2.toWord ⟨0#4, 0#3, 0#3, 0#7, (0#4 ++ px), 0x0B#8⟩]
  | .gaddD g d a b => [Head.toWord ⟨true, true, 0x0E#6, g, d, a, b⟩, E2.toWord ⟨0#4, 0#3, 0#3, 0#7, 0#7, 0x10#8⟩]
  | .gsubD g d a b => [Head.toWord ⟨true, true, 0x0E#6, g, d, a, b⟩, E2.toWord ⟨0#4, 0#3, 0#3, 0#7, 0#7, 0x11#8⟩]
  | .gmulD g d a b => [Head.toWord ⟨true, true, 0x0E#6, g, d, a, b⟩, E2.toWord ⟨0#4, 0#3, 0#3, 0#7, 0#7, 0x12#8⟩]
  | .gshlD g d a b => [Head.toWord ⟨true, true, 0x0E#6, g, d, a, b⟩, E2.toWord ⟨0#4, 0#3, 0#3, 0#7, 0#7, 0x13#8⟩]
  | .gshrD g d a b => [Head.toWord ⟨true, true, 0x0E#6, g, d, a, b⟩, E2.toWord ⟨0#4, 0#3, 0#3, 0#7, 0#7, 0x14#8⟩]
  | .gsarD g d a b => [Head.toWord ⟨true, true, 0x0E#6, g, d, a, b⟩, E2.toWord ⟨0#4, 0#3, 0#3, 0#7, 0#7, 0x15#8⟩]
  | .gandD g d a b => [Head.toWord ⟨true, true, 0x0E#6, g, d, a, b⟩, E2.toWord ⟨0#4, 0#3, 0#3, 0#7, 0#7, 0x16#8⟩]
  | .gorD g d a b => [Head.toWord ⟨true, true, 0x0E#6, g, d, a, b⟩, E2.toWord ⟨0#4, 0#3, 0#3, 0#7, 0#7, 0x17#8⟩]
  | .gxorD g d a b => [Head.toWord ⟨true, true, 0x0E#6, g, d, a, b⟩, E2.toWord ⟨0#4, 0#3, 0#3, 0#7, 0#7, 0x18#8⟩]
  | .gmovD g d a => [Head.toWord ⟨true, true, 0x0E#6, g, d, a, 0#7⟩, E2.toWord ⟨0#4, 0#3, 0#3, 0#7, 0#7, 0x19#8⟩]
  | .gleaD g d a b s => [Head.toWord ⟨true, true, 0x0E#6, g, d, a, b⟩, E2.toWord ⟨0#4, 0#3, 0#3, 0#7, (0#5 ++ s), 0x1A#8⟩]
  | .gselD g d a b px => [Head.toWord ⟨true, true, 0x0E#6, g, d, a, b⟩, E2.toWord ⟨0#4, 0#3, 0#3, 0#7, (0#4 ++ px), 0x1B#8⟩]
  | .gcmp g pd pe a b op ct => [Head.toWord ⟨true, true, 0x0F#6, g, (0#1 ++ pe ++ pd), a, b⟩, E2.toWord ⟨0#4, 0#3, ct.code, 0#7, 0#7, (0#4 ++ op.code)⟩]
  | .gcmpImm g pd pe a i op ct => [Head.toWord ⟨true, true, 0x0F#6, g, (0#1 ++ pe ++ pd), a, i⟩, E2.toWord ⟨0#4, 0#3, ct.code, 0#7, 0#7, (1#4 ++ op.code)⟩]
  | .bra g cq off18 => [(Head.mk21 true false 0x10#6 g (cq ++ off18)).toWord]
  | .jmp g off21 => [(Head.mk21 true false 0x11#6 g off21).toWord]
  | .jmpAbs g pc => [(Head.mk21 true true 0x11#6 g 0#21).toWord, (0#2 ++ pc)]
  | .braV g pq off18 join hint => [(Head.mk21 true true 0x12#6 g (pq ++ off18)).toWord, E4.toWord ⟨join, 0#10 ++ hint.code⟩]
  | .brx g a => [Head.toWord ⟨true, false, 0x13#6, g, 0#7, a, 0#7⟩]
  | .call g d w => [Head.toWord ⟨true, true, 0x14#6, g, d, 0#7, 0#7⟩, w]
  | .ret g a => [Head.toWord ⟨true, false, 0x15#6, g, 0#7, a, 0#7⟩]
  | .rvpop g => [Head.toWord ⟨true, false, 0x16#6, g, 0#7, 0#7, 0#7⟩]
  | .rvpush g a b => [Head.toWord ⟨true, false, 0x17#6, g, 0#7, a, b⟩]
  | .yield g => [Head.toWord ⟨true, false, 0x18#6, g, 0#7, 0#7, 0#7⟩]
  | .sleep g i => [Head.toWord ⟨true, false, 0x19#6, g, 0#7, 0#7, i⟩]
  | .sleepLong g w => [Head.toWord ⟨true, true, 0x19#6, g, 0#7, 0#7, 0#7⟩, w]
  | .bar g => [Head.toWord ⟨true, false, 0x1A#6, g, 0#7, 0#7, 0#7⟩]
  | .spawn g cq a w => [Head.toWord ⟨true, true, 0x1B#6, g, (0#4 ++ cq), a, 0#7⟩, w]
  | .role g cq n => [Head.toWord ⟨true, false, 0x1C#6, g, (0#4 ++ cq), 0#7, (0#3 ++ n)⟩]
  | .exit g => [Head.toWord ⟨true, false, 0x1D#6, g, 0#7, 0#7, 0#7⟩]
  | .mfc g d ctl => [Head.toWord ⟨true, true, 0x1E#6, g, d, 0#7, 0#7⟩, E2.toWord ⟨0#4, 0#3, 0#3, 0#7, ctl, 0x00#8⟩]
  | .mtc g ctl a => [Head.toWord ⟨true, true, 0x1E#6, g, 0#7, a, 0#7⟩, E2.toWord ⟨0#4, 0#3, 0#3, 0#7, ctl, 0x01#8⟩]
  | .mtcRvsp g a => [Head.toWord ⟨true, true, 0x1E#6, g, 0#7, a, 0#7⟩, E2.toWord ⟨0#4, 0#3, 0#3, 0#7, 3#7, 0x01#8⟩]
  | .xmset g pa => [Head.toWord ⟨true, true, 0x1E#6, g, 0#7, (0#4 ++ pa), 0#7⟩, E2.toWord ⟨0#4, 0#3, 0#3, 0#7, 0#7, 0x02#8⟩]
  | .trap g n7 => [Head.toWord ⟨true, true, 0x1E#6, g, 0#7, 0#7, n7⟩, E2.toWord ⟨0#4, 0#3, 0#3, 0#7, 0#7, 0x03#8⟩]
  | .sys g n7 => [Head.toWord ⟨true, true, 0x1E#6, g, 0#7, 0#7, n7⟩, E2.toWord ⟨0#4, 0#3, 0#3, 0#7, 0#7, 0x04#8⟩]
  | .brk g n7 => [Head.toWord ⟨true, true, 0x1E#6, g, 0#7, 0#7, n7⟩, E2.toWord ⟨0#4, 0#3, 0#3, 0#7, 0#7, 0x05#8⟩]
  | .nop g d a b hx => Head.toWord ⟨true, hx.isSome, 0x1F#6, g, d, a, b⟩ :: hx.toList
  | .prefc g d a hx => Head.toWord ⟨true, hx.isSome, 0x1F#6, g, d, a, 1#7⟩ :: hx.toList
  | .tcfg g t b => [Head.toWord ⟨true, false, 0x20#6, g, (0#1 ++ t), 0#7, b⟩]
  | .tcfgImm g t w => [Head.toWord ⟨true, true, 0x20#6, g, (0#1 ++ t), 0#7, 0#7⟩, w]
  | .tzero g t => [Head.toWord ⟨true, false, 0x21#6, g, (0#1 ++ t), 0#7, 0#7⟩]
  | .tld g t k b obs order stage off => [Head.toWord ⟨true, true, 0x22#6, g, (0#1 ++ t), (4#3 ++ k), b⟩, E3.toWord ⟨obs, order.code, stage, 0#3, off⟩]
  | .tsv g t k b obs order stage off => [Head.toWord ⟨true, true, 0x23#6, g, (0#1 ++ t), (4#3 ++ k), b⟩, E3.toWord ⟨obs, order.code, stage, 0#3, off⟩]
  | .tcvt g t ta dst rnd => [Head.toWord ⟨true, true, 0x24#6, g, (0#1 ++ t), (0#1 ++ ta), 0#7⟩, E2.toWord ⟨dst.code, rnd.code, 0#3, 0#7, 0#7, 0x00#8⟩]
  | .tmvV g d ta b => [Head.toWord ⟨true, true, 0x25#6, g, d, (0#1 ++ ta), b⟩, E2.toWord ⟨0#4, 0#3, 0#3, 0#7, 0#7, 0x00#8⟩]
  | .tmvT g t a b => [Head.toWord ⟨true, true, 0x25#6, g, (0#1 ++ t), a, b⟩, E2.toWord ⟨0#4, 0#3, 0#3, 0#7, 0#7, 0x01#8⟩]
  | .mma g t ta tb c rnd z => [Head.toWord ⟨true, true, 0x26#6, g, (0#1 ++ t), (0#1 ++ ta), (0#1 ++ tb)⟩, E2.toWord ⟨0#4, rnd.code, 0#3, c, 0#7, (0#7 ++ BitVec.ofBool z)⟩]
  | .mmat g t ta tb c rnd z => [Head.toWord ⟨true, true, 0x27#6, g, (0#1 ++ t), (0#1 ++ ta), (0#1 ++ tb)⟩, E2.toWord ⟨0#4, rnd.code, 0#3, c, 0#7, (0#7 ++ BitVec.ofBool z)⟩]
  | .mmag g t ta tb c gx rnd z => [Head.toWord ⟨true, true, 0x28#6, g, (0#1 ++ t), (0#1 ++ ta), (0#1 ++ tb)⟩, E2.toWord ⟨0#4, rnd.code, 0#3, c, gx, (0#7 ++ BitVec.ofBool z)⟩]
  | .mmx g t ta tb c rnd z => [Head.toWord ⟨true, true, 0x29#6, g, (0#1 ++ t), (0#1 ++ ta), (0#1 ++ tb)⟩, E2.toWord ⟨0#4, rnd.code, 0#3, c, 0#7, (0#7 ++ BitVec.ofBool z)⟩]
  | .quant g t ta c rnd => [Head.toWord ⟨true, true, 0x2A#6, g, (0#1 ++ t), (0#1 ++ ta), 0#7⟩, E2.toWord ⟨0#4, rnd.code, 0#3, c, 0#7, 0x00#8⟩]
  | .ctld g n a => [Head.toWord ⟨true, false, 0x2B#6, g, (0#4 ++ n), a, 0#7⟩]
  | .acp g d a b obs order ds fs => [Head.toWord ⟨true, true, 0x30#6, g, d, a, b⟩, E3.toWord ⟨obs, order.code, ds, (BitVec.ofBool fs ++ 0#2), 0#20⟩]
  | .acp2 g d a b obs order ds fs => [Head.toWord ⟨true, true, 0x31#6, g, d, a, b⟩, E3.toWord ⟨obs, order.code, ds, (BitVec.ofBool fs ++ 0#2), 0#20⟩]
  | .acpg g d a b obs order ds fs => [Head.toWord ⟨true, true, 0x32#6, g, d, a, b⟩, E3.toWord ⟨obs, order.code, ds, (BitVec.ofBool fs ++ 0#2), 0#20⟩]
  | .afill g d a b obs order ds => [Head.toWord ⟨true, true, 0x33#6, g, d, a, b⟩, E3.toWord ⟨obs, order.code, ds, 0#3, 0#20⟩]
  | .wload g d a b obs order prec => [Head.toWord ⟨true, true, 0x34#6, g, d, a, b⟩, E3.toWord ⟨obs, order.code, false, prec, 0#20⟩]
  | .clvInit g a b => [Head.toWord ⟨true, true, 0x35#6, g, 0#7, a, b⟩, E2.toWord ⟨0#4, 0#3, 0#3, 0#7, 0#7, 0x00#8⟩]
  | .clvArm g a b => [Head.toWord ⟨true, true, 0x35#6, g, 0#7, a, b⟩, E2.toWord ⟨0#4, 0#3, 0#3, 0#7, 0#7, 0x01#8⟩]
  | .clvWait g a b => [Head.toWord ⟨true, true, 0x35#6, g, 0#7, a, b⟩, E2.toWord ⟨0#4, 0#3, 0#3, 0#7, 0#7, 0x02#8⟩]
  | .hwait g d a => [Head.toWord ⟨true, true, 0x36#6, g, d, a, 0#7⟩, E2.toWord ⟨0#4, 0#3, 0#3, 0#7, 0#7, 0x00#8⟩]
  | .htst g cq a => [Head.toWord ⟨true, true, 0x36#6, g, (0#4 ++ cq), a, 0#7⟩, E2.toWord ⟨0#4, 0#3, 0#3, 0#7, 0#7, 0x01#8⟩]
  | .hcan g a => [Head.toWord ⟨true, true, 0x36#6, g, 0#7, a, 0#7⟩, E2.toWord ⟨0#4, 0#3, 0#3, 0#7, 0#7, 0x02#8⟩]
  | .hmov g d a => [Head.toWord ⟨true, true, 0x36#6, g, d, a, 0#7⟩, E2.toWord ⟨0#4, 0#3, 0#3, 0#7, 0#7, 0x03#8⟩]
  | .apGo g a => [Head.toWord ⟨true, true, 0x37#6, g, 0#7, a, 0#7⟩, E2.toWord ⟨0#4, 0#3, 0#3, 0#7, 0#7, 0x00#8⟩]
  | .apStop g => [Head.toWord ⟨true, true, 0x37#6, g, 0#7, 0#7, 0#7⟩, E2.toWord ⟨0#4, 0#3, 0#3, 0#7, 0#7, 0x01#8⟩]
  | .qtst g cq qa => [Head.toWord ⟨true, true, 0x37#6, g, (0#4 ++ cq), (0#3 ++ qa), 0#7⟩, E2.toWord ⟨0#4, 0#3, 0#3, 0#7, 0#7, 0x02#8⟩]
  | .gld g d mem obs order stage size off => [Head.toWord ⟨true, true, 0x38#6, g, d, mem.fieldA, mem.fieldB⟩, E3.toWord ⟨obs, order.code, stage, size.code, off⟩]
  | .gst g d mem obs order stage size off => [Head.toWord ⟨true, true, 0x39#6, g, d, mem.fieldA, mem.fieldB⟩, E3.toWord ⟨obs, order.code, stage, size.code, off⟩]
  | .gatom g d mem obs order stage dbl aop off16 => [Head.toWord ⟨true, true, 0x3A#6, g, d, mem.fieldA, mem.fieldB⟩, E3.toWord ⟨obs, order.code, stage, (if dbl then 5#3 else 4#3), (aop.code ++ off16)⟩]
  | .fence g obs => [Head.toWord ⟨true, true, 0x3B#6, g, 0#7, 0#7, 0#7⟩, E3.toWord ⟨obs, 0#2, false, 0#3, 0#20⟩]
  | .copen g it a b c => [Head.toWord ⟨true, true, 0x3C#6, g, (0#4 ++ it), a, b⟩, E2.toWord ⟨0#4, 0#3, 0#3, c, 0#7, 0x00#8⟩]
  | .cclose g ita => [Head.toWord ⟨true, true, 0x3C#6, g, 0#7, (0#4 ++ ita), 0#7⟩, E2.toWord ⟨0#4, 0#3, 0#3, 0#7, 0#7, 0x01#8⟩]
  | .ccount g d a b c => [Head.toWord ⟨true, true, 0x3C#6, g, d, a, b⟩, E2.toWord ⟨0#4, 0#3, 0#3, c, 0#7, 0x02#8⟩]
  | .wlclr g c => [Head.toWord ⟨true, true, 0x3D#6, g, 0#7, 0#7, 0#7⟩, E2.toWord ⟨0#4, 0#3, 0#3, c, 0#7, 0x00#8⟩]
  | .wlcnt g d c => [Head.toWord ⟨true, true, 0x3D#6, g, d, 0#7, 0#7⟩, E2.toWord ⟨0#4, 0#3, 0#3, c, 0#7, 0x01#8⟩]
  | .qtok g d a => [Head.toWord ⟨true, true, 0x3E#6, g, d, a, 0#7⟩, E2.toWord ⟨0#4, 0#3, 0#3, 0#7, 0#7, 0x00#8⟩]
  | .tsecEnter g a b => [Head.toWord ⟨true, true, 0x3E#6, g, 0#7, a, b⟩, E2.toWord ⟨0#4, 0#3, 0#3, 0#7, 0#7, 0x01#8⟩]
  | .tsecExit g a b => [Head.toWord ⟨true, true, 0x3E#6, g, 0#7, a, b⟩, E2.toWord ⟨0#4, 0#3, 0#3, 0#7, 0#7, 0x02#8⟩]
  | .glaunch g cq a => [Head.toWord ⟨true, false, 0x3F#6, g, (0#4 ++ cq), a, 0#7⟩]
  | .illegalPattern _ _ => []
  | .fetchFault _ _ _ _ => []
  | .pathJoin _ _ => []
  | .pathSwitch _ => []
  | .slotIssueCycle _ _ => []
  | .groupAged _ => []
  | .trapEntry _ => []
  | .faultRecord _ => []
  | .parkedReplay _ => []
  | .pageFaultResolve _ _ _ => []
  | .pageMigrationStart _ _ => []
  | .pageMigrationEnd _ _ _ _ _ => []
  | .hotUpdate _ => []
  | .lineMigrate _ _ => []
  | .lineEvict _ => []
  | .leaseExpiry _ => []
  | .eccCorrectable _ => []
  | .eccUncorrectable _ _ => []
  | .engineChunkComplete _ _ => []
  | .claveCredit _ => []
  | .engineCommandComplete _ => []
  | .cinsApply _ _ => []
  | .wloadRecord _ _ => []
  | .streamLoadElement _ _ => []
  | .streamStoreElement _ _ => []
  | .queueSpillRefill _ => []
  | .coprocRecord _ _ => []
  | .fragmentTurn _ _ => []
  | .consumerWaitExpiry _ _ => []
  | .sectionTimeout _ => []
  | .barrierPhaseComplete _ => []
  | .sleepDeadline _ => []
  | .sysReply _ => []
  | .launchDispatch _ => []
  | .launchRefused _ _ => []
  | .preconditionRead _ _ => []
  | .cohortReserved _ _ => []
  | .preempt _ => []
  | .restore _ => []
  | .islandFrequencyChange _ _ => []
  | .debugHalt _ => []
  | .debugResume _ => []
  | .debugStep _ => []
  | .debugRead _ _ => []
  | .debugWrite _ _ _ => []
  | .debugDrain _ _ => []
  | .debugDrainTimeout _ => []
  | .debugWatch _ _ _ => []
  | .debugTrapmode _ _ => []
  | .gong => []
  | .deviceReset => []
  | .powerUpBoot => []
  | .ping _ => []
  | .launch _ => []
  | .status _ => []
  | .quote _ => []
  | .hot _ => []
  | .reload _ => []
  | .monitor _ => []
  | .migrate _ => []
  | .quota _ => []
  | .partitionCreate _ => []
  | .partitionResize _ => []
  | .partitionDestroy _ => []
  | .partitionHalt _ => []
  | .partitionResume _ => []
  | .partitionQuery _ => []
  | .consumers _ => []
  | .debug _ => []
  | .fwupd _ => []
  | .peers _ => []
  | .exportList _ => []
  | .hostLinkTrain _ => []
  | .hostAccess _ _ _ => []
  | .peerAccess _ _ _ => []
  | .partFence _ _ => []
  | .partFailure _ _ => []
  | .powerLoss => []
  | .peerTransportFailure _ _ => []
  | .monitorWindowEnd _ => []

/-- The form the fields of a one-word lane-set pattern name (R93, R94), its reserved fields not yet checked. -/
def laneShort (h : Head) : Option Instr :=
  match h.prim.toNat with
  | 0x00 => some (.add h.g h.d h.a h.b)
  | 0x01 => some (.addImm h.g h.d h.a h.b)
  | 0x02 => some (.sub h.g h.d h.a h.b)
  | 0x03 => some (.mullo h.g h.d h.a h.b)
  | 0x04 => some (.and h.g h.d h.a h.b)
  | 0x05 => some (.andImm h.g h.d h.a h.b)
  | 0x06 => some (.or h.g h.d h.a h.b)
  | 0x07 => some (.orImm h.g h.d h.a h.b)
  | 0x08 => some (.xor h.g h.d h.a h.b)
  | 0x09 => some (.shlImm h.g h.d h.a h.b)
  | 0x0A => some (.shrImm h.g h.d h.a h.b)
  | 0x0B => some (.sarImm h.g h.d h.a h.b)
  | 0x0C => some (.movi h.g h.d h.b)
  | 0x0D =>
    if h.b.extractLsb' 4 3 == 0#3 then some (.mov h.g h.d h.a) else
    if h.b.extractLsb' 4 3 == 1#3 then some (.movPopPort h.g h.d (lo4 h.b)) else
    if h.b.extractLsb' 4 3 == 2#3 then some (.movPushPort h.g h.a (lo4 h.b)) else
    none
  | 0x10 => some (.fadd h.g h.d h.a h.b)
  | 0x11 => some (.fsub h.g h.d h.a h.b)
  | 0x12 => some (.fmul h.g h.d h.a h.b)
  | 0x13 => some (.ffma h.g h.d h.a h.b)
  | 0x14 => some (.fmin h.g h.d h.a h.b)
  | 0x15 => some (.fmax h.g h.d h.a h.b)
  | 0x23 =>
    if h.b.extractLsb' 3 2 == 0#2 then some (.pand h.g (lo3 h.d) (lo3 h.a) (lo3 h.b)) else
    if h.b.extractLsb' 3 2 == 1#2 then some (.por h.g (lo3 h.d) (lo3 h.a) (lo3 h.b)) else
    if h.b.extractLsb' 3 2 == 2#2 then some (.pxor h.g (lo3 h.d) (lo3 h.a) (lo3 h.b)) else
    if h.b.extractLsb' 3 2 == 3#2 then some (.pmov h.g (lo3 h.d) (lo3 h.a)) else
    none
  | 0x28 => some (.vperm h.g h.d h.a h.b)
  | 0x2A => some (.vbcast h.g h.d h.a (lo6 h.b))
  | 0x2E => some (.vfirst h.g h.d (lo3 h.a))
  | 0x3C => some (.xld h.g h.d h.a h.b)
  | 0x3D => some (.xst h.g h.d h.a h.b)
  | _ => none

/-- The form the fields of a two-word lane-set pattern name (R93, R94), its reserved fields not yet checked. -/
def laneLong (h : Head) (w1 : Word) : Option Instr :=
  let x := E2.ofWord w1
  let y := E3.ofWord w1
  match h.prim.toNat with
  | 0x01 => some (.addImmLong h.g h.d h.a w1)
  | 0x05 => some (.andImmLong h.g h.d h.a w1)
  | 0x07 => some (.orImmLong h.g h.d h.a w1)
  | 0x09 => some (.shlImmLong h.g h.d h.a w1)
  | 0x0A => some (.shrImmLong h.g h.d h.a w1)
  | 0x0B => some (.sarImmLong h.g h.d h.a w1)
  | 0x0C => some (.moviLong h.g h.d w1)
  | 0x0E =>
    match x.sub.toNat with
    | 0x00 => some (.addX h.g h.d h.a h.b (x.rnd == 1#3))
    | 0x01 => some (.addN32 h.g h.d h.a h.b (x.rnd == 1#3))
    | 0x02 => some (.subX h.g h.d h.a h.b (x.rnd == 1#3))
    | 0x03 => some (.subN32 h.g h.d h.a h.b (x.rnd == 1#3))
    | 0x04 => some (.addc h.g h.d h.a h.b (lo3 x.aux) (mid3 x.aux))
    | 0x05 => some (.subb h.g h.d h.a h.b (lo3 x.aux) (mid3 x.aux))
    | 0x06 => some (.neg h.g h.d h.a (x.rnd == 1#3))
    | 0x07 => some (.abs h.g h.d h.a (x.rnd == 1#3))
    | 0x08 => some (.min h.g h.d h.a h.b)
    | 0x09 => some (.minN32 h.g h.d h.a h.b)
    | 0x0A => some (.max h.g h.d h.a h.b)
    | 0x0B => some (.maxN32 h.g h.d h.a h.b)
    | 0x0C => some (.mulloX h.g h.d h.a h.b)
    | 0x0D => some (.mulhi h.g h.d h.a h.b)
    | 0x0E => some (.mulhiN32 h.g h.d h.a h.b)
    | 0x0F => some (.mad h.g h.d h.a h.b x.c (x.rnd == 1#3))
    | 0x10 => some (.madN32 h.g h.d h.a h.b x.c (x.rnd == 1#3))
    | 0x11 => some (.sad h.g h.d h.a h.b x.c)
    | 0x12 => some (.sadN32 h.g h.d h.a h.b x.c)
    | 0x13 => some (.shl h.g h.d h.a h.b)
    | 0x14 => some (.shr h.g h.d h.a h.b)
    | 0x15 => some (.sar h.g h.d h.a h.b)
    | 0x16 => some (.rot h.g h.d h.a h.b)
    | 0x17 => some (.andX h.g h.d h.a h.b)
    | 0x18 => some (.orX h.g h.d h.a h.b)
    | 0x19 => some (.xorX h.g h.d h.a h.b)
    | 0x1A => some (.andn h.g h.d h.a h.b)
    | 0x1B => some (.not h.g h.d h.a)
    | 0x1C => some (.bfx h.g h.d h.a h.b x.c)
    | 0x1D => some (.bfi h.g h.d h.a h.b x.c (lo6 x.aux))
    | 0x1E => some (.popc h.g h.d h.a)
    | 0x1F => some (.clz h.g h.d h.a)
    | 0x20 => some (.brev h.g h.d h.a)
    | 0x21 => some (.lea h.g h.d h.a h.b (lo2 x.aux))
    | _ => none
  | 0x16 =>
    match x.sub.toNat with
    | 0x00 => some (.faddX h.g h.d h.a h.b (FFmt.ofCode x.fmt) (Rnd.ofCode x.rnd))
    | 0x01 => some (.fsubX h.g h.d h.a h.b (FFmt.ofCode x.fmt) (Rnd.ofCode x.rnd))
    | 0x02 => some (.fmulX h.g h.d h.a h.b (FFmt.ofCode x.fmt) (Rnd.ofCode x.rnd))
    | 0x03 => some (.ffmaX h.g h.d h.a h.b x.c (FFmt.ofCode x.fmt) (Rnd.ofCode x.rnd))
    | 0x04 => some (.fminX h.g h.d h.a h.b (FFmt.ofCode x.fmt))
    | 0x05 => some (.fmaxX h.g h.d h.a h.b (FFmt.ofCode x.fmt))
    | 0x06 => some (.frcp h.g h.d h.a)
    | 0x07 => some (.frsq h.g h.d h.a)
    | 0x08 => some (.fsqrt h.g h.d h.a (FFmt.ofCode x.fmt) (Rnd.ofCode x.rnd))
    | 0x09 => some (.fexp2 h.g h.d h.a)
    | 0x0A => some (.flog2 h.g h.d h.a)
    | 0x0B => some (.fsin h.g h.d h.a)
    | 0x0C => some (.fcos h.g h.d h.a)
    | 0x0D => some (.fclass h.g h.d h.a (FFmt.ofCode x.fmt))
    | _ => none
  | 0x20 =>
    if x.sub.extractLsb' 4 4 == 0#4 then some (.cmp h.g (lo3 h.d) (mid3 h.d) h.a h.b (CmpOp.ofCode (x.sub.extractLsb' 0 4)) (CType.ofCode x.ct)) else
    if x.sub.extractLsb' 4 4 == 1#4 then some (.cmpImm h.g (lo3 h.d) (mid3 h.d) h.a h.b (CmpOp.ofCode (x.sub.extractLsb' 0 4)) (CType.ofCode x.ct)) else
    none
  | 0x21 => some (.fcmp h.g (lo3 h.d) (mid3 h.d) h.a h.b (FcmpOp.ofCode (x.sub.extractLsb' 0 3)) (CType.ofCode x.ct) (FFmt.ofCode x.fmt))
  | 0x22 =>
    match x.sub.toNat with
    | 0x00 => some (.tst h.g (lo3 h.d) (mid3 h.d) h.a h.b (CType.ofCode x.ct))
    | _ => none
  | 0x24 =>
    match x.sub.toNat with
    | 0x00 => some (.sel h.g h.d h.a h.b (lo3 x.aux))
    | _ => none
  | 0x29 => some (.vshfl h.g h.d h.a h.b (Shfl.ofCode (x.sub.extractLsb' 0 2)))
  | 0x2B => some (.vscan h.g h.d h.a (lo3 x.aux) (RedOp.ofCode (x.sub.extractLsb' 0 3)))
  | 0x2C => some (.vred h.g h.d h.a (RedOp.ofCode (x.sub.extractLsb' 0 3)))
  | 0x2D =>
    match x.sub.toNat with
    | 0x00 => some (.vvoteAny h.g (lo3 h.d) (lo3 h.a))
    | 0x01 => some (.vvoteAll h.g (lo3 h.d) (lo3 h.a))
    | 0x02 => some (.vvoteMask h.g h.d (lo3 h.a))
    | _ => none
  | 0x30 =>
    match x.sub.toNat with
    | 0x00 => some (.cvt h.g h.d h.a (Fmt.ofCode x.fmt) (Fmt.ofCode (lo4 x.aux)) (Rnd.ofCode x.rnd))
    | 0x01 => some (.cvtEsc h.g h.d h.a (Fmt.ofCode x.fmt) (Fmt.ofCode (lo4 x.aux)) (Rnd.ofCode x.rnd))
    | _ => none
  | 0x31 =>
    match x.sub.toNat with
    | 0x00 => some (.vdecGap h.g h.d h.a h.b x.aux)
    | 0x01 => some (.vdecVarint h.g h.d h.a h.b x.aux)
    | 0x02 => some (.vdecBitplane h.g h.d h.a h.b x.aux)
    | _ => none
  | 0x38 => some (.ld h.g h.d (MemAddr.ofFields h.a h.b) y.obs (Order.ofCode y.order) y.space (Size.ofCode y.size) y.off)
  | 0x39 => some (.st h.g h.d (MemAddr.ofFields h.a h.b) y.obs (Order.ofCode y.order) y.space (Size.ofCode y.size) y.off)
  | 0x3A => some (.atom h.g h.d (MemAddr.ofFields h.a h.b) y.obs (Order.ofCode y.order) y.space (y.size == 5#3) (AtomOp.ofCode (y.off.extractLsb' 16 4)) (y.off.extractLsb' 0 16))
  | 0x3B => some (.pref h.g (MemAddr.ofFields h.a h.b) y.off)
  | 0x3C => some (.xldLong h.g h.d h.a w1)
  | 0x3D => some (.xstLong h.g h.d h.a w1)
  | 0x3E =>
    match x.sub.toNat with
    | 0x00 => some (.cins h.g h.d h.a h.b x.c (lo6 x.aux))
    | 0x01 => some (.crem h.g (lo3 h.d) h.a h.b x.c)
    | 0x02 => some (.cnext h.g h.d (lo3 h.a) h.b (lo3 x.aux))
    | 0x08 => some (.wlpush h.g h.a x.c)
    | 0x09 => some (.wlpop h.g h.d x.c (lo3 x.aux))
    | 0x0A => some (.wlins h.g h.a x.c (lo3 x.aux))
    | _ => none
  | 0x3F =>
    match x.sub.toNat with
    | 0x00 => some (.qcall h.g h.a h.b (CUnit.ofCode (lo3 x.aux)) (x.aux.getLsbD 3))
    | 0x01 => some (.qret h.g h.d (CUnit.ofCode (lo3 x.aux)))
    | 0x02 => some (.qretTrap h.g h.d (CUnit.ofCode (lo3 x.aux)))
    | _ => none
  | _ => none

/-- The form the fields of a one-word uniform-set pattern name (R95, R96), its reserved fields not yet checked. -/
def uniformShort (h : Head) (w1 : Word) : Option Instr :=
  match h.prim.toNat with
  | 0x00 => some (.gadd h.g h.d h.a h.b)
  | 0x01 => some (.gaddImm h.g h.d h.a h.b)
  | 0x02 => some (.gsub h.g h.d h.a h.b)
  | 0x03 => some (.gmul h.g h.d h.a h.b)
  | 0x04 => some (.gand h.g h.d h.a h.b)
  | 0x05 => some (.gandImm h.g h.d h.a h.b)
  | 0x06 => some (.gor h.g h.d h.a h.b)
  | 0x07 => some (.gorImm h.g h.d h.a h.b)
  | 0x08 => some (.gxor h.g h.d h.a h.b)
  | 0x09 => some (.gshlImm h.g h.d h.a h.b)
  | 0x0A => some (.gshrImm h.g h.d h.a h.b)
  | 0x0B => some (.gsarImm h.g h.d h.a h.b)
  | 0x0C => some (.gmovi h.g h.d h.b)
  | 0x0D => some (.gmov h.g h.d h.a)
  | 0x10 => some (.bra h.g (h.low21.extractLsb' 18 3) (h.low21.extractLsb' 0 18))
  | 0x11 => some (.jmp h.g h.low21)
  | 0x13 => some (.brx h.g h.a)
  | 0x15 => some (.ret h.g h.a)
  | 0x16 => some (.rvpop h.g)
  | 0x17 => some (.rvpush h.g h.a h.b)
  | 0x18 => some (.yield h.g)
  | 0x19 => some (.sleep h.g h.b)
  | 0x1A => some (.bar h.g)
  | 0x1C => some (.role h.g (lo3 h.d) (lo4 h.b))
  | 0x1D => some (.exit h.g)
  | 0x1F =>
    if h.b == 1#7 then some (.prefc h.g h.d h.a (if h.ext then some w1 else none)) else
    some (.nop h.g h.d h.a h.b (if h.ext then some w1 else none))
  | 0x20 => some (.tcfg h.g (lo6 h.d) h.b)
  | 0x21 => some (.tzero h.g (lo6 h.d))
  | 0x2B => some (.ctld h.g (lo3 h.d) h.a)
  | 0x3F => some (.glaunch h.g (lo3 h.d) h.a)
  | _ => none

/-- The form the fields of a two-word uniform-set pattern name (R95, R96), its reserved fields not yet checked. -/
def uniformLong (h : Head) (w1 : Word) : Option Instr :=
  let x := E2.ofWord w1
  let y := E3.ofWord w1
  let z4 := E4.ofWord w1
  match h.prim.toNat with
  | 0x01 => some (.gaddImmLong h.g h.d h.a w1)
  | 0x05 => some (.gandImmLong h.g h.d h.a w1)
  | 0x07 => some (.gorImmLong h.g h.d h.a w1)
  | 0x09 => some (.gshlImmLong h.g h.d h.a w1)
  | 0x0A => some (.gshrImmLong h.g h.d h.a w1)
  | 0x0B => some (.gsarImmLong h.g h.d h.a w1)
  | 0x0C => some (.gmoviLong h.g h.d w1)
  | 0x0E =>
    match x.sub.toNat with
    | 0x00 => some (.gaddX h.g h.d h.a h.b)
    | 0x10 => some (.gaddD h.g h.d h.a h.b)
    | 0x01 => some (.gsubX h.g h.d h.a h.b)
    | 0x11 => some (.gsubD h.g h.d h.a h.b)
    | 0x02 => some (.gmulX h.g h.d h.a h.b)
    | 0x12 => some (.gmulD h.g h.d h.a h.b)
    | 0x03 => some (.gshl h.g h.d h.a h.b)
    | 0x13 => some (.gshlD h.g h.d h.a h.b)
    | 0x04 => some (.gshr h.g h.d h.a h.b)
    | 0x14 => some (.gshrD h.g h.d h.a h.b)
    | 0x05 => some (.gsar h.g h.d h.a h.b)
    | 0x15 => some (.gsarD h.g h.d h.a h.b)
    | 0x06 => some (.gandX h.g h.d h.a h.b)
    | 0x16 => some (.gandD h.g h.d h.a h.b)
    | 0x07 => some (.gorX h.g h.d h.a h.b)
    | 0x17 => some (.gorD h.g h.d h.a h.b)
    | 0x08 => some (.gxorX h.g h.d h.a h.b)
    | 0x18 => some (.gxorD h.g h.d h.a h.b)
    | 0x09 => some (.gmovX h.g h.d h.a)
    | 0x19 => some (.gmovD h.g h.d h.a)
    | 0x0A => some (.glea h.g h.d h.a h.b (lo2 x.aux))
    | 0x1A => some (.gleaD h.g h.d h.a h.b (lo2 x.aux))
    | 0x0B => some (.gsel h.g h.d h.a h.b (lo3 x.aux))
    | 0x1B => some (.gselD h.g h.d h.a h.b (lo3 x.aux))
    | _ => none
  | 0x0F =>
    if x.sub.extractLsb' 4 4 == 0#4 then some (.gcmp h.g (lo3 h.d) (mid3 h.d) h.a h.b (CmpOp.ofCode (x.sub.extractLsb' 0 4)) (CType.ofCode x.ct)) else
    if x.sub.extractLsb' 4 4 == 1#4 then some (.gcmpImm h.g (lo3 h.d) (mid3 h.d) h.a h.b (CmpOp.ofCode (x.sub.extractLsb' 0 4)) (CType.ofCode x.ct)) else
    none
  | 0x11 => some (.jmpAbs h.g (w1.extractLsb' 0 30))
  | 0x12 => some (.braV h.g (h.low21.extractLsb' 18 3) (h.low21.extractLsb' 0 18) z4.join (Hint.ofCode (z4.hints.extractLsb' 0 2)))
  | 0x14 => some (.call h.g h.d w1)
  | 0x19 => some (.sleepLong h.g w1)
  | 0x1B => some (.spawn h.g (lo3 h.d) h.a w1)
  | 0x1E =>
    if x.sub == 0x01#8 && x.aux == 3#7 then some (.mtcRvsp h.g h.a) else
    match x.sub.toNat with
    | 0x00 => some (.mfc h.g h.d x.aux)
    | 0x01 => some (.mtc h.g x.aux h.a)
    | 0x02 => some (.xmset h.g (lo3 h.a))
    | 0x03 => some (.trap h.g h.b)
    | 0x04 => some (.sys h.g h.b)
    | 0x05 => some (.brk h.g h.b)
    | _ => none
  | 0x1F =>
    if h.b == 1#7 then some (.prefc h.g h.d h.a (if h.ext then some w1 else none)) else
    some (.nop h.g h.d h.a h.b (if h.ext then some w1 else none))
  | 0x20 => some (.tcfgImm h.g (lo6 h.d) w1)
  | 0x22 => some (.tld h.g (lo6 h.d) (lo4 h.a) h.b y.obs (Order.ofCode y.order) y.space y.off)
  | 0x23 => some (.tsv h.g (lo6 h.d) (lo4 h.a) h.b y.obs (Order.ofCode y.order) y.space y.off)
  | 0x24 =>
    match x.sub.toNat with
    | 0x00 => some (.tcvt h.g (lo6 h.d) (lo6 h.a) (Fmt.ofCode x.fmt) (Rnd.ofCode x.rnd))
    | _ => none
  | 0x25 =>
    match x.sub.toNat with
    | 0x00 => some (.tmvV h.g h.d (lo6 h.a) h.b)
    | 0x01 => some (.tmvT h.g (lo6 h.d) h.a h.b)
    | _ => none
  | 0x26 => some (.mma h.g (lo6 h.d) (lo6 h.a) (lo6 h.b) x.c (Rnd.ofCode x.rnd) (x.sub.getLsbD 0))
  | 0x27 => some (.mmat h.g (lo6 h.d) (lo6 h.a) (lo6 h.b) x.c (Rnd.ofCode x.rnd) (x.sub.getLsbD 0))
  | 0x28 => some (.mmag h.g (lo6 h.d) (lo6 h.a) (lo6 h.b) x.c x.aux (Rnd.ofCode x.rnd) (x.sub.getLsbD 0))
  | 0x29 => some (.mmx h.g (lo6 h.d) (lo6 h.a) (lo6 h.b) x.c (Rnd.ofCode x.rnd) (x.sub.getLsbD 0))
  | 0x2A =>
    match x.sub.toNat with
    | 0x00 => some (.quant h.g (lo6 h.d) (lo6 h.a) x.c (Rnd.ofCode x.rnd))
    | _ => none
  | 0x30 => some (.acp h.g h.d h.a h.b y.obs (Order.ofCode y.order) y.space (y.size.getLsbD 2))
  | 0x31 => some (.acp2 h.g h.d h.a h.b y.obs (Order.ofCode y.order) y.space (y.size.getLsbD 2))
  | 0x32 => some (.acpg h.g h.d h.a h.b y.obs (Order.ofCode y.order) y.space (y.size.getLsbD 2))
  | 0x33 => some (.afill h.g h.d h.a h.b y.obs (Order.ofCode y.order) y.space)
  | 0x34 => some (.wload h.g h.d h.a h.b y.obs (Order.ofCode y.order) y.size)
  | 0x35 =>
    match x.sub.toNat with
    | 0x00 => some (.clvInit h.g h.a h.b)
    | 0x01 => some (.clvArm h.g h.a h.b)
    | 0x02 => some (.clvWait h.g h.a h.b)
    | _ => none
  | 0x36 =>
    match x.sub.toNat with
    | 0x00 => some (.hwait h.g h.d h.a)
    | 0x01 => some (.htst h.g (lo3 h.d) h.a)
    | 0x02 => some (.hcan h.g h.a)
    | 0x03 => some (.hmov h.g h.d h.a)
    | _ => none
  | 0x37 =>
    match x.sub.toNat with
    | 0x00 => some (.apGo h.g h.a)
    | 0x01 => some (.apStop h.g)
    | 0x02 => some (.qtst h.g (lo3 h.d) (lo4 h.a))
    | _ => none
  | 0x38 => some (.gld h.g h.d (MemAddr.ofFields h.a h.b) y.obs (Order.ofCode y.order) y.space (Size.ofCode y.size) y.off)
  | 0x39 => some (.gst h.g h.d (MemAddr.ofFields h.a h.b) y.obs (Order.ofCode y.order) y.space (Size.ofCode y.size) y.off)
  | 0x3A => some (.gatom h.g h.d (MemAddr.ofFields h.a h.b) y.obs (Order.ofCode y.order) y.space (y.size == 5#3) (AtomOp.ofCode (y.off.extractLsb' 16 4)) (y.off.extractLsb' 0 16))
  | 0x3B => some (.fence h.g y.obs)
  | 0x3C =>
    match x.sub.toNat with
    | 0x00 => some (.copen h.g (lo3 h.d) h.a h.b x.c)
    | 0x01 => some (.cclose h.g (lo3 h.a))
    | 0x02 => some (.ccount h.g h.d h.a h.b x.c)
    | _ => none
  | 0x3D =>
    match x.sub.toNat with
    | 0x00 => some (.wlclr h.g x.c)
    | 0x01 => some (.wlcnt h.g h.d x.c)
    | _ => none
  | 0x3E =>
    match x.sub.toNat with
    | 0x00 => some (.qtok h.g h.d h.a)
    | 0x01 => some (.tsecEnter h.g h.a h.b)
    | 0x02 => some (.tsecExit h.g h.a h.b)
    | _ => none
  | _ => none

/-- Why a word pattern is no instruction (R98). -/
inductive DecodeError where
  /-- no primary or sub-opcode of the maps, or the wrong L for the primary's shape (R98 items 1, 2, 4, 5) -/
  | unassigned
  /-- a field holds a value its place does not permit (R98 item 6) -/
  | fieldValue
  /-- a field that must be zero is not (R98 item 3) -/
  | reservedField
  /-- fewer bytes than the pattern's words need -/
  | truncated
  deriving DecidableEq, Repr

/-- The form a pattern names, before its fields are checked (R89, R92, R93, R95). -/
def candidate (w0 w1 : Word) : Option Instr :=
  let h := Head.ofWord w0
  match h.uni, h.ext with
  | false, false => laneShort h
  | false, true => laneLong h w1
  | true, false => uniformShort h w1
  | true, true => uniformLong h w1

/-- The words of the pattern that opens with w0 (R89): one, or two when L is set. -/
def patternWords (w0 w1 : Word) : List Word := if w0.getLsbD 30 then [w0, w1] else [w0]

/-- Decoding (R98, R99): total, refusing by name. -/
def decode (w0 w1 : Word) : Except DecodeError Instr :=
  match candidate w0 w1 with
  | none => .error .unassigned
  | some i =>
    if !i.wellFormed then .error .fieldValue
    else if encode i == patternWords w0 w1 then .ok i
    else .error .reservedField

/-- The reading every word has (R100): an instruction, a hint, or an ILL pattern of the length of R89. -/
def decodeInstr (w0 w1 : Word) : Instr :=
  match decode w0 w1 with
  | .ok i => i
  | .error _ => .illegalPattern w0 (if w0.getLsbD 30 then w1 else 0)

/-- An instruction's length in words (R89). An ILL pattern has the length its first word gives it. -/
def Instr.len (i : Instr) : Nat :=
  match i with
  | .illegalPattern w0 _ => if w0.getLsbD 30 then 2 else 1
  | i => (encode i).length

/-- The words of an encoded instruction or ILL pattern as a trap records them (R218): second word in [63:32], first in
[31:0], and second word 0 when L = 0. -/
def Instr.trapWords (i : Instr) : DWord :=
  match i with
  | .illegalPattern w0 w1 => pair w0 w1
  | i => pair ((encode i).getD 0 0) ((encode i).getD 1 0)

/-- The instruction is of the lane set: bit 31 of its first word is 0 (R89). -/
def Instr.isLaneSet (i : Instr) : Bool := !(i.trapWords.getLsbD 31)

/-- The row is an event or request of R95's other agents: it has no words. -/
def Instr.isEvent (i : Instr) : Bool :=
  match i with
  | .illegalPattern _ _ => false
  | i => (encode i).isEmpty

/-- A word from its four bytes, little-endian (R3). -/
def wordOfBytes (b0 b1 b2 b3 : Byte) : Word := b3 ++ b2 ++ b1 ++ b0

/-- Decoding from bytes as they lie in code memory (R3, R89). -/
def decodeBytes (bs : List Byte) : Except DecodeError Instr :=
  match bs with
  | b0 :: b1 :: b2 :: b3 :: rest =>
    let w0 := wordOfBytes b0 b1 b2 b3
    if w0.getLsbD 30 then
      match rest with
      | c0 :: c1 :: c2 :: c3 :: _ => decode w0 (wordOfBytes c0 c1 c2 c3)
      | _ => .error .truncated
    else decode w0 0
  | _ => .error .truncated

/-- The bytes of an instruction's bits numbered as spec/opcode_table.json numbers them: bit 0 is the least significant
bit of the first word and the second word's bits count on from 32. Words lie little-endian, the first lowest. -/
def tableBytes (w : Nat) : List Byte := (List.range 8).map fun k => BitVec.ofNat 8 (w / 2 ^ (8 * k))

/-- The instruction the decoder reads from an opcode-table word of nbits bits; the bits above nbits are zero. -/
def decodeTableWord (nbits w : Nat) : Option Instr :=
  match decodeBytes (tableBytes (w % 2 ^ nbits)) with
  | .ok i => some i
  | .error _ => none

end Sys2Proof
end

