-- ==== Sys2Proof/Event.lean ====
section
/-!
DEFINITION. The events and requests of spec/opcode_table.json as data of their own: what an item of the agenda (log 1, DESIGN CHOICE) says is
to happen. Each has the name and the arguments of its constructor of Instr, and step runs it by the same meaning as exec does
(the compiler cannot build values of Instr past its 245th constructor, so the agenda does not hold them).
-/

namespace Sys2Proof

/-- An event or request of the opcode table. -/
inductive Event where
  /-- FETCH_FAULT (R175) -/
  | fetchFault (grp : Nat) (fatal second : Bool) (addr : DWord)
  /-- PATH_JOIN (R37) -/
  | pathJoin (grp : Nat) (sl : Bool)
  /-- PATH_SWITCH (R35) -/
  | pathSwitch (grp : Nat)
  /-- SLOT_ISSUE_CYCLE (R308) -/
  | slotIssueCycle (core slot : Nat)
  /-- GROUP_AGED (R307) -/
  | groupAged (grp : Nat)
  /-- TRAP_ENTRY (R219) -/
  | trapEntry (grp : Nat)
  /-- FAULT_RECORD (R223) -/
  | faultRecord (n : Nat)
  /-- PARKED_REPLAY (R173) -/
  | parkedReplay (grp : Nat)
  /-- PAGE_FAULT_RESOLVE (R170) -/
  | pageFaultResolve (part : Nat) (ia : BitVec 52) (entries : List (Nat × BitVec 128))
  /-- PAGE_MIGRATION_START (R172) -/
  | pageMigrationStart (part : Nat) (ia : BitVec 52)
  /-- PAGE_MIGRATION_END (R172) -/
  | pageMigrationEnd (part : Nat) (ia : BitVec 52) (pfn : BitVec 29) (tier : Bool) (home : BitVec 6)
  /-- HOT_UPDATE (R171) -/
  | hotUpdate (n : Nat)
  /-- LINE_MIGRATE (R164) -/
  | lineMigrate (line slice : Nat)
  /-- LINE_EVICT (R164) -/
  | lineEvict (line : Nat)
  /-- LEASE_EXPIRY (R203) -/
  | leaseExpiry (n : Nat)
  /-- ECC_CORRECTABLE (R165) -/
  | eccCorrectable (die : Nat)
  /-- ECC_UNCORRECTABLE (R165) -/
  | eccUncorrectable (place : EccPlace) (line : Nat)
  /-- ENGINE_CHUNK_COMPLETE (R189) -/
  | engineChunkComplete (core slot : Nat)
  /-- CLAVE_CREDIT (R195) -/
  | claveCredit (n : Nat)
  /-- ENGINE_COMMAND_COMPLETE (R190) -/
  | engineCommandComplete (eng : EngineRef)
  /-- CINS_APPLY (R264) -/
  | cinsApply (core slot : Nat)
  /-- WLOAD_RECORD (R251) -/
  | wloadRecord (cluster slot : Nat)
  /-- STREAM_LOAD_ELEMENT (R197) -/
  | streamLoadElement (grp port : Nat)
  /-- STREAM_STORE_ELEMENT (R197) -/
  | streamStoreElement (grp port : Nat)
  /-- QUEUE_SPILL_REFILL (R273) -/
  | queueSpillRefill (q : QueueRef)
  /-- COPROC_RECORD (R286) -/
  | coprocRecord (cluster : Nat) (unit : CUnit)
  /-- FRAGMENT_TURN (R286) -/
  | fragmentTurn (cluster n : Nat)
  /-- CONSUMER_WAIT_EXPIRY (R277) -/
  | consumerWaitExpiry (part consumer : Nat)
  /-- SECTION_TIMEOUT (R296) -/
  | sectionTimeout (grp : Nat)
  /-- BARRIER_PHASE_COMPLETE (R146) -/
  | barrierPhaseComplete (cohort : Nat)
  /-- SLEEP_DEADLINE (R145) -/
  | sleepDeadline (grp : Nat)
  /-- SYS_REPLY (R155) -/
  | sysReply (grp : Nat)
  /-- LAUNCH_DISPATCH (R302) -/
  | launchDispatch (part : Nat)
  /-- LAUNCH_REFUSED (R301) -/
  | launchRefused (part launch : Nat)
  /-- PRECONDITION_READ (R300) -/
  | preconditionRead (part launch : Nat)
  /-- COHORT_RESERVED (R302) -/
  | cohortReserved (part launch : Nat)
  /-- PREEMPT (R225) -/
  | preempt (part : Nat)
  /-- RESTORE (R227) -/
  | restore (part : Nat)
  /-- ISLAND_FREQUENCY_CHANGE (R24) -/
  | islandFrequencyChange (island setting : Nat)
  /-- DEBUG_HALT (R228) -/
  | debugHalt (grp : Nat)
  /-- DEBUG_RESUME (R228) -/
  | debugResume (grp : Nat)
  /-- DEBUG_STEP (R228) -/
  | debugStep (grp : Nat)
  /-- DEBUG_READ (R228) -/
  | debugRead (grp : Nat) (item : DebugItem)
  /-- DEBUG_WRITE (R229) -/
  | debugWrite (grp : Nat) (item : DebugItem) (value : Nat)
  /-- DEBUG_DRAIN (R228) -/
  | debugDrain (grp timeout : Nat)
  /-- DEBUG_DRAIN_TIMEOUT (R228) -/
  | debugDrainTimeout (grp : Nat)
  /-- DEBUG_WATCH (R228) -/
  | debugWatch (core idx : Nat) (watch : Option Watch)
  /-- DEBUG_TRAPMODE (R228) -/
  | debugTrapmode (onWatch halt : Bool)
  /-- GONG (R230) -/
  | gong
  /-- DEVICE_RESET (R230) -/
  | deviceReset
  /-- POWER_UP_BOOT (R320) -/
  | powerUpBoot
  /-- PING (R313) -/
  | ping (r : Nat)
  /-- LAUNCH (R313) -/
  | launch (r : Nat)
  /-- STATUS (R313) -/
  | status (r : Nat)
  /-- QUOTE (R321) -/
  | quote (r : Nat)
  /-- HOT (R313) -/
  | hot (r : Nat)
  /-- RELOAD (R166) -/
  | reload (r : Nat)
  /-- MONITOR (R324) -/
  | monitor (r : Nat)
  /-- MIGRATE (R313) -/
  | migrate (r : Nat)
  /-- QUOTA (R313) -/
  | quota (r : Nat)
  /-- PARTITION_CREATE (R314) -/
  | partitionCreate (r : Nat)
  /-- PARTITION_RESIZE (R314) -/
  | partitionResize (r : Nat)
  /-- PARTITION_DESTROY (R314) -/
  | partitionDestroy (r : Nat)
  /-- PARTITION_HALT (R314) -/
  | partitionHalt (r : Nat)
  /-- PARTITION_RESUME (R314) -/
  | partitionResume (r : Nat)
  /-- PARTITION_QUERY (R314) -/
  | partitionQuery (r : Nat)
  /-- CONSUMERS (R277) -/
  | consumers (r : Nat)
  /-- DEBUG (R228) -/
  | debug (r : Nat)
  /-- FWUPD (R313) -/
  | fwupd (r : Nat)
  /-- PEERS (R315) -/
  | peers (r : Nat)
  /-- EXPORT (R315) -/
  | exportList (r : Nat)
  /-- HOST_LINK_TRAIN (R316) -/
  | hostLinkTrain (up : Bool)
  /-- HOST_ACCESS (R214) -/
  | hostAccess (bar : HostBar) (off : Nat) (kind : ExtKind)
  /-- PEER_ACCESS (R319) -/
  | peerAccess (part : Nat) (ia : BitVec 52) (kind : ExtKind)
  /-- PART_FENCE (R325) -/
  | partFence (kind : PartKind) (n : Nat)
  /-- PART_FAILURE (R326) -/
  | partFailure (kind : PartKind) (n : Nat)
  /-- POWER_LOSS (R25) -/
  | powerLoss
  /-- PEER_TRANSPORT_FAILURE (R319) -/
  | peerTransportFailure (part peer : Nat)
  /-- MONITOR_WINDOW_END (R324) -/
  | monitorWindowEnd (point : Nat)
  deriving DecidableEq, Repr

end Sys2Proof
end

