-- ==== Sys2Proof/Machine/Sparse.lean ====
section
/-!
DEFINITION. Sparse arrays in one canonical form: a list of (index, value) pairs, indexes strictly rising, no value equal to
what an unlisted index reads as. Memory, tiles, register arrays, engine slots and every other large array of State have
this form, so that equal contents are equal data.
-/

namespace Sys2Proof.Machine

/-- A sparse array of α. -/
abbrev SMap (α : Type) := List (Nat × α)

/-- The value at an index; an unlisted index reads as d. -/
def SMap.get {α : Type} (d : α) : SMap α → Nat → α
  | [], _ => d
  | (k, v) :: r, a => if a = k then v else SMap.get d r a

/-- Write one index, keeping the canonical form: writing d removes the entry. -/
def SMap.set {α : Type} [DecidableEq α] (d : α) : SMap α → Nat → α → SMap α
  | [], a, x => if x = d then [] else [(a, x)]
  | (k, v) :: r, a, x =>
    if a < k then (if x = d then (k, v) :: r else (a, x) :: (k, v) :: r)
    else if a = k then (if x = d then r else (a, x) :: r)
    else (k, v) :: SMap.set d r a x

/-- Indexes strictly rise from a lower bound. -/
def SMap.rising {α : Type} : Nat → SMap α → Bool
  | _, [] => true
  | b, (k, _) :: r => decide (b ≤ k) && SMap.rising (k + 1) r

/-- The canonical form. -/
def SMap.wf {α : Type} [DecidableEq α] (d : α) (m : SMap α) : Bool :=
  SMap.rising 0 m && m.all fun e => decide (e.2 ≠ d)

/-- Keep the entries whose index satisfies q: a bulk clear to the default. -/
def SMap.keep {α : Type} (q : Nat → Bool) (m : SMap α) : SMap α := m.filter fun e => q e.1

end Sys2Proof.Machine
end

