-- ==== Sys2Proof/Machine/State.lean ====
section
/-!
DEFINITION. The state of the device as plain data: what a group holds (R26, R32, R226), what the cores, clusters, engines,
units and queues hold, memory, partitions, launches, requests, boot and debug state; the reasons a step can stop; and the
state right after reset. INVENTORY.md lists each item with its rule and reset value.
-/

namespace Sys2Proof.Machine

/-- Why a step stops. -/
inductive Fault where
  /-- Raised by step when the device is frozen by Gong and no reset is due (R230): no clock runs, so nothing more happens.
  Safe: the real device stands still in the same way. -/
  | frozen
  /-- Raised by step when the package has no power and no power-up is due (R25). Safe: nothing runs. -/
  | unpowered
  deriving DecidableEq, Repr

/-- Why an instruction has no meaning in the model. -/
inductive Refusal where
  /-- Raised by exec for an instruction not yet modelled. Safe: no step is taken. -/
  | notModelled (mnemonic : String)
  deriving DecidableEq, Repr

/-- Where an access lands after translation (R167). -/
inductive Dest where
  /-- paged memory, by intermediate address -/
  | paged (ia : Nat)
  /-- a byte of the Stage: line × 128 + byte (R14) -/
  | stage (b : Nat)
  /-- a peer device's address (R167 type 4) -/
  | peer (n ia : Nat)
  /-- a host bus address (R167 type 5) -/
  | host (a : Nat)
  /-- an aperture read (R167 types 1, 2): transposing or dequantising, iabase, offset in the view, descriptor -/
  | aperture (dequant : Bool) (base off desc : Nat)
  deriving DecidableEq, Repr

/-- A path slot (R34): empty, or live with a PC, a path mask and a join PC. -/
structure PathSlot where
  live : Bool
  pc : PC
  mask : Mask
  join : PC
  deriving DecidableEq, Repr

/-- What a trap records and how it resumes (R217, R218, R219), kept while its stack writes wait for a page. -/
structure TrapInfo where
  cause : Nat
  info : Nat
  addr : DWord
  lanes : Mask
  len : Nat
  replay : Bool
  deriving DecidableEq, Repr

/-- Why a group's instruction waits and is executed again at the group's next issue (R306). -/
inductive Hold where
  | pending | presence | clave | portPop | portPush | engineFull | turn | token | calls | returns
  | meeting | order | service | tile
  /-- an `hwait` whose handle's command runs -/
  | hwait (handle : DWord)
  /-- the wait of an `hwait` has ended: the instruction is ready, and this is the status of its command (R193) -/
  | status (st : DWord)
  /-- the wait has ended: the instruction is ready and is executed again when the group issues -/
  | ready
  deriving DecidableEq, Repr

/-- A group's wait (R306). -/
inductive Wait where
  /-- not waiting -/
  | none
  /-- the instruction is executed again at the next issue opportunity -/
  | again (why : Hold)
  /-- asleep until a device time (R145) -/
  | sleep (deadline : Nat)
  /-- arrived at the cohort barrier (R146) -/
  | bar
  /-- waiting for the reply to a service request (R155) -/
  | sys (request : Nat)
  /-- parked at an instruction (R173) or at a fetch (R175) on the pages of some addresses -/
  | parked (pages : List Nat)
  deriving DecidableEq, Repr

/-- A range-table entry as loaded (R166). -/
structure RangeEnt where
  valid : Bool
  typ : Nat
  r : Bool
  w : Bool
  x : Bool
  len : Nat
  vbase : Nat
  iabase : Nat
  aux : Nat
  deriving DecidableEq, Repr

/-- An iterator (R267). -/
structure Iter where
  opened : Bool
  desc : DWord
  /-- keys are pairs of registers: k was above 32 at the `copen` -/
  wide : Bool
  hi : Nat
  cursor : Nat
  buf : List (Nat × Nat)
  /-- the image of the block that was read last (R226) -/
  image : Nat
  pos : Nat
  /-- the width of its payloads -/
  w : Nat
  /-- the image lies in a ring of the region's memory, and is read back at restoration (R226) -/
  spilled : Bool
  deriving DecidableEq, Repr

/-- A queue port and the stream bound to it (R196 to R198). -/
structure Port where
  bound : Bool
  kind : Nat
  spill : Bool
  stage : Bool
  scale : Nat
  count : Nat
  stride : Int
  index : DWord
  base : DWord
  /-- elements read into the port (loads) or written (stores) -/
  pos : Nat
  /-- elements popped (loads) or pushed (stores) -/
  used : Nat
  /-- the elements held, oldest first -/
  elems : List Word
  /-- elements in the port's spill ring, oldest first (R273) -/
  ring : List Word
  /-- the fault the stream ended on: cause and address -/
  fault : Option (Nat × DWord)
  /-- the stream waits for a page -/
  paused : Bool
  deriving DecidableEq, Repr

/-- A call a lane has made whose return may come to it and has not been taken (R280, R282): with route 0, so that it counts among the 16, or
routed to a consumer, which may turn out not to take it (R277). -/
structure Owed where
  unit : CUnit
  lane : Nat
  call : Nat
  /-- the consumer it is routed to; none with route 0 -/
  consumer : Option Nat
  deriving DecidableEq, Repr

/-- A return record held by the core for a lane (R280, R282); it is delivered once now reaches ready (R293). -/
structure Return where
  unit : CUnit
  lane : Nat
  call : Nat
  ready : Nat
  words : List Word
  deriving DecidableEq, Repr

/-- A tile section held or requested (R295, R296): its token and operand b, and from when the group waits for it. -/
structure Section where
  token : Word
  b : Word
  held : Bool
  since : Option Nat
  deriving DecidableEq, Repr

/-- What an access that has issued and is not yet performed does at its instant (R183): it stores bytes; it loads into the registers from d,
of some lanes, or of the group as a uniform load; it is an atomic of one lane, or of the group, with its operands as read at its issue. -/
inductive LateAct where
  | store (bytes : List Byte)
  | load (size : Size) (d : Reg) (lanes : List Nat)
  | uload (size : Size) (d : Reg)
  | atom (op : AtomOp) (dbl : Bool) (d : Reg) (v x : Nat) (lane : Option Nat)
  deriving DecidableEq, Repr

/-- A plain access that has issued and is not yet performed (R183, R327). -/
structure Late where
  dest : Dest
  act : LateAct
  deriving DecidableEq, Repr

/-- A group: what R26, R32, R34 to R42 and R226 give it. -/
structure Group where
  key : Nat
  live : Bool
  part : Nat
  cohort : Nat
  core : Nat
  slot : Nat
  octet : Nat
  width : Nat
  cid : Word
  gid : BitVec 4
  v : Vector LaneVec 96
  xregs : SMap Word
  xwords : Nat
  g : Vector Word 32
  p : Vector Mask 7
  c : BitVec 7
  s0 : PathSlot
  s1 : PathSlot
  /-- the current slot: false slot 0, true slot 1 (R34) -/
  current : Bool
  /-- the issuing slot of the instruction being executed -/
  issuing : Bool
  count : Nat
  quantum : Nat
  xm : Mask
  pathq : Word
  rvsb : DWord
  rvcap : BitVec 16
  rvdepth : BitVec 16
  reserve : SMap (BitVec 128)
  horizon : Vector Nat 6
  fsr : Word
  mxc : Word
  prio : BitVec 2
  prioCap : BitVec 2
  roleNone : Bool
  roleIdx : BitVec 4
  trapv : PC
  trapc : Word
  trapa : DWord
  trapm : Mask
  sect : Word
  stgFirst : Nat
  stgLines : Nat
  tileBase : Nat
  tileCount : Nat
  pend : BitVec 16
  iters : Vector Iter 8
  ports : Vector Port 16
  /-- the ports of the pushed elements not yet written, in push order (R183, R197) -/
  pushes : List Nat
  sections : List Section
  owed : List Owed
  returns : List Return
  wait : Wait
  unfinished : Option Mask
  /-- the code bytes, as fetched, of the instruction that waits or is parked (R100, R226); none when the next fetch reads memory -/
  held : List Byte
  /-- watchpoint matches of the instruction so far: lane, watchpoint, address (R218, R228) -/
  watched : List (Nat × Nat × DWord)
  pendingTrap : Option TrapInfo
  codebase : DWord
  ranges : List RangeEnt
  /-- the IAs of the region's RCB and its ancestors, nearest first (R27, R29) -/
  chain : List Nat
  roletab : Nat
  rolecnt : Nat
  faultdom : Nat
  /-- the spill quotas of the regions of `chain`, as read for the dispatch (R28, R273) -/
  quotas : List Nat
  lrr : Bool
  age : Nat
  lastIssue : Option Nat
  since : Nat
  agedAt : Option Nat
  halted : Bool
  stepping : Bool
  /-- plain accesses that have issued and are not yet performed, oldest first (R182, R183, R327) -/
  late : List Late
  /-- where a debug halt on BRK or WATCH resumes (R228) -/
  resume : Option PC
  /-- the group's last issue was a yield (R307) -/
  yielded : Bool
  drain : Option Nat
  deriving DecidableEq, Repr

/-- A cohort with live groups (R26, R44, R146). -/
structure Cohort where
  key : Nat
  launch : Nat
  part : Nat
  core : Nat
  cid : Nat
  /-- keys of the groups counted in the barrier phase, and of those that have arrived -/
  members : List Nat
  arrived : List Nat
  stgFirst : Nat
  stgLines : Nat
  deriving DecidableEq, Repr

/-- A launch in a partition's queue or with cohorts still running (R299 to R302). -/
structure Launch where
  key : Nat
  part : Nat
  /-- the copied launch entry, 1,024 bits (R31) -/
  entry : BitVec 1024
  /-- the IA the entry was submitted from -/
  addr : DWord
  precond : BitVec 256
  eligible : Bool
  nextCid : Nat
  skipped : Option Nat
  reserved : Bool
  /-- the class of its effective RCB when the dispatcher last read it (R302) -/
  cls : Nat
  /-- when its precondition's word was last read (R300) -/
  lastRead : Nat
  /-- the entry still occupies a place of the launch queue -/
  queued : Bool
  /-- consumer number and the batch's first slot and size, for a consumer launch (R277) -/
  consumer : Option (Nat × Nat × Nat)
  deriving DecidableEq, Repr

/-- A consumer and its ring (R277). -/
structure Consumer where
  n : Nat
  batch : Nat
  rsz : Nat
  ringcap : Nat
  ring : Nat
  tmpl : Nat
  tail : Nat
  /-- arrival times of unconsumed records with the T(c) of their writes, oldest first -/
  held : List (Nat × Nat)
  /-- batches launched and not completed: first slot, size, completed -/
  batches : List (Nat × Nat × Bool)
  deriving DecidableEq, Repr

/-- What a copy command moves (R187). -/
inductive CopyForm where | acp | acp2 | acpg | afill
  deriving DecidableEq, Repr

/-- The shared part of an engine command (R186 to R190, R248): its issuer, what it translates under, and its progress. -/
structure CmdBase where
  grp : Nat
  part : Nat
  ranges : List RangeEnt
  stgFirst : Nat
  stgLines : Nat
  obs : BitVec 6
  order : Order
  /-- the Clave's byte address in the Stage -/
  clave : Option Nat
  /-- reads wait until this device time (R190) -/
  notBefore : Nat
  /-- copies with a lower number serve no read (R293) -/
  since : Nat
  /-- the generation in its handle (R191), and its place in the order of issue -/
  gen : Word
  seq : Nat
  /-- bytes or records done -/
  done : Nat
  /-- places in the next chunk whose bytes are written already (R189, R201) -/
  early : List Nat
  chunk : Nat
  /-- T(o) over the command's writes -/
  times : Vector Nat 6
  cancel : Bool
  paused : Bool
  /-- the status that will become readable, once decided -/
  result : Option DWord
  deriving DecidableEq, Repr

/-- A copy-engine command (R187). -/
structure CopyCmd where
  base : CmdBase
  form : CopyForm
  regs : List Word
  ds : Bool
  fs : Bool
  deriving DecidableEq, Repr

/-- A weight-stream load (R248). -/
structure WloadCmd where
  base : CmdBase
  core : Nat
  tileBase : Nat
  tileCount : Nat
  regs : List Word
  prec : BitVec 3
  /-- the addresses of the records so far; the last is that of the next one -/
  recs : List Nat
  deriving DecidableEq, Repr

/-- A `cins` command (R264). -/
structure CinsCmd where
  base : CmdBase
  desc : DWord
  /-- keys and payloads of the acting lanes; a pair key of an odd register is none -/
  pairs : List (Word × Word × Option Word)
  oddKey : Bool
  applied : Bool
  deriving DecidableEq, Repr

/-- An engine slot (R191): generation, command in flight, last status. -/
structure EngSlot (α : Type) where
  gen : Word
  cmd : Option α
  status : DWord
  deriving DecidableEq, Repr

/-- A Clave credit that waits for its chunk's writes (R195). -/
structure Credit where
  clave : Nat
  bytes : Nat
  ready : Nat
  deriving DecidableEq, Repr

/-- An `mmx` that waits for its partners (R245): its core and group, its format block and the companding tables it names for A and B as
read at its issue (R64), and its tile operands. -/
structure Meet where
  core : Nat
  grp : Nat
  block : BitVec 256
  curveA : List Word
  curveB : List Word
  t : BitVec 6
  ta : BitVec 6
  tb : BitVec 6
  z : Bool
  deriving DecidableEq, Repr

/-- A chime stream (R283, R284). -/
structure Chime where
  counter : Word
  base : Word
  settled : List Word
  deriving DecidableEq, Repr

/-- The queue of a work list (R272, R273): its on-chip values, oldest first, whether they are 64-bit, and for each spilled
value, oldest first, the regions it is charged to. -/
structure ListQueue where
  chip : List DWord
  wide : Bool
  owners : List (List Nat)
  deriving DecidableEq, Repr

/-- A block of a collection (R259, R260): its range's base and level, its pool block and its elements in order. -/
structure CBlock where
  base : Nat
  lvl : Nat
  blk : Nat
  elems : List (Nat × Nat)
  deriving DecidableEq, Repr

/-- A collection as its engine sees it: the descriptor's 512 bits (R256), the blocks in table order, the bitmap's bits. -/
structure Coll where
  desc : Nat
  blocks : List CBlock
  bitmap : Nat
  deriving DecidableEq, Repr

/-- A work list's areas as its engine last left them (R270, R274): the descriptor's 512 bits and the ring's elements. -/
structure ListImage where
  desc : Nat
  ring : List DWord
  deriving DecidableEq, Repr

/-- A call record in a unit's queue (R278, R280). -/
structure Call where
  key : Nat
  grp : Nat
  lane : Nat
  part : Nat
  core : Nat
  unit : CUnit
  typ : Nat
  words : List Word
  ranges : List RangeEnt
  chain : List Nat
  faultdom : Nat
  notBefore : Nat
  /-- the number of the next copy at its `qcall` (R293) -/
  issued : Nat
  /-- its token lay below the base when it entered (R276, R284) -/
  stale : Bool
  deriving DecidableEq, Repr

/-- One fragment (R286). -/
structure Frag where
  x : Nat
  y : Nat
  z : Word
  r : Word
  g : Word
  b : Word
  alpha : Word
  deriving DecidableEq, Repr

/-- A record in progress in a unit: its pass descriptor, turns left, fragments that took their turn, that passed, T(o) of its
writes, the status that ends it, and the words of its return after the first. -/
structure Job where
  call : Call
  pass : Nat
  left : Nat
  taken : Nat
  passed : Nat
  times : Vector Nat 6
  status : Nat
  words : List Word
  deriving DecidableEq, Repr

/-- What a turn runs (R284). -/
inductive TurnBody where
  | frag (job : Nat) (f : Frag)
  | direct (job : Nat) (f : Frag) (blend : Bool)
  | sect (grp : Nat)
  deriving DecidableEq, Repr

/-- A turn of a stream on a pixel tile (R284). -/
structure Turn where
  stream : Nat
  tx : Nat
  ty : Nat
  token : Word
  body : TurnBody
  /-- the turn has begun, and its writes are visible to every observer at this time -/
  began : Option Nat
  /-- the number of its record; of a section, that of the next record at its `tsec.enter` (R284) -/
  key : Nat
  deriving DecidableEq, Repr

/-- A cluster's coprocessors: call queues, their spill rings, jobs, turns (R282, R284, R286). -/
structure Cluster where
  queues : Vector (List Call) 6
  rings : Vector (List Call) 6
  jobs : List Job
  turns : List Turn
  chimes : Vector Chime 16
  deriving DecidableEq, Repr

/-- What pre-emption saves of a partition's cores and clusters beside its groups (R225, R226, R227): the engine slots that hold commands,
companding tables, tiles, the clusters' queues, and the dies whose saved lines an error has poisoned since (R165). -/
structure Shadow where
  copySlots : SMap (EngSlot CopyCmd)
  wloadSlots : SMap (EngSlot WloadCmd)
  cinsSlots : SMap (EngSlot CinsCmd)
  lost : List Nat
  compand : SMap (Option Word)
  tileCfg : SMap Word
  tiles : List Host.Cell
  clusters : List (Nat × Cluster)
  deriving DecidableEq, Repr

/-- A partition (R21, R299, R314, R315, R319). -/
structure Partition where
  n : Nat
  clusters : BitVec 48
  stageMiB : BitVec 256
  rangeIA : Nat
  ranges : List (Nat × Nat)
  root : Nat
  halted : Bool
  consumers : List Consumer
  /-- peer number, supported atomics and fabric address -/
  peers : List (Nat × BitVec 16 × BitVec 128)
  /-- base, length, readable, writable -/
  exports : List (Nat × Nat × Bool × Bool)
  shadow : Shadow
  deriving DecidableEq, Repr

/-- Where a replica is held (R203); or a group, whose next instruction has performed its reads of the line when the copy was taken (R201). -/
inductive Holder where
  | slice | peer | host
  | own (grp : Nat)
  deriving DecidableEq, Repr

/-- A replica of a paged-memory line under a lease (R203), or a group's copy of a line of paged memory or of the Stage (R201). -/
structure Replica where
  line : Nat
  holder : Holder
  bytes : List Byte
  /-- when it was taken from the owning point, and its number in the order in which copies are taken -/
  taken : Nat
  stamp : Nat
  expiry : Nat
  /-- the writes to its line since: first byte, number of bytes, T(c) -/
  stores : List (Nat × Nat × Nat)
  /-- the bytes that a group may no longer read from it, since it has written them or read them later in coherence order (R183, R204):
  the group, the first byte, the number of bytes -/
  seen : List (Nat × Nat × Nat)
  deriving DecidableEq, Repr

/-- What a cached snapshot is of (R212, R250): a tile of an aperture, by the aperture's range, its descriptor and the tile's
place; or a record of a weight stream, by its IA and the precision it was decoded at. -/
inductive SnapKind where
  | tile (part : Nat) (dequant : Bool) (base desc bits i j : Nat)
  | record (cluster part ia : Nat) (prec : BitVec 3)
  deriving DecidableEq, Repr

/-- A cached snapshot (R212, R250): its source bytes' IAs, each with the number of the copy it was read from, what it holds by offset, a record's tile configuration, when it was taken,
from when it no longer serves a read, and the IAs of which a group has seen a later write (R204): the group, the first IA, their number. -/
structure Snap where
  kind : SnapKind
  ias : List (Nat × Nat)
  cells : List Host.Cell
  cfg : Word
  taken : Nat
  ends : Option Nat
  seen : List (Nat × Nat × Nat)
  deriving DecidableEq, Repr

/-- A fault record to be written (R223), and once its 64 bytes are written the time from which every observer sees them. -/
structure FaultRec where
  part : Nat
  faultdom : Nat
  bits : BitVec 512
  written : Option Nat
  deriving DecidableEq, Repr

/-- Where a request came from (R311). -/
inductive Source where
  | sys (grp : Nat)
  | mailbox (part slot : Nat)
  | net (endpoint : Nat)
  deriving DecidableEq, Repr

/-- A service request (R311). -/
structure Request where
  id : Nat
  source : Source
  code : Nat
  part : Nat
  tag : Nat
  reservedOk : Bool
  listed : Bool
  args : Vector Word 16
  /-- the reply, and the device time from which it may be delivered -/
  reply : Option (Vector Word 16 × Nat)
  deriving DecidableEq, Repr

/-- A message the device has sent out: replies by the network, MSI-X vectors, notices to Carillon (R223, R316, R317). -/
inductive OutMsg where
  | reply (endpoint tag : Nat) (words : Vector Word 16)
  | msix (vector : Nat)
  | notice (what : String)
  | pageFault (part : Nat) (ia : Nat)
  | debug (grp : Nat) (answer : String) (value : Nat)
  | peerWrite (part peer : Nat) (ia : Nat) (bytes : List Byte)
  | hostWrite (addr : Nat) (bytes : List Byte)
  | hostRead (bytes : List Byte)
  | peerRead (part : Nat) (bytes : List Byte)
  deriving DecidableEq, Repr

/-- A monitor window (R324). -/
structure Window where
  start : Nat
  stop : Nat
  samples : Nat
  lo : Nat
  hi : Nat
  bins : List Nat
  deriving DecidableEq, Repr

/-- A monitor point that has been requested: its open window and its last completed one (R324). -/
structure MonPoint where
  point : Nat
  cur : Option Window
  last : Option Window
  deriving DecidableEq, Repr

/-- What the device does next (log 1, DESIGN CHOICE): plain data that stands for the order in which its agents act. -/
inductive Sched where
  /-- an event of the opcode table -/
  | event (e : Event)
  /-- an issue opportunity of a group; `other` when its current path is not ready (R35), `replica` when its plain reads
  may be served from replicas (R204) -/
  | issue (grp : Nat) (other replica : Bool)
  /-- device time runs on -/
  | tick (ns : Nat)
  /-- a slice, a peer or the PCIe port takes a replica of a line under a lease (R203) -/
  | lease (part line : Nat) (holder : Holder) (ns : Nat)
  /-- a replica is dropped before its expiry (R203) -/
  | drop (n : Nat)
  /-- an access from outside that waits for a page is tried again (R172, R214) -/
  | pending (n : Nat)
  /-- an event whose plain reads may be served from replicas and snapshots (R200, R212) -/
  | served (e : Event)
  /-- a tile of an aperture that holds an offset of its view is cached, read at the owning points or from replicas (R212) -/
  | snapshot (part : Nat) (dequant : Bool) (base desc off : Nat) (replica : Bool)
  /-- a cached snapshot is evicted (R212, R250) -/
  | forget (n : Nat)
  /-- a group that waits tries its instruction again: it becomes ready, or goes on waiting (R306) -/
  | retry (grp : Nat)
  /-- a request arrives over the network (R311): its record's fields, the reserved ones together as one number -/
  | request (endpoint code part tag reserved : Nat) (args : Vector Word 16)
  /-- a request of a code the table does not list is answered UNKNOWN (R312) -/
  | unknown (r : Nat)
  /-- a word arrives from outside in answer to a read of a peer or host range (R167, R319); a peer's byte is numbered by its fabric address
  and its IA -/
  | external (host : Bool) (addr : Nat) (bytes : List Byte)
  /-- a peer connection stops or resumes delivering (R319) -/
  | link (part peer : Nat) (up : Bool)
  /-- a monitor point takes a sample (R323) -/
  | sample (point v : Nat)
  /-- the flash takes an image (R320) -/
  | flash (slot : Bool) (image : List Byte)
  /-- a line of paged memory is filled into the L2 or written back, which its page's counter will count (R171) -/
  | fill (part line : Nat)
  /-- the L2 drops a line, written back where it has changed (R164, R171) -/
  | evict (part line : Nat)
  /-- Carillon clears or scales down the counter of a page (R171) -/
  | cool (part ia v : Nat)
  /-- an issue opportunity at which a plain load, store or atomic only issues: it is performed later (R183, R327) -/
  | late (grp : Nat)
  /-- a group's late access is performed; a load is served from a replica when `replica` is set (R204) -/
  | perform (grp n : Nat) (replica : Bool)
  /-- an issue opportunity at which only some lanes of an access perform it; the others follow (R201) -/
  | part (grp : Nat) (lanes : Mask)
  /-- a copy command writes bytes of its next chunk before the rest of it (R189, R201): n bytes from a place in the chunk -/
  | scatter (core slot place n : Nat)
  /-- power returns to the package (R25) -/
  | power
  deriving DecidableEq, Repr

/-- The device. -/
structure State where
  /-- the group in focus: the one whose instruction is executed -/
  cur : Group
  others : List Group
  saved : List Group
  /-- groups that have ended with store-stream elements still to write (R149, R198) -/
  draining : List Group
  /-- plain reads of the instruction being executed may be served from replicas -/
  serve : Bool
  cohorts : List Cohort
  launches : List Launch
  parts : List Partition
  mem : List Host.Cell
  stage : List Host.Cell
  absent : List (Nat × EngineRef)
  poison : SMap (Option (BitVec 128))
  /-- stacks that have failed, each with the lines of it that had a copy elsewhere (R326) -/
  failed : List (Nat × List Nat)
  moved : SMap (Option Nat)
  replicas : List Replica
  /-- snapshots that aperture reads and the loaders' tile caches may be served from (R212, R250) -/
  snaps : List Snap
  /-- lines of paged memory that the L2 holds, each with whether it has changed since its fill (R164, R171) -/
  l2 : SMap (Option Bool)
  lineTimes : List (Nat × Vector Nat 6)
  hotPending : List (Nat × Nat)
  /-- accesses of the host and of peers that wait for a page or for an earlier one of their requester, oldest first (R172, R214) -/
  arrivals : List Event
  /-- the partition whose saved state a die's shadow store holds (R22, R227) -/
  shadowStore : SMap (Option Nat)
  hostBytes : SMap (Option Byte)
  peerBytes : SMap (Option Byte)
  /-- peer connections that do not deliver: partition, peer, and whether the transport has given up (R319) -/
  peerLink : List (Nat × Nat × Bool)
  tileCfg : SMap Word
  tiles : List Host.Cell
  compand : SMap (Option Word)
  copySlots : SMap (EngSlot CopyCmd)
  wloadSlots : SMap (EngSlot WloadCmd)
  cinsSlots : SMap (EngSlot CinsCmd)
  credits : List Credit
  watches : SMap (Option Watch)
  /-- the `mmx` instructions that wait for their partners, in the order they joined (R245) -/
  meets : List Meet
  clusters : Vector Cluster 48
  /-- the queue of each work list, by its descriptor's address (R272, R273) -/
  lists : SMap ListQueue
  /-- issue cycles charged to a region, and one more than the cycle of its last charge, by RCB address (R29, R303) -/
  cycles : SMap Nat
  charged : SMap Nat
  /-- quota units that Carillon has granted to a region beyond its RCB's quota (R273, R313) -/
  granted : SMap Nat
  faults : List FaultRec
  requests : List Request
  mailbox : List Host.Cell
  out : List OutMsg
  /-- what each home engine holds of a collection or work list that has elements or an open iterator (R274) -/
  heldColls : SMap (Option Coll)
  heldLists : SMap (Option ListImage)
  debugOn : Bool
  haltBrk : Bool
  haltWatch : Bool
  islands : Vector Nat 64
  monitors : List MonPoint
  fenced : List (PartKind × Nat)
  hostUp : Bool
  recovery : Bool
  booted : Bool
  powered : Bool
  frozen : Bool
  mregs : Vector (BitVec 512) 8
  flashA : List Byte
  flashB : List Byte
  fwVersion : Word
  now : Nat
  cycle : Nat
  nextKey : Nat
  freeCtr : Nat
  agenda : List Sched
  deriving DecidableEq, Repr

/-- Nothing saved. -/
def Shadow.empty : Shadow := ⟨[], [], [], [], [], [], [], []⟩
/-- An empty path slot. -/
def PathSlot.empty : PathSlot := ⟨false, 0, 0, 0⟩
/-- A work list that holds nothing on chip. -/
def ListQueue.empty : ListQueue := ⟨[], false, []⟩
/-- A closed iterator. -/
def Iter.closed : Iter := ⟨false, 0, false, 0, 0, [], 0, 0, 0, false⟩
/-- An unbound port. -/
def Port.unbound : Port := ⟨false, 0, false, false, 0, 0, 0, 0, 0, 0, 0, [], [], none, false⟩
/-- An engine slot that has taken no command (R191). -/
def EngSlot.idle {α : Type} : EngSlot α := ⟨0, none, 0⟩
/-- A chime stream at partition creation (R283). -/
def Chime.initial : Chime := ⟨0, 0, []⟩
/-- A cluster's coprocessors with nothing queued. -/
def Cluster.idle : Cluster :=
  ⟨Vector.replicate 6 [], Vector.replicate 6 [], [], [], Vector.replicate 16 Chime.initial⟩

/-- A context that holds no group: every register as R32 gives it at dispatch, with every argument zero (log 3, DESIGN CHOICE). -/
def Group.idle : Group :=
  { key := 0, live := false, part := 0, cohort := 0, core := 0, slot := 0, octet := 0, width := 8, cid := 0, gid := 0
    v := Vector.replicate 96 (Vector.replicate 64 0), xregs := [], xwords := 0, g := Vector.replicate 32 0
    p := Vector.replicate 7 0, c := 0, s0 := PathSlot.empty, s1 := PathSlot.empty, current := false, issuing := false
    count := 0, quantum := 8, xm := 0xFF, pathq := 8, rvsb := 0, rvcap := 1, rvdepth := 0, reserve := []
    horizon := Vector.replicate 6 0, fsr := 0, mxc := 0, prio := 0, prioCap := 0, roleNone := true, roleIdx := 0
    trapv := 0, trapc := 0, trapa := 0, trapm := 0, sect := 0, stgFirst := 0, stgLines := 0, tileBase := 0
    tileCount := 0, pend := 0, iters := Vector.replicate 8 Iter.closed, ports := Vector.replicate 16 Port.unbound, pushes := []
    sections := [], owed := [], returns := [], wait := .none, unfinished := none, held := [], late := [], watched := [], pendingTrap := none, codebase := 0
    ranges := [], chain := [], roletab := 0, rolecnt := 0, faultdom := 0, quotas := [], lrr := false, age := 0, lastIssue := none
    since := 0, agedAt := none, halted := false, stepping := false, resume := none, yielded := false, drain := none }

/-- The device right after reset (R230, R320): no group, no partition, nothing saved, every memory byte as an unlisted
byte reads (log 4, DESIGN CHOICE), device time 0 (log 3, DESIGN CHOICE), waiting for the boot ROM to run. -/
def State.reset : State :=
  { cur := Group.idle, others := [], saved := [], draining := [], serve := false, cohorts := [], launches := [], parts := []
    mem := [], stage := [], absent := [], poison := [], failed := [], moved := [], replicas := [], snaps := [], l2 := [], lineTimes := []
    hotPending := [], arrivals := [], shadowStore := [], hostBytes := [], peerBytes := [], peerLink := [], tileCfg := [], tiles := [], compand := [], copySlots := [], wloadSlots := []
    cinsSlots := [], credits := [], watches := [], meets := [], clusters := Vector.replicate 48 Cluster.idle, lists := []
    cycles := [], charged := [], granted := [], faults := [], requests := [], mailbox := []
    out := [], heldColls := [], heldLists := [], debugOn := false, haltBrk := false, haltWatch := false
    islands := Vector.replicate 64 0, monitors := [], fenced := [], hostUp := false, recovery := false, booted := false
    powered := true, frozen := false, mregs := Vector.replicate 8 0, flashA := [], flashB := [], fwVersion := 0
    now := 0, cycle := 0, nextKey := 1, freeCtr := 0, agenda := [] }

end Sys2Proof.Machine
end

