-- ==== Sys2Proof/Machine/Memory.lean ====
section
/-!
DEFINITION. Storage below the registers: bytes of memory and the Stage, range tables (R166, R167), the page walk (R168 to
R170), the Stage share and window (R161, R163), presence (R162), poison (R165), replicas and write completion times (R182,
R202 to R206), and one access at one instant (R201).
-/

namespace Sys2Proof.Machine

/-- n bytes of a byte array from address a; an unlisted byte reads 0 (log 4, DESIGN CHOICE). -/
def readBytes (m : List Host.Cell) (a n : Nat) : List Byte := (List.range n).map fun i => SMap.get 0 m (a + i)

/-- Store bytes from address a. -/
def writeBytes (m : List Host.Cell) (a : Nat) : List Byte → List Host.Cell
  | [] => m
  | b :: bs => writeBytes (SMap.set 0 m a b) (a + 1) bs

/-- The canonical form of a byte array. -/
def Memory.wf (m : List Host.Cell) : Bool := SMap.wf 0 m

/-- The little-endian number of some bytes (R3). -/
def leNat : List Byte → Nat
  | [] => 0
  | b :: bs => b.toNat + 256 * leNat bs

/-- The n little-endian bytes of a number (R3). -/
def leBytes : Nat → Nat → List Byte
  | 0, _ => []
  | n + 1, x => BitVec.ofNat 8 x :: leBytes n (x / 256)

/-- Bits hi down to lo of a number. -/
def bitsN (x hi lo : Nat) : Nat := x / 2 ^ lo % 2 ^ (hi + 1 - lo)

/-- A range-table entry from its 32 bytes (R166): a reserved type or a broken must-be-zero rule loads as invalid. -/
def RangeEnt.ofNat (x : Nat) : RangeEnt :=
  let typ := bitsN x 4 2
  let aux := bitsN x 243 192
  let auxOk := if typ = 1 ∨ typ = 2 then true else if typ = 4 then decide (aux / 2 ^ 16 = 0) else decide (aux = 0)
  let ok := decide (bitsN x 0 0 = 1) && decide (typ < 6) && auxOk && decide (bitsN x 143 128 = 0) &&
    decide (bitsN x 79 64 = 0)
  { valid := ok, typ := typ, r := bitsN x 5 5 = 1, w := bitsN x 6 6 = 1, x := bitsN x 7 7 = 1, len := bitsN x 63 32
    vbase := bitsN x 127 64, iabase := bitsN x 179 128, aux := aux }

/-- The partition of a number, if it exists (R21). -/
def State.part? (s : State) (n : Nat) : Option Partition := s.parts.find? fun p => p.n == n

/-- An intermediate address lies in one of a partition's memory ranges (R21, R159). -/
def Partition.hasIA (p : Partition) (ia : Nat) : Bool := p.ranges.any fun r => decide (r.1 ≤ ia) && decide (ia < r.1 + r.2)

/-- A Stage line belongs to a partition (R21, R163). -/
def Partition.hasLine (p : Partition) (line : Nat) : Bool := p.stageMiB.getLsbD (line / 8192)

/-- The first byte of the Stage window (R159). -/
def stageWindow : Nat := 0xF000000000000

/-- An intermediate address of a partition: paged memory, a Stage line, or PERM (R159, R163). -/
def State.classify (s : State) (part ia : Nat) : Except Nat Dest :=
  match s.part? part with
  | none => .error 4
  | some p =>
    if ia < stageWindow then (if p.hasIA ia then .ok (.paged ia) else .error 4)
    else if ia < stageWindow + 0x10000000 then
      (if p.hasLine ((ia - stageWindow) / 128) then .ok (.stage (ia - stageWindow)) else .error 4)
    else .error 4

/-- The first valid entry that holds a virtual address (R167). -/
def rangeOf (ranges : List RangeEnt) (va : Nat) : Option RangeEnt :=
  ranges.find? fun e => e.valid && decide (e.vbase ≤ va) && decide (va < e.vbase + e.len * 65536)

/-- The intermediate address that a virtual address names, whatever the type of its range (R167); itself where no range holds it. -/
def iaAt (ranges : List RangeEnt) (va : Nat) : Nat :=
  match rangeOf ranges va with
  | some e => e.iabase + (va - e.vbase)
  | none => va

/-- Translation of a virtual address (R167, R180, R319). The error is the trap cause: 4 PERM, 5 fatal PAGE. -/
def State.translate (s : State) (part : Nat) (ranges : List RangeEnt) (va : Nat) (rd wr ex : Bool)
    (atom : Option AtomOp) : Except Nat Dest :=
  match rangeOf ranges va with
  | none => .error 4
  | some e =>
    if (rd && !e.r) || (wr && !e.w) || (ex && !e.x) then .error 4
    else if (e.typ = 1 ∨ e.typ = 2) ∧ (wr || ex) then .error 4
    else
      let ia := e.iabase + (va - e.vbase)
      if 2 ^ 52 ≤ ia then .error 4
      else match e.typ with
        | 0 => s.classify part ia
        | 1 => .ok (.aperture false e.iabase (va - e.vbase) e.aux)
        | 2 => .ok (.aperture true e.iabase (va - e.vbase) e.aux)
        | 3 =>
          match s.classify part ia with
          | .ok (.stage b) => .ok (.stage b)
          | _ => .error 4
        | 4 =>
          match (s.part? part).bind fun p => p.peers.find? fun q => q.1 == e.aux with
          | none => .error 4
          | some q =>
            match atom with
            | some o => if q.2.1.getLsbD o.code.toNat then .ok (.peer e.aux ia) else .error 4
            | none => .ok (.peer e.aux ia)
        | _ =>
          match atom with
          | some .add => if s.hostUp then .ok (.host ia) else .error 5
          | some .xchg => if s.hostUp then .ok (.host ia) else .error 5
          | some .cas => if s.hostUp then .ok (.host ia) else .error 5
          | some _ => .error 4
          | none => if s.hostUp then .ok (.host ia) else .error 5

/-- A physical address exists: an HBM stack's 64 GB or the capacity tier's 1.5 TB (R17, R160, R5). -/
def physPresent (pa : Nat) : Bool :=
  (decide (pa < 0x8000000000) && decide (pa % 0x1000000000 < 64000000000)) ||
  (decide (0x100000000000 ≤ pa) && decide (pa < 0x100000000000 + 1500000000000))

/-- The tier of a physical address (R160): true for the capacity tier. -/
def physTier (pa : Nat) : Bool := decide (0x100000000000 ≤ pa)

/-- The key of a line's poison entry: Stage lines follow the memory lines. -/
def poisonKey (stage : Bool) (line : Nat) : Nat := if stage then 2 ^ 40 + line else line

/-- The only copy of a memory line lay in a stack that failed (R326). -/
def State.failedLine (s : State) (line : Nat) : Bool :=
  s.failed.any fun f =>
    decide (line * 128 / 0x1000000000 = f.1) && decide (line * 128 < 0x8000000000) && !f.2.contains line

/-- A line is poisoned (R165, R326). -/
def State.poisoned (s : State) (stage : Bool) (line : Nat) : Bool :=
  match SMap.get none s.poison (poisonKey stage line) with
  | some m => decide (m ≠ 0)
  | none => !stage && s.failedLine line

/-- A write to a byte of a line: a poisoned line is clean once every byte of it has been written (R165). -/
def State.healByte (s : State) (stage : Bool) (addr : Nat) : State :=
  let line := addr / 128
  if s.poisoned stage line then
    let m := (SMap.get none s.poison (poisonKey stage line)).getD (BitVec.allOnes 128)
    { s with poison := SMap.set none s.poison (poisonKey stage line) (some (m &&& ~~~(1#128 <<< (addr % 128)))) }
  else s

/-- The result of a walk (R170). -/
inductive Walk where
  | resident (pa : Nat) (wp : Bool) (home size leaf : Nat)
  | replay
  /-- the leaf's page is migrating (R172): replayable, but Carillon is told of no fault -/
  | moving
  | fatal
  deriving DecidableEq, Repr

/-- The index of a level (R168). -/
def walkIndex (level ia : Nat) : Nat :=
  match level with | 0 => ia / 2 ^ 39 | 1 => ia / 2 ^ 30 % 512 | 2 => ia / 2 ^ 21 % 512 | _ => ia / 2 ^ 16 % 32

/-- The page size of a leaf at a level (R168). -/
def leafSize (level : Nat) : Nat := match level with | 1 => 2 ^ 30 | 2 => 2 ^ 21 | _ => 2 ^ 16

/-- The walk from a table at a level, with the number of levels left (R168 to R170). An entry of kind 0 is replayable whatever its state
field holds, and a table entry is followed whatever its state field holds (log 36, DESIGN CHOICE). -/
def State.walkFrom (s : State) (ia : Nat) : Nat → Nat → Nat → Walk
  | 0, _, _ => .fatal
  | fuel + 1, level, table =>
    let ea := table + 16 * walkIndex level ia
    if !physPresent ea || s.poisoned false (ea / 128) then .fatal
    else
      let e := leNat (readBytes s.mem ea 16)
      let target := bitsN e 76 48 * 65536
      let bad := !physPresent target || (decide (bitsN e 5 5 = 1) != physTier target)
      match bitsN e 2 1 with
      | 0 => .replay
      | 1 => if level = 3 ∨ bad then .fatal else s.walkFrom ia fuel (level + 1) target
      | 2 =>
        let size := leafSize level
        if level = 0 ∨ bad ∨ target % size ≠ 0 ∨ 2 ≤ bitsN e 7 6 then .fatal
        else if !physPresent (target + ia % size) then .fatal
        else if bitsN e 7 6 = 1 then .moving
        else .resident (target + ia % size) (bitsN e 4 4 = 1) (bitsN e 101 96) size ea
      | _ => .fatal

/-- The page walk of a partition (R168). -/
def State.walk (s : State) (part ia : Nat) : Walk :=
  match s.part? part with
  | none => .fatal
  | some p => s.walkFrom ia 4 0 p.root

/-- The walk does not fault and its line is clean: the physical address. -/
def State.physOf (s : State) (part ia : Nat) : Option Nat :=
  match s.walk part ia with
  | .resident pa _ _ _ _ => if s.poisoned false (pa / 128) then none else some pa
  | _ => none

/-- The fate of one access after its alignment check (R173 steps 2 to 4, R170). -/
inductive Fate where
  | go (d : Dest)
  | replay (ia : Nat)
  | absent
  | trap (cause : Nat)
  deriving DecidableEq, Repr

/-- The access goes. -/
def Fate.goes (f : Fate) : Bool := match f with | .go _ => true | _ => false
/-- The access waits for a page. -/
def Fate.waits (f : Fate) : Bool := match f with | .replay _ => true | _ => false
/-- The access waits for presence. -/
def Fate.isAbsent (f : Fate) : Bool := match f with | .absent => true | _ => false
/-- The cause of an access that traps. -/
def Fate.cause (f : Fate) : Nat := match f with | .trap c => c | _ => 0
/-- Where an access goes. -/
def Fate.dest (f : Fate) : Dest := match f with | .go d => d | _ => .stage 0

/-- A Stage line's presence bit is set (R162): no command that cleared it is unfinished. -/
def State.present (s : State) (line : Nat) : Bool := s.absent.all fun a => decide (a.1 ≠ line)

/-- One paged byte a snapshot needs (R252 to R254): the fate of reading it. -/
def State.pagedFate (s : State) (part ia : Nat) : Fate :=
  match s.classify part ia with
  | .ok (.paged _) =>
    match s.walk part ia with
    | .resident pa _ _ _ _ => if s.poisoned false (pa / 128) then .trap 5 else .go (.paged ia)
    | .replay => .replay ia
    | .moving => .replay ia
    | .fatal => .trap 5
  | _ => .trap 4

/-- The first of several bytes whose read does not go. -/
def State.pagedFates (s : State) (part : Nat) (go : Dest) : List Nat → Fate
  | [] => .go go
  | ia :: r =>
    match s.pagedFate part ia with
    | .go _ => s.pagedFates part go r
    | f => f

/-- Bytes of paged memory of a partition, each at the owning point or as a copy `via` gives it. -/
def State.pagedBytes (s : State) (via : Nat → Option Byte) (part ia n : Nat) : List Byte :=
  match s.physOf part ia with
  | some pa => (List.range n).map fun i => (via (ia + i)).getD (SMap.get 0 s.mem (pa + i))
  | none => List.replicate n 0

/-- Every byte is read at its owning point. -/
def owned (_ : Nat) : Option Byte := none

/-- An aperture descriptor keeps to its map (R252). -/
def apertureOk (dequant : Bool) (desc d : Nat) : Bool :=
  decide (desc % 32 = 0) &&
  (if dequant then
    (decide (bitsN d 7 4 = 7) || decide (bitsN d 7 4 = 5)) && decide (bitsN d 9 8 < 3) && decide (bitsN d 3 0 < 5)
   else decide (1 ≤ bitsN d 95 64) && decide (bitsN d 7 4 = 0) && decide (bitsN d 3 0 < 4))

/-- The source byte of one view byte of a transposing aperture (R253). -/
def transposedIA (base d o : Nat) : Nat :=
  let e := 2 ^ bitsN d 3 0
  let vcols := bitsN d 95 64
  base + (o / e % vcols) * bitsN d 127 96 + o / (e * vcols) * e + o % e

/-- The source bytes of one view element of a dequantising aperture (R254): the code's byte addresses and the scale's. -/
def dequantIAs (base d m : Nat) : List Nat × List Nat :=
  let w := (Fmt.ofCode (BitVec.ofNat 4 (bitsN d 3 0))).width
  let code := [base + m * w / 8]
  let j := m / (16 * 2 ^ bitsN d 11 10)
  match bitsN d 9 8 with
  | 0 => (code, [])
  | 1 => (code, [bitsN d 179 128 + j])
  | _ => (code, [bitsN d 179 128 + 2 * j, bitsN d 179 128 + 2 * j + 1])

/-- The bytes of one view element of a dequantising aperture (R254): an f8 code 0x80 under an s8 zero scale gives 0, and 0 under a negative
bf16 scale gives -0 (log 36, DESIGN CHOICE). -/
def State.dequantElem (s : State) (via : Nat → Option Byte) (part base d m : Nat) : List Byte :=
  let f := Fmt.ofCode (BitVec.ofNat 4 (bitsN d 3 0))
  let ias := dequantIAs base d m
  let c := leNat (s.pagedBytes via part (ias.1.getD 0 0) 1) / 2 ^ (m * f.width % 8) % 2 ^ f.width
  let sc := leNat (ias.2.flatMap fun a => s.pagedBytes via part a 1)
  let v : FNum :=
    match scaleValue (bitsN d 9 8) sc with
    | none => .fin false Q.zero
    | some k => ((f.value c).mul k).1
  if bitsN d 7 4 = 7 then leBytes 4 (ieeeF32.round .rne v).1 else leBytes 2 (ieeeBf16.round .rne v).1

/-- The descriptor of an aperture as it stands (R252). -/
def State.apertureBits (s : State) (part desc : Nat) : Nat := leNat (s.pagedBytes owned part desc 32)

/-- Bytes of an element of a dequantising aperture's view (R254). -/
def dequantSize (d : Nat) : Nat := if bitsN d 7 4 = 7 then 4 else 2

/-- The source bytes that n bytes of a view need (R253, R254). -/
def apertureIAs (dequant : Bool) (base off d n : Nat) : List Nat :=
  if dequant then
    let e := dequantSize d
    (List.range (n / e + 1)).flatMap fun i =>
      if i * e < n ∨ i = 0 then (dequantIAs base d (off / e + i)).1 ++ (dequantIAs base d (off / e + i)).2 else []
  else (List.range n).map fun i => transposedIA base d (off + i)

/-- The fate of an aperture read of n bytes (R252 to R254). -/
def State.apertureFate (s : State) (part : Nat) (dequant : Bool) (base off desc n : Nat) : Fate :=
  let go := Dest.aperture dequant base off desc
  match s.pagedFates part go [desc] with
  | .go _ =>
    let d := s.apertureBits part desc
    if !apertureOk dequant desc d then .trap 4 else s.pagedFates part go (apertureIAs dequant base off d n)
  | f => f

/-- The first source byte of an aperture read that does not go. -/
def State.apertureStuck (s : State) (part : Nat) (dequant : Bool) (base off desc n : Nat) : Option Nat :=
  (desc :: apertureIAs dequant base off (s.apertureBits part desc) n).find? fun ia => !(s.pagedFate part ia).goes

/-- The n bytes of a snapshot of an aperture taken now, from what `via` gives of its source bytes (R212, R252 to R254). -/
def State.apertureBytes (s : State) (via : Nat → Option Byte) (part : Nat) (dequant : Bool) (base off desc n : Nat) : List Byte :=
  let d := s.apertureBits part desc
  if dequant then
    let e := dequantSize d
    (((List.range (n / e + 2)).flatMap fun i => s.dequantElem via part base d (off / e + i)).drop (off % e)).take n
  else (List.range n).flatMap fun i => s.pagedBytes via part (transposedIA base d (off + i)) 1

/-- The walk, the presence check and the poison check of a translated access of n bytes: a line that a command is still to write is waited
for, and its poison looked at then (R162, R165; log 38, DESIGN CHOICE). -/
def State.fate (s : State) (part : Nat) (d : Dest) (wr : Bool) (n : Nat) : Fate :=
  match d with
  | .paged ia =>
    match s.walk part ia with
    | .resident pa wp _ _ _ =>
      if wr && wp then .trap 4 else if s.poisoned false (pa / 128) then .trap 5 else .go d
    | .replay => .replay ia
    | .moving => .replay ia
    | .fatal => .trap 5
  | .stage b =>
    if !s.present (b / 128) then .absent else if s.poisoned true (b / 128) then .trap 5 else .go d
  | .peer q _ =>
    match s.peerLink.find? fun e => e.1 == part && e.2.1 == q with
    | none => .go d
    | some e => if e.2.2 then .trap 5 else .absent
  | .host _ => .go d
  | .aperture q base off desc => s.apertureFate part q base off desc n

/-- The fate of a write by a party that is no group: a poisoned line does not stop it, for the write is what clears it (R165; log 38,
DESIGN CHOICE). A pixel write, or one into a consumer ring, waits for presence, which an engine's (log 25, DEDUCED) and a tessellator's
do not (R162; log 36, DESIGN CHOICE). -/
def State.storeFate (s : State) (part : Nat) (d : Dest) (n : Nat) : Fate :=
  match d with
  | .paged ia =>
    match s.walk part ia with
    | .resident _ wp _ _ _ => if wp then .trap 4 else .go d
    | .replay => .replay ia
    | .moving => .replay ia
    | .fatal => .trap 5
  | .stage b => if s.present (b / 128) then .go d else .absent
  | _ => s.fate part d true n

/-- A virtual access of a partition under a range table: translation, then R170 and R162. -/
def State.fateVirt (s : State) (part : Nat) (ranges : List RangeEnt) (va : Nat) (rd wr ex : Bool)
    (atom : Option AtomOp) (n : Nat) : Fate :=
  match s.translate part ranges va rd wr ex atom with
  | .error c => .trap c
  | .ok d => s.fate part d wr n

/-- An access of n bytes at an offset of a Stage share (R161): STAGE-RANGE, or the Stage byte. -/
def shareByte (first lines : Nat) (off : Int) (n : Nat) : Except Nat Nat :=
  if off < 0 ∨ 2 ^ 32 < off + n ∨ (lines * 128 : Int) < off + n then .error 6
  else .ok (first * 128 + off.toNat)

/-- An access at an offset of a Stage share: the share check, then R165 and R162. -/
def State.fateShare (s : State) (first lines : Nat) (off : Int) (n : Nat) : Fate :=
  match shareByte first lines off n with
  | .error c => .trap c
  | .ok b => s.fate 0 (.stage b) false n

/-- The replicas a class may read from (R200). -/
def holderOf : Obs → Holder | .n => .peer | .h => .host | _ => .slice

/-- The lease horizon of a line for a kind of holder (R164, R182). -/
def State.leaseHorizon (s : State) (line : Nat) (h : Holder) : Nat :=
  (s.replicas.filter fun r => r.line == line && r.holder == h).foldl (fun t r => Nat.max t r.expiry) 0

/-- T(o) of a write performed now (R182). -/
def State.writeTimes (s : State) (d : Dest) : Vector Nat 6 :=
  match d with
  | .paged ia => Vector.ofFn fun o => Nat.max s.now (s.leaseHorizon (ia / 128) (holderOf (Obs.all.getD o.val .c)))
  | _ => Vector.replicate 6 s.now

/-- The larger of two completion times for each observer. -/
def maxTimes (a b : Vector Nat 6) : Vector Nat 6 := Vector.ofFn fun i => Nat.max a[i] b[i]

/-- now has reached the times of every observer of a mask (R183, R184, R206). -/
def State.reached (s : State) (t : Vector Nat 6) (m : BitVec 6) : Bool :=
  (List.range 6).all fun o => !m.getLsbD o || decide (t.toList.getD o 0 ≤ s.now)

/-- Every observer. -/
def allObs : BitVec 6 := 0x3F

/-- The completion times of the writes a line holds (R206). -/
def State.timesOf (s : State) (line : Nat) : Vector Nat 6 :=
  (s.lineTimes.filter fun e => e.1 == line).foldl (fun t e => maxTimes t e.2) (Vector.replicate 6 0)

/-- An acquire of n bytes of a destination may return: now has reached T(o) of the write it reads, for every o of its mask (R206); one
through an aperture waits for every source byte of its snapshot (R212). -/
def State.acquirable (s : State) (part : Nat) (d : Dest) (n : Nat) (m : BitVec 6) : Bool :=
  match d with
  | .paged ia => s.reached (s.timesOf (ia / 128)) m
  | .aperture q base off desc =>
    (apertureIAs q base off (s.apertureBits part desc) n).all fun ia => s.reached (s.timesOf (ia / 128)) m
  | _ => true

/-- Where the lines of the Stage follow the intermediate addresses, in the addresses of copies. -/
def stageBase : Nat := 2 ^ 52

/-- Some bytes of a copy that a reader has not read later in coherence order, nor written, since (R183, R204). -/
def unseenBy (seen : List (Nat × Nat × Nat)) (reader a n : Nat) : Bool :=
  seen.all fun e => decide (e.1 ≠ reader) || !(decide (a < e.2.1 + e.2.2) && decide (e.2.1 < a + n))

/-- A copy serves a reader n bytes from an address: a replica of a kind, before its lease ends, so that it never serves a read at T(o) of a
later write (R203, R204), or the reader's own (R201); of no lower number than `since` (R293). -/
def State.serves (s : State) (h : Holder) (reader since a n : Nat) (r : Replica) : Bool :=
  r.line == a / 128 && ((r.holder == h && decide (s.now < r.expiry)) || r.holder == .own reader) && decide (since ≤ r.stamp) &&
    unseenBy r.seen reader (a % 128) n

/-- The copy that serves a reader n bytes from an address: of several, which one is a free choice (R204; log 7, DESIGN CHOICE). -/
def State.replicaFor (s : State) (a n : Nat) (h : Holder) (reader since : Nat) : Option Replica :=
  match s.replicas.filter (s.serves h reader since a n) with
  | [] => none
  | [r] => some r
  | rs => rs[Config.freeNat (2 ^ 112 + s.now * 2 ^ 53 + a) % rs.length]?

/-- A mark on the bytes that a reader has seen. -/
def addSeen (seen : List (Nat × Nat × Nat)) (e : Nat × Nat × Nat) : List (Nat × Nat × Nat) := if seen.contains e then seen else e :: seen

/-- A reader has read the copies numbered from `stamp` on, or the owning point, of n bytes from an address: copies with a lower number no
longer serve it these bytes (R183, R204). -/
def State.markBelow (s : State) (a n reader : Nat) (old : Nat → Bool) : State :=
  { s with
    replicas := s.replicas.map fun r =>
      if r.line = a / 128 ∧ old r.stamp then { r with seen := addSeen r.seen (reader, a % 128, n) } else r
    snaps := s.snaps.map fun x =>
      if x.ias.any fun ia => decide (a ≤ ia.1) && decide (ia.1 < a + n) && old ia.2 then { x with seen := addSeen x.seen (reader, a, n) } else x }

/-- A reader has read n bytes at the owning point, or written them: no copy taken before serves it these bytes (R183, R204). -/
def State.markSeen (s : State) (a n reader : Nat) : State := s.markBelow a n reader fun _ => true

/-- What a reader has read of n bytes: the copy with a number, or the owning point. -/
def State.markCopy (s : State) (a n reader : Nat) (stamp : Option Nat) : State :=
  s.markBelow a n reader fun k => match stamp with | some j => decide (k < j) | none => true

/-- Bytes have been written from outside: what that side held of them before serves its class no more (R214, R317). -/
def State.markOuter (s : State) (h : Holder) (a n : Nat) : State :=
  { s with replicas := s.replicas.map fun r =>
      if r.line = a / 128 ∧ r.holder = h then { r with seen := addSeen r.seen (0, a % 128, n) } else r }

/-- Nothing is cached that could serve a read. -/
def State.bare (s : State) : Bool := s.replicas.isEmpty && s.snaps.isEmpty

/-! ### The lines that the L2 holds (R15, R164, R171) -/

/-- The leaf of an address that is migrating (R170, R172): its address, its page size and its entry. -/
def State.migratingFrom (s : State) (ia : Nat) : Nat → Nat → Nat → Option (Nat × Nat × Nat)
  | 0, _, _ => none
  | fuel + 1, level, table =>
    let ea := table + 16 * walkIndex level ia
    let e := leNat (readBytes s.mem ea 16)
    match bitsN e 2 1 with
    | 1 => if level = 3 then none else s.migratingFrom ia fuel (level + 1) (bitsN e 76 48 * 65536)
    | 2 => if level ≠ 0 ∧ bitsN e 7 6 = 1 then some (ea, leafSize level, e) else none
    | _ => none

/-- The home slice of a line of a partition and the address of its page's leaf, resident or migrating (R15, R169). -/
def State.homeLeaf (s : State) (part line : Nat) : Option (Nat × Nat) :=
  match s.walk part (line * 128) with
  | .resident _ _ home _ leaf => some (home, leaf)
  | .moving => ((s.part? part).bind fun p => s.migratingFrom (line * 128) 4 0 p.root).map fun m => (bitsN m.2.2 101 96, m.1)
  | _ => none

/-- The partition whose memory ranges hold a line. -/
def State.partOfLine (s : State) (line : Nat) : Option Nat := (s.parts.find? fun p => p.hasIA (line * 128)).map (·.n)

/-- The slice that owns a line (R164): the one it has migrated to, or its home. -/
def State.ownerOf (s : State) (line : Nat) : Option Nat :=
  match SMap.get none s.moved line with
  | some slice => some slice
  | none => ((s.partOfLine line).bind fun p => s.homeLeaf p line).map (·.1)

/-- The L2 fills a line from its page or writes it back (R171): the event is to be counted in the page's leaf. -/
def State.countHot (s : State) (part line : Nat) : State :=
  match s.homeLeaf part line with
  | some h => { s with hotPending := s.hotPending ++ [(h.2, s.now)] }
  | none => s

/-- The L2 drops a line (R164, R171): one that has changed, or has migrated, is written back through its page, which counts; its forwarding
entry goes. -/
def State.evictLine (s : State) (part line : Nat) : State :=
  let back := (SMap.get none s.l2 line).getD false || (SMap.get none s.moved line).isSome
  let s1 := { s with l2 := SMap.set none s.l2 line none, moved := SMap.set none s.moved line none }
  if back then s1.countHot part line else s1

/-- The lines that a slice holds: 4 MiB (R15). -/
def sliceLines : Nat := 32768

/-- A slice has room for one more line (R15): from a full one a line goes, the implementation's choice and so a free one (log 7, DESIGN
CHOICE). -/
def State.makeRoom (s : State) (slice : Nat) : State :=
  if s.l2.length < sliceLines then s
  else
    let held := (s.l2.map (·.1)).filter fun line => s.ownerOf line == some slice
    if held.length < sliceLines then s
    else
      let line := held.getD (Config.freeNat (2 ^ 111 + s.now * 2 ^ 45 + s.l2.length) % held.length) 0
      match s.partOfLine line with
      | some p => s.evictLine p line
      | none => s

/-- An access reaches the slice that owns a line (R164, R171): a line that the L2 does not hold is filled, and one that is written has
changed. -/
def State.touchLine (s : State) (part line : Nat) (wr : Bool) : State :=
  match SMap.get none s.l2 line with
  | some changed => if wr && !changed then { s with l2 := SMap.set none s.l2 line (some true) } else s
  | none =>
    let s1 := match s.homeLeaf part line with | some h => s.makeRoom h.1 | none => s
    State.countHot { s1 with l2 := SMap.set none s1.l2 line (some wr) } part line

/-- The L2 fills a line of resident paged memory of its own accord (R164): it holds no other. -/
def State.fillLine (s : State) (part line : Nat) : State :=
  match s.classify part (line * 128), s.walk part (line * 128) with
  | .ok (.paged _), .resident _ _ _ _ _ => s.touchLine part line false
  | _, _ => s

/-- The lines of paged memory that n bytes of a destination lie in. -/
def State.linesOf (s : State) (part : Nat) (d : Dest) (n : Nat) : List Nat :=
  match d with
  | .paged ia => (List.range ((ia % 128 + n + 127) / 128)).map fun i => ia / 128 + i
  | .aperture q base off desc => ((apertureIAs q base off (s.apertureBits part desc) n).map fun ia => ia / 128).dedup
  | _ => []

/-- n bytes of a destination are read, or written, at the owning point: their lines are in the L2 (R171). -/
def State.touch (s : State) (part : Nat) (d : Dest) (n : Nat) (wr : Bool) : State :=
  (s.linesOf part d n).foldl (fun s line => s.touchLine part line wr) s

/-- The runs of bytes that n bytes of a destination are in the addresses of copies. -/
def State.runsOf (s : State) (part : Nat) (d : Dest) (n : Nat) : List (Nat × Nat) :=
  match d with
  | .paged ia => [(ia, n)]
  | .stage b => [(stageBase + b, n)]
  | .aperture q base off desc => (apertureIAs q base off (s.apertureBits part desc) n).map fun ia => (ia, 1)
  | _ => []

/-- A group has read n bytes of a destination at the owning point (R171, R204). -/
def State.markRead (s : State) (part : Nat) (d : Dest) (n reader : Nat) : State :=
  let s1 := s.touch part d n false
  if s.bare then s1 else (s.runsOf part d n).foldl (fun s x => s.markSeen x.1 x.2 reader) s1

/-- The tile of an aperture that holds a view offset (R253, R254). -/
def apertureTile (dequant : Bool) (d off : Nat) : Nat × Nat :=
  if dequant then (off / 4096, 0)
  else
    let m := off / 2 ^ bitsN d 3 0
    (m / bitsN d 95 64 / 32, m % bitsN d 95 64 / 32)

/-- The view offsets of a tile (R253, R254). -/
def tileOffsets (dequant : Bool) (d : Nat) (t : Nat × Nat) : List Nat :=
  if dequant then (List.range 4096).map fun i => t.1 * 4096 + i
  else
    let e := 2 ^ bitsN d 3 0
    let cols := bitsN d 95 64
    (List.range 32).flatMap fun i => ((List.range 32).filter fun j => decide (32 * t.2 + j < cols)).flatMap fun j =>
      (List.range e).map fun b => ((32 * t.1 + i) * cols + 32 * t.2 + j) * e + b

/-- A cached snapshot may serve a reader some of its source bytes now (R204, R212). -/
def State.snapLive (s : State) (x : Snap) (reader since : Nat) (ias : List Nat) : Bool :=
  (match x.ends with | none => true | some t => decide (s.now < t)) && x.ias.all (fun a => decide (since ≤ a.2)) &&
    ias.all fun ia => unseenBy x.seen reader ia 1

/-- The cached tile that serves a reader a byte of an aperture's view. -/
def State.snapFor (s : State) (part : Nat) (dequant : Bool) (base off desc reader since : Nat) : Option Snap :=
  let d := s.apertureBits part desc
  let t := apertureTile dequant d off
  s.snaps.find? fun x =>
    decide (x.kind = .tile part dequant base desc d t.1 t.2) && s.snapLive x reader since (apertureIAs dequant base off d 1)

/-- The copy of a source byte that a kind of holder serves a reader. -/
def State.via (s : State) (h : Holder) (reader since ia : Nat) : Option Byte :=
  (s.replicaFor ia 1 h reader since).map fun r => r.bytes.getD (ia % 128) 0

/-- From when the value that a replica holds of a byte is no longer the last one: the earliest T(c) of a write to it since (R182, R212). -/
def Replica.endsAt (r : Replica) (k : Nat) : Option Nat :=
  ((r.stores.filter fun e => decide (e.1 ≤ k) && decide (k < e.1 + e.2.1)).map (·.2.2)).min?

/-- A snapshot of some source bytes, each read now at the owning point or, where copies may serve, from a replica (R204, R212): it has the
number of each byte's copy, and ends when the earliest write shows that one of them is older than. -/
def State.snapOf (s : State) (served : Bool) (since : Nat) (kind : SnapKind) (ias : List Nat) (cells : List Host.Cell) (cfg : Word) : Snap :=
  let from_ := ias.map fun ia => (ia, if served then s.replicaFor ia 1 .slice 0 since else none)
  { kind := kind, ias := from_.map fun e => (e.1, (e.2.map (·.stamp)).getD s.nextKey), cells := cells, cfg := cfg, taken := s.now
    ends := (from_.filterMap fun e => e.2.bind fun r => r.endsAt (e.1 % 128)).min?
    seen := (from_.flatMap fun e => ((e.2.map (·.seen)).getD []).map fun x => (x.1, e.1 / 128 * 128 + x.2.1, x.2.2)).dedup }

/-- The bytes of a paged line as they stand at the owning point. -/
def State.lineBytes (s : State) (part line : Nat) : List Byte :=
  match s.walk part (line * 128) with
  | .resident pa _ _ _ _ => readBytes s.mem pa 128
  | _ => List.replicate 128 0

/-- A byte of the host's memory (R167): what the outside last put there; before that it is not the device's to say. -/
def State.hostByte (s : State) (a : Nat) : Byte := (SMap.get none s.hostBytes a).getD (Config.freeByte a)

/-- The index of a byte of a peer's memory: by the fabric address of the partition's peer of a number, and the IA (R319). -/
def State.peerIndex (s : State) (part n ia : Nat) : Nat :=
  (((s.part? part).bind fun p => p.peers.find? fun q => q.1 == n).map fun q => q.2.2.toNat).getD 0 * 2 ^ 52 + ia

/-- A byte of a peer's memory (R167, R319). -/
def State.peerByte (s : State) (part n ia : Nat) : Byte :=
  (SMap.get none s.peerBytes (s.peerIndex part n ia)).getD (Config.freeByte (2 ^ 64 + s.peerIndex part n ia))

/-- The n bytes an access at the owning point reads now (R202, R204). -/
def State.readOwned (s : State) (part : Nat) (d : Dest) (n : Nat) : List Byte :=
  match d with
  | .paged ia =>
    match s.walk part ia with
    | .resident pa _ _ _ _ => readBytes s.mem pa n
    | _ => List.replicate n 0
  | .stage b => readBytes s.stage b n
  | .peer q ia => (List.range n).map fun i => s.peerByte part q (ia + i)
  | .host a => (List.range n).map fun i => s.hostByte (a + i)
  | .aperture q base off desc => s.apertureBytes owned part q base off desc n

/-- The bytes that a plain read of a party may be served with from what is cached (R200, R201, R204, R212): a replica of a kind its class may
read, or a copy of the group's own; or, of an aperture, cached tiles, and else a snapshot taken now of such replicas; none where nothing serves it. -/
def State.cachedBytes (s : State) (part : Nat) (d : Dest) (n : Nat) (cls : Obs) (reader since : Nat) : Option (List Byte) :=
  match d with
  | .paged ia => (s.replicaFor ia n (holderOf cls) reader since).map fun r => (r.bytes.drop (ia % 128)).take n
  | .stage b => (s.replicaFor (stageBase + b) n (.own reader) reader since).map fun r => (r.bytes.drop (b % 128)).take n
  | .aperture q base off desc =>
    let via := s.via (holderOf cls) reader since
    let snap := fun i => s.snapFor part q base (off + i) desc reader since
    let copied := fun i => (apertureIAs q base (off + i) (s.apertureBits part desc) 1).any fun ia => (via ia).isSome
    if (List.range n).any fun i => (snap i).isSome || copied i then
      some ((List.range n).map fun i =>
        match snap i with
        | some x => SMap.get 0 x.cells (off + i)
        | none => (s.apertureBytes via part q base (off + i) desc 1).getD 0 0)
    else none
  | _ => none

/-- The bytes that a served read takes, as runs, each with the number of the copy, or none for the owning point (R204). -/
def State.servedFrom (s : State) (part : Nat) (d : Dest) (n : Nat) (cls : Obs) (reader since : Nat) : List (Nat × Nat × Option Nat) :=
  let copy := fun a k => (a, k, (s.replicaFor a k (holderOf cls) reader since).map (·.stamp))
  match d with
  | .paged ia => [copy ia n]
  | .stage b => [copy (stageBase + b) n]
  | .aperture q base off desc =>
    (List.range n).flatMap fun i =>
      let ias := apertureIAs q base (off + i) (s.apertureBits part desc) 1
      match s.snapFor part q base (off + i) desc reader since with
      | some x => (x.ias.filter fun a => ias.contains a.1).map fun a => (a.1, 1, some a.2)
      | none => ias.map fun ia => copy ia 1
  | _ => []

/-- A plain read of n bytes by a party of a class, served from what is cached when the step says so (R200, R204); a party that is no
group has the number 0, and R204 binds it by T(o) alone. -/
def State.readParty (s : State) (part : Nat) (d : Dest) (n : Nat) (cls : Obs) (reader since : Nat) : List Byte :=
  match (if s.serve then s.cachedBytes part d n cls reader since else none) with
  | some bs => bs
  | none => s.readOwned part d n

/-- A party of a class has read n bytes (R171): what no copy served has been read at the owning point. -/
def State.touchParty (s : State) (part : Nat) (d : Dest) (n : Nat) (cls : Obs) (reader since : Nat) : State :=
  if s.serve && (s.cachedBytes part d n cls reader since).isSome then s else s.touch part d n false

/-- A read of n bytes by a group, from what is cached when its class may and `served` says so (R200, R204). -/
def State.readAs (s : State) (part : Nat) (d : Dest) (n : Nat) (cls : Obs) (reader : Nat) (served : Bool) :
    List Byte × State :=
  match (if served then s.cachedBytes part d n cls reader 0 else none) with
  | some bs => (bs, (s.servedFrom part d n cls reader 0).foldl (fun s e => s.markCopy e.1 e.2.1 reader e.2.2) s)
  | none => (s.readOwned part d n, s.markRead part d n reader)

/-- Heal the poison of bytes that are written (R165). -/
def State.healBytes (s : State) (stage : Bool) : Nat → Nat → State
  | _, 0 => s
  | a, n + 1 => (s.healByte stage a).healBytes stage (a + 1) n

/-- A snapshot after a store of n bytes to an IA whose T(c) is a time: it serves no read from that time on (R212). -/
def Snap.storeAt (x : Snap) (ia n time : Nat) : Snap :=
  if x.ias.any fun a => decide (ia ≤ a.1) && decide (a.1 < ia + n) then
    { x with ends := some (match x.ends with | none => time | some t => min t time) }
  else x

/-- A replica after a store of n bytes to an IA whose T(c) is a time (R203, R212). -/
def Replica.storeAt (r : Replica) (ia n time : Nat) : Replica :=
  if r.line = ia / 128 then { r with stores := r.stores ++ [(ia % 128, n, time)] } else r

/-- Write bytes at the owning point now (R201, R202): memory, its line's completion times, the poison it heals, its line in the L2; what a
group has written it reads no older (R183). -/
def State.writeDest (s : State) (part : Nat) (d : Dest) (bs : List Byte) (writer : Nat) : State :=
  match d with
  | .paged ia =>
    match s.walk part ia with
    | .resident pa _ _ _ _ =>
      let t := s.writeTimes d
      let s1 := if s.poison.isEmpty && s.failed.isEmpty then s else s.healBytes false pa bs.length
      let s2 := State.touch { s1 with mem := writeBytes s1.mem pa bs } part d bs.length true
      if s.bare then s2
      else
        let keep := s2.lineTimes.filter fun e => decide (e.1 ≠ ia / 128) && e.2.toList.any fun x => decide (s.now < x)
        let s3 := { s2 with
            lineTimes := keep ++ [(ia / 128, maxTimes t (s.timesOf (ia / 128)))]
            replicas := s2.replicas.map fun r => r.storeAt ia bs.length (t.toList.getD 0 0)
            snaps := s2.snaps.map fun x => x.storeAt ia bs.length (t.toList.getD 0 0) }
        if writer = 0 then s3 else s3.markSeen ia bs.length writer
    | _ => s
  | .stage b =>
    let s1 := if s.poison.isEmpty then s else s.healBytes true b bs.length
    let s2 := { s1 with stage := writeBytes s1.stage b bs }
    if s.bare || decide (writer = 0) then s2 else s2.markSeen (stageBase + b) bs.length writer
  | .peer q ia =>
    { s with
      peerBytes := (List.range bs.length).foldl
        (fun m i => SMap.set none m (s.peerIndex part q (ia + i)) (some (bs.getD i 0))) s.peerBytes
      out := s.out ++ [.peerWrite part q ia bs] }
  | .host a =>
    { s with
      hostBytes := (List.range bs.length).foldl (fun m i => SMap.set none m (a + i) (some (bs.getD i 0))) s.hostBytes
      out := s.out ++ [.hostWrite a bs] }
  | .aperture _ _ _ _ => s

/-- The walker reports a replayable fault to Carillon (R170); an access that waits for a migration to end reports none (R172). -/
def State.reportFault (s : State) (part ia : Nat) : State :=
  if s.walk part ia = .moving ∨ s.out.contains (.pageFault part ia) then s else { s with out := s.out ++ [.pageFault part ia] }

end Sys2Proof.Machine
end

