-- ==== Sys2Proof/Machine/Operands.lean ====
section
/-!
DEFINITION. Register operands (R79 to R82, R102, R133): reading and writing v-registers by lane, g-registers, lane and
uniform predicates, the leader lane, path slots and masks.
-/

namespace Sys2Proof.Machine

/-- The lanes of a group of some width (R12). -/
def widthMask (width : Nat) : Mask := BitVec.ofNat 64 (2 ^ width - 1)

/-- The lowest lane of a mask. -/
def lowestLane (m : Mask) : Nat := ((List.range 64).find? fun l => m.getLsbD l).getD 0

/-- The lanes of a mask in ascending order. -/
def lanesOf (m : Mask) : List Nat := (List.range 64).filter fun l => m.getLsbD l

/-- The number of lanes of a mask. -/
def laneCount (m : Mask) : Nat := (lanesOf m).length

/-- The rank of a lane among the lanes of a mask. -/
def laneRank (m : Mask) (l : Nat) : Nat := ((List.range l).filter fun k => m.getLsbD k).length

/-- A mask from a test of lanes. -/
def maskOf (q : Nat → Bool) : Mask := (List.range 64).foldl (fun m l => if q l then m ||| (1#64 <<< l) else m) 0

/-- A lane of a vector. -/
def lane (x : LaneVec) (l : Nat) : Word := x[l]?.getD 0

/-- A vector from its lanes. -/
def lanesFrom (f : Nat → Word) : LaneVec := Vector.ofFn fun l => f l.val

/-- A v-register (R79). -/
def Group.vreg (gr : Group) (r : Reg) : LaneVec := gr.v[r.toNat]?.getD (Vector.replicate 64 0)

/-- A g-register (R79). -/
def Group.greg (gr : Group) (r : Reg) : Word := gr.g[r.toNat - 96]?.getD 0

/-- A source register of a lane instruction: a g-register gives the same value to every lane (R102). -/
def Group.src (gr : Group) (r : Reg) : LaneVec := if isV r then gr.vreg r else Vector.replicate 64 (gr.greg r)

/-- A 64-bit source in a lane: an even register and its successor, low word first (R79, R102). -/
def Group.srcD (gr : Group) (r : Reg) (l : Nat) : DWord := pair (lane (gr.src r) l) (lane (gr.src (r + 1)) l)

/-- Write a v-register in the lanes of a mask; every other lane keeps its value (R101). -/
def Group.setV (gr : Group) (r : Reg) (m : Mask) (x : LaneVec) : Group :=
  let old := gr.vreg r
  { gr with v := gr.v.setIfInBounds r.toNat (lanesFrom fun l => if m.getLsbD l then lane x l else lane old l) }

/-- The pair of g-registers a register field lies in (R192). -/
def gPair (r : Reg) : Nat := (r.toNat - 96) / 2

/-- Write a g-register: a pending bit of its pair is cleared (R192). -/
def Group.setG (gr : Group) (r : Reg) (w : Word) : Group :=
  { gr with g := gr.g.setIfInBounds (r.toNat - 96) w, pend := gr.pend &&& ~~~(1#16 <<< gPair r) }

/-- Registers a, a + 1, … of a block. -/
def blockRegs (a : Reg) (n : Nat) : List Reg := (List.range n).map fun i => a + BitVec.ofNat 7 i

/-- The number of registers of a size (R176). -/
def sizeRegs (z : Size) : Nat := match z with | .d => 2 | .q => 4 | _ => 1

/-- The registers that an access still to be performed will write (R176, R179). -/
def LateAct.regs : LateAct → List Reg
  | .store _ => []
  | .load z d _ => blockRegs d (sizeRegs z)
  | .uload z d => blockRegs d (sizeRegs z)
  | .atom _ dbl d _ _ _ => blockRegs d (if dbl then 2 else 1)

/-- The lanes of those registers that it will write. -/
def LateAct.mask : LateAct → Mask
  | .store _ => 0
  | .load _ _ ls => maskOf fun l => ls.contains l
  | .uload _ _ => BitVec.allOnes 64
  | .atom _ _ _ _ _ l => match l with | some l => 1#64 <<< l | none => BitVec.allOnes 64

/-- A register waits for a load or atomic that has issued and not returned. -/
def Group.busy (gr : Group) (r : Reg) : Bool := gr.late.any fun x => x.act.regs.contains r

/-- Some source names a g-register whose pair is pending (R192), or the destination of a load that has not returned. -/
def Group.pendingOn (gr : Group) (rs : List Reg) : Bool := rs.any fun r => (isG r && gr.pend.getLsbD (gPair r)) || gr.busy r

/-- A path slot (R34). -/
def Group.slotAt (gr : Group) (one : Bool) : PathSlot := if one then gr.s1 else gr.s0
/-- Replace a path slot. -/
def Group.setSlot (gr : Group) (one : Bool) (p : PathSlot) : Group := if one then { gr with s1 := p } else { gr with s0 := p }
/-- The issuing path. -/
def Group.path (gr : Group) : PathSlot := gr.slotAt gr.issuing
/-- The other slot. -/
def Group.otherPath (gr : Group) : PathSlot := gr.slotAt (!gr.issuing)
/-- The effective mask (R34). -/
def Group.emask (gr : Group) : Mask := gr.path.mask &&& gr.xm
/-- The leader lane: the lowest lane of the issuing path's mask (R133). -/
def Group.leader (gr : Group) : Nat := lowestLane gr.path.mask

/-- A lane predicate; p7 reads true (R79). -/
def Group.pred (gr : Group) (n : BitVec 3) : Mask := if n = 7 then BitVec.allOnes 64 else gr.p[n.toNat]?.getD 0
/-- Write a lane predicate in the lanes of a mask; p7 discards (R79). -/
def Group.setPred (gr : Group) (n : BitVec 3) (m x : Mask) : Group :=
  if n = 7 then gr else { gr with p := gr.p.setIfInBounds n.toNat ((gr.pred n &&& ~~~m) ||| (x &&& m)) }
/-- A uniform predicate; c7 reads true (R79). -/
def Group.cpred (gr : Group) (n : BitVec 3) : Bool := if n = 7 then true else gr.c.getLsbD n.toNat
/-- Write a uniform predicate; c7 discards (R133). -/
def Group.setC (gr : Group) (n : BitVec 3) (b : Bool) : Group :=
  if n = 7 then gr
  else { gr with c := if b then gr.c ||| (1#7 <<< n.toNat) else gr.c &&& ~~~(1#7 <<< n.toNat) }

/-- The acting lanes of a lane instruction (R101). -/
def Group.acting (gr : Group) (g : BitVec 3) : Mask := gr.emask &&& gr.pred g

/-- A 32-bit source of a uniform instruction: a v-register gives the leader's value (R133). -/
def Group.usrc (gr : Group) (r : Reg) : Word := if isV r then lane (gr.vreg r) gr.leader else gr.greg r
/-- A 64-bit source of a uniform instruction (R79, R133). -/
def Group.usrcD (gr : Group) (r : Reg) : DWord := pair (gr.usrc r) (gr.usrc (r + 1))
/-- Write a 32-bit destination of a uniform instruction: a v-register receives it in every lane of the group (R133). -/
def Group.setU (gr : Group) (r : Reg) (w : Word) : Group :=
  if isV r then gr.setV r (widthMask gr.width) (Vector.replicate 64 w) else gr.setG r w
/-- Write a 64-bit destination of a uniform instruction. -/
def Group.setUD (gr : Group) (r : Reg) (x : DWord) : Group := (gr.setU r (loWord x)).setU (r + 1) (hiWord x)
/-- A base pair of a memory operand: g(2k):g(2k+1) (R83). -/
def Group.basePair (gr : Group) (k : BitVec 4) : DWord :=
  pair (gr.greg (BitVec.ofNat 7 (96 + 2 * k.toNat))) (gr.greg (BitVec.ofNat 7 (97 + 2 * k.toNat)))
/-- The registers of a pair. -/
def pairRegs (r : Reg) : List Reg := [r, r + 1]
/-- The registers a memory operand reads (R83). -/
def memRegs (m : MemAddr) : List Reg :=
  match m with
  | .idx _ k r => [BitVec.ofNat 7 (96 + 2 * k.toNat), BitVec.ofNat 7 (97 + 2 * k.toNat), r]
  | .base k => [BitVec.ofNat 7 (96 + 2 * k.toNat), BitVec.ofNat 7 (97 + 2 * k.toNat)]
  | .lanes r => pairRegs r

/-- An immediate of the short forms: sext(b, 7) (R86, R105). -/
def imm7 (i : BitVec 7) : Word := i.signExtend 32

end Sys2Proof.Machine
end

