-- ==== Sys2Proof/Machine/Data.lean ====
section
/-!
DEFINITION. What loads, stores and atomics move between registers and memory (R176, R178, R179).
-/

namespace Sys2Proof.Machine

/-- The words a load of some size puts into its registers (R176). -/
def loadWords (z : Size) (bs : List Byte) : List Word :=
  let x := leNat bs
  match z with
  | .b => [BitVec.ofNat 32 x]
  | .h => [BitVec.ofNat 32 x]
  | .sb => [(BitVec.ofNat 8 x).signExtend 32]
  | .sh => [(BitVec.ofNat 16 x).signExtend 32]
  | .w => [BitVec.ofNat 32 x]
  | .d => (List.range 2).map fun j => BitVec.ofNat 32 (x / 2 ^ (32 * j))
  | .q => (List.range 4).map fun j => BitVec.ofNat 32 (x / 2 ^ (32 * j))

/-- The bytes of a store (R176): the low bytes of its registers' words. -/
def storeBytes (z : Size) (ws : List Word) : List Byte := (ws.flatMap fun w => leBytes 4 w.toNat).take z.bytes

/-- f(m, v) of an atomic of a width in bits (R179); for `cas` v is the compare value and x the new one. -/
def atomResult (op : AtomOp) (bits : Nat) (m v x : Nat) : Nat :=
  let sgn := fun k : Nat => (BitVec.ofNat bits k).toInt
  match op with
  | .add => (m + v) % 2 ^ bits
  | .fadd => (ieeeF32.addOp .rne m v).1
  | .min => if sgn m ≤ sgn v then m else v
  | .max => if sgn v ≤ sgn m then m else v
  | .minN => min m v
  | .maxN => max m v
  | .and => m &&& v
  | .or => m ||| v
  | .xor => m ^^^ v
  | .xchg => v
  | .cas => if m = v then x else m
  | .incwrap => if v ≤ m then 0 else m + 1

/-- The registers of an atomic (R179). -/
def atomRegs (op : AtomOp) (dbl : Bool) (d : Reg) : List Reg :=
  blockRegs d ((if dbl then 2 else 1) * (if op = .cas then 2 else 1))

/-- The operand v and the new value x of an atomic, from its registers' words. -/
def atomOperands (dbl : Bool) (ws : List Word) : Nat × Nat :=
  let w := fun i => (ws.getD i 0).toNat
  if dbl then (w 0 + w 1 * 2 ^ 32, w 2 + w 3 * 2 ^ 32) else (w 0, w 1)

/-- The word j of the value a lane loaded. -/
def wordAt (z : Size) (vals : List (Nat × List Byte)) (j l : Nat) : Word :=
  match vals.find? fun e => e.1 == l with
  | some e => (loadWords z e.2).getD j 0
  | none => 0

/-- Put loaded values into the registers from d in the lanes of a mask. -/
def Group.setLoaded (gr : Group) (z : Size) (d : Reg) (m : Mask) (vals : List (Nat × List Byte)) : Group :=
  (List.range (sizeRegs z)).foldl (fun gr j => gr.setV (d + BitVec.ofNat 7 j) m (lanesFrom fun l => wordAt z vals j l)) gr

/-- Write the words of a uniform load from d (R178): a v-register receives its word in every lane. -/
def Group.setWords (gr : Group) (d : Reg) (ws : List Word) : Group :=
  (List.range ws.length).foldl (fun gr j => gr.setU (d + BitVec.ofNat 7 j) (ws.getD j 0)) gr

end Sys2Proof.Machine
end

