-- ==== Sys2Proof/Machine/Flags.lean ====
section
/-!
DEFINITION. The flags and counters of a group: the sticky float flags and their enables (R59, R60), the matrix counters
(R74), and the combining types of the compares (R116).
-/

namespace Sys2Proof.Machine

/-- The writable bits of `fsr` (R59). -/
def fsrMask : Word := 0x1F1F
/-- The enable bits of `fsr` (R59). -/
def Group.fpEnables (gr : Group) : FFlags := gr.fsr.extractLsb' 8 5
/-- Flags that trap (R60). -/
def Group.fpTraps (gr : Group) (f : FFlags) : Bool := decide (f &&& gr.fpEnables ≠ 0)
/-- OR flags into `fsr` (R60). -/
def Group.addFlags (gr : Group) (f : FFlags) : Group := { gr with fsr := gr.fsr ||| f.setWidth 32 }
/-- A counter field that holds at 255 (R74). -/
def satCount (old add : Nat) : Nat := min 255 (old + add)
/-- Add to the four fields of `mxc` (R74). -/
def Group.addCounts (gr : Group) (nan code clamp sat : Nat) : Group :=
  let f := fun lo n => BitVec.ofNat 8 (satCount (gr.mxc.extractLsb' lo 8).toNat n)
  { gr with mxc := f 24 nan ++ f 16 code ++ f 8 clamp ++ f 0 sat }

/-- A test of `cmp` and `gcmp` on two 32-bit values (R117). -/
def cmpTest (o : CmpOp) (a b : Word) : Bool :=
  match o with
  | .eq => a == b | .ne => a != b | .lt => a.slt b | .le => a.sle b | .gt => b.slt a | .ge => b.sle a
  | .ltN => a.ult b | .leN => a.ule b | .gtN => b.ult a | .geN => b.ule a

/-- What a compare writes to one predicate pair (R116): the new (pd, pe), `none` where it writes nothing. -/
def combine (ct : CType) (g c : Bool) : Option Bool × Option Bool :=
  match ct with
  | .nrm => if g then (some c, some (!c)) else (none, none)
  | .unc => (some (g && c), some (g && !c))
  | .and => if g && !c then (some false, some false) else (none, none)
  | .or => if g && c then (some true, some true) else (none, none)
  | .orAndcm => if g && c then (some true, some false) else (none, none)
  | .andOrcm => if g && !c then (some false, some true) else (none, none)
  | .andcm => if g && c then (some false, some false) else (none, none)
  | .orcm => if g && !c then (some true, some true) else (none, none)

/-- Write what a compare gives one lane predicate: the lanes that have a value (R116). -/
def Group.setPredWhere (gr : Group) (n : BitVec 3) (f : Nat → Option Bool) : Group :=
  gr.setPred n (maskOf fun l => (f l).isSome) (maskOf fun l => (f l).getD false)

/-- A compare over the lanes of a mask with guard mask gm and test results c (R116): pd before pe. -/
def Group.compare (gr : Group) (m gm c : Mask) (pd pe : BitVec 3) (ct : CType) : Group :=
  let f := fun l => if m.getLsbD l then combine ct (gm.getLsbD l) (c.getLsbD l) else (none, none)
  (gr.setPredWhere pd fun l => (f l).1).setPredWhere pe fun l => (f l).2

/-- Write what a compare gives one uniform predicate (R136). -/
def Group.setCWhere (gr : Group) (n : BitVec 3) (x : Option Bool) : Group :=
  match x with | none => gr | some b => gr.setC n b

end Sys2Proof.Machine
end

