-- ==== Sys2Proof/Machine/Ops.lean ====
section
/-!
DEFINITION. The named operations every meaning is written over: focus on a group, retirement and waiting, the group's
accesses to memory, the reconvergence stack (R38, R39, R221), fault records (R223), the end of a group (R44, R149), and
taking a trap (R216 to R222) with the return from it (R220).
-/

namespace Sys2Proof.Machine

/-- The group of a key, wherever it stands. -/
def State.group? (s : State) (key : Nat) : Option Group :=
  if s.cur.live && s.cur.key == key then some s.cur else s.others.find? fun gr => gr.key == key

/-- Every live group. -/
def State.groups (s : State) : List Group := (if s.cur.live then [s.cur] else []) ++ s.others

/-- Every group that holds a context, running or saved. -/
def State.holders (s : State) : List Group := s.groups ++ s.saved

/-- Change the group of a key. -/
def State.modGroup (s : State) (key : Nat) (f : Group → Group) : State :=
  if s.cur.live && s.cur.key == key then { s with cur := f s.cur }
  else { s with others := s.others.map fun gr => if gr.key = key then f gr else gr }

/-- Change every live group. -/
def State.modGroups (s : State) (f : Group → Group) : State :=
  { s with cur := if s.cur.live then f s.cur else s.cur, others := s.others.map f }

/-- Bring a group into focus: the group that was in focus takes its place among the others. -/
def State.focus (s : State) (key : Nat) : State :=
  if s.cur.live && s.cur.key == key then s
  else
    match s.others.find? fun gr => gr.key == key with
    | none => s
    | some gr =>
      { s with cur := gr, others := (if s.cur.live then [s.cur] else []) ++ s.others.filter fun x => x.key != key }

/-- The key of a region: its partition and its RCB's IA (R21, R28). -/
def regionKey (part rcb : Nat) : Nat := part * 2 ^ 52 + rcb

/-- Charge one issue cycle to regions, once a cycle each (R29, R303). -/
def State.chargeCycle (s : State) : State :=
  (s.cur.chain.map (regionKey s.cur.part)).foldl (fun s r =>
    if SMap.get 0 s.charged r = s.cycle + 1 then s
    else { s with charged := SMap.set 0 s.charged r (s.cycle + 1), cycles := SMap.set 0 s.cycles r (SMap.get 0 s.cycles r + 1) }) s

/-- A slot becomes the current one with a fresh count (R35). -/
def Group.makeCurrent (gr : Group) (one : Bool) : Group :=
  { gr with current := one, count := 0, quantum := (gr.pathq.extractLsb' 0 8).toNat }

/-- An instruction of the group has issued and is done with: nothing waits, and the current path's count rises (R35). -/
def Group.issued (gr : Group) : Group :=
  { gr with wait := .none, unfinished := none, held := [], watched := [], count := if gr.issuing = gr.current then gr.count + 1 else gr.count
            agedAt := none, halted := gr.halted || gr.stepping, stepping := false, yielded := false }

/-- The issuing path goes on at a PC. -/
def Group.setPc (gr : Group) (pc : PC) : Group := gr.setSlot gr.issuing { gr.path with pc := pc }

/-- The instruction retires with an effect of its own on the paths (R7, R303, R307). -/
def State.retireWith (s : State) (f : Group → Group) : State :=
  { s with cur := { f s.cur.issued with lastIssue := some s.cycle } }.chargeCycle

/-- The instruction retires and the issuing path goes on at pc. -/
def State.retireTo (s : State) (pc : PC) : State := s.retireWith fun gr => gr.setPc pc

/-- The instruction retires and the issuing path goes on after its words. -/
def State.retire (s : State) (len : Nat) : State := s.retireTo (s.cur.path.pc + BitVec.ofNat 30 len)

/-- The instruction waits: nothing else changes, and it is executed again at the group's next issue (R306). -/
def State.hold (s : State) (why : Hold) : State := { s with cur := { s.cur with wait := .again why } }

/-- A group may be given an issue opportunity now: live, not halted, in no wait that another event ends, and no trap of it
waits to be entered (R306). -/
def Group.issuable (gr : Group) : Bool :=
  gr.live && !gr.halted && gr.pendingTrap.isNone &&
  (match gr.wait with | .none => true | .again _ => true | .sleep _ => false | .bar => false | .sys _ => false | .parked _ => false)

/-- A group is ready (R306): it may be given an issue opportunity, and its instruction waits for nothing. -/
def Group.ready (gr : Group) : Bool :=
  gr.issuable && (match gr.wait with | .again .ready => true | .again (.status _) => true | .again _ => false | _ => true)

/-- A slot whose path stands at its join (R37): slot 0 ends first. -/
def Group.atJoin (gr : Group) : Option Bool :=
  if gr.s0.live && gr.s0.pc == gr.s0.join then some false
  else if gr.s1.live && gr.s1.pc == gr.s1.join then some true
  else none

/-- Change the group in focus. -/
def State.setCur (s : State) (gr : Group) : State := { s with cur := gr }

/-! ### The group's accesses -/

/-- A store of the group in focus, performed now (R182): its completion times join the group's horizons. -/
def State.groupWrite (s : State) (d : Dest) (bs : List Byte) : State :=
  let t := s.writeTimes d
  let s1 := s.writeDest s.cur.part d bs s.cur.key
  { s1 with cur := { s1.cur with horizon := maxTimes s1.cur.horizon t } }

/-- A plain read of the group in focus. -/
def State.groupRead (s : State) (d : Dest) (n : Nat) : List Byte × State :=
  s.readAs s.cur.part d n .c s.cur.key s.serve

/-- n bytes of the Stage, in one line, as a plain load of the group in focus reads them (R128, R201, R235): now, or as a copy of its own has
them. -/
def State.stageRead (s : State) (b n : Nat) : List Byte :=
  ((if s.serve then s.cachedBytes s.cur.part (.stage b) n .c s.cur.key 0 else none)).getD (readBytes s.stage b n)

/-- The group parks at its instruction on some pages, keeping what is unfinished (R173): the instruction has issued in this cycle (R303). -/
def State.parkAt (s : State) (pages : List Nat) (unfinished : Mask) : State :=
  { s with cur := { s.cur with wait := .parked pages, unfinished := some unfinished, lastIssue := some s.cycle, agedAt := none } }.chargeCycle

/-- Park the group on a page, keeping what is unfinished (R173). -/
def State.park (s : State) (ia : Nat) (unfinished : Mask) : State := (s.reportFault s.cur.part ia).parkAt [ia] unfinished

/-! ### Fault records -/

/-- The 64 bytes of a fault record (R223). -/
def faultBits (time addr lanes pc cid core gid rcb cause kind : Nat) : BitVec 512 :=
  BitVec.ofNat 64 time ++ BitVec.ofNat 64 addr ++ BitVec.ofNat 64 lanes ++ 0#34 ++ BitVec.ofNat 30 pc ++
    BitVec.ofNat 32 cid ++ 0#20 ++ BitVec.ofNat 8 core ++ BitVec.ofNat 4 gid ++ 0#12 ++ BitVec.ofNat 52 rcb ++
    0#112 ++ BitVec.ofNat 8 cause ++ BitVec.ofNat 8 kind

/-- A fault record of the group in focus is to be written (R223); FAULT_RECORD writes it. -/
def State.faultRecord (s : State) (kind cause : Nat) (addr : DWord) (lanes : Mask) (pc : PC) : State :=
  let gr := s.cur
  { s with faults := s.faults ++
      [⟨gr.part, gr.faultdom, faultBits s.now addr.toNat lanes.toNat pc.toNat gr.cid.toNat gr.core gr.gid.toNat
        (gr.chain.getD 0 0) cause kind, none⟩] }

/-! ### Launch entries and consumers -/

/-- A field of a launch entry, RCB or other packed record. -/
def fieldN (x : BitVec 1024) (hi lo : Nat) : Nat := (x.extractLsb' lo (hi + 1 - lo)).toNat

/-- Replace the bits from lo of a packed record. -/
def putField (x : BitVec 1024) (lo len v : Nat) : BitVec 1024 :=
  let m : BitVec 1024 := BitVec.ofNat 1024 ((2 ^ len - 1) * 2 ^ lo)
  (x &&& ~~~m) ||| (BitVec.ofNat 1024 (v % 2 ^ len * 2 ^ lo))

/-- The number of cohorts of a launch (R31). -/
def launchTotal (e : BitVec 1024) : Nat := fieldN e 191 160 * fieldN e 207 192 * fieldN e 223 208

/-- Read n bytes at an IA as Carillon or a dispatcher does (class h): the bytes, a page that is not
resident, or a cause. -/
def State.readIA (s : State) (part ia n : Nat) : Except Fate (List Byte) :=
  match s.classify part ia with
  | .error c => .error (.trap c)
  | .ok d =>
    match s.fate part d false n with
    | .go d => .ok (s.readParty part d n .h 0 0)
    | f => .error f

/-- Launch a batch of a consumer's records when it is due (R277): batch records are held, or the oldest has waited 10 µs,
and now has reached T(c) of the batch's writes. -/
def State.consumerLaunch (s : State) (part n : Nat) : State :=
  match (s.part? part).bind fun p => p.consumers.find? fun c => c.n == n with
  | none => s
  | some c =>
    let m := min c.batch c.held.length
    let due := decide (c.batch ≤ c.held.length) ||
      (match c.held with | [] => false | h :: _ => decide (h.1 + 10000 ≤ s.now))
    if m = 0 ∨ !due ∨ !((c.held.take m).all fun h => decide (h.2 ≤ s.now)) then s
    else
      match s.readIA part c.tmpl 128 with
      | .error (.replay ia) => s.reportFault part ia
      | .error _ => s
      | .ok bs =>
        let first := (c.tail + c.ringcap - c.held.length % c.ringcap) % c.ringcap
        let va := c.ring + first * 2 ^ c.rsz
        let e0 : BitVec 1024 := BitVec.ofNat 1024 (leNat bs)
        let e1 := putField (putField (putField e0 160 32 1) 192 16 1) 208 16 1
        let e2 := putField (putField (putField (putField e1 512 64 va) 576 32 m) 608 32 (c.ringcap - first)) 640 64 c.ring
        let l : Launch :=
          { key := s.nextKey, part := part, entry := e2, addr := BitVec.ofNat 64 c.tmpl, precond := 0
            eligible := true, nextCid := 0, skipped := none, reserved := false, queued := false
            cls := 0, lastRead := s.now, consumer := some (n, first, m) }
        let c1 := { c with held := c.held.drop m, batches := c.batches ++ [(first, m, false)] }
        { s with nextKey := s.nextKey + 1, launches := s.launches ++ [l]
                 parts := s.parts.map fun p =>
                   if p.n = part then { p with consumers := p.consumers.map fun x => if x.n = n then c1 else x } else p }

/-- A batch's cohort has completed: its slots are freed, in ring order (R277). -/
def State.consumerFree (s : State) (part n first : Nat) : State :=
  let s1 : State := { s with parts := s.parts.map fun p =>
      if p.n = part then
        { p with consumers := p.consumers.map fun c =>
            if c.n = n then
              { c with batches := (c.batches.map fun b => if b.1 = first then (b.1, b.2.1, true) else b).dropWhile (·.2.2) }
            else c }
      else p }
  s1.consumerLaunch part n

/-- The launch's last cohort has been dispatched and none is left: the launch is gone. -/
def State.dropLaunch (s : State) (key : Nat) : State :=
  match s.launches.find? fun l => l.key == key with
  | none => s
  | some l =>
    if l.nextCid < launchTotal l.entry ∨ s.cohorts.any (fun c => c.launch == key) then s
    else
      let s1 := { s with launches := s.launches.filter fun x => x.key != key }
      match l.consumer with
      | none => s1
      | some (n, first, _) => s1.consumerFree l.part n first

/-! ### The cohort barrier and the end of a group -/

/-- Complete the phase once if every member of it has arrived or left (R146): the members that wait go on; an arrival of a
group not counted in the phase counts in the next one. -/
def State.completeOnce (s : State) (key : Nat) : State :=
  match s.cohorts.find? fun c => c.key == key with
  | none => s
  | some c =>
    if c.members.all (fun m => c.arrived.contains m) then
      let live := (s.groups ++ s.saved).filter fun gr => gr.cohort == key
      let wake := fun gr : Group =>
        if gr.cohort = key ∧ gr.wait = .bar ∧ c.members.contains gr.key then { gr with wait := .none } else gr
      { s.modGroups wake with
        saved := s.saved.map wake
        cohorts := s.cohorts.map fun x =>
          if x.key = key then
            { x with members := live.map (·.key), arrived := c.arrived.filter fun k => !c.members.contains k }
          else x }
    else s

/-- Complete the phase, and the next one too if early arrivals alone complete it (R146). -/
def State.completePhase (s : State) (key : Nat) : State := (s.completeOnce key).completeOnce key

/-- A group leaves its cohort; the cohort completes with its last group, which frees its Stage share (R44, R161). -/
def State.leaveCohort (s : State) (key cohort : Nat) : State :=
  match s.cohorts.find? fun c => c.key == cohort with
  | none => s
  | some c =>
    if (s.groups ++ s.saved).any fun gr => gr.cohort == cohort then
      let drop := fun (l : List Nat) => l.filter fun k => k != key
      let s1 : State := { s with cohorts := s.cohorts.map fun x =>
          if x.key = cohort then { x with members := drop x.members, arrived := drop x.arrived } else x }
      s1.completePhase cohort
    else ({ s with cohorts := s.cohorts.filter fun x => x.key != cohort }).dropLaunch c.launch

/-- The turns and requests of a group's sections end at once (R297). -/
def State.endSections (s : State) (key core : Nat) : State :=
  let cl := core / 4
  match s.clusters[cl]? with
  | none => s
  | some c =>
    let c1 : Cluster := { c with turns := c.turns.filter fun t => decide (t.body ≠ .sect key) }
    { s with clusters := s.clusters.setIfInBounds cl c1 }

/-- Bytes of the group's own store of a stream element (R197). -/
def Port.elemAddr (p : Port) (e : Nat) : Int := p.base.toNat + e * p.stride

/-- The fate of one element access of a stream: ALIGN first, then the share or the translation (R173, R196). -/
def State.streamFate (s : State) (gr : Group) (p : Port) (a : Int) (rd wr : Bool) : Fate :=
  if a % 4 ≠ 0 then .trap 3
  else if p.stage then s.fateShare gr.stgFirst gr.stgLines a 4
  else s.fateVirt gr.part gr.ranges (a % 2 ^ 64).toNat rd wr false none 4

/-- Write one pushed element of a store stream (R197): the state and the port after it, or unchanged while it must wait. -/
def State.streamStore (s : State) (gr : Group) (p : Port) : State × Port × Vector Nat 6 :=
  match p.elems with
  | [] => (s, p, Vector.replicate 6 0)
  | w :: rest =>
    let a := p.elemAddr p.pos
    match s.streamFate gr p a false true with
    | .go d =>
      let t := s.writeTimes d
      let q := { p with elems := rest, pos := p.pos + 1, paused := false }
      (s.writeDest gr.part d (leBytes 4 w.toNat) gr.key, (if q.pos < q.count then q else { Port.unbound with ring := [] }), t)
    | .trap c =>
      (s, { p with elems := [], ring := [], fault := some (c, BitVec.ofInt 64 a), paused := false }, Vector.replicate 6 0)
    | .replay ia => (s.reportFault gr.part ia, { p with paused := true }, Vector.replicate 6 0)
    | .absent => (s, { p with paused := true }, Vector.replicate 6 0)

/-- A port. -/
def Group.port (gr : Group) (q : Nat) : Port := gr.ports[q]?.getD Port.unbound
/-- Replace a port. -/
def Group.setPort (gr : Group) (q : Nat) (p : Port) : Group := { gr with ports := gr.ports.setIfInBounds q p }

/-- Spilled elements of a port return to it in order while it has room (R273). -/
def Port.refilled (p : Port) : Port :=
  let room := 256 - p.elems.length
  { p with elems := p.elems ++ p.ring.take room, ring := p.ring.drop room }

/-- Pushes to the group's store streams that are not yet performed (R183, R184): a dropped element counts as performed. -/
def Group.pushesLeft (gr : Group) : Bool :=
  gr.ports.toList.any fun p => p.bound && p.kind == 2 && !(p.elems.isEmpty && p.ring.isEmpty)

/-! ### Accesses that have issued and are performed later, and pushed elements (R183, R197, R327) -/

/-- Two runs of bytes of destinations meet. -/
def Dest.meets (d : Dest) (n : Nat) (e : Dest) (m : Nat) : Bool :=
  let run := fun a b : Nat => decide (a < b + m) && decide (b < a + n)
  match d, e with
  | .paged a, .paged b => run a b
  | .stage a, .stage b => run a b
  | .peer p a, .peer q b => p == q && run a b
  | .host a, .host b => run a b
  | .aperture p i a x, .aperture q j b y => p == q && i == j && x == y && run a b
  | _, _ => false

/-- The number of bytes of a late access. -/
def Late.size (x : Late) : Nat :=
  match x.act with
  | .store bs => bs.length
  | .load z _ _ => z.bytes
  | .uload z _ => z.bytes
  | .atom _ dbl _ _ _ _ => if dbl then 8 else 4

/-- A late access reaches a byte of a run. -/
def Late.meets (x : Late) (d : Dest) (n : Nat) : Bool := x.dest.meets x.size d n

/-- A late access of a group is performed (R176, R179, R182): a load returns, from a copy that may serve it where `served` says so (R204). -/
def State.runLate (s : State) (gr : Group) (x : Late) (served : Bool) : State × Group :=
  let get := s.readAs gr.part x.dest x.size .c gr.key served
  match x.act with
  | .store bs => (s.writeDest gr.part x.dest bs gr.key, { gr with horizon := maxTimes gr.horizon (s.writeTimes x.dest) })
  | .load z d ls => (get.2, gr.setLoaded z d x.act.mask (ls.map fun l => (l, get.1)))
  | .uload z d => (get.2, gr.setWords d (loadWords z get.1))
  | .atom op dbl d v y l =>
    let bs := s.readOwned gr.part x.dest x.size
    let z := if dbl then Size.d else Size.w
    let g1 := { gr with horizon := maxTimes gr.horizon (s.writeTimes x.dest) }
    (s.writeDest gr.part x.dest (leBytes x.size (atomResult op (8 * x.size) (leNat bs) v y)) gr.key,
      match l with
      | some l => g1.setLoaded z d (1#64 <<< l) [(l, bs)]
      | none => g1.setWords d (loadWords z bs))

/-- Accesses of the group in focus issue and are still to be performed (R183). -/
def State.addLate (s : State) (xs : List Late) : State := { s with cur := { s.cur with late := s.cur.late ++ xs } }

/-- A late access of a group is performed, unless an earlier one to a byte of it still waits (R183). -/
def State.performLate (s : State) (gr : Group) (k : Nat) (served : Bool) : State × Group :=
  match gr.late[k]? with
  | none => (s, gr)
  | some x =>
    if (gr.late.take k).any fun y => y.meets x.dest x.size then (s, gr)
    else
      let r := s.runLate gr x served
      (r.1, { r.2 with late := gr.late.eraseIdx k })

/-- Every late access of a group is performed, in program order. -/
def State.performAll (s : State) (gr : Group) : State × Group :=
  gr.late.foldl (fun r _ => r.1.performLate r.2 0 false) (s, gr)

/-- The fate of the oldest pushed element a store port holds (R197). -/
def State.pushedFate (s : State) (gr : Group) (q : Nat) : Option Fate :=
  let p := (gr.port q).refilled
  if p.bound ∧ p.kind = 2 ∧ p.fault.isNone ∧ p.elems ≠ [] then some (s.streamFate gr p (p.elemAddr p.pos) false true) else none

/-- The oldest pushed element of a port waits for a page or for presence (R197). -/
def State.pushWaits (s : State) (gr : Group) (q : Nat) : Bool :=
  match s.pushedFate gr q with | some (.replay _) => true | some .absent => true | _ => false

/-- Where the element at a place of a group's pushes will be written; none where that does not go now. -/
def State.pushDest (s : State) (gr : Group) (j : Nat) : Option Dest :=
  let q := gr.pushes.getD j 0
  let p := gr.port q
  match s.streamFate gr p (p.elemAddr (p.pos + (gr.pushes.take j).count q)) false true with
  | .go d => if p.fault.isNone then some d else none
  | _ => none

/-- An element pushed before some place that is still to be written reaches a byte of a run (R183, R197). -/
def State.pushMeets (s : State) (gr : Group) (j : Nat) (d : Dest) (n : Nat) : Bool :=
  (List.range j).any fun i => match s.pushDest gr i with | some e => e.meets 4 d n | none => false

/-- The port whose pushed element is written next: pushes are stores in push order, over all ports (R183, R197), and only an
element that waits lets a later one to other bytes pass. -/
def State.nextPush (s : State) (gr : Group) : Option Nat :=
  (gr.pushes.zipIdx.find? fun e =>
    match s.pushedFate gr e.1 with
    | some (.go d) => !s.pushMeets gr e.2 d 4
    | some (.trap _) => true
    | _ => false).map (·.1)

/-- Write the oldest pushed element of a port of a group, after the late accesses before it where one reaches a byte of it, or pause the port
where it waits (R183, R197). -/
def State.writePush (s0 : State) (gr0 : Group) (q : Nat) : State × Group :=
  let x :=
    match s0.pushedFate gr0 q with
    | some (.go d) => if gr0.late.any fun y => y.meets d 4 then s0.performAll gr0 else (s0, gr0)
    | _ => (s0, gr0)
  let gr := x.2
  let r := x.1.streamStore gr (gr.port q).refilled
  let left :=
    if r.2.1.paused then gr.pushes
    else if r.2.1.elems.isEmpty && r.2.1.ring.isEmpty then gr.pushes.filter (· != q)
    else gr.pushes.erase q
  (r.1, { (gr.setPort q r.2.1) with pushes := left, horizon := maxTimes gr.horizon r.2.2 })

/-- Write what a group's store streams hold, at most n elements, as far as their pages stand (R183, R197). -/
def State.writePushes : Nat → State → Group → State × Group
  | 0, s, gr => (s, gr)
  | n + 1, s, gr =>
    match s.nextPush gr with
    | none => (s, gr)
    | some q =>
      let r := s.writePush gr q
      State.writePushes n r.1 r.2

/-- Write all that a group's store streams hold, as far as their pages stand; the ports whose elements wait are paused. -/
def State.flushPorts (s : State) (gr : Group) : State × Group :=
  let r := State.writePushes gr.pushes.length s gr
  (List.range 16).foldl (fun a q => if a.1.pushWaits a.2 q then a.1.writePush a.2 q else a) r

/-- The late accesses of the group in focus are performed. -/
def State.flushLate (s : State) : State :=
  if s.cur.late.isEmpty then s
  else
    let r := s.performAll s.cur
    r.1.setCur r.2

/-- The late accesses of a group are performed. -/
def State.performGroup (s : State) (key : Nat) : State :=
  match s.group? key with
  | none => s
  | some gr =>
    if gr.late.isEmpty then s
    else
      let r := s.performAll gr
      r.1.modGroup key fun _ => r.2

/-- Every group's late accesses are performed. -/
def State.flushAllLate (s : State) : State := (s.groups.map (·.key)).foldl State.performGroup s

/-- An access of the group in focus to a byte that an element pushed before it is still to be written to waits for it (R183, R197). -/
def State.afterPushed (s : State) (n : Nat) (f : Fate) : Fate :=
  match f with
  | .go d => if !s.cur.pushes.isEmpty && s.pushMeets s.cur s.cur.pushes.length d n then .absent else .go d
  | f => f

/-- A virtual access of the group in focus: a fetch, or an access that follows what the group has pushed. -/
def State.curFate (s : State) (va : Nat) (rd wr ex : Bool) (atom : Option AtomOp) (n : Nat) : Fate :=
  let f := s.fateVirt s.cur.part s.cur.ranges va rd wr ex atom n
  if ex then f else s.afterPushed n f

/-- An access of the group in focus to its Stage share, that follows what the group has pushed. -/
def State.curShare (s : State) (off : Int) (n : Nat) : Fate := s.afterPushed n (s.fateShare s.cur.stgFirst s.cur.stgLines off n)

/-- What the group in focus has pushed is written, as far as the pages stand (R183, R197). -/
def State.writePushed (s : State) : State :=
  if s.cur.pushes.isEmpty then s
  else
    let r := s.flushPorts s.cur
    r.1.setCur r.2

/-- The group in focus pushes no element past its own next instruction, and leaves no access behind it: what it pushed is written before,
as far as the pages stand, and its late accesses are performed, so that its later accesses to the same bytes follow them (R183, R197; log 5,
DEDUCED). -/
def State.afterPushes (s : State) : State := s.writePushed.flushLate

/-- End the streams of a group as `ap.stop` does (R149, R198): load ports are emptied, pushed elements written as far as
their pages stand; the ports that still hold elements are left. -/
def State.endStreams (s : State) (gr : Group) : State × Group :=
  let r := s.flushPorts gr
  (r.1, { r.2 with
    pushes := if r.2.pushesLeft then r.2.pushes else []
    ports := r.2.ports.map fun p =>
      if p.bound && p.kind == 2 && !(p.elems.isEmpty && p.ring.isEmpty) then p else Port.unbound })

/-- The group in focus ends (R44, R149): its streams, iterators and sections end, its context is freed, its cohort loses it.
A section held or requested is reported as ABANDONED (R297). -/
def State.endGroup (s0 : State) (pc : PC) : State :=
  let s := s0.flushLate
  let gr := s.cur
  let s1 := gr.sections.foldl (fun s x => s.faultRecord 3 0 (pair x.token x.b) 0 pc) s
  let s2 := s1.endSections gr.key gr.core
  let d := s2.endStreams gr
  let left := d.2.pushesLeft
  let s3 := { d.1 with cur := Group.idle, draining := if left then d.1.draining ++ [d.2] else d.1.draining }
  s3.leaveCohort gr.key gr.cohort

/-! ### The reconvergence stack -/

/-- Entry kinds (R38). -/
inductive EntryKind where | path | join | trap | mark
  deriving DecidableEq, Repr
/-- The kind's code. -/
def EntryKind.code : EntryKind → BitVec 4 | .path => 0 | .join => 1 | .trap => 2 | .mark => 3

/-- A stack entry (R38). -/
def stackEntry (k : EntryKind) (join pc : PC) (mask : Mask) : BitVec 128 := k.code ++ join ++ pc ++ mask

/-- The virtual address of stack position k (R38). -/
def Group.stackAddr (gr : Group) (k : Nat) : Nat := ((gr.rvsb.toNat / 16 * 16) + 16 * k) % 2 ^ 64

/-- The fate of the writes of stack entries at positions from k, below cap (R38, R221): the first that does not go, with its
address. -/
def State.pushFate (s : State) : Nat → List (BitVec 128) → Option (Fate × Nat)
  | _, [] => none
  | k, _ :: es =>
    if s.cur.rvcap.toNat ≤ k then s.pushFate (k + 1) es
    else
      match s.curFate (s.cur.stackAddr k) false true false none 16 with
      | .go _ => s.pushFate (k + 1) es
      | f => some (f, s.cur.stackAddr k)

/-- Write stack entries at positions from k: in memory below cap, in the trap reserve at cap and above (R38, R221). -/
def State.pushWrite (s : State) : Nat → List (BitVec 128) → State
  | _, [] => s
  | k, e :: es =>
    if s.cur.rvcap.toNat ≤ k then
      { s with cur := { s.cur with reserve := SMap.set 0 s.cur.reserve k e } }.pushWrite (k + 1) es
    else
      match s.curFate (s.cur.stackAddr k) false true false none 16 with
      | .go d => (s.groupWrite d (leBytes 16 e.toNat)).pushWrite (k + 1) es
      | _ => s.pushWrite (k + 1) es

/-- Push entries: the depth rises by their number. -/
def State.push (s : State) (es : List (BitVec 128)) : State :=
  let s1 := s.pushWrite s.cur.rvdepth.toNat es
  { s1 with cur := { s1.cur with rvdepth := s1.cur.rvdepth + BitVec.ofNat 16 es.length } }

/-- Read the stack entry at a position: from the reserve at cap and above, else a plain load of the group (R38, R221). -/
def State.stackRead (s : State) (k : Nat) : Except (Fate × Nat) (BitVec 128) :=
  if s.cur.rvcap.toNat ≤ k then .ok (SMap.get 0 s.cur.reserve k)
  else
    match s.curFate (s.cur.stackAddr k) true false false none 16 with
    | .go d => .ok (BitVec.ofNat 128 (leNat (s.readParty s.cur.part d 16 .c s.cur.key 0)))
    | f => .error (f, s.cur.stackAddr k)

/-- The group in focus has read the stack entries at n positions from k, as plain loads (R38, R204). -/
def State.markStack (s : State) (k n : Nat) : State :=
  (List.range n).foldl (fun s i =>
    if s.cur.rvcap.toNat ≤ k + i then s
    else
      match s.curFate (s.cur.stackAddr (k + i)) true false false none 16 with
      | .go d => (s.readAs s.cur.part d 16 .c s.cur.key s.serve).2
      | _ => s) s

/-- What a pop finds (R38). -/
inductive Pop where
  /-- the entry to install, its mask cut, and the depth after the pop -/
  | found (e : BitVec 128) (mask : Mask) (depth : Nat)
  /-- depth 0, or a reserved kind -/
  | overflow
  /-- a stack read that does not go -/
  | stuck (f : Fate) (addr : Nat)
  deriving DecidableEq, Repr

/-- The depth after an entry at position k is popped (R38, R220): with a TRAP entry goes an entry of zero mask directly beneath it. -/
def State.depthPopped (s : State) (e : BitVec 128) (k : Nat) : Except (Fate × Nat) Nat :=
  match decide (e.extractLsb' 124 4 = 2#4), k with
  | true, j + 1 =>
    match s.stackRead j with
    | .ok b => .ok (if b.extractLsb' 0 64 &&& widthMask s.cur.width = 0 then j else k)
    | .error f => .error f
  | _, _ => .ok k

/-- The pop rule (R38) from a depth: entries of zero mask are discarded. -/
def State.popFind (s : State) (other : Mask) : Nat → Pop
  | 0 => .overflow
  | k + 1 =>
    match s.stackRead k with
    | .error (f, a) => .stuck f a
    | .ok e =>
      if 4 ≤ (e.extractLsb' 124 4).toNat then .overflow
      else
        let m := e.extractLsb' 0 64 &&& widthMask s.cur.width &&& ~~~other
        if m = 0 then s.popFind other k
        else
          match s.depthPopped e k with
          | .ok depth => .found e m depth
          | .error (f, a) => .stuck f a

/-- The lowest position that a pop from a depth reads, where it finds none to install (R38). -/
def State.popLow (s : State) (other : Mask) : Nat → Nat
  | 0 => 0
  | k + 1 =>
    match s.stackRead k with
    | .error _ => k + 1
    | .ok e =>
      if 4 ≤ (e.extractLsb' 124 4).toNat ∨ e.extractLsb' 0 64 &&& widthMask s.cur.width &&& ~~~other ≠ 0 then k else s.popLow other k

/-- The group in focus has read the entries that a pop which ends in a trap went through, as plain loads (R38, R204). -/
def State.markFailedPop (s : State) (other : Mask) : State :=
  let low := s.popLow other s.cur.rvdepth.toNat
  s.markStack low (s.cur.rvdepth.toNat - low)

/-- Drop the reserve entries at a position and above. -/
def dropReserve (r : SMap (BitVec 128)) (k : Nat) : SMap (BitVec 128) := SMap.keep (fun i => decide (i < k)) r

/-- The group in focus has read the entries that a pop from its depth to another went through, and with a TRAP entry the one beneath it
(R38, R220). -/
def State.markPop (s : State) (e : BitVec 128) (depth : Nat) : State :=
  let trap := decide (e.extractLsb' 124 4 = 2#4)
  let own := match s.stackRead depth with | .ok x => x == e | .error _ => false
  let low := if trap && own then depth - 1 else depth
  s.markStack low (s.cur.rvdepth.toNat - low)

/-- Install a popped entry into the slot being filled, which becomes current with a fresh count (R38, R142); a TRAP entry
ends a level of trap handling (R220). -/
def State.install (s0 : State) (one : Bool) (e : BitVec 128) (mask : Mask) (depth : Nat) : State :=
  let s := s0.markPop e depth
  let gr := s.cur
  let isTrap := decide (e.extractLsb' 124 4 = 2#4)
  let nest := gr.trapc.extractLsb' 28 4
  let gr1 := (gr.setSlot one ⟨true, e.extractLsb' 64 30, mask, e.extractLsb' 94 30⟩).makeCurrent one
  let trapc := if isTrap && decide (nest ≠ 0) then (nest - 1) ++ gr.trapc.extractLsb' 0 28 else gr.trapc
  { s with cur := { gr1 with rvdepth := BitVec.ofNat 16 depth, reserve := dropReserve gr.reserve depth, trapc := trapc } }

/-! ### Taking a trap -/

/-- A group dies (R222): a DEATH record, then the end of the group. -/
def State.die (s : State) (cause : Nat) (addr : DWord) (lanes : Mask) (pc : PC) : State :=
  (s.faultRecord 1 cause addr lanes pc).endGroup pc

/-- Taking a trap of the issuing path (R216 to R222): the companion and TRAP entries are pushed, `trapc`, `trapa` and `trapm`
record the trap, `wct` stays (R224), and the path's slot holds the handler. Stack writes that wait for a page leave the trap pending. -/
def State.enterTrap (s : State) (t : TrapInfo) : State :=
  let gr := s.cur
  let p := gr.path
  let next := p.pc + BitVec.ofNat 30 t.len
  let whole := t.lanes == p.mask
  let companion := stackEntry .join p.join next (if whole then 0 else p.mask)
  let entry := stackEntry .trap (if whole then p.join else next) (if t.replay then p.pc else next) t.lanes
  let k := gr.rvdepth.toNat
  let nest := gr.trapc.extractLsb' 28 4
  if nest = 15 ∨ gr.rvcap.toNat + 2 ≤ k + 1 ∨ 2 ^ 16 ≤ k + 2 then s.die t.cause t.addr t.lanes p.pc
  else
    match s.pushFate k [companion, entry] with
    | some (.trap c, a) => s.die c (BitVec.ofNat 64 a) t.lanes p.pc
    | some (.replay ia, _) =>
      { s.reportFault gr.part ia with cur := { gr with wait := .parked [ia], pendingTrap := some t } }
    | some (_, _) => { s with cur := { gr with wait := .again .presence, pendingTrap := some t } }
    | none =>
      let s1 := s.push [companion, entry]
      let g1 := { s1.cur with horizon := gr.horizon }
      let trapc : Word := (nest + 1) ++ 0#10 ++ BitVec.ofNat 1 (t.len - 1) ++ BitVec.ofBool t.replay ++
        BitVec.ofNat 8 t.info ++ BitVec.ofNat 8 t.cause
      let g2 := (g1.setSlot g1.issuing ⟨true, g1.trapv, t.lanes, 0x3FFFFFFF⟩).makeCurrent g1.issuing
      { s1 with cur := { g2 with
          trapc := trapc, trapa := t.addr, trapm := t.lanes, wait := .none, unfinished := none, held := [], watched := []
          pendingTrap := none, halted := g2.halted || g2.stepping, stepping := false, yielded := false } }

/-- An issued instruction traps: its issue cycle is charged (R303), and its trap is taken. -/
def State.takeTrap (s : State) (t : TrapInfo) : State :=
  State.enterTrap { s with cur := { s.cur with lastIssue := some s.cycle, agedAt := none } }.chargeCycle t

/-- A trap of the whole issuing path by a uniform instruction. -/
def State.trapPath (s : State) (cause info : Nat) (addr : DWord) (len : Nat) (replay : Bool) : State :=
  s.takeTrap ⟨cause, info, addr, s.cur.path.mask, len, replay⟩

/-- A uniform access that does not go: the whole group parks, waits for presence, or traps (R178). -/
def State.uniformStop (s : State) (f : Fate) (addr : DWord) (len : Nat) (replay : Bool) : State :=
  match f with
  | .go _ => s
  | .replay ia => s.park ia s.cur.path.mask
  | .absent => s.hold .presence
  | .trap c => s.trapPath c 0 addr len replay

/-- A push that the stack cannot take, or a pop that finds nothing, raises RVSTACK-OVF (R39): `rvsp` in trapa, replay. -/
def State.stackOverflow (s : State) (len : Nat) : State :=
  s.trapPath 14 0 (0#32 ++ s.cur.rvcap ++ s.cur.rvdepth) len true

/-- The instruction has completed in every lane: it retires, or a watchpoint it matched traps or halts the group (R218, R228);
the trap records the lowest matched lane's watchpoint and address. -/
def State.finishAccess (s : State) (len : Nat) (path : Bool) : State :=
  match s.cur.watched with
  | [] => s.retire len
  | h :: t =>
    let low := t.foldl (fun x y => if y.1 < x.1 then y else x) h
    let lanes := if path then s.cur.path.mask else maskOf fun l => s.cur.watched.any fun x => x.1 == l
    if s.haltWatch then
      let p := s.cur.path.pc
      (s.retireTo p).setCur { (s.retireTo p).cur with halted := true, resume := some (p + BitVec.ofNat 30 len) }
    else s.takeTrap ⟨18, low.2.1, low.2.2, lanes, len, false⟩

/-! ### Wrappers of the register instructions -/

/-- The lanes an instruction acts in (R101): of one that reissues, those it left unfinished (R173, R225). -/
def Group.todo (gr : Group) (g : BitVec 3) : Mask := gr.unfinished.getD (gr.acting g)

/-- A lane instruction on registers: with no acting lane it has no effect (R40, R101); it waits while a source is pending
(R192); else its effect on the group, and it retires. -/
def laneExec (len : Nat) (g : BitVec 3) (srcs : List Reg) (s : State) (f : Mask → Group → Group) : State :=
  let m := s.cur.acting g
  if m = 0 then s.retire len
  else if s.cur.pendingOn srcs then s.hold .pending
  else (s.setCur (f m s.cur)).retire len

/-- A uniform instruction on registers: with its guard false it has no effect (R81, R132); it waits while a source is
pending (R192); else its effect, and it retires. -/
def uniExec (len : Nat) (g : BitVec 3) (srcs : List Reg) (s : State) (f : Group → Group) : State :=
  if !s.cur.cpred g then s.retire len
  else if s.cur.pendingOn srcs then s.hold .pending
  else (s.setCur (f s.cur)).retire len

/-- A uniform instruction whose effect is a state of its own, retirement included. -/
def uniDo (len : Nat) (g : BitVec 3) (srcs : List Reg) (s : State) (f : State → State) : State :=
  if !s.cur.cpred g then s.retire len
  else if s.cur.pendingOn srcs then s.hold .pending
  else f s

/-- A lane instruction whose effect is a state of its own, retirement included; an instruction that was parked acts for its
unfinished lanes only (R173), and one that has finished in every lane but for its watchpoint's trap has only that left (R218, R225). -/
def laneDo (len : Nat) (g : BitVec 3) (srcs : List Reg) (s : State) (f : Mask → State → State) : State :=
  let m := s.cur.todo g
  if m = 0 then (if s.cur.unfinished.isSome then s.finishAccess len false else s.retire len)
  else if s.cur.pendingOn srcs then s.hold .pending
  else f m s

/-- A lane float instruction (R60): each acting lane gives its writes and its flags; lanes whose flags are enabled trap FP
and write nothing, the others complete. -/
def laneFloat (len : Nat) (g : BitVec 3) (srcs : List Reg) (s : State) (flags : Nat → FFlags)
    (write : Mask → Group → Group) : State :=
  let m := s.cur.todo g
  if m = 0 then s.retire len
  else if s.cur.pendingOn srcs then s.hold .pending
  else
    let bad := maskOf fun l => m.getLsbD l && s.cur.fpTraps (flags l)
    let good := m &&& ~~~bad
    let all := fun x : Mask => (lanesOf x).foldl (fun f l => f ||| flags l) 0
    let s1 := s.setCur ((write good s.cur).addFlags (all good))
    if bad = 0 then s1.retire len else s1.takeTrap ⟨15, (all bad).toNat, 0, bad, len, false⟩

end Sys2Proof.Machine
end

