-- ==== Sys2Proof/Machine/Fetch.lean ====
section
/-!
DEFINITION. Instruction fetch (R100, R175, R185): the words of code memory at a path's PC, translated with kind exec.
-/

namespace Sys2Proof.Machine

/-- What a fetch gives. -/
inductive Fetched where
  /-- the instruction and its code bytes -/
  | ok (i : Instr) (bs : List Byte)
  /-- PERM, or fatal PAGE; `second` when only the second word faults -/
  | fault (fatal second : Bool) (addr : DWord)
  | replay (ia : Nat)
  | absent
  deriving DecidableEq, Repr

/-- The virtual address of a code word (R32). -/
def Group.codeAddr (gr : Group) (pc : PC) : Nat := (gr.codebase.toNat + 4 * pc.toNat) % 2 ^ 64

/-- Fetch one word. -/
def State.fetchWord (s : State) (pc : PC) : Except Fate (List Byte) :=
  match s.curFate (s.cur.codeAddr pc) false false true none 4 with
  | .go d => .ok (s.readParty s.cur.part d 4 .c s.cur.key 0)
  | f => .error f

/-- What a word that does not go makes of the fetch. -/
def fetchStop (f : Fate) (second : Bool) (addr : Nat) : Fetched :=
  match f with
  | .replay ia => .replay ia
  | .absent => .absent
  | .trap 5 => .fault true second (BitVec.ofNat 64 addr)
  | _ => .fault false second (BitVec.ofNat 64 addr)

/-- The instruction that some code bytes are: what the decoder reads, or an ILL pattern (R98, R100). -/
def instrOf (bs : List Byte) : Instr :=
  match decodeBytes bs with
  | .ok i => i
  | .error _ =>
    let w := fun i => wordOfBytes (bs.getD i 0) (bs.getD (i + 1) 0) (bs.getD (i + 2) 0) (bs.getD (i + 3) 0)
    .illegalPattern (w 0) (w 4)

/-- Fetch the instruction at a PC (R89, R100, R175). -/
def State.fetch (s : State) (pc : PC) : Fetched :=
  match s.fetchWord pc with
  | .error f => fetchStop f false (s.cur.codeAddr pc)
  | .ok bs =>
    if (bs.getD 3 0).getLsbD 6 then
      match s.fetchWord (pc + 1) with
      | .error f => fetchStop f true (s.cur.codeAddr (pc + 1))
      | .ok bs2 => .ok (instrOf (bs ++ bs2)) (bs ++ bs2)
    else .ok (instrOf bs) bs

/-- The instruction that the issuing path comes to: one that waits or is parked is executed again as it was fetched (R100, R226). -/
def State.fetchNext (s : State) : Fetched :=
  if s.cur.held.isEmpty then s.fetch s.cur.path.pc else .ok (instrOf s.cur.held) s.cur.held

/-- The group in focus holds the instruction it has fetched, and has read its n code words (R185, R204). -/
def State.fetched (s : State) (bs : List Byte) : State :=
  let s1 :=
    if !s.cur.held.isEmpty then s
    else
      (List.range (bs.length / 4)).foldl (fun s i =>
        match s.curFate (s.cur.codeAddr (s.cur.path.pc + BitVec.ofNat 30 i)) false false true none 4 with
        | .go d => (s.readAs s.cur.part d 4 .c s.cur.key s.serve).2
        | _ => s) s
  s1.setCur { s1.cur with held := bs }

end Sys2Proof.Machine
end

