-- ==== Sys2Proof/Machine/Access.lean ====
section
/-!
DEFINITION. What every load, store and atomic shares: addresses (R83, R161), data (R176), the checks of one access (R173), order
(R183), watchpoints (R228), and the lane instruction built from its lanes (R173).
-/

namespace Sys2Proof.Machine

/-- A register's values, one a lane, as the index of a memory operand (R83). -/
def scaledIndex (gr : Group) (scale : BitVec 2) (r : Reg) (l : Nat) : Nat := (lane (gr.src r) l).toNat * 2 ^ scale.toNat

/-- The address a memory operand forms in a lane (R83): a virtual address modulo 2^64, or the exact Stage offset (R161). -/
def Group.addrOf (gr : Group) (mem : MemAddr) (off : Int) (stage : Bool) (l : Nat) : Int :=
  let base := fun k : BitVec 4 =>
    if stage then ((gr.greg (BitVec.ofNat 7 (96 + 2 * k.toNat))).toNat : Int) else ((gr.basePair k).toNat : Int)
  let x :=
    match mem with
    | .idx sc k r => base k + scaledIndex gr sc r l + off
    | .base k => base k + off
    | .lanes r => ((gr.srcD r l).toNat : Int) + off
  if stage then x else x % 2 ^ 64

/-- The fate of one access of n bytes at an address or Stage offset (R173): alignment, the share or the translation, the walk,
presence. -/
def State.accessFate (s : State) (stage : Bool) (a : Int) (n : Nat) (rd wr : Bool) (atom : Option AtomOp) : Fate :=
  if a % n ≠ 0 then .trap 3
  else if stage then s.curShare a n
  else s.curFate a.toNat rd wr false atom n

/-- Split n bytes from an address at 128-byte lines, so that each piece lies on one page and in one line; at most k pieces. -/
def pieces : Nat → Nat → Nat → List (Nat × Nat)
  | 0, _, _ => []
  | k + 1, a, n =>
    if n = 0 then []
    else
      let m := min n (128 - a % 128)
      (a, m) :: pieces k (a + m) (n - m)

/-- The pieces of n bytes from an address. -/
def piecesOf (a n : Nat) : List (Nat × Nat) := pieces (n / 128 + 2) a n

/-- The fates of accesses of the group as a whole (R173, R178): the first page to wait for, else the first that traps but for PAGE, else one
that waits for presence, else the first that traps PAGE; none when all go. A line's poison is looked at once every line is present (R162,
R165). -/
def groupFate (fs : List (Fate × Int)) : Option (Fate × Int) :=
  let first := fun q : Fate → Bool => fs.find? fun f => q f.1
  ((((first Fate.waits).or (first fun f => !f.goes && !f.isAbsent && f.cause != 5)).or (first Fate.isAbsent)).or (first fun f => !f.goes))

/-- The bytes of a virtual run read as plain loads of the group, or what stops the group as a whole and where (R173, R178). -/
def State.readRun (s : State) (ps : List (Nat × Nat)) : Except (Fate × Nat) (List Byte) :=
  let fs := ps.map fun p => (s.curFate (p.1 % 2 ^ 64) true false false none p.2, (p.1 : Int))
  match groupFate fs with
  | some (f, a) => .error (f, a.toNat)
  | none => .ok ((fs.zip ps).flatMap fun x => s.readParty s.cur.part x.1.1.dest x.2.2 .c s.cur.key 0)

/-- The group in focus has read a virtual run (R204): where nothing served it, its lines have been read at the owning point. -/
def State.markRun (s : State) (ps : List (Nat × Nat)) : State :=
  ps.foldl (fun s p =>
    match s.curFate (p.1 % 2 ^ 64) true false false none p.2 with
    | .go d => (s.readAs s.cur.part d p.2 .c s.cur.key s.serve).2
    | _ => s) s

/-- A release, or a fence, with a mask may be performed (R183, R184): every load of the model has returned when it retires. -/
def State.releasable (s : State) (m : BitVec 6) : Bool := !s.cur.pushesLeft && s.reached s.cur.horizon m

/-- Accesses of an order and a mask, each a destination and its bytes, must still wait (R183, R206). -/
def State.orderWaits (s : State) (order : Order) (m : BitVec 6) (ds : List (Dest × Nat)) : Bool :=
  (order.releases && !s.releasable m) || (order.acquires && !ds.all fun d => s.acquirable s.cur.part d.1 d.2 m)

/-! ### Watchpoints -/

/-- The lowest watchpoint of the core that an access matches (R228): of two, the lower one is recorded (R218; log 36, DESIGN CHOICE). -/
def State.watchOf (s : State) (va n : Nat) (rd wr : Bool) : Option Nat :=
  (List.range 4).find? fun i =>
    match SMap.get none s.watches (s.cur.core * 4 + i) with
    | none => false
    | some w => ((rd && w.onRead) || (wr && w.onWrite)) && decide (va < w.hi.toNat) && decide (w.lo.toNat < va + n)

/-- Accesses may match watchpoints (R228): virtual ones, while the port is enabled and one is set. -/
def State.watching (s : State) (stage : Bool) : Bool := !stage && !s.watches.isEmpty && s.debugOn

/-- Note the watchpoints that accesses of lanes match (R228): virtual accesses only. -/
def State.noteWatch (s : State) (stage : Bool) (n : Nat) (rd wr : Bool) (as : List (Nat × Int)) : State :=
  if !s.watching stage then s
  else
    let hits := as.filterMap fun x => (s.watchOf x.2.toNat n rd wr).map fun i => (x.1, i, BitVec.ofInt 64 x.2)
    s.setCur { s.cur with watched := s.cur.watched ++ hits }

/-! ### Lanes -/

/-- The lanes of a mask whose fate satisfies a test. -/
def lanesWhere (m : Mask) (fate : Nat → Fate) (q : Fate → Bool) : Mask := maskOf fun l => m.getLsbD l && q (fate l)

/-- Report every page that lanes of a mask wait for (R170). -/
def State.reportAll (s : State) (fate : Nat → Fate) (ls : List Nat) : State :=
  ls.foldl (fun s l => match fate l with | .replay ia => s.reportFault s.cur.part ia | _ => s) s

/-- The pages that lanes wait for. -/
def waitPages (fate : Nat → Fate) (ls : List Nat) : List Nat :=
  (ls.filterMap fun l => match fate l with | .replay ia => some ia | _ => none).dedup

/-- After the lanes that pass have performed their accesses: the group parks while a lane waits for a page, then the lanes that
fail trap together with the lowest one's cause and address, else the instruction retires (R173). -/
def State.settleLanes (s : State) (len : Nat) (m : Mask) (fate : Nat → Fate) (addr : Nat → Int) : State :=
  let wait := lanesWhere m fate Fate.waits
  let fail := lanesWhere m fate fun f => !f.goes && !f.waits
  if wait ≠ 0 then
    (s.reportAll fate (lanesOf wait)).parkAt (waitPages fate (lanesOf wait)) (wait ||| fail)
  else if fail ≠ 0 then
    s.takeTrap ⟨(fate (lowestLane fail)).cause, 0, BitVec.ofInt 64 (addr (lowestLane fail)), fail, len, false⟩
  else s.finishAccess len false

/-- A lane access (R173, R177): every acting lane is decided on its own; a lane that must wait for presence or for its order holds
the instruction before any lane acts; then the lanes that pass act in ascending order. -/
def State.laneAccess (s : State) (len : Nat) (m : Mask) (n : Nat) (order : Order) (obs : BitVec 6) (fates : List (Nat × Fate))
    (addr : Nat → Int) (act : Mask → List (Nat × Dest) → State → State) : State :=
  let fate := fun l => ((fates.find? fun e => e.1 == l).map (·.2)).getD .absent
  let good := lanesWhere m fate Fate.goes
  let ds := (lanesOf good).map fun l => (l, (fate l).dest)
  if lanesWhere m fate Fate.isAbsent ≠ 0 then s.hold .presence
  else if s.orderWaits order obs (ds.map fun x => (x.2, n)) then s.hold .order
  else (act good ds s).settleLanes len m fate addr

/-- The fates of the lanes of a mask. -/
def State.laneFates (s : State) (m : Mask) (stage : Bool) (addr : Nat → Int) (n : Nat) (rd wr : Bool) (atom : Option AtomOp) :
    List (Nat × Fate) :=
  (lanesOf m).map fun l => (l, s.accessFate stage (addr l) n rd wr atom)

/-- Read one access's bytes for the group: at the owning point when it acquires (R183). -/
def State.readFor (s : State) (order : Order) (d : Dest) (n : Nat) : List Byte × State :=
  s.readAs s.cur.part d n .c s.cur.key (s.serve && !order.acquires)

end Sys2Proof.Machine
end

