-- ==== Sys2Proof/Machine/Engines.lean ====
section
/-!
DEFINITION. Engine commands, handles and Claves (R186 to R195): the copy engines' checks, chunks, credits and completion, and what
the other engines share with them.
-/

namespace Sys2Proof.Machine

/-! ### Handles and status words (R191) -/

/-- A status word. -/
def statusWord (code count : Nat) : DWord := BitVec.ofNat 8 code ++ 0#8 ++ BitVec.ofNat 48 count

/-- The status code of a fault that ends a command (R174, R189, R191). -/
def engineStatusOf (cause : Nat) : Nat := match cause with | 4 => 2 | 5 => 3 | 6 => 4 | 3 => 5 | _ => 7

/-- The engine code of a handle. -/
def engCode : EngineRef → Nat | .copy _ _ => 0 | .wload _ _ => 1 | .cins _ _ => 2
/-- The slot of a handle. -/
def engSlot : EngineRef → Nat | .copy _ k => k | .wload _ k => k | .cins _ k => k
/-- The index of an engine slot in its array. -/
def engIndex : EngineRef → Nat | .copy c k => c * 64 + k | .wload c k => c * 32 + k | .cins c k => c * 32 + k

/-- A handle. -/
def handleOf (e : EngineRef) (core : Nat) (gen : Word) : DWord :=
  3#2 ++ BitVec.ofNat 6 (engCode e) ++ BitVec.ofNat 8 core ++ BitVec.ofNat 8 (engSlot e) ++ 0#8 ++ gen

/-- The next generation of a slot: counting modulo 2^32 and skipping 0. -/
def nextGen (g : Word) : Word := if g + 1 = 0 then 1 else g + 1

/-- An engine slot as handles see it: its generation count, the generation of the command in flight, its last status. -/
def State.slotOf (s : State) (e : EngineRef) : Word × Option Word × DWord :=
  match e with
  | .copy _ _ => let x := SMap.get EngSlot.idle s.copySlots (engIndex e); (x.gen, x.cmd.map (·.base.gen), x.status)
  | .wload _ _ => let x := SMap.get EngSlot.idle s.wloadSlots (engIndex e); (x.gen, x.cmd.map (·.base.gen), x.status)
  | .cins _ _ => let x := SMap.get EngSlot.idle s.cinsSlots (engIndex e); (x.gen, x.cmd.map (·.base.gen), x.status)

/-- The free ones of n slots of an engine. -/
def State.freeSlots (s : State) (mk : Nat → EngineRef) (n : Nat) : List Nat :=
  (List.range n).filter fun k => (s.slotOf (mk k)).2.1.isNone

/-- The free slot the engine takes (R191): its own choice (log 7, DESIGN CHOICE). -/
def State.chooseSlot (s : State) (mk : Nat → EngineRef) (n : Nat) : Option EngineRef :=
  match s.freeSlots mk n with
  | [] => none
  | f => some (mk (f.getD (Config.freeNat s.freeCtr % f.length) 0))

/-- Write a handle into a pair and set its pending bit (R186, R192). -/
def Group.setHandle (gr : Group) (d : Reg) (h : DWord) : Group :=
  let g1 := (gr.setG d (loWord h)).setG (d + 1) (hiWord h)
  { g1 with pend := g1.pend ||| (1#16 <<< gPair d) }

/-- A pair of g-registers by number. -/
def Group.pairAt (gr : Group) (i : Nat) : DWord := pair (gr.g.toList.getD (2 * i) 0) (gr.g.toList.getD (2 * i + 1) 0)

/-- A command's status stands in every pair that is pending on its handle, which is pending no more (R192). -/
def Group.resolve (gr : Group) (h st : DWord) : Group :=
  (List.range 16).foldl (fun gr i =>
    if gr.pend.getLsbD i ∧ gr.pairAt i = h then
      { gr with
        g := (gr.g.setIfInBounds (2 * i) (loWord st)).setIfInBounds (2 * i + 1) (hiWord st)
        pend := gr.pend &&& ~~~(1#16 <<< i) }
    else gr) gr

/-- A group that waits in an `hwait` for a command has its status (R193): its slot may be taken again before the group issues. -/
def Group.told (gr : Group) (h st : DWord) : Group :=
  if gr.wait = .again (.hwait h) then { gr with wait := .again (.status st) } else gr

/-- The presence bits that a finished command held clear are set, but for lines another command still holds (R162). -/
def State.releaseLines (s : State) (e : EngineRef) : State := { s with absent := s.absent.filter fun a => decide (a.2 ≠ e) }

/-- A slot whose command of a generation has its status: the slot keeps it until its next command (R191); one that has taken another since,
while its partition was halted and had lost the core, keeps that one's. -/
def EngSlot.finished {α : Type} (x : EngSlot α) (gen : Word) (st : DWord) : EngSlot α :=
  ⟨x.gen, none, if x.gen = gen then st else x.status⟩

/-- The status of a slot's command becomes readable (R190, R192). -/
def State.finishCommand (s : State) (e : EngineRef) (core : Nat) (st : DWord) : State :=
  let gen := (s.slotOf e).2.1.getD (s.slotOf e).1
  let i := engIndex e
  let s1 : State :=
    match e with
    | .copy _ _ =>
      { s with copySlots := SMap.set EngSlot.idle s.copySlots i ((SMap.get EngSlot.idle s.copySlots i).finished gen st) }
    | .wload _ _ =>
      { s with wloadSlots := SMap.set EngSlot.idle s.wloadSlots i ((SMap.get EngSlot.idle s.wloadSlots i).finished gen st) }
    | .cins _ _ =>
      { s with cinsSlots := SMap.set EngSlot.idle s.cinsSlots i ((SMap.get EngSlot.idle s.cinsSlots i).finished gen st) }
  let f := fun gr : Group => (gr.resolve (handleOf e core gen) st).told (handleOf e core gen) st
  { (s1.modGroups f) with saved := s1.saved.map f }

/-! ### Copy commands -/

/-- The words of a command's block. -/
def CopyCmd.reg (c : CopyCmd) (i : Nat) : Word := c.regs.getD i 0

/-- An address operand at registers i and i + 1: a Stage offset in the first one under the variant (R187). -/
def CopyCmd.addr (c : CopyCmd) (i : Nat) (stage : Bool) : Int :=
  if stage then (c.reg i).toNat else (pair (c.reg i) (c.reg (i + 1))).toNat

/-- Bytes of one row: all of them but for `acp2`; one element for `acpg`. -/
def CopyCmd.width (c : CopyCmd) : Nat :=
  match c.form with
  | .acp => (c.reg 4).toNat
  | .acp2 => (c.reg 4).toNat
  | .acpg => 2 ^ ((c.reg 6).extractLsb' 24 3).toNat * 4
  | .afill => (c.reg 3).toNat

/-- The number of rows, or of elements. -/
def CopyCmd.rows (c : CopyCmd) : Nat :=
  match c.form with
  | .acp => 1
  | .acp2 => (c.reg 5).toNat
  | .acpg => ((c.reg 6).extractLsb' 0 24).toNat
  | .afill => 1

/-- The bytes a command moves. -/
def CopyCmd.total (c : CopyCmd) : Nat := c.width * c.rows

/-- The destination of row r (R187). -/
def CopyCmd.dstRow (c : CopyCmd) (r : Nat) : Int :=
  c.addr 0 c.ds + (match c.form with | .acp2 => (r : Int) * (c.reg 6).toInt | .acpg => (r : Int) * c.width | _ => 0)

/-- A Stage place, or a paged one, that a byte is in: the bytes behind an aperture, a peer's and the host's are compared with none
(R188; log 36, DESIGN CHOICE). -/
def placeOf (d : Dest) : Option (Bool × Nat) :=
  match d with | .paged ia => some (false, ia) | .stage b => some (true, b) | _ => none

/-- Where a run's piece lies: under the issuer's share or range table. -/
def State.cmdDest (s : State) (b : CmdBase) (stage : Bool) (a : Int) (n : Nat) (rd wr : Bool) : Except Nat Dest :=
  if stage then (shareByte b.stgFirst b.stgLines a n).map Dest.stage
  else s.translate b.part b.ranges (a % 2 ^ 64).toNat rd wr false none

/-- The pieces of a run at an address or Stage offset. -/
def intPieces (a : Int) (n : Nat) : List (Int × Nat) :=
  (piecesOf (a % 128).toNat n).map fun p => (a - a % 128 + p.1, p.2)

/-- The places of a run's bytes: (Stage, first, number); a byte with no place is left out. -/
def State.placesOf (s : State) (b : CmdBase) (stage : Bool) (a : Int) (n : Nat) (rd wr : Bool) : List (Bool × Nat × Nat) :=
  (intPieces a n).filterMap fun p =>
    match s.cmdDest b stage p.1 p.2 rd wr with
    | .ok d => (placeOf d).map fun x => (x.1, x.2, p.2)
    | .error _ => none

/-- Two runs of places share a byte. -/
def placesMeet (x y : List (Bool × Nat × Nat)) : Bool :=
  x.any fun p => y.any fun q => p.1 == q.1 && decide (p.2.1 < q.2.1 + q.2.2) && decide (q.2.1 < p.2.1 + p.2.2)

/-- The bytes of a source run as a party of a class reads them now (R200), or at the owning point for none; or the first fate that
does not go. -/
def State.engineRead (s : State) (cls : Option Obs) (b : CmdBase) (stage : Bool) : List (Int × Nat) → Except Fate (List Byte)
  | [] => .ok []
  | (a, n) :: r =>
    match s.cmdDest b stage a n true false with
    | .error c => .error (.trap c)
    | .ok d =>
      match s.fate b.part d false n with
      | .go d =>
        match s.engineRead cls b stage r with
        | .ok bs => .ok ((match cls with | some o => s.readParty b.part d n o 0 b.since | none => s.readOwned b.part d n) ++ bs)
        | .error e => .error e
      | f => .error f

/-- A party of a class has read a run under a command's range table (R171). -/
def State.touchRun (s : State) (cls : Obs) (b : CmdBase) (stage : Bool) (ps : List (Int × Nat)) : State :=
  ps.foldl (fun s p =>
    match s.cmdDest b stage p.1 p.2 true false with
    | .ok d => s.touchParty b.part d p.2 cls 0 b.since
    | .error _ => s) s

/-- The fate of a write by an engine: presence bits and poison do not stop it (R162, R165; log 25, DEDUCED), nor one by the tessellator
(log 36, DESIGN CHOICE). -/
def State.engineWriteFate (s : State) (part : Nat) (d : Dest) : Fate :=
  match d with
  | .stage _ => .go d
  | .aperture _ _ _ _ => .trap 4
  | _ => s.storeFate part d 1

/-- The destinations of a run's pieces, or the first fate that does not go. -/
def State.engineDests (s : State) (b : CmdBase) (stage : Bool) : List (Int × Nat) → Except Fate (List (Dest × Nat))
  | [] => .ok []
  | (a, n) :: r =>
    match s.cmdDest b stage a n false true with
    | .error c => .error (.trap c)
    | .ok d =>
      match s.engineWriteFate b.part d with
      | .go d =>
        match s.engineDests b stage r with
        | .ok ds => .ok ((d, n) :: ds)
        | .error e => .error e
      | f => .error f

/-- Where a run of virtual memory is written, or the first of its pieces that is not, with its address. -/
def State.runDests (s : State) (b : CmdBase) : List (Int × Nat) → Except (Fate × Nat) (List (Dest × Nat))
  | [] => .ok []
  | (a, n) :: r =>
    match s.engineDests b false [(a, n)] with
    | .error f => .error (f, (a % 2 ^ 64).toNat)
    | .ok ds =>
      match s.runDests b r with
      | .ok more => .ok (ds ++ more)
      | .error e => .error e

/-- Write bytes over pieces: the state and the latest completion times (R182). -/
def State.engineWrite (s : State) (part : Nat) : List (Dest × Nat) → List Byte → Vector Nat 6 → State × Vector Nat 6
  | [], _, t => (s, t)
  | (d, n) :: r, bs, t =>
    (s.writeDest part d (bs.take n) 0).engineWrite part r (bs.drop n) (maxTimes t (s.writeTimes d))

/-- The index word i of `acpg`'s list, as it can be read now (R187). -/
def State.gatherIndex (s : State) (c : CopyCmd) (i : Nat) : Except Fate Nat :=
  match s.engineRead (some .e) c.base false (intPieces (c.addr 4 false + 4 * i) 4) with
  | .ok bs => .ok (leNat bs)
  | .error f => .error f

/-- The source address of row or element r (R187); `afill` has none. -/
def State.srcRow (s : State) (c : CopyCmd) (r : Nat) : Except Fate (Option Int) :=
  match c.form with
  | .acp => .ok (some (c.addr 2 c.fs))
  | .acp2 => .ok (some (c.addr 2 c.fs + (r : Int) * (c.reg 7).toInt))
  | .acpg =>
    match s.gatherIndex c r with
    | .ok i => .ok (some (c.addr 2 c.fs + (i : Int) * c.width))
    | .error f => .error f
  | .afill => .ok none

/-- Every destination place of a command from byte k on. -/
def State.destPlaces (s : State) (c : CopyCmd) (k : Nat) : List (Bool × Nat × Nat) :=
  (List.range c.rows).flatMap fun r =>
    let skip := if k ≤ r * c.width then 0 else min c.width (k - r * c.width)
    s.placesOf c.base c.ds (c.dstRow r + skip) (c.width - skip) false true

/-- Every source place of a command: the bytes that are moved, as its index list gives them now; the list's own bytes are none of them
(log 36, DESIGN CHOICE). -/
def State.srcPlaces (s : State) (c : CopyCmd) : List (Bool × Nat × Nat) :=
  (List.range c.rows).flatMap fun r =>
    match s.srcRow c r with
    | .ok (some a) => s.placesOf c.base c.fs a c.width true false
    | _ => []

/-- Every run of a Stage operand lies in the share (R188). -/
def State.stageOk (s : State) (c : CopyCmd) : Bool :=
  let ok := fun a : Int => c.width == 0 || (match shareByte c.base.stgFirst c.base.stgLines a c.width with | .ok _ => true | _ => false)
  (!c.ds || (List.range c.rows).all fun r => ok (c.dstRow r)) &&
  (!c.fs || (List.range c.rows).all fun r => match s.srcRow c r with | .ok (some a) => ok a | _ => true)

/-- The check a command fails at issue (R188), in the table's order: its status code. `clave` is the Clave operand's offset. -/
def State.copyCheck (s : State) (c : CopyCmd) (clave : Option Nat) : Option Nat :=
  let claveOut := match clave with
    | none => false
    | some k => match shareByte c.base.stgFirst c.base.stgLines k 16 with | .ok _ => false | _ => true
  let wide := decide (c.form = .acpg) && decide (5 < ((c.reg 6).extractLsb' 24 3).toNat)
  if claveOut || (!wide && !s.stageOk c) then some 4
  else if (clave.getD 0) % 16 ≠ 0 then some 5
  else if c.form = .acpg ∧ (wide ∨ (c.reg 6).extractLsb' 27 5 ≠ 0) then some 7
  else if c.form = .acpg ∧ c.addr 0 c.ds % c.width ≠ 0 then some 5
  else if c.form = .acp2 ∧ 1 < c.rows ∧ (c.reg 6).toInt.natAbs < c.width then some 6
  else if placesMeet (s.destPlaces c 0) (s.srcPlaces c) then some 6
  else none

/-- The Stage lines of some places. -/
def stageLines (ps : List (Bool × Nat × Nat)) : List Nat := (ps.filter (·.1)).map fun p => p.2.1 / 128

/-- The time from which an acquiring command may read (R190). -/
def Group.acquireTime (gr : Group) (order : Order) (obs : BitVec 6) : Nat :=
  if order.acquires then (List.range 6).foldl (fun t o => if obs.getLsbD o then Nat.max t (gr.horizon.toList.getD o 0) else t) 0
  else 0

/-- What every engine command of the group in focus starts from. -/
def Group.cmdBase (gr : Group) (obs : BitVec 6) (order : Order) (clave : Option Nat) : CmdBase :=
  { grp := gr.key, part := gr.part, ranges := gr.ranges, stgFirst := gr.stgFirst, stgLines := gr.stgLines, obs := obs
    order := order, clave := clave, notBefore := gr.acquireTime order obs, since := 0, gen := 0, seq := 0, done := 0, early := [], chunk := 0
    times := Vector.replicate 6 0, cancel := false, paused := false, result := none }

/-- A Clave's 16 bytes after a credit or a change, with the completion step (R194). -/
def claveStep (expected arrived : Nat) (phase : Bool) : Nat :=
  if expected = 0 then expected + arrived * 2 ^ 32 + (if phase then 2 ^ 64 else 0)
  else
    let n := arrived / expected
    expected + (arrived % expected) * 2 ^ 32 + (if phase != decide (n % 2 = 1) then 2 ^ 64 else 0)

/-- A credit of some bytes to the Clave at a Stage byte (R195); it does not wait on the line's presence bit. -/
def State.creditClave (s : State) (b bytes : Nat) : State :=
  let c := leNat (readBytes s.stage b 16)
  let arrived := (bitsN c 63 32 + bytes) % 2 ^ 32
  s.writeDest 0 (.stage b) (leBytes 16 (claveStep (bitsN c 31 0) arrived (bitsN c 64 64 = 1))) 0

/-- The credit of a chunk waits for its writes (R195). -/
def State.addCredit (s : State) (clave : Option Nat) (bytes : Nat) (t : Vector Nat 6) : State :=
  match clave with
  | none => s
  | some b => { s with credits := s.credits ++ [⟨b, bytes, t.toList.foldl Nat.max s.now⟩] }

/-- A command with its generation and its place in the order of issue. -/
def CopyCmd.numbered (c : CopyCmd) (gen : Word) (n : Nat) : CopyCmd := { c with base := { c.base with gen := gen, seq := n } }

/-- Issue a copy command into a slot (R186 to R188): a failed check or no byte to move ends it at once. -/
def State.issueCopy (s : State) (e : EngineRef) (d : Reg) (c : CopyCmd) (clave : Option Nat) : State :=
  let gr := s.cur
  let gen := nextGen (s.slotOf e).1
  let h := handleOf e gr.core gen
  let s1 : State := { s with
    cur := gr.setHandle d h, freeCtr := s.freeCtr + 1
    copySlots := SMap.set EngSlot.idle s.copySlots (engIndex e) ⟨gen, some (c.numbered gen s.freeCtr), (s.slotOf e).2.2⟩ }
  match s.copyCheck c clave with
  | some code => s1.finishCommand e gr.core (statusWord code 0)
  | none =>
    if c.total = 0 then (s1.addCredit c.base.clave 0 (Vector.replicate 6 0)).finishCommand e gr.core (statusWord 0 0)
    else { s1 with absent := s1.absent ++ (stageLines (s.destPlaces c 0)).map fun l => (l, e) }

/-- A copy command of the group in focus (R186): it is held while the engine's 64 slots are taken. -/
def copyExec (g : BitVec 3) (form : CopyForm) (n : Nat) (d a b : Reg) (obs : BitVec 6) (order : Order) (ds fs : Bool)
    (s : State) : State :=
  uniDo 2 g (blockRegs a n ++ [b]) s fun s =>
    let gr := s.cur
    match s.chooseSlot (.copy gr.core) 64 with
    | none => s.hold .engineFull
    | some e =>
      let off := if b = 0 then none else some (gr.greg b).toNat
      let c : CopyCmd :=
        ⟨gr.cmdBase obs order (off.map fun k => gr.stgFirst * 128 + k), form, (blockRegs a n).map gr.greg, ds, fs⟩
      (s.issueCopy e d c off).retire 2

/-- `acp gh, ga [, gk]` (R186, R187). -/
def execAcp (g : BitVec 3) (d a b : Reg) (obs : BitVec 6) (order : Order) (ds fs : Bool) (s : State) :
    Host.Outcome State Fault Refusal :=
  .next (copyExec g .acp 5 d a b obs order ds fs s)

/-- `acp2 gh, ga [, gk]` (R186, R187). -/
def execAcp2 (g : BitVec 3) (d a b : Reg) (obs : BitVec 6) (order : Order) (ds fs : Bool) (s : State) :
    Host.Outcome State Fault Refusal :=
  .next (copyExec g .acp2 8 d a b obs order ds fs s)

/-- `acpg gh, ga [, gk]` (R186, R187). -/
def execAcpg (g : BitVec 3) (d a b : Reg) (obs : BitVec 6) (order : Order) (ds fs : Bool) (s : State) :
    Host.Outcome State Fault Refusal :=
  .next (copyExec g .acpg 7 d a b obs order ds fs s)

/-- `afill gh, ga [, gk]` (R186, R187). -/
def execAfill (g : BitVec 3) (d a b : Reg) (obs : BitVec 6) (order : Order) (ds : Bool) (s : State) :
    Host.Outcome State Fault Refusal :=
  .next (copyExec g .afill 4 d a b obs order ds false s)

/-! ### Chunks (R189) -/

/-- The next chunk of a command: its destination, its row, its place in the row and its length. -/
def CopyCmd.nextChunk (c : CopyCmd) : Int × Nat × Nat × Nat :=
  let r := c.base.done / c.width
  let k := c.base.done % c.width
  let d := c.dstRow r + k
  let n := match c.form with | .acpg => c.width | _ => min (c.width - k) (4096 - (d % 4096).toNat)
  (d, r, k, n)

/-- The bytes a chunk stores, or the fate that stops it. -/
def State.chunkBytes (s : State) (c : CopyCmd) (r k n : Nat) : Except Fate (List Byte) :=
  match s.srcRow c r with
  | .error f => .error f
  | .ok none => .ok ((List.range n).map fun i => ((c.reg 2).extractLsb' (8 * ((k + i) % 4)) 8))
  | .ok (some a) =>
    if c.form = .acpg ∧ a % c.width ≠ 0 then .error (.trap 3) else s.engineRead (some .e) c.base c.fs (intPieces (a + k) n)

/-- The source bytes of a chunk have been read (R171). -/
def State.touchChunk (s : State) (c : CopyCmd) (r k n : Nat) : State :=
  match s.srcRow c r with
  | .ok (some a) => s.touchRun .e c.base c.fs (intPieces (a + k) n)
  | _ => s

/-- The destination k bytes further on. -/
def Dest.shift (d : Dest) (k : Nat) : Dest :=
  match d with
  | .paged ia => .paged (ia + k)
  | .stage b => .stage (b + k)
  | .peer n ia => .peer n (ia + k)
  | .host a => .host (a + k)
  | .aperture q base off desc => .aperture q base (off + k) desc

/-- What is left to write of bytes over pieces, when those at some places are written already. -/
def unwritten (early : List Nat) (ds : List (Dest × Nat)) (bs : List Byte) : List (Dest × Nat) × List Byte :=
  if early.isEmpty then (ds, bs)
  else
    let all := (ds.flatMap fun x => (List.range x.2).map fun i => x.1.shift i).zip bs
    let left := all.zipIdx.filter fun e => !early.contains e.2
    (left.map fun e => (e.1.1, 1), left.map fun e => e.1.2)

/-- A byte of a chunk is read and written on its own (R201): the state and the latest completion times, or nothing where it cannot move. -/
def State.moveByte (s : State) (c : CopyCmd) (d : Int) (r k : Nat) (t : Vector Nat 6) : Option (State × Vector Nat 6) :=
  match s.chunkBytes c r k 1, s.engineDests c.base c.ds [(d, 1)] with
  | .ok bs, .ok ds => some ((s.touchChunk c r k 1).engineWrite c.base.part ds bs t)
  | _, _ => none

/-- The bytes of a chunk that a command stops in (R189): each byte that could be moved holds its old or its new value, which is a
free choice (log 8, DESIGN CHOICE); and the latest completion times of those written (R190). -/
def State.stoppingChunk (s : State) (c : CopyCmd) (d : Int) (r k n : Nat) : State × Vector Nat 6 :=
  (List.range n).foldl (fun t i =>
    if !c.base.early.contains i && Config.freeBool (t.1.freeCtr + i) then (t.1.moveByte c (d + i) r (k + i) t.2).getD t else t)
    (s, c.base.times)

/-- Put a copy command back into its slot. -/
def State.putCopy (s : State) (i : Nat) (c : CopyCmd) : State :=
  let x := SMap.get EngSlot.idle s.copySlots i
  { s with copySlots := SMap.set EngSlot.idle s.copySlots i { x with cmd := some c } }

/-- A command ends with a status code and the bytes done; its lines are present again (R162, R189). -/
def State.endCopy (s : State) (e : EngineRef) (c : CopyCmd) (code : Nat) : State :=
  (s.putCopy (engIndex e) { c with base := { c.base with result := some (statusWord code c.base.done) } }).releaseLines e

/-- The lines a command has finished its writes to are present again (R162). -/
def State.presentBehind (s : State) (e : EngineRef) (c : CopyCmd) : State :=
  let left := stageLines (s.destPlaces c c.base.done)
  { s with absent := s.absent.filter fun a => decide (a.2 ≠ e) || left.contains a.1 }

/-- What a fate that stops a chunk does: the command waits, or ends with the fault's status. -/
def State.chunkStop (s : State) (e : EngineRef) (c : CopyCmd) (f : Fate) (d : Int) (r k n : Nat) : State :=
  match f with
  | .replay ia => (s.reportFault c.base.part ia).putCopy (engIndex e) { c with base := { c.base with paused := true } }
  | .trap cause =>
    let w := s.stoppingChunk c d r k n
    { w.1 with freeCtr := s.freeCtr + n }.endCopy e { c with base := { c.base with times := w.2 } } (engineStatusOf cause)
  | _ => s.putCopy (engIndex e) { c with base := { c.base with paused := true } }

/-- A partition is halted. -/
def State.partHalted (s : State) (part : Nat) : Bool := match s.part? part with | some p => p.halted | none => false

/-- The copy engine carries out the next chunk of a slot's command (R189, R190). -/
def State.copyChunk (s : State) (e : EngineRef) (c : CopyCmd) : State :=
  let q := c.nextChunk
  match s.chunkBytes c q.2.1 q.2.2.1 q.2.2.2 with
  | .error f => s.chunkStop e c f q.1 q.2.1 q.2.2.1 q.2.2.2
  | .ok bs =>
    match s.engineDests c.base c.ds (intPieces q.1 q.2.2.2) with
    | .error f => s.chunkStop e c f q.1 q.2.1 q.2.2.1 q.2.2.2
    | .ok ds =>
      let left := unwritten c.base.early ds bs
      let t := if c.base.early.isEmpty then Vector.replicate 6 0 else c.base.times
      let w := (s.touchChunk c q.2.1 q.2.2.1 q.2.2.2).engineWrite c.base.part left.1 left.2 t
      let c1 := { c with base := { c.base with
        done := c.base.done + q.2.2.2, early := [], chunk := c.base.chunk + 1, paused := false, times := maxTimes c.base.times w.2 } }
      let s1 := w.1.addCredit c.base.clave q.2.2.2 w.2
      if c1.base.done = c.total then s1.endCopy e c1 0 else (s1.putCopy (engIndex e) c1).presentBehind e c1

/-- A copy command writes some bytes of its next chunk before the rest of it, each on its own (R189, R201): those of n bytes from a place in
the chunk that have not, where every byte of the chunk can move now, so that no page holds the command up inside it (R174). -/
def State.scatterChunk (s : State) (e : EngineRef) (c : CopyCmd) (place n : Nat) : State :=
  let q := c.nextChunk
  let whole := match s.chunkBytes c q.2.1 q.2.2.1 q.2.2.2, s.engineDests c.base c.ds (intPieces q.1 q.2.2.2) with | .ok _, .ok _ => true | _, _ => false
  let places := if whole then (List.range n).map (place + ·) else []
  let r := places.foldl (fun (x : State × CmdBase) k =>
    if x.2.early.contains k || decide (q.2.2.2 ≤ k) then x
    else
      match x.1.moveByte c (q.1 + k) q.2.1 (q.2.2.1 + k) x.2.times with
      | some w => (w.1, { x.2 with early := x.2.early ++ [k], times := w.2 })
      | none => x) (s, c.base)
  r.1.putCopy (engIndex e) { c with base := r.2 }

/-- A copy command of a slot that runs. -/
def State.runningCopy (s : State) (e : EngineRef) : Option CopyCmd :=
  (SMap.get EngSlot.idle s.copySlots (engIndex e)).cmd.filter fun c =>
    !(c.base.result.isSome || s.partHalted c.base.part || decide (s.now < c.base.notBefore))

/-- Bytes of a copy command's next chunk are written before the rest of it; an element of `acpg` is one chunk too (R189, R201). -/
def State.scatter (s : State) (core slot place n : Nat) : State :=
  match s.runningCopy (.copy core slot) with
  | some c => if c.base.cancel && c.base.early.isEmpty then s else s.scatterChunk (.copy core slot) c place n
  | none => s

/-- The chunks that copy commands have begun are carried out to their ends: their accesses are past translation (R172, R174). -/
def State.finishChunks (s : State) : State :=
  s.copySlots.foldl (fun s x =>
    let e := EngineRef.copy (x.1 / 64) (x.1 % 64)
    match s.runningCopy e with
    | some c => if c.base.early.isEmpty then s else s.copyChunk e c
    | none => s) s

/-- A chunk of a copy command completes (R189). A cancelled command ends between two chunks, before it has begun the next (log 41,
DEDUCED). -/
def execEngineChunkComplete (core slot : Nat) (s : State) : Host.Outcome State Fault Refusal :=
  .next (
    let e := EngineRef.copy core slot
    match s.runningCopy e with
    | none => s
    | some c => if c.base.cancel && c.base.early.isEmpty then s.endCopy e c 1 else s.copyChunk e c)

/-- A Clave credit whose chunk's writes every observer can see is made (R195). -/
def execClaveCredit (n : Nat) (s : State) : Host.Outcome State Fault Refusal :=
  .next (
    match s.credits[n]? with
    | none => s
    | some c => 
      if s.now < c.ready then s else State.creditClave { s with credits := s.credits.eraseIdx n } c.clave c.bytes)

/-- The shared part of a slot's command, and its issuing core. -/
def State.commandOf (s : State) (e : EngineRef) : Option (CmdBase × Nat) :=
  match e with
  | .copy core _ => (SMap.get EngSlot.idle s.copySlots (engIndex e)).cmd.map fun c => (c.base, core)
  | .wload _ _ => (SMap.get EngSlot.idle s.wloadSlots (engIndex e)).cmd.map fun c => (c.base, c.core)
  | .cins core _ => (SMap.get EngSlot.idle s.cinsSlots (engIndex e)).cmd.map fun c => (c.base, core)

/-- A command's status becomes readable (R190, R264): a release waits for its writes; `cins` waits for each observer it names. -/
def execEngineCommandComplete (eng : EngineRef) (s : State) : Host.Outcome State Fault Refusal :=
  .next (
    match s.commandOf eng with
    | none => s
    | some (b, core) =>
      match b.result with
      | none => s
      | some st =>
        let waits := match eng with | .cins _ _ => true | _ => b.order.releases
        if waits && !s.reached b.times b.obs then s else s.finishCommand eng core st)

/-! ### Handle instructions (R193) -/

/-- What a value in a pair is: a status word, a handle of the partition, or neither. -/
inductive HandleKind where
  | status
  | handle (e : EngineRef) (gen : Word)
  | bad
  deriving DecidableEq, Repr

/-- Read a value as a handle or a status word (R191, R193). -/
def State.handleKind (s : State) (x : DWord) : HandleKind :=
  if !x.getLsbD 63 then (if x.extractLsb' 48 8 = 0 then .status else .bad)
  else
    let core := (x.extractLsb' 48 8).toNat
    let slot := (x.extractLsb' 40 8).toNat
    let mine := match s.part? s.cur.part with | some p => p.clusters.getLsbD (core / 4) | none => false
    if !x.getLsbD 62 || decide (x.extractLsb' 32 8 ≠ 0) || decide (192 ≤ core) || !mine then .bad
    else
      match (x.extractLsb' 56 6).toNat with
      | 0 => if slot < 64 then .handle (.copy core slot) (loWord x) else .bad
      | 1 => if slot < 32 then .handle (.wload (core / 4) slot) (loWord x) else .bad
      | 2 => if slot < 32 then .handle (.cins core slot) (loWord x) else .bad
      | _ => .bad

/-- The status a handle reads, none while its command runs (R193). -/
def State.handleStatus (s : State) (e : EngineRef) (gen : Word) : Option DWord :=
  let x := s.slotOf e
  if x.2.1 = some gen then none else if x.1 = 0 ∨ x.1 ≠ gen then some (statusWord 8 0) else some x.2.2

/-- HANDLE of a handle instruction: the offending value in trapa (R218). -/
def State.badHandle (s : State) (x : DWord) : State := s.trapPath 11 0 x 2 false

/-- `hwait gd, ga` (R193). -/
def execHwait (g : BitVec 3) (d a : Reg) (s : State) : Host.Outcome State Fault Refusal :=
  .next (uniDo 2 g [] s fun s =>
    let x := s.cur.usrcD a
    match s.handleKind x with
    | .bad => s.badHandle x
    | .status => (s.setCur (s.cur.setUD d x)).retire 2
    | .handle e gen =>
      match s.cur.wait, s.handleStatus e gen with
      | .again (.status st), _ => (s.setCur (s.cur.setUD d st)).retire 2
      | _, some st => (s.setCur (s.cur.setUD d st)).retire 2
      | _, none => s.hold (.hwait x))

/-- `htst cq, ga` (R193): never waits. -/
def execHtst (g cq : BitVec 3) (a : Reg) (s : State) : Host.Outcome State Fault Refusal :=
  .next (uniDo 2 g [] s fun s =>
    let x := s.cur.usrcD a
    match s.handleKind x with
    | .bad => s.badHandle x
    | .status => (s.setCur (s.cur.setC cq true)).retire 2
    | .handle e gen => (s.setCur (s.cur.setC cq (s.handleStatus e gen).isSome)).retire 2)

/-- A command that has been asked to stop. -/
def CmdBase.cancelled (b : CmdBase) : CmdBase := { b with cancel := true }

/-- Ask a slot's command to stop (R189, R193, R264). -/
def State.cancel (s : State) (e : EngineRef) : State :=
  let i := (engIndex e)
  match e with
  | .copy _ _ =>
    let x := SMap.get EngSlot.idle s.copySlots i
    let y := x.cmd.map fun c => { c with base := c.base.cancelled }
    { s with copySlots := SMap.set EngSlot.idle s.copySlots i ⟨x.gen, y, x.status⟩ }
  | .wload _ _ =>
    let x := SMap.get EngSlot.idle s.wloadSlots i
    let y := x.cmd.map fun c => { c with base := c.base.cancelled }
    { s with wloadSlots := SMap.set EngSlot.idle s.wloadSlots i ⟨x.gen, y, x.status⟩ }
  | .cins _ _ =>
    let x := SMap.get EngSlot.idle s.cinsSlots i
    let y := x.cmd.map fun c => { c with base := c.base.cancelled }
    { s with cinsSlots := SMap.set EngSlot.idle s.cinsSlots i ⟨x.gen, y, x.status⟩ }

/-- `hcan ga` (R193): never waits. -/
def execHcan (g : BitVec 3) (a : Reg) (s : State) : Host.Outcome State Fault Refusal :=
  .next (uniDo 2 g [] s fun s =>
    let x := s.cur.usrcD a
    match s.handleKind x with
    | .bad => s.badHandle x
    | .status => s.retire 2
    | .handle e gen => if (s.handleStatus e gen).isSome then s.retire 2 else (s.cancel e).retire 2)

/-- `hmov gd, ga` (R193): never waits. -/
def execHmov (g : BitVec 3) (d a : Reg) (s : State) : Host.Outcome State Fault Refusal :=
  .next (uniDo 2 g [] s fun s =>
    let x := s.cur.usrcD a
    match s.handleKind x with
    | .bad => s.badHandle x
    | _ => (s.setCur (s.cur.setUD d x)).retire 2)

/-! ### Claves (R194, R195) -/

/-- A Clave form: alignment, the share, presence; then its effect on the 16 bytes. -/
def claveExec (g : BitVec 3) (a b : Reg) (s : State) (f : Nat → Word → Nat → State → State) : State :=
  uniDo 2 g [a, b] s fun s =>
    let off : Int := (s.cur.usrc a).toNat
    match s.accessFate true off 16 true true none with
    | .go (.stage x) => f x (s.cur.usrc b) (leNat (readBytes s.stage x 16)) s
    | fate => s.uniformStop fate (BitVec.ofInt 64 off) 2 false

/-- `clv.init a, b` (R195). -/
def execClvInit (g : BitVec 3) (a b : Reg) (s : State) : Host.Outcome State Fault Refusal :=
  .next (claveExec g a b s fun x w _ s => (s.groupWrite (.stage x) (leBytes 16 w.toNat)).retire 2)

/-- `clv.arm a, b` (R195). -/
def execClvArm (g : BitVec 3) (a b : Reg) (s : State) : Host.Outcome State Fault Refusal :=
  .next (claveExec g a b s fun x w c s =>
    (s.groupWrite (.stage x) (leBytes 16 (claveStep w.toNat (bitsN c 63 32) (bitsN c 64 64 = 1)))).retire 2)

/-- `clv.wait a, b` (R194, R195): the completion step, which a store may have left to do; then it waits while phase = b[0]; an acquire
naming every observer. -/
def execClvWait (g : BitVec 3) (a b : Reg) (s : State) : Host.Outcome State Fault Refusal :=
  .next (claveExec g a b s fun x w c s =>
    let due := decide (0 < bitsN c 31 0) && decide (bitsN c 31 0 ≤ bitsN c 63 32)
    let n := claveStep (bitsN c 31 0) (bitsN c 63 32) (bitsN c 64 64 = 1)
    let s1 := if due then s.groupWrite (.stage x) (leBytes 16 n) else s
    if (bitsN (if due then n else c) 64 64 = 1) = w.getLsbD 0 then s1.hold .clave else s1.retire 2)

end Sys2Proof.Machine
end

