-- ==== Sys2Proof/Machine/Spill.lean ====
section
/-!
DEFINITION. The queue spill engine (R273): what rings hold, what a region is charged for it, and the trap QUOTA.
-/

namespace Sys2Proof.Machine

/-- The 4 KiB units of some bytes of one ring (R273). -/
def spillUnits (bytes : Nat) : Nat := (bytes + 4095) / 4096

/-- The bytes each ring of a group's ports holds. -/
def Group.ringBytes (gr : Group) : List Nat := gr.ports.toList.map fun p => 4 * p.ring.length

/-- The place that Carillon gives a ring at dispatch (R273): in one of the region's ranges of memory, its IA and its capacity in bytes; where
it lies in them is a free choice (log 10, DESIGN CHOICE). -/
def placeRing (ranges : List RangeEnt) (key : Nat) : Nat × Nat :=
  let es := ranges.filter fun e => e.valid && e.typ == 0 && decide (0 < e.len)
  match es[Config.freeNat key % es.length]? with
  | none => (0, 0)
  | some e =>
    let x := Config.spillRing key
    let off := x.1 % (e.len * 65536)
    (e.iabase + off, min x.2 (e.len * 65536 - off))

/-- The ring of a port. -/
def Group.portRing (gr : Group) (q : Nat) : Nat × Nat := placeRing gr.ranges (gr.key * 16 + q)

/-- The region a call comes from: the nearest one. -/
def Call.region (c : Call) : Nat := c.chain.headD 0

/-- The ring of a unit's call queue in the region of a call. -/
def Call.ring (c : Call) (cluster : Nat) : Nat × Nat :=
  placeRing c.ranges (2 ^ 80 + regionKey c.part c.region * 512 + cluster * 8 + c.unit.code.toNat)

/-- Two calls are spilled to one ring: they come from one region. -/
def Call.sameRing (a b : Call) : Bool := a.part == b.part && a.region == b.region

/-- The bytes of some calls. -/
def callBytes (cs : List Call) : Nat := (cs.map fun c => 4 * c.words.length).sum

/-- The units that a queue's spilled calls hold for a region, ring by ring (R273). -/
def callUnits (part r : Nat) (cs : List Call) : Nat :=
  let mine := cs.filter fun c => c.part == part && c.chain.contains r
  ((mine.map Call.region).dedup.map fun x => spillUnits (callBytes (mine.filter fun c => c.region == x))).sum

/-- The spill engine stores bytes into a ring, as far as its pages stand (R273). -/
def State.ringWrite (s : State) (part ia : Nat) (bs : List Byte) : State :=
  ((piecesOf ia bs.length).foldl (fun (x : State × List Byte) p =>
    match x.1.storeFate part (.paged p.1) p.2 with
    | .go d => (x.1.writeDest part d (x.2.take p.2) 0, x.2.drop p.2)
    | _ => (x.1, x.2.drop p.2)) (s, bs)).1

/-- What stops the spill engine at n bytes of a ring: the first piece that does not go. -/
def State.ringStop (s : State) (part ia n : Nat) (wr : Bool) : Option Fate :=
  ((piecesOf ia n).map fun p => if wr then s.storeFate part (.paged p.1) p.2 else s.fate part (.paged p.1) false p.2).find? fun f => !f.goes

/-- Elements from number n on are stored into a ring, each in a slot of its own size: which slot an element takes is the device's own
business (log 10, DESIGN CHOICE). -/
def State.ringStore (s : State) (part : Nat) (ring : Nat × Nat) (size n : Nat) : List (List Byte) → State
  | [] => s
  | e :: es => (s.ringWrite part (ring.1 + n % (max 1 (ring.2 / size)) * size) e).ringStore part ring size (n + 1) es

/-- The bytes a work list's ring holds for a region. -/
def ListQueue.bytes (r : Nat) (q : ListQueue) : Nat :=
  (if q.wide then 8 else 4) * (q.owners.filter fun o => o.contains r).length

/-- The units charged to a region (R273): those of every ring, rounded up per ring; a group that has ended holds what it has still to
write. -/
def State.unitsHeld (s : State) (part r : Nat) : Nat :=
  (((s.holders ++ s.draining).filter fun gr => gr.part == part && gr.chain.contains r).flatMap fun gr => gr.ringBytes.map spillUnits).sum +
  ((s.clusters.toList.flatMap fun c => c.rings.toList).map fun q => callUnits part r q).sum +
  (s.lists.map fun e => spillUnits (e.2.bytes (regionKey part r))).sum

/-- Every region of a chain keeps within its quota (R273). -/
def State.quotaOk (s : State) (part : Nat) (chain quotas : List Nat) : Bool :=
  (chain.zip quotas).all fun e => decide (s.unitsHeld part e.1 ≤ e.2 + SMap.get 0 s.granted (regionKey part e.1))

/-- The trap QUOTA of a push (R218, R273): its record, then the trap, which replays. -/
def State.quotaTrap (s : State) (ring : Nat) (lanes : Mask) (len : Nat) : State :=
  (s.faultRecord 2 10 (BitVec.ofNat 64 ring) lanes s.cur.path.pc).takeTrap
    ⟨10, 0, BitVec.ofNat 64 ring, lanes, len, true⟩

end Sys2Proof.Machine
end

