-- ==== Sys2Proof/Machine/Calls.lean ====
section
/-!
DEFINITION. Calls to the coprocessors (R276 to R284): call records, chime tokens, the call queues, the delivery of return records to
lanes and to consumers, and `qcall`, `qret`, `qret.trap`, `qtok`.
-/

namespace Sys2Proof.Machine

/-! ### Clusters -/

/-- A cluster's units. -/
def State.cluster (s : State) (n : Nat) : Cluster := s.clusters[n]?.getD Cluster.idle
/-- Replace a cluster's units. -/
def State.setCluster (s : State) (n : Nat) (c : Cluster) : State := { s with clusters := s.clusters.setIfInBounds n c }
/-- A unit's call queue. -/
def Cluster.queue (c : Cluster) (u : CUnit) : List Call := c.queues[u.code.toNat]?.getD []
/-- A unit's spill ring. -/
def Cluster.ring (c : Cluster) (u : CUnit) : List Call := c.rings[u.code.toNat]?.getD []
/-- Replace a unit's queue and ring. -/
def Cluster.setQueue (c : Cluster) (u : CUnit) (q r : List Call) : Cluster :=
  { c with queues := c.queues.setIfInBounds u.code.toNat q, rings := c.rings.setIfInBounds u.code.toNat r }

/-! ### Records (R278) -/

/-- Word i of a record. -/
def Call.word (c : Call) (i : Nat) : Word := c.words.getD i 0
/-- The route of a record. -/
def Call.route (c : Call) : Nat := (bitsN (c.word 1).toNat 31 24)
/-- The chime stream of a record. -/
def Call.stream (c : Call) : Nat := bitsN (c.word 1).toNat 23 20
/-- The token of a record. -/
def Call.token (c : Call) : Word := c.word 0
/-- The tag of a record. -/
def Call.tag (c : Call) : Nat := bitsN (c.word 1).toNat 15 0
/-- The header's reserved bits are zero. -/
def Call.headOk (c : Call) : Bool := decide (bitsN (c.word 1).toNat 19 16 = 0)
/-- Words lo to hi of a record are zero. -/
def Call.zeros (c : Call) (lo hi : Nat) : Bool := (List.range (hi + 1 - lo)).all fun i => decide (c.word (lo + i) = 0)

/-- What a unit's accesses for a record translate under (R293). -/
def Call.base (c : Call) : CmdBase :=
  { grp := c.grp, part := c.part, ranges := c.ranges, stgFirst := 0, stgLines := 0, obs := 0, order := .plain, clave := none
    notBefore := c.notBefore, since := c.issued, gen := 0, seq := 0, done := 0, early := [], chunk := 0, times := Vector.replicate 6 0, cancel := false, paused := false
    result := none }

/-- The words of a unit's return record (R276). -/
def returnWords (u : CUnit) : Nat := match u with | .filt => 8 | .trav => 8 | _ => 4

/-- A return record (R279). -/
def Call.result (c : Call) (status : Nat) (ws : List Word) : List Word :=
  (BitVec.ofNat 32 (status * 2 ^ 24 + c.unit.code.toNat * 2 ^ 20 + c.tag) :: ws ++ List.replicate 8 0).take (returnWords c.unit)

/-! ### Chime tokens (R283, R284) -/

/-- A token's difference from a base, as a signed number. -/
def tokenDiff (t base : Word) : Int := (t - base).toInt

/-- A chime stream. -/
def Cluster.chime (c : Cluster) (n : Nat) : Chime := c.chimes[n]?.getD Chime.initial
/-- Replace a chime stream. -/
def Cluster.setChime (c : Cluster) (n : Nat) (x : Chime) : Cluster := { c with chimes := c.chimes.setIfInBounds n x }

/-- The base passes settled tokens, at most n of them. -/
def Chime.advance (x : Chime) : Nat → Chime
  | 0 => x
  | n + 1 =>
    if x.settled.contains x.base then
      Chime.advance { x with base := x.base + 1, settled := x.settled.filter fun t => t != x.base } n
    else x

/-- A token is settled (R284). -/
def Chime.settle (x : Chime) (t : Word) : Chime :=
  if tokenDiff t x.base < 0 ∨ x.settled.contains t then x
  else Chime.advance { x with settled := t :: x.settled } (x.settled.length + 1)

/-- Settle a token of a stream. -/
def Cluster.settle (c : Cluster) (stream : Nat) (t : Word) : Cluster := c.setChime stream ((c.chime stream).settle t)

/-- A token's difference from its stream's base. -/
def Cluster.diff (c : Cluster) (stream : Nat) (t : Word) : Int := tokenDiff t (c.chime stream).base

/-- A record that settles its token on entering a call queue (R284). -/
def Call.settlesOnEntry (c : Call) : Bool := decide (c.typ = 0) || decide (c.unit = .depth) || decide (c.unit = .blend)

/-- Records enter their unit's call queue together: a token below the base makes a record stale (R276, R284), and the others
settle what they settle. -/
def Cluster.enter (c : Cluster) (u : CUnit) (xs : List Call) : Cluster :=
  let ys := xs.map fun x => { x with stale := decide (c.diff x.stream x.token < 0) }
  let c1 := c.setQueue u (c.queue u ++ ys) (c.ring u)
  ys.foldl (fun c x => if x.settlesOnEntry && !x.stale then c.settle x.stream x.token else c) c1

/-! ### Returning (R279, R280) -/

/-- Change the group of a key, running or saved; one that has ended is gone. -/
def State.modCaller (s : State) (key : Nat) (f : Group → Group) : State :=
  let g := fun gr : Group => if gr.live ∧ gr.key = key then f gr else gr
  { (s.modGroups g) with saved := s.saved.map g }

/-- Hand a return record to the calling lane; a group that has ended gets none. -/
def State.toLane (s : State) (c : Call) (ready : Nat) (ws : List Word) : State :=
  s.modCaller c.grp fun gr => { gr with returns := gr.returns ++ [⟨c.unit, c.lane, c.key, ready, ws⟩] }

/-- A consumer has taken the return of a call: none comes to its lane. -/
def State.toConsumer (s : State) (c : Call) : State :=
  s.modCaller c.grp fun gr => { gr with owed := gr.owed.filter fun o => o.call != c.key }

/-- A partition's consumer of a number. -/
def State.consumer? (s : State) (part n : Nat) : Option Consumer := (s.part? part).bind fun p => p.consumers.find? fun c => c.n == n

/-- The consumer a record is routed to, where its records have the size of the unit's returns (R277). -/
def State.routeTo (s : State) (c : Call) : Option Consumer :=
  match s.consumer? c.part (c.route - 2) with
  | some x => if 2 ^ x.rsz = 4 * returnWords c.unit then some x else none
  | none => none

/-- The slots of a ring that hold records or batches not yet freed. -/
def Consumer.used (c : Consumer) : Nat := c.held.length + (c.batches.map fun b => b.2.1).sum

/-- Change a consumer. -/
def State.setConsumer (s : State) (part : Nat) (c : Consumer) : State :=
  { s with parts := s.parts.map fun p =>
      if p.n = part then { p with consumers := p.consumers.map fun x => if x.n = c.n then c else x } else p }

/-- The fate of an access of a unit for a record (R293, R294): a write alone is not stopped by poison. -/
def State.callFate (s : State) (c : Call) (va n : Nat) (rd : Bool) : Fate :=
  match s.translate c.part c.ranges (va % 2 ^ 64) rd true false none with
  | .error k => .trap k
  | .ok d => if rd then s.fate c.part d true n else s.storeFate c.part d n

/-- A fault at a byte of paged memory is poison's: its walk ends at a resident page. -/
def State.poisonStatus (s : State) (part ia : Nat) : Nat := match s.walk part ia with | .resident _ _ _ _ _ => 11 | _ => 5

/-- The status of a fault that ends a record (R279, R294): poison is told apart from a fatal page, also under an aperture. -/
def State.unitStatus (s : State) (c : Call) (va : Nat) (cause : Nat) : Nat :=
  match cause with
  | 3 => 7
  | 4 => 6
  | _ =>
    match s.translate c.part c.ranges va false false false none with
    | .ok (.paged ia) => s.poisonStatus c.part ia
    | .ok (.stage _) => 11
    | .ok (.aperture q base off desc) =>
      match s.apertureStuck c.part q base off desc 128 with
      | some ia => s.poisonStatus c.part ia
      | none => 5
    | _ => 5

/-- The address of the ring slot that a consumer's next record goes to (R277). -/
def Consumer.slotVa (x : Consumer) : Nat := (x.ring + x.tail * 2 ^ x.rsz) % 2 ^ 64

/-- Deliver a finished record (R276, R277, R293): none while its consumer's ring is full or its slot waits for a page; one whose slot cannot be
written goes to the calling lane with that fault's status (log 36, DESIGN CHOICE). -/
def State.deliver (s : State) (j : Job) : Option State :=
  let c := j.call
  let ws := c.result j.status j.words
  let ready := j.times.toList.getD 0 0
  if c.route = 1 then some s
  else if c.route = 0 then some (s.toLane c ready ws)
  else
    match s.routeTo c with
    | none => some (s.toLane c ready (c.result 8 []))
    | some x =>
      if x.ringcap ≤ x.used then none
      else
        match s.callFate c x.slotVa (2 ^ x.rsz) false with
        | .go d =>
          let t := s.writeTimes d
          let s1 := s.writeDest c.part d (ws.flatMap fun w => leBytes 4 w.toNat) 0
          let y := { x with tail := (x.tail + 1) % x.ringcap, held := x.held ++ [(s.now, t.toList.getD 0 0)] }
          some (((s1.setConsumer c.part y).toConsumer c).consumerLaunch c.part x.n)
        | .trap k => some (s.toLane c ready (c.result (s.unitStatus c x.slotVa k) []))
        | .replay _ => none
        | .absent => none

/-- The page that a finished record's slot waits for is reported (R170, R277). -/
def State.reportRing (s : State) (j : Job) : State :=
  match s.routeTo j.call with
  | some x =>
    match s.callFate j.call x.slotVa (2 ^ x.rsz) false with
    | .replay ia => if x.ringcap ≤ x.used then s else s.reportFault j.call.part ia
    | _ => s
  | none => s

/-- A record is done: it is delivered, or stays with its unit until it can be. -/
def State.finishJob (s : State) (cluster : Nat) (j : Job) : State :=
  let drop := fun (s : State) => s.setCluster cluster
    { s.cluster cluster with jobs := (s.cluster cluster).jobs.filter fun x => x.call.key != j.call.key }
  match s.deliver j with
  | some s1 => drop s1
  | none =>
    let s1 := drop (s.reportRing j)
    s1.setCluster cluster { s1.cluster cluster with jobs := (s1.cluster cluster).jobs ++ [{ j with left := 0 }] }

/-- A record that did not get as far as a turn. -/
def Call.job (c : Call) (status : Nat) (ws : List Word) : Job := ⟨c, 0, 0, 0, 0, Vector.replicate 6 0, status, ws⟩

/-! ### `qcall`, `qret` (R280 to R282) -/

/-- The number of a lane's calls to a unit with route 0 that await return (R282). -/
def Group.owedTo (gr : Group) (u : CUnit) (l : Nat) : Nat := (gr.owed.filter fun o => o.unit == u && o.lane == l && o.consumer.isNone).length

/-- The record of a lane. -/
def State.callOf (s : State) (a : Reg) (typ : Nat) (u : CUnit) (n l key : Nat) : Call :=
  let gr := s.cur
  { key := key, grp := gr.key, lane := l, part := gr.part, core := gr.core, unit := u, typ := typ
    words := (blockRegs a n).map fun r => lane (gr.vreg r) l
    ranges := gr.ranges, chain := gr.chain, faultdom := gr.faultdom, notBefore := gr.horizon.toList.getD 3 0, issued := s.nextKey, stale := false }

/-- What a record's lane may be owed: its route returns to the lane, or names a consumer (R277, R280). -/
def Call.owed (c : Call) : Option Owed :=
  match c.route with
  | 0 => some ⟨c.unit, c.lane, c.key, none⟩
  | 1 => none
  | n + 2 => some ⟨c.unit, c.lane, c.key, some n⟩

/-- Calls are stored into the ring of their region (R273). -/
def State.spillCalls (s : State) (cluster : Nat) (xs : List Call) : State :=
  xs.foldl (fun s x => s.ringStore x.part (x.ring cluster) 64 x.key [x.words.flatMap fun w => leBytes 4 w.toNat]) s

/-- The room in a unit's queue for records that come now: none while its ring holds records. -/
def Cluster.room (c : Cluster) (u : CUnit) : Nat := if (c.ring u).isEmpty then 256 - (c.queue u).length else 0

/-- `qcall.unit[.sp] va, type` (R280, R282). -/
def execQcall (g : BitVec 3) (a : Reg) (typ : BitVec 7) (unit : CUnit) (sp : Bool) (s : State) :
    Host.Outcome State Fault Refusal :=
  .next (laneDo 2 g [] s fun m s =>
    let gr := s.cur
    let n := (unit.callRegs typ.toNat).getD 4
    let ls := lanesOf m
    let xs := (ls.zip (List.range ls.length)).map fun e => s.callOf a typ.toNat unit n e.1 (s.nextKey + e.2)
    let cl := gr.core / 4
    let c := s.cluster cl
    let room := c.room unit
    if xs.any fun x => decide (x.route = 0) && decide (16 ≤ gr.owedTo unit x.lane) then s.hold .calls
    else if room < xs.length ∧ !sp then s.hold .calls
    else
      let c1 := c.enter unit (xs.take room)
      let c2 := c1.setQueue unit (c1.queue unit) (c1.ring unit ++ xs.drop room)
      let s1 := s.setCluster cl c2
      let ring := match xs with | [] => (0, 0) | x :: _ => x.ring cl
      let bytes := callBytes ((c2.ring unit).filter fun y => xs.any fun x => x.sameRing y)
      if room < xs.length ∧ (ring.2 < bytes ∨ !s1.quotaOk gr.part gr.chain gr.quotas) then s.quotaTrap ring.1 m 2
      else
        let s1 := s1.spillCalls cl (xs.drop room)
        State.retire { s1 with nextKey := s.nextKey + xs.length, cur := { s1.cur with owed := s1.cur.owed ++ xs.filterMap Call.owed } } 2)

/-- A call of a partition awaits return to its lane now (R277): its route is 0, or names no consumer that takes its unit's returns. -/
def State.awaits (s : State) (part : Nat) (o : Owed) : Bool :=
  match o.consumer with
  | none => true
  | some n => (s.consumer? part n).all fun x => decide (2 ^ x.rsz ≠ 4 * returnWords o.unit)

/-- The oldest call of a lane to a unit that awaits return, as `q` has it, or whose return has come, with that return (R280). -/
def Group.oldest (gr : Group) (q : Owed → Bool) (u : CUnit) (l : Nat) : Option (Owed × Option Return) :=
  (gr.owed.find? fun o => o.unit == u && o.lane == l && (q o || gr.returns.any fun r => r.call == o.call)).map fun o =>
    (o, gr.returns.find? fun r => r.call == o.call)

/-- The oldest call of a lane of the group in focus that awaits return. -/
def State.oldest (s : State) (u : CUnit) (l : Nat) : Option (Owed × Option Return) := s.cur.oldest (s.awaits s.cur.part) u l

/-- A return that can be read now (R293). -/
def State.ready (s : State) (r : Option Return) : Bool := match r with | some x => decide (x.ready ≤ s.now) | none => false

/-- Pop the returns of lanes into registers from d. -/
def Group.popReturns (gr : Group) (q : Owed → Bool) (u : CUnit) (d : Reg) (ls : List Nat) : Group :=
  ls.foldl (fun gr l =>
    match gr.oldest q u l with
    | some (o, some r) =>
      let g1 := (List.range (returnWords u)).foldl (fun gr i =>
        gr.setV (d + BitVec.ofNat 7 i) (1#64 <<< l) (Vector.replicate 64 (r.words.getD i 0))) gr
      { g1 with owed := gr.owed.filter fun x => x.call != o.call, returns := gr.returns.filter fun x => x.call != o.call }
    | _ => gr) gr

/-- The status of a lane's oldest return. -/
def State.oldStatus (s : State) (u : CUnit) (l : Nat) : Nat :=
  match s.oldest u l with
  | some (_, some r) => bitsN (r.words.headD 0).toNat 31 24
  | _ => 0

/-- `qret` and `qret.trap`: HANDLE in lanes with no call awaiting return, whose trapa the spec does not state (log 16, DESIGN CHOICE); a wait
until every lane has its record; then what the form does with them. -/
def qretDo (g : BitVec 3) (unit : CUnit) (s : State) (f : Mask → State → State) : State :=
  laneDo 2 g [] s fun m s =>
    let none_ := maskOf fun l => m.getLsbD l && (s.oldest unit l).isNone
    if none_ ≠ 0 then
      State.takeTrap { s with freeCtr := s.freeCtr + 1 } ⟨11, 0, 0#32 ++ Config.freeWord s.freeCtr, none_, 2, false⟩
    else if !((lanesOf m).all fun l => match s.oldest unit l with | some (_, r) => s.ready r | none => false) then s.hold .returns
    else f m s

/-- `qret.unit vd` (R280). -/
def execQret (g : BitVec 3) (d : Reg) (unit : CUnit) (s : State) : Host.Outcome State Fault Refusal :=
  .next (qretDo g unit s fun m s => (s.setCur (s.cur.popReturns (s.awaits s.cur.part) unit d (lanesOf m))).retire 2)

/-- `qret.trap.unit vd` (R280): lanes with a nonzero status keep their record and raise COPROC (R218). -/
def execQretTrap (g : BitVec 3) (d : Reg) (unit : CUnit) (s : State) : Host.Outcome State Fault Refusal :=
  .next (qretDo g unit s fun m s =>
    let bad := maskOf fun l => m.getLsbD l && decide (s.oldStatus unit l ≠ 0)
    let low := s.oldStatus unit (lowestLane bad)
    let s1 := s.setCur (s.cur.popReturns (s.awaits s.cur.part) unit d (lanesOf (m &&& ~~~bad)))
    if bad = 0 then s1.retire 2 else s1.takeTrap ⟨12, unit.code.toNat, BitVec.ofNat 64 low, bad, 2, false⟩)

/-- Tokens that are reserved beyond the base (R283): the base may have passed the counter. -/
def Chime.reserved (x : Chime) : Int :=
  let d : Int := (x.counter - x.base).toNat
  if 2 ^ 31 < d then d - 2 ^ 32 else d

/-- `qtok gd, ga` (R283). -/
def execQtok (g : BitVec 3) (d a : Reg) (s : State) : Host.Outcome State Fault Refusal :=
  .next (uniDo 2 g [a] s fun s =>
    let w := s.cur.usrc a
    let stream := (w.extractLsb' 0 4).toNat
    let n := (w.extractLsb' 16 9).toNat
    let cl := s.cur.core / 4
    let x := (s.cluster cl).chime stream
    if w &&& 0xFE00FFF0 ≠ 0 ∨ 256 < n then s.trapPath 11 0 (0#32 ++ w) 2 false
    else if 2 ^ 31 < x.reserved + n then s.hold .token
    else
      let s1 := s.setCluster cl ((s.cluster cl).setChime stream { x with counter := x.counter + BitVec.ofNat 32 n })
      (s1.setCur (s1.cur.setU d x.counter)).retire 2)

end Sys2Proof.Machine
end

