-- ==== Sys2Proof/Machine/Placement.lean ====
section
/-!
DEFINITION. Room on a core (R12, R33, R305), Stage runs (R161), the RCB tree and its budgets (R27 to R29, R301), and the state of
a new group (R32, R41).
-/

namespace Sys2Proof.Machine

/-! ### Room on a core -/

/-- A group occupies an octet of its slot (R12). -/
def Group.inOctet (gr : Group) (o : Nat) : Bool := decide (gr.octet ≤ o) && decide (o < gr.octet + gr.width / 8)

/-- The register-file words used in each lane of an octet (R33). -/
def wordsUsed (gs : List Group) (core slot o : Nat) : Nat :=
  ((gs.filter fun gr => gr.core == core && gr.slot == slot && gr.inOctet o).map fun gr => 96 + gr.xwords).sum

/-- A group of some width and allotment fits from a first octet (R33). -/
def octetFits (gs : List Group) (core width xwords slot first : Nat) : Bool :=
  (List.range (width / 8)).all fun i => decide (wordsUsed gs core slot (first + i) + 96 + xwords ≤ 1024)

/-- The permitted first octets of a width (R12). -/
def firstOctets (width : Nat) : List Nat := (List.range 8).filter fun o => o % (width / 8) == 0

/-- The slot and first octet a group takes (R305): the lowest slot with a free context and a first octet with room, and the
lowest such octet. -/
def placeGroup (gs : List Group) (core width xwords : Nat) : Option (Nat × Nat) :=
  (List.range 4).findSome? fun slot =>
    if 16 ≤ (gs.filter fun gr => gr.core == core && gr.slot == slot).length then none
    else ((firstOctets width).find? (octetFits gs core width xwords slot)).map fun o => (slot, o)

/-- The lowest contiguous run of n free tiles of a core (R305). -/
def freeTiles (gs : List Group) (core n : Nat) : Option Nat :=
  if n = 0 then some 0
  else
    (List.range (65 - n)).find? fun b => gs.all fun gr =>
      gr.core != core || gr.tileCount == 0 || decide (gr.tileBase + gr.tileCount ≤ b) || decide (b + n ≤ gr.tileBase)

/-- Place n groups in ascending gid (R305): their slots and octets. -/
def placeAll (core width xwords : Nat) : Nat → List Group → Option (List (Nat × Nat))
  | 0, _ => some []
  | n + 1, gs =>
    match placeGroup gs core width xwords with
    | none => none
    | some (slot, o) =>
      (placeAll core width xwords n
        (gs ++ [{ Group.idle with core := core, slot := slot, octet := o, width := width, xwords := xwords }])).map
        fun r => (slot, o) :: r

/-- The age of a group placed now (R307): the youngest. -/
def State.nextAge (s : State) : Nat := (s.holders.map fun gr => gr.age + 1).foldl Nat.max 0

/-! ### Stage runs -/

/-- The partition's Stage as maximal runs of lines: (first, number) (R21). -/
def stageRuns (m : BitVec 256) : List (Nat × Nat) :=
  (List.range 256).foldl (fun r i =>
    if m.getLsbD i then
      match r.getLast? with
      | some (a, n) => if a + n = 8192 * i then r.dropLast ++ [(a, n + 8192)] else r ++ [(8192 * i, 8192)]
      | none => [(8192 * i, 8192)]
    else r) []

/-- Take the lines of a held run out of free runs. -/
def cutRun (h : Nat × Nat) (runs : List (Nat × Nat)) : List (Nat × Nat) :=
  runs.flatMap fun r =>
    let e := r.1 + r.2
    let he := h.1 + h.2
    if h.2 = 0 ∨ he ≤ r.1 ∨ e ≤ h.1 then [r]
    else (if r.1 < h.1 then [(r.1, h.1 - r.1)] else []) ++ (if he < e then [(he, e - he)] else [])

/-- The free runs of a partition's Stage: what none of its own cohorts holds (R21, R161). -/
def State.freeRuns (s : State) (p : Partition) : List (Nat × Nat) :=
  (s.cohorts.filter fun c => c.part == p.n).foldl (fun r c => cutRun (c.stgFirst, c.stgLines) r) (stageRuns p.stageMiB)

/-- Keep the part of runs that lies on a die (R14). -/
def runsOnDie (d : Nat) (runs : List (Nat × Nat)) : List (Nat × Nat) :=
  runs.filterMap fun r =>
    let a := max r.1 (d * 524288)
    let e := min (r.1 + r.2) ((d + 1) * 524288)
    if a < e then some (a, e - a) else none

/-- The number of places for a run of n lines. -/
def placesIn (n : Nat) (runs : List (Nat × Nat)) : Nat := (runs.map fun r => r.2 + 1 - n).sum

/-- The k-th place for a run of n lines. -/
def placeAt (n : Nat) : Nat → List (Nat × Nat) → Nat
  | _, [] => 0
  | k, r :: rs => if k < r.2 + 1 - n then r.1 + k else placeAt n (k - (r.2 + 1 - n)) rs

/-- A free run of n lines (R161): on the core's die when it has room, else anywhere in the partition, over two
dies too (log 36, DESIGN CHOICE); which of the possible runs it is, is a free choice (log 7, DESIGN CHOICE). -/
def State.stageRun (s : State) (p : Partition) (core n : Nat) : Option Nat :=
  if n = 0 then some 0
  else
    let free := s.freeRuns p
    let near := runsOnDie (core / 48) free
    let runs := if placesIn n near = 0 then free else near
    if placesIn n runs = 0 then none else some (placeAt n (Config.freeNat s.freeCtr % placesIn n runs) runs)

/-- A share is zero-filled with every presence bit set (R161); the fill writes every byte, so no line of it is poisoned (R165; log 36,
DESIGN CHOICE). -/
def State.clearShare (s : State) (first lines : Nat) : State :=
  let out := fun a => decide (a < first * 128) || decide ((first + lines) * 128 ≤ a)
  { s with
    stage := s.stage.filter fun e => out e.1
    absent := s.absent.filter fun a => out (a.1 * 128)
    poison := SMap.keep (fun k => decide (k < 2 ^ 40 + first) || decide (2 ^ 40 + first + lines ≤ k)) s.poison }

/-! ### The RCB tree -/

/-- Why a chain cannot be used: a refusal reason (R301), or a page to wait for. -/
inductive ChainStop where
  | refuse (reason : Nat)
  | wait (ia : Option Nat)
  deriving DecidableEq, Repr

/-- The chain of RCBs from one to its root, nearest first (R27, R28). -/
def State.chainFrom (s : State) (part : Nat) : Nat → Nat → List (Nat × BitVec 1024) → Except ChainStop (List (Nat × BitVec 1024))
  | 0, _, _ => .error (.refuse 9)
  | fuel + 1, ia, seen =>
    if seen.any fun e => e.1 == ia then .error (.refuse 9)
    else if ia % 128 ≠ 0 then .error (.refuse 10)
    else
      match s.readIA part ia 128 with
      | .error (.replay p) => .error (.wait (some p))
      | .error .absent => .error (.wait none)
      | .error _ => .error (.refuse 10)
      | .ok bs =>
        let r := BitVec.ofNat 1024 (leNat bs)
        let parent := fieldN r 51 0
        if parent = 0 then .ok (seen ++ [(ia, r)]) else s.chainFrom part fuel parent (seen ++ [(ia, r)])

/-- The chain of a region. Only an RCB with a byte that is not 0 names a parent, so a chain that does not return to itself is
shorter than the number of stored bytes. -/
def State.rcbChain (s : State) (part rcb : Nat) : Except ChainStop (List (Nat × BitVec 1024)) :=
  s.chainFrom part (s.mem.length + s.stage.length + 2) rcb []

/-- The effective field of an override bit (R27): that of the nearest RCB that gives it. -/
def effective (chain : List (Nat × BitVec 1024)) (bit hi lo : Nat) : Option Nat :=
  (chain.find? fun e => e.2.getLsbD (64 + bit)).map fun e => fieldN e.2 hi lo

/-- A root leaves one of the override bits 0 to 8 clear (R27). -/
def rootBad (chain : List (Nat × BitVec 1024)) : Bool :=
  match chain.getLast? with
  | none => true
  | some e => (List.range 9).any fun i => !e.2.getLsbD (64 + i)

/-- A group counts for a region (R22, R29): it belongs to the region's partition, and the region stands on its chain. -/
def Group.inRegion (gr : Group) (part rcb : Nat) : Bool := gr.part == part && gr.chain.contains rcb

/-- The group contexts a region and its descendants hold (R29). -/
def State.contextsHeld (s : State) (part rcb : Nat) : Nat := (s.holders.filter fun gr => gr.inRegion part rcb).length

/-- The Stage lines a region and its descendants hold (R29). -/
def State.linesHeld (s : State) (part rcb : Nat) : Nat :=
  (s.cohorts.map fun c =>
    match s.holders.find? fun gr => gr.cohort == c.key with
    | some gr => if gr.inRegion part rcb then c.stgLines else 0
    | none => 0).sum

/-- Every level of a chain keeps within its budgets with more contexts and lines (R29): a cohort's dispatch asks all three, a
`spawn` the contexts alone (R41). -/
def State.withinBudget (s : State) (part contexts lines : Nat) (cohort : Bool) : List (Nat × BitVec 1024) → Bool
  | [] => true
  | e :: r =>
    let eff := fun bit hi lo => (effective (e :: r) bit hi lo).getD 0
    let cyc := eff 0 191 128
    decide (s.contextsHeld part e.1 + contexts ≤ min 12288 (eff 3 269 256)) &&
    (!cohort || decide (s.linesHeld part e.1 + lines ≤ eff 1 215 192)) &&
    (!cohort || cyc == 2 ^ 64 - 1 || decide (SMap.get 0 s.cycles (regionKey part e.1) < cyc)) &&
    s.withinBudget part contexts lines cohort r

/-! ### A new group -/

/-- The base of a group's stack (R32). -/
def stackBase (e : BitVec 1024) (cid gid : Nat) : DWord :=
  BitVec.ofNat 64 ((fieldN e 383 320 + (cid * 16 + gid) * fieldN e 295 280 * 16) / 16 * 16)

/-- What every new group has (R32): width, registers cleared, one path at its entry with all lanes. -/
def Group.fresh (width : Nat) (entry : PC) : Group :=
  { Group.idle with
    live := true, width := width, xm := widthMask width
    s0 := ⟨true, entry, widthMask width, 0x3FFFFFFF⟩ }

/-- The cause-free clearing of a new group's tiles: unconfigured, every `tcfg` zero (R32). -/
def State.clearTiles (s : State) (core base n : Nat) : State :=
  let key := fun t => core * 64 + t
  { s with
    tileCfg := SMap.keep (fun k => decide (k < key base) || decide (key base + n ≤ k)) s.tileCfg
    tiles := s.tiles.filter fun e => decide (e.1 < key base * 4096) || decide ((key base + n) * 4096 ≤ e.1) }

end Sys2Proof.Machine
end

