-- ==== Sys2Proof/Machine/Control.lean ====
section
/-!
DEFINITION. Branches, calls, stack pops and pushes (R137 to R143), the two ways a path ends at its join or passes its turn (R35,
R37), and scheduling, waiting and ending (R144 to R149).
-/

namespace Sys2Proof.Machine

/-- A target from an offset (R137): arithmetic on PCs wraps modulo 2^30. -/
def Group.target (gr : Group) (off : BitVec 30) : PC := gr.path.pc + off

/-- A uniform branch of n words: under a true guard to its target, else past its words (R138, R139). -/
def branchTo (len : Nat) (g : BitVec 3) (srcs : List Reg) (s : State) (dest : PC) : State :=
  uniDo len g srcs s fun s => s.retireTo dest

/-- `bra cq, target` (R138). -/
def execBra (g cq : BitVec 3) (off18 : BitVec 18) (s : State) : Host.Outcome State Fault Refusal :=
  .next (if s.cur.cpred cq then branchTo 1 g [] s (s.cur.target (off18.signExtend 30)) else s.retire 1)

/-- `jmp target`, L = 0 (R139). -/
def execJmp (g : BitVec 3) (off21 : BitVec 21) (s : State) : Host.Outcome State Fault Refusal :=
  .next (branchTo 1 g [] s (s.cur.target (off21.signExtend 30)))

/-- `jmp target`, L = 1: an absolute PC (R139). -/
def execJmpAbs (g : BitVec 3) (pc : BitVec 30) (s : State) : Host.Outcome State Fault Refusal :=
  .next (branchTo 2 g [] s pc)

/-- `brx a` (R139): the leader's value of a v-register; bits 31 and 30 are ignored. -/
def execBrx (g : BitVec 3) (a : Reg) (s : State) : Host.Outcome State Fault Refusal :=
  .next (branchTo 1 g [a] s ((s.cur.usrc a).setWidth 30))

/-- `call gd, target` (R140): the return PC goes into gd. -/
def execCall (g : BitVec 3) (d : Reg) (w : BitVec 32) (s : State) : Host.Outcome State Fault Refusal :=
  .next (uniDo 2 g [] s fun s =>
    let gr := s.cur
    (s.setCur (gr.setG d ((gr.path.pc + 2).setWidth 32))).retireTo (gr.target (w.setWidth 30)))

/-- `ret a` (R140). -/
def execRet (g : BitVec 3) (a : Reg) (s : State) : Host.Outcome State Fault Refusal :=
  .next (branchTo 1 g [a] s ((s.cur.usrc a).setWidth 30))

/-- The entries a divergent branch pushes (R36): the other live path, then the join. -/
def Group.branchEntries (gr : Group) (join : PC) : List (BitVec 128) :=
  let o := gr.otherPath
  let p := gr.path
  (if o.live then [stackEntry .path o.join o.pc o.mask] else []) ++ [stackEntry .join p.join join p.mask]

/-- The slots after a divergent branch of n words (R36): the issuing path falls through with the lanes not taken, the other slot
takes the branch; an issuing path that was not current becomes current with a fresh count. -/
def Group.diverge (gr : Group) (len : Nat) (taken : Mask) (dest join : PC) : Group :=
  let p := gr.path
  let g1 := gr.setSlot gr.issuing ⟨true, p.pc + BitVec.ofNat 30 len, p.mask &&& ~~~taken, join⟩
  let g2 := g1.setSlot (!gr.issuing) ⟨true, dest, taken, join⟩
  if gr.issuing = gr.current then g2 else g2.makeCurrent gr.issuing

/-- Push entries by an instruction of n words, then go on (R38, R39): no room raises RVSTACK-OVF, and a stack write that does
not go stops the instruction as a uniform access does. -/
def State.pushThen (s : State) (len : Nat) (es : List (BitVec 128)) (f : State → State) : State :=
  if s.cur.rvcap.toNat < s.cur.rvdepth.toNat + es.length then s.stackOverflow len
  else
    match s.pushFate s.cur.rvdepth.toNat es with
    | some (fate, a) => s.uniformStop fate (BitVec.ofNat 64 a) len false
    | none => f (s.push es)

/-- `bra.v.hint pq, target, join` (R36, R141): the hint changes timing only. With an empty effective mask it falls through, as R40 and
R141 say, and is not taken, as the pseudocode of R36 has a vote with E = 0 (log 36, DESIGN CHOICE). -/
def execBraV (g pq : BitVec 3) (off18 : BitVec 18) (join : BitVec 20) (_hint : Hint) (s : State) :
    Host.Outcome State Fault Refusal :=
  .next (uniDo 2 g [] s fun s =>
    let gr := s.cur
    let e := gr.emask
    let t := e &&& gr.pred pq
    let dest := gr.target (off18.signExtend 30)
    let j := gr.target (join.signExtend 30)
    if e = 0 then s.retire 2
    else if t = e then s.retireTo dest
    else if t = 0 then s.retire 2
    else s.pushThen 2 (gr.branchEntries j) fun s => s.retireWith fun gr => gr.diverge 2 t dest j)

/-- The lanes the other live slot holds (R38). -/
def Group.otherMask (gr : Group) (one : Bool) : Mask := if (gr.slotAt (!one)).live then (gr.slotAt (!one)).mask else 0

/-- `rvpop` (R38, R142): the issuing path ends and its slot takes the top entry. -/
def execRvpop (g : BitVec 3) (s : State) : Host.Outcome State Fault Refusal :=
  .next (uniDo 1 g [] s fun s =>
    let other := s.cur.otherMask s.cur.issuing
    match s.popFind other s.cur.rvdepth.toNat with
    | .overflow => (s.markFailedPop other).stackOverflow 1
    | .stuck f a => (if f.waits || f.isAbsent then s else s.markFailedPop other).uniformStop f (BitVec.ofNat 64 a) 1 false
    | .found e m k =>
      (State.install { s with cur := { s.cur.issued with lastIssue := some s.cycle } } s.cur.issuing e m k).chargeCycle)

/-- `rvpush ga, gb` (R143): a MARK entry; the slots stay. -/
def execRvpush (g : BitVec 3) (a b : Reg) (s : State) : Host.Outcome State Fault Refusal :=
  .next (uniDo 1 g (pairRegs a ++ pairRegs b) s fun s =>
    let x := s.cur.usrcD a
    let e := stackEntry .mark (x.extractLsb' 32 30) (x.extractLsb' 0 30) (s.cur.usrcD b)
    s.pushThen 1 [e] fun s => s.retire 1)

/-- A path at its join ends (R37): beside a live path of the same join its slot becomes empty; else its slot takes the top entry,
and a pop that finds none raises RVSTACK-OVF at the join PC with replay. -/
def State.pathJoin (s0 : State) (sl : Bool) : State :=
  let s := s0.flushLate
  let gr := { s.cur with issuing := sl }
  let s1 := s.setCur gr
  let p := gr.slotAt sl
  let o := gr.slotAt (!sl)
  if o.live && o.join == p.join then
    s1.setCur (
      let g1 := { gr with wait := .none }.setSlot sl PathSlot.empty
      if gr.current = sl then g1.makeCurrent (!sl) else g1)
  else
    match s1.popFind (gr.otherMask sl) gr.rvdepth.toNat with
    | .overflow => (s1.markFailedPop (gr.otherMask sl)).enterTrap ⟨14, 0, 0#32 ++ gr.rvcap ++ gr.rvdepth, p.mask, 1, true⟩
    | .stuck f a =>
      match f with
      | .replay ia => (s1.reportFault gr.part ia).setCur { gr with wait := .parked [ia] }
      | .absent => s1.hold .presence
      | .trap c => (s1.markFailedPop (gr.otherMask sl)).enterTrap ⟨c, 0, BitVec.ofNat 64 a, p.mask, 1, true⟩
      | .go _ => s1
    | .found e m k => (s1.setCur { gr with wait := .none }).install sl e m k

/-- PATH_JOIN (R37): where both paths stand at their joins, that of slot 0 ends first. -/
def execPathJoin (grp : Nat) (sl : Bool) (s : State) : Host.Outcome State Fault Refusal :=
  .next (
    let s1 := s.focus grp
    let gr := s1.cur
    if !gr.live || gr.key != grp || !gr.issuable || gr.atJoin != some sl then s else s1.pathJoin sl)

/-- The current designation passes to the other live path, which starts a fresh count (R35). -/
def execPathSwitch (grp : Nat) (s : State) : Host.Outcome State Fault Refusal :=
  .next (
    let s1 := s.focus grp
    let gr := s1.cur
    if gr.live && gr.key == grp && gr.issuable && (gr.slotAt (!gr.current)).live && gr.wait == .none &&
        (gr.quantum == 0 || decide (gr.quantum ≤ gr.count)) then
      s1.setCur (gr.makeCurrent (!gr.current))
    else s)

/-- `yield` (R144, R307): the group becomes the youngest of its slot. -/
def execYield (g : BitVec 3) (s : State) : Host.Outcome State Fault Refusal :=
  .next (uniDo 1 g [] s fun s =>
    let age := s.nextAge
    (s.retire 1).setCur { (s.retire 1).cur with age := age, yielded := true })

/-- Sleep until a deadline in device time (R145); a sleep of 0 has no wait. -/
def State.sleepFor (s : State) (len : Nat) (ns : Nat) : State :=
  let s1 := s.retire len
  if ns = 0 then s1 else s1.setCur { s1.cur with wait := .sleep (s.now + ns) }

/-- `sleep imm`, short form (R145). -/
def execSleep (g : BitVec 3) (i : BitVec 7) (s : State) : Host.Outcome State Fault Refusal :=
  .next (uniDo 1 g [] s fun s => s.sleepFor 1 i.toNat)

/-- `sleep imm`, long form (R145). -/
def execSleepLong (g : BitVec 3) (w : BitVec 32) (s : State) : Host.Outcome State Fault Refusal :=
  .next (uniDo 2 g [] s fun s => s.sleepFor 2 w.toNat)

/-- The group in focus arrives at its cohort's barrier (R146). -/
def State.arriveAtBarrier (s : State) : State :=
  let gr := s.cur
  let s1 := s.setCur { gr with wait := .bar }
  State.completePhase
    { s1 with cohorts := s1.cohorts.map fun c => if c.key = gr.cohort then { c with arrived := c.arrived ++ [gr.key] } else c }
    gr.cohort

/-- `bar` (R146): the group waits until the phase it arrives in completes. -/
def execBar (g : BitVec 3) (s : State) : Host.Outcome State Fault Refusal :=
  .next (uniDo 1 g [] s fun s => (s.retire 1).arriveAtBarrier)

/-- The lowest gid that no live group of a cohort holds (R41). -/
def State.freeGid (s : State) (cohort : Nat) : Option Nat :=
  (List.range 16).find? fun n => (s.holders.filter fun gr => gr.cohort == cohort).all fun gr => gr.gid.toNat != n

/-- The region's RCB chain allows one more context at every level (R29, R41). -/
def State.spawnAllowed (s : State) (gr : Group) : Bool :=
  match s.rcbChain gr.part (gr.chain.getD 0 0) with
  | .error _ => false
  | .ok chain => s.withinBudget gr.part 1 0 false chain

/-- The child of a `spawn` (R41), or none where it fails. -/
def State.spawnChild (s : State) (entry : PC) (args : List Word) : Option Group :=
  let gr := s.cur
  match s.freeGid gr.cohort, placeGroup s.groups gr.core gr.width gr.xwords, freeTiles s.groups gr.core gr.tileCount with
  | some gid, some (slot, octet), some tile =>
    if s.spawnAllowed gr then
      let e := match (s.cohorts.find? fun c => c.key == gr.cohort).bind fun c => s.launches.find? fun l => l.key == c.launch with
        | some l => l.entry
        | none => 0
      some { Group.fresh gr.width entry with
        key := s.nextKey, part := gr.part, cohort := gr.cohort, core := gr.core, slot := slot, octet := octet, cid := gr.cid
        gid := BitVec.ofNat 4 gid, xwords := gr.xwords, g := Vector.ofFn fun i => if i.val < 8 then args.getD i.val 0 else 0
        rvsb := stackBase e gr.cid.toNat gid, rvcap := BitVec.ofNat 16 (fieldN e 295 280), prio := gr.prio, prioCap := gr.prio
        stgFirst := gr.stgFirst, stgLines := gr.stgLines, tileBase := tile, tileCount := gr.tileCount
        codebase := gr.codebase, ranges := gr.ranges, chain := gr.chain, roletab := gr.roletab, rolecnt := gr.rolecnt
        faultdom := gr.faultdom, quotas := gr.quotas, lrr := gr.lrr, age := s.nextAge, since := s.cycle }
    else none
  | _, _, _ => none

/-- `spawn cq, entry, ga` (R41, R147). -/
def execSpawn (g cq : BitVec 3) (a : Reg) (w : BitVec 32) (s : State) : Host.Outcome State Fault Refusal :=
  .next (uniDo 2 g (blockRegs a 8) s fun s =>
    match s.spawnChild (s.cur.target (w.setWidth 30)) ((blockRegs a 8).map s.cur.greg) with
    | none => (s.setCur (s.cur.setC cq false)).retire 2
    | some child =>
      State.retire
        { (s.clearTiles child.core child.tileBase child.tileCount) with
          cur := s.cur.setC cq true, others := s.others ++ [child], nextKey := s.nextKey + 1 } 2)

/-- The group's octets have room for a changed allotment (R42). -/
def State.roleFits (s : State) (gr : Group) (new : Nat) : Bool :=
  (List.range (gr.width / 8)).all fun i =>
    decide (wordsUsed s.groups gr.core gr.slot (gr.octet + i) + new ≤ 1024 + gr.xwords)

/-- The group after a role entry is applied (R42): words below both allotments keep their values. -/
def Group.withRole (gr : Group) (n : BitVec 4) (xwords : Nat) (prio : BitVec 2) (vector : PC) : Group :=
  { gr with
    roleNone := false, roleIdx := n, prio := prio, prioCap := prio, trapv := vector, xwords := xwords
    xregs := SMap.keep (fun k => decide (k / 64 < xwords)) gr.xregs }

/-- `role cq, n` (R42, R148). -/
def execRole (g cq : BitVec 3) (n : BitVec 4) (s : State) : Host.Outcome State Fault Refusal :=
  .next (uniDo 1 g [] s fun s =>
    let gr := s.cur
    let ia := gr.roletab + 16 * n.toNat
    if gr.rolecnt ≤ n.toNat then s.trapPath 2 n.toNat 0 1 false
    else if ia % 16 ≠ 0 then s.trapPath 3 0 (BitVec.ofNat 64 ia) 1 false
    else
      match s.classify gr.part ia with
      | .error c => s.trapPath c 0 (BitVec.ofNat 64 ia) 1 false
      | .ok d =>
        match s.fate gr.part d false 16 with
        | .go d =>
          let r := s.groupRead d 16
          let e := leNat r.1
          let new := bitsN e 41 32
          let s1 := r.2
          if 928 < new then s1.trapPath 2 n.toNat 0 1 false
          else if gr.xwords < new ∧ !s1.roleFits gr new then (s1.setCur (s1.cur.setC cq false)).retire 1
          else
            (s1.setCur ((s1.cur.withRole n new (BitVec.ofNat 2 (bitsN e 43 42)) (BitVec.ofNat 30 (bitsN e 29 0))).setC cq
              true)).retire 1
        | f => s.uniformStop f (BitVec.ofNat 64 ia) 1 false)

/-- `exit` (R44, R149): the whole group ends. -/
def execExit (g : BitVec 3) (s : State) : Host.Outcome State Fault Refusal :=
  .next (uniDo 1 g [] s fun s => s.chargeCycle.endGroup s.cur.path.pc)

end Sys2Proof.Machine
end

