-- ==== Sys2Proof/Machine/Outside.lean ====
section
/-!
DEFINITION. Items of the agenda that are no event of the opcode table (log 1, DESIGN CHOICE): device time, replicas taken and dropped (R203),
requests that arrive (R311), samples of monitor points (R323, R324), flash contents (R320), power (R25).
-/

namespace Sys2Proof.Machine

/-- The bin of a sample (R324). -/
def sampleBin (v : Nat) : Nat := if v < 2 then 0 else min 15 (Nat.log2 v)

/-- A window with nothing sampled (R324). -/
def Window.fresh (start stop : Nat) : Window := ⟨start, stop, 0, 2 ^ 64 - 1, 0, List.replicate 16 0⟩

/-- A window takes a sample (R324): counts saturate. -/
def Window.add (w : Window) (v : Nat) : Window :=
  { w with samples := min 0xFFFFFFFF (w.samples + 1), lo := min w.lo v, hi := max w.hi v
           bins := w.bins.modify (sampleBin v) fun b => min 0xFFFFFFFF (b + 1) }

/-- The power of an island at a microsecond (R323): not the state's to say, and so a free value (log 7, DESIGN CHOICE). -/
def powerAt (point us : Nat) : Nat := Config.freeNat (2 ^ 90 + us * 2 ^ 12 + point % 2 ^ 12) % 2 ^ 64

/-- A power point samples each microsecond that passes while its window is open (R323, R324). -/
def MonPoint.powered (m : MonPoint) (now ns : Nat) : MonPoint :=
  if m.point / 1024 = 4 then
    { m with cur := m.cur.map fun w =>
        (List.range ((now + ns) / 1000 - now / 1000)).foldl (fun w k =>
          let us := now / 1000 + 1 + k
          if us * 1000 < w.stop then w.add (powerAt m.point us) else w) w }
  else m

/-- Device time runs on (R5, R24); issue cycles run at 1.6 GHz (R5), at least one a call. -/
def State.pass (s : State) (ns : Nat) : State :=
  { s with
    now := s.now + ns, cycle := s.cycle + Nat.max 1 (ns * 8 / 5), monitors := s.monitors.map fun m => m.powered s.now ns }

/-- What has a time by which it happens: a precondition's word is read again within 2 µs (R300), and a counted event reaches its leaf
within 10 µs (R171). -/
def State.deadlines (s : State) : List (Nat × Event) :=
  ((s.launches.filter fun l => l.queued && !l.eligible).map fun l => (l.lastRead + 2000, Event.preconditionRead l.part l.key)) ++
    s.hotPending.map fun h => (h.2 + 10000, Event.hotUpdate 0)

/-- Device time runs on, no further at once than to the first of those times: what is due then happens before time runs on. -/
def State.tick (s : State) (ns : Nat) : State :=
  let due := s.deadlines.filter fun d => decide (d.1 < s.now + ns)
  match due with
  | [] => s.pass ns
  | h :: r =>
    let t := max s.now (r.foldl (fun x d => min x d.1) h.1)
    let now := (due.filter fun d => decide (d.1 ≤ t)).map fun d => Sched.event d.2
    let s1 := if t = s.now then s else s.pass (t - s.now)
    { s1 with agenda := now ++ Sched.tick (s.now + ns - t) :: s1.agenda }

/-- A copy of a line is taken from the owning point now, under a lease of at most 16,384 ns (R203): of resident paged memory, or, by a group
for an instruction of its own, of a Stage line that is present (R162, R201). -/
def State.copyLine (s : State) (part line : Nat) (h : Holder) (ns : Nat) : State :=
  let add := fun (s : State) bytes =>
    { s with nextKey := s.nextKey + 1, replicas := s.replicas ++ [⟨line, h, bytes, s.now, s.nextKey, s.now + ns, [], []⟩] }
  if 16384 < ns then s
  else if stageBase / 128 ≤ line then
    let n := line - stageBase / 128
    match h with
    | .own _ => if n < 2097152 ∧ s.present n then add s (readBytes s.stage (n * 128) 128) else s
    | _ => s
  else
    match s.classify part (line * 128), s.walk part (line * 128) with
    | .ok (.paged _), .resident _ _ _ _ _ => add (s.touchLine part line false) (s.lineBytes part line)
    | _, _ => s

/-- A replica of a line is taken; a group takes a copy of its own, in its partition, after all its earlier accesses (R183, R201). -/
def State.takeLease (s : State) (part line : Nat) (h : Holder) (ns : Nat) : State :=
  match h with
  | .own key =>
    match s.group? key with
    | none => s
    | some gr =>
      let r := s.flushPorts gr
      let t := r.1.performAll r.2
      (t.1.modGroup key fun _ => t.2).copyLine gr.part line h ns
  | _ => s.copyLine part line h ns

/-- A replica is dropped (R203); the writes it delayed keep their completion times. -/
def State.dropReplica (s : State) (n : Nat) : State := { s with replicas := s.replicas.eraseIdx n }

/-- A tile of an aperture is cached (R212): a snapshot now, where every byte of it can be read, at the owning points or from the replicas
that its reader's class may read. -/
def State.takeSnapshot (s : State) (part : Nat) (dequant : Bool) (base desc off : Nat) (replica : Bool) : State :=
  let d := s.apertureBits part desc
  let t := apertureTile dequant d off
  let os := tileOffsets dequant d t
  if apertureOk dequant desc d && os.all fun o => (s.apertureFate part dequant base o desc 1).goes then
    let via := if replica then s.via .slice 0 0 else owned
    let cells := os.foldl (fun m o => SMap.set 0 m o ((s.apertureBytes via part dequant base o desc 1).getD 0 0)) []
    let ias := (os.flatMap fun o => apertureIAs dequant base o d 1).dedup
    { s with
      nextKey := s.nextKey + 1
      snaps := s.snaps ++ [s.snapOf replica 0 (.tile part dequant base desc d t.1 t.2) ias cells 0] }
  else s

/-- A cached snapshot is evicted (R212, R250). -/
def State.forget (s : State) (n : Nat) : State := { s with snaps := s.snaps.eraseIdx n }

/-- A request arrives over the network (R311). -/
def State.arrive (s : State) (endpoint code part tag reserved : Nat) (args : Vector Word 16) : State :=
  { s with nextKey := s.nextKey + 1
           requests := s.requests ++
             [⟨s.nextKey, .net endpoint, code, part, tag, decide (reserved = 0), Config.requesterListed endpoint, args, none⟩] }

/-- A monitor point takes a sample while its window is open (R323, R324). -/
def State.sample (s : State) (point v : Nat) : State :=
  let take := fun w : Window => if s.now < w.stop then w.add v else w
  { s with monitors := s.monitors.map fun m => if m.point = point then { m with cur := m.cur.map take } else m }

/-- A monitor point observes its quantity now (R323): a call queue's occupancy, which the state holds; a latency, which is not its to say.
Power is sampled each microsecond, and corrected errors as they happen. -/
def State.observe (s : State) (point v : Nat) : State :=
  match point / 1024 with
  | 0 =>
    match s.clusters[point % 1024 / 6]? with
    | some c => s.sample point (c.queues[point % 1024 % 6]?.getD []).length
    | none => s
  | 4 => s
  | 5 => s
  | _ => s.sample point v

/-- Bytes arrive for addresses of the host's or a peer's memory (R167): what the outside holds there from now on. -/
def State.externalBytes (s : State) (host : Bool) (addr : Nat) (bs : List Byte) : State :=
  let put := fun m => (List.range bs.length).foldl (fun m i => SMap.set none m (addr + i) (some (bs.getD i 0))) m
  if host then { s with hostBytes := put s.hostBytes } else { s with peerBytes := put s.peerBytes }

/-- A peer connection stops delivering, so that accesses over it wait, or delivers again (R319). -/
def State.setLink (s : State) (part peer : Nat) (up : Bool) : State :=
  let rest := s.peerLink.filter fun e => !(e.1 == part && e.2.1 == peer)
  { s with peerLink := if up then rest else rest ++ [(part, peer, false)] }

/-- A flash slot takes an image (R320). -/
def State.setFlash (s : State) (b : Bool) (image : List Byte) : State :=
  if b then { s with flashB := image } else { s with flashA := image }

/-- An item of the agenda still happens while every clock is stopped (R230): only reset and the loss or return of power. -/
def Sched.survives (x : Sched) : Bool :=
  match x with
  | .event .deviceReset => true
  | .event .powerLoss => true
  | .power => true
  | _ => false

end Sys2Proof.Machine
end

