-- ==== Sys2Proof/Machine/Paging.lean ====
section
/-!
DEFINITION. Paging as Carillon and the walkers do it (R168 to R172): faults resolved, pages migrated, hotness counted; lines that
move between slices (R164); leases that end (R203); soft errors (R165).
-/

namespace Sys2Proof.Machine

/-- A number with bits hi down to lo replaced. -/
def setBitsN (x hi lo v : Nat) : Nat := x - bitsN x hi lo * 2 ^ lo + v % 2 ^ (hi + 1 - lo) * 2 ^ lo

/-- The number of entries of a table of a level (R168). -/
def tableEntries (level : Nat) : Nat := match level with | 0 => 8192 | 1 => 512 | 2 => 512 | _ => 32

/-- Whether an address lies in a table that a walk visits, from a table at a level (R168). -/
def State.onWalk (s : State) (ia pa : Nat) : Nat → Nat → Nat → Bool
  | 0, _, _ => false
  | fuel + 1, level, table =>
    let e := leNat (readBytes s.mem (table + 16 * walkIndex level ia) 16)
    (decide (table ≤ pa) && decide (pa < table + 16 * tableEntries level)) ||
      (decide (bitsN e 2 1 = 1) && decide (level < 3) && s.onWalk ia pa fuel (level + 1) (bitsN e 76 48 * 65536))

/-- Carillon writes page-table entries (R168), and so clears the poison of their bytes (R165). -/
def State.writeEntries (s : State) (es : List (Nat × BitVec 128)) : State :=
  es.foldl (fun s e =>
    let s1 := if s.poison.isEmpty && s.failed.isEmpty then s else s.healBytes false e.1 16
    { s1 with mem := writeBytes s1.mem e.1 (leBytes 16 e.2.toNat) }) s

/-! ### What page tables take of physical memory -/

/-- A table, or the page of a leaf: the IA it stands for, its physical address and size; for a leaf its entry and the entry's address. -/
structure Use where
  table : Bool
  ia : Nat
  base : Nat
  size : Nat
  entry : Nat
  slot : Nat
  deriving DecidableEq, Repr

/-- The bytes of IA that one entry of a level stands for (R168). -/
def levelSpan (level : Nat) : Nat := match level with | 0 => 2 ^ 39 | 1 => 2 ^ 30 | 2 => 2 ^ 21 | _ => 2 ^ 16

/-- The entries of a table that hold anything. -/
def State.entriesIn (s : State) (level table : Nat) : List Nat :=
  ((s.mem.filter fun c => decide (table ≤ c.1) && decide (c.1 < table + 16 * tableEntries level)).map fun c => (c.1 - table) / 16).dedup

/-- What a table at a level takes, itself, the tables below it, and the pages of leaves that are resident or migrating (R168, R169). -/
def State.usesFrom (s : State) : Nat → Nat → Nat → Nat → List Use
  | 0, _, _, _ => []
  | fuel + 1, level, table, ia =>
    ⟨true, ia, table, 16 * tableEntries level, 0, 0⟩ :: (s.entriesIn level table).flatMap fun i =>
      let e := leNat (readBytes s.mem (table + 16 * i) 16)
      let target := bitsN e 76 48 * 65536
      let at_ := ia + i * levelSpan level
      match bitsN e 2 1 with
      | 1 => if level < 3 then s.usesFrom fuel (level + 1) target at_ else []
      | 2 => if level ≠ 0 ∧ bitsN e 7 6 < 2 then [⟨false, at_, target, leafSize level, e, table + 16 * i⟩] else []
      | _ => []

/-- What a partition's page table takes. -/
def State.usesOf (s : State) (p : Partition) : List Use := s.usesFrom 4 0 p.root 0

/-- Two runs of bytes meet. -/
def runsMeet (a n b m : Nat) : Bool := decide (a < b + m) && decide (b < a + n)

/-- Two uses stand side by side (R22): they share no memory, or both are pages that give each IA they share the same place, and no other
IA the same place: memory that two partitions share. -/
def Use.apart (u v : Use) : Bool :=
  (!runsMeet u.base u.size v.base v.size && (u.table || v.table || !runsMeet u.ia u.size v.ia v.size)) ||
    (!u.table && !v.table && decide (u.base + v.ia = v.base + u.ia))

/-- A new use of a partition's page table takes nothing that another page or table has, but for what partitions share (R22). -/
def State.useFree (s : State) (part : Nat) (u : Use) : Bool :=
  s.parts.all fun q => (s.usesOf q).all fun v =>
    if q.n = part then v == u || !runsMeet u.base u.size v.base v.size else u.apart v

/-- A capacity-tier frame lies on no fenced channel, and an HBM frame on no fenced stack (R160, R325). -/
def State.frameServed (s : State) (frame size : Nat) : Bool :=
  s.fenced.all fun f =>
    match f.1 with
    | .stack => physTier frame || decide (frame / 0x1000000000 ≠ f.2)
    | .channel => !physTier frame || (List.range (size / 65536)).all fun i => !Config.onChannel (frame + 65536 * i) f.2
    | _ => true

/-- A frame that may back a page (R160, R168, R325): present, aligned to the page, of the tier said, on no fenced part. -/
def State.frameOk (s : State) (frame size : Nat) (tier : Bool) : Bool :=
  physPresent frame && physPresent (frame + size - 1) && decide (frame % size = 0) && tier == physTier frame && s.frameServed frame size

/-- A use that Carillon may make (R22, R168, R325): a present table; a page in a frame that may back it, homed at a slice in service. -/
def State.useOk (s : State) (part : Nat) (u : Use) : Bool :=
  s.useFree part u &&
    (if u.table then physPresent u.base && physPresent (u.base + u.size - 1)
     else s.frameOk u.base u.size (bitsN u.entry 5 5 = 1) && !s.fenced.contains (.slice, bitsN u.entry 101 96) &&
      decide (bitsN u.entry 7 6 = 0))

/-- Carillon's entries leave every table and page that was there as it is, and add only what it may (R22, R168, R172, R325; log 37,
DESIGN CHOICE). -/
def State.entriesOk (s s1 : State) (p : Partition) : Bool :=
  let old := s.usesOf p
  let new := s1.usesOf p
  (old.all new.contains) && ((new.filter fun u => !old.contains u).all (s1.useOk p.n))

/-- The device with the page table of a partition that a CREATE is still to make (R314). -/
def State.withRoot (s : State) (n : Nat) : State :=
  if (s.part? n).isSome then s
  else { s with parts := s.parts ++ [⟨n, 0, 0, 0, [], Config.ptRoot n, false, [], [], [], Shadow.empty⟩] }

/-- Carillon resolves a reported fault (R170): it writes entries of the tables the walk visits, after which the walk ends at a
resident page or is fatal; a parked group then replays. A page that is migrating is none of these (R172). -/
def execPageFaultResolve (part : Nat) (ia : BitVec 52) (entries : List (Nat × BitVec 128)) (s0 : State) :
    Host.Outcome State Fault Refusal :=
  .next (
    let s := s0.withRoot part
    match s.part? part with
    | none => s0
    | some p =>
      let s1 := s.writeEntries entries
      let ok := entries.all fun e =>
        decide (e.1 % 16 = 0) && physPresent e.1 && s1.onWalk ia.toNat e.1 4 0 p.root
      let w := s1.walk part ia.toNat
      if s.out.contains (.pageFault part ia.toNat) && ok && s.entriesOk s1 p && decide (w ≠ .replay) && decide (w ≠ .moving) then
        { s1 with out := s1.out.erase (.pageFault part ia.toNat), parts := s0.parts }
      else s0)

/-- Every leaf, in whatever partition's page table, of the page at an address (R22, R172): memory that partitions share moves as one. -/
def State.leavesOf (s : State) (base size : Nat) : List Use :=
  (s.parts.flatMap s.usesOf).filter fun u => !u.table && u.base == base && u.size == size

/-- A page stands alone: no page of another size or place meets it. -/
def State.alone (s : State) (base size : Nat) : Bool :=
  (s.parts.flatMap s.usesOf).all fun u => !runsMeet u.base u.size base size || (!u.table && u.base == base && u.size == size)

/-- Entries of leaves are changed. -/
def State.setLeaves (s : State) (us : List Use) (f : Nat → Nat) : State :=
  { s with mem := us.foldl (fun m u => writeBytes m u.slot (leBytes 16 (f u.entry))) s.mem }

/-- A walker's leaf of an address is found resident and becomes migrating (R172 step 1), and with it every leaf that shares its page; accesses
that are past translation complete (step 2). -/
def execPageMigrationStart (part : Nat) (ia : BitVec 52) (s : State) : Host.Outcome State Fault Refusal :=
  .next (
    match s.walk part ia.toNat with
    | .resident pa _ _ size _ =>
      if s.alone (pa / size * size) size then
        let s1 := s.finishChunks.flushAllLate
        s1.setLeaves (s1.leavesOf (pa / size * size) size) fun e => setBitsN e 7 6 1
      else s
    | _ => s)

/-- Copy n bytes of memory from one frame to another. -/
def copyFrame (m : List Host.Cell) (old new n : Nat) : List Host.Cell :=
  let moved := (m.filter fun e => decide (old ≤ e.1) && decide (e.1 < old + n)).map fun e => (e.1 - old + new, e.2)
  (m.filter fun e => decide (e.1 < new)) ++ moved ++ m.filter fun e => decide (new + n ≤ e.1)

/-- The poison of a page's lines goes with its bytes (R165, R172). -/
def State.copyPoison (s : State) (old new n : Nat) : SMap (Option (BitVec 128)) :=
  let lines := if s.poison.isEmpty && s.failed.isEmpty then [] else List.range (n / 128)
  let clean := SMap.keep (fun k => decide (k < new / 128) || decide ((new + n) / 128 ≤ k)) s.poison
  lines.foldl (fun m i =>
    if s.poisoned false (old / 128 + i) then
      SMap.set none m (new / 128 + i) (some ((SMap.get none s.poison (old / 128 + i)).getD (BitVec.allOnes 128)))
    else m) clean

/-- A frame is free for a page that leaves another (R22, R172): no table or page has any of it but the page itself. -/
def State.frameFree (s : State) (old frame size : Nat) : Bool :=
  (s.parts.flatMap s.usesOf).all fun u =>
    !runsMeet u.base u.size frame size || (!u.table && decide (old = frame) && u.base == old && u.size == size)

/-- A migrating page's bytes are copied and its leaf rewritten resident (R172 steps 3 to 5), with every leaf that shares it, not before now
has passed every lease on its lines; no line of it in the L2, no replica and no forwarding entry is left. The lines that this writes back,
all that the L2 holds of it (step 3), count in `hot` (R171). -/
def execPageMigrationEnd (part : Nat) (ia : BitVec 52) (pfn : BitVec 29) (tier : Bool) (home : BitVec 6) (s : State) :
    Host.Outcome State Fault Refusal :=
  .next (
    match (s.part? part).bind fun p => s.migratingFrom ia.toNat 4 0 p.root with
    | none => s
    | some (_, size, e) =>
      let frame := pfn.toNat * 65536
      let old := bitsN e 76 48 * 65536
      let first := ia.toNat / size * size / 128
      let ofPage := fun line : Nat => decide (first ≤ line) && decide (line < first + size / 128)
      if s.frameOk frame size tier && s.frameFree old frame size && !s.fenced.contains (.slice, home.toNat) &&
          s.replicas.all (fun r => !ofPage r.line || decide (r.expiry ≤ s.now)) then
        let back := (s.l2.filter fun e => ofPage e.1).length
        let place := fun e =>
          setBitsN (setBitsN (setBitsN (setBitsN (setBitsN e 76 48 pfn.toNat) 5 5 tier.toNat) 101 96 home.toNat) 7 6 0) 127 112
            (min 0xFFFF (bitsN e 127 112 + back))
        State.setLeaves { s with
          mem := if frame = old then s.mem else copyFrame s.mem old frame size
          poison := s.copyPoison old frame size
          replicas := s.replicas.filter fun r => !ofPage r.line
          l2 := SMap.keep (fun l => !ofPage l) s.l2
          moved := SMap.keep (fun l => !ofPage l) s.moved } (s.leavesOf old size) place
      else s)

/-! ### Pages that fenced parts still hold (R325) -/

/-- A page still holds its data (R325, R326): no line of it reads as poisoned. -/
def State.holdsData (s : State) (u : Use) : Bool :=
  (s.poison.isEmpty && s.failed.isEmpty) ||
    (List.range (u.size / 128)).all fun i => !s.poisoned false (u.base / 128 + i)

/-- The pages that must leave a fenced part: those homed at a fenced slice, and those backed by a fenced stack or channel that still hold
their data. -/
def State.strayPages (s : State) : List (Nat × Use) :=
  if s.fenced.isEmpty then []
  else
    s.parts.flatMap fun p => ((s.usesOf p).filter fun u =>
      !u.table && (s.fenced.contains (.slice, bitsN u.entry 101 96) || (!s.frameServed u.base u.size && s.holdsData u))).map fun u => (p.n, u)

/-- The pages that are migrating. -/
def State.movingPages (s : State) : List (Nat × Use) :=
  s.parts.flatMap fun p => ((s.usesOf p).filter fun u => !u.table && decide (bitsN u.entry 7 6 = 1)).map fun u => (p.n, u)

/-- The first frames that may be free: the start of each stack and of the capacity tier, and what follows each page or table. -/
def State.frameStarts (s : State) (size : Nat) : List Nat :=
  let up := fun a => (a + size - 1) / size * size
  (0x100000000000 :: (List.range 8).map (0x1000000000 * ·)) ++ (s.parts.flatMap s.usesOf).map fun u => up (u.base + u.size)

/-- The frame and the home that a migrating page goes to when nothing else is said (log 1, DESIGN CHOICE): its own frame and home as far as
they are in service; from a fenced stack or channel it goes to the other tier (R325). -/
def State.newPlace (s : State) (u : Use) : Option (Nat × Nat) :=
  let served := s.frameServed u.base u.size
  let ok := fun f => (served || physTier f != physTier u.base) && s.frameOk f u.size (physTier f) && s.frameFree u.base f u.size
  let home := bitsN u.entry 101 96
  match (u.base :: s.frameStarts u.size).find? ok, (home :: List.range 64).find? fun h => !s.fenced.contains (.slice, h) with
  | some f, some h => some (f, h)
  | _, _ => none

/-- Carillon's migrations in hand (R172, R325): pages that must leave a fenced part start, and those that have started end. -/
def State.migrations (s : State) : List Event :=
  (s.strayPages.filter fun e => bitsN e.2.entry 7 6 == 0).map (fun e => Event.pageMigrationStart e.1 (BitVec.ofNat 52 e.2.ia)) ++
    s.movingPages.filterMap fun e => (s.newPlace e.2).map fun x =>
      Event.pageMigrationEnd e.1 (BitVec.ofNat 52 e.2.ia) (BitVec.ofNat 29 (x.1 / 65536)) (physTier x.1) (BitVec.ofNat 6 x.2)

/-- A walker's batched count reaches its leaf (R171): `hot` rises by 1 and saturates. -/
def execHotUpdate (n : Nat) (s : State) : Host.Outcome State Fault Refusal :=
  .next (
    match s.hotPending[n]? with
    | none => s
    | some (leaf, _) =>
      let h := leNat (readBytes s.mem (leaf + 14) 2)
      { s with
        hotPending := s.hotPending.eraseIdx n
        mem := writeBytes s.mem (leaf + 14) (leBytes 2 (min 0xFFFF (h + 1))) })

/-- Carillon clears or rescales the counter of a page (R171): to no more than it is. -/
def State.coolPage (s : State) (part ia v : Nat) : State :=
  match s.walk part ia with
  | .resident _ _ _ _ leaf =>
    if v ≤ leNat (readBytes s.mem (leaf + 14) 2) then { s with mem := writeBytes s.mem (leaf + 14) (leBytes 2 v) } else s
  | _ => s

/-- The ownership of a line that the L2 holds goes to another slice, which has room for it (R15, R164): its home keeps a forwarding entry,
unless it is the home itself. -/
def execLineMigrate (line slice : Nat) (s : State) : Host.Outcome State Fault Refusal :=
  .next (
    match (s.partOfLine line).map fun p => s.walk p (line * 128) with
    | some (.resident _ _ home _ _) =>
      if 64 ≤ slice ∨ s.fenced.contains (.slice, slice) ∨ SMap.get none s.l2 line = none ∨ s.ownerOf line = some slice then s
      else
        let s1 := s.makeRoom slice
        { s1 with moved := SMap.set none s1.moved line (if slice = home then none else some slice) }
    | _ => s)

/-- A migrated line is written back through its page and its forwarding entry goes (R164, R171). -/
def execLineEvict (line : Nat) (s : State) : Host.Outcome State Fault Refusal :=
  .next (
    match SMap.get none s.moved line, s.partOfLine line with
    | some _, some p => s.evictLine p line
    | _, _ => s)

/-- A replica's lease has ended: it serves no read any more (R203). -/
def execLeaseExpiry (n : Nat) (s : State) : Host.Outcome State Fault Refusal :=
  .next (
    match s.replicas[n]? with
    | none => s
    | some r => if r.expiry ≤ s.now then s.dropReplica n else s)

/-- A soft error is corrected in place and counted at the die's monitor point (R165, R323). -/
def execEccCorrectable (die : Nat) (s : State) : Host.Outcome State Fault Refusal :=
  .next (if die < 4 then s.sample (5 * 1024 + die) 1 else s)

/-- An uncorrectable error poisons a line of memory, of the Stage or of a shadow store (R165): there, the partition whose saved state the
store holds has lost that line. Accesses that have passed their checks are performed before it. -/
def execEccUncorrectable (place : EccPlace) (line : Nat) (s0 : State) : Host.Outcome State Fault Refusal :=
  .next (
    let s := s0.flushAllLate
    let poison := fun stage =>
      { s with poison := SMap.set none s.poison (poisonKey stage line) (some (BitVec.allOnes 128)) }
    match place with
    | .memory => if physPresent (line * 128) then poison false else s
    | .stage => if line < 2097152 then poison true else s
    | .shadow die =>
      match SMap.get none s.shadowStore die with
      | some n => if line < 524288 then { s with parts := s.parts.map fun p =>
          if p.n = n then { p with shadow := { p.shadow with lost := die :: p.shadow.lost } } else p } else s
      | none => s)

end Sys2Proof.Machine
end

