-- ==== Sys2Proof/Machine/Schedule.lean ====
section
/-!
DEFINITION. The agenda (log 1, DESIGN CHOICE): which of a group's paths issues (R35), when an item of the agenda is due, and the default
round that a step writes when the agenda is empty, so that every agent of the device gets its turn.
-/

namespace Sys2Proof.Machine

/-- The slot that issues at an opportunity (R35): a waiting instruction keeps its path; else the current path, or the other
live path when the current one is said not to be ready. -/
def Group.pickPath (gr : Group) (other : Bool) : Bool :=
  match gr.wait with
  | .again _ => gr.issuing
  | _ =>
    let want := if other then !gr.current else gr.current
    if (gr.slotAt want).live then want else !want

/-- A group in focus with its issuing path chosen, ready to fetch. -/
def State.prepare (s : State) (key : Nat) (other replica : Bool) : State :=
  let s1 := s.focus key
  { s1 with cur := { s1.cur with issuing := s1.cur.pickPath other }, serve := replica }

/-- The current designation passes to the other path now (R35): the quantum is used up, or, with a quantum of 0, the current
path is not ready and the other is. -/
def Group.switchDue (gr : Group) (other : Bool) : Bool :=
  (gr.slotAt (!gr.current)).live && (gr.slotAt gr.current).live &&
  (match gr.wait with | .none => true | _ => false) &&
  (if gr.quantum = 0 then other else decide (gr.quantum ≤ gr.count))

/-- A service request's event (R313, R314), by its code. -/
def requestEvent (code op r : Nat) : Sched :=
  match code with
  | 0 => .event (.ping r) | 1 => .event (.launch r) | 2 => .event (.status r) | 3 => .event (.quote r)
  | 4 => .event (.hot r) | 5 => .event (.reload r) | 6 => .event (.monitor r) | 7 => .event (.migrate r)
  | 8 => .event (.quota r)
  | 16 =>
    match op with
    | 0 => .event (.partitionCreate r) | 1 => .event (.partitionResize r) | 2 => .event (.partitionDestroy r)
    | 3 => .event (.partitionHalt r) | 4 => .event (.partitionResume r) | 5 => .event (.partitionQuery r)
    | _ => .unknown r
  | 17 => .event (.consumers r) | 18 => .event (.debug r) | 19 => .event (.fwupd r) | 20 => .event (.peers r)
  | 21 => .event (.exportList r)
  | _ => .unknown r

/-- Some events under a condition. -/
def dueIf (c : Bool) (es : List Event) : List Event := if c then es else []

/-- The event that ends a wait. -/
def waitEvents (gr : Group) : List Event :=
  match gr.wait with
  | .parked _ => [.parkedReplay gr.key]
  | .sleep _ => [.sleepDeadline gr.key]
  | .sys _ => [.sysReply gr.key]
  | .bar => [.barrierPhaseComplete gr.cohort]
  | .again .turn => [.sectionTimeout gr.key]
  | _ => []

/-- The events due for one port. -/
def portEvents (gr : Group) (q : Nat) : List Event :=
  let p := gr.ports[q]?.getD Port.unbound
  let move : Event := if p.kind = 2 then .streamStoreElement gr.key q else .streamLoadElement gr.key q
  dueIf p.bound [move] |>.append (dueIf (p.bound && !p.ring.isEmpty) [.queueSpillRefill (.port gr.key q)])

/-- The events due for one group. -/
def groupEvents (gr : Group) : List Event :=
  List.flatten [dueIf gr.pendingTrap.isSome [.trapEntry gr.key], waitEvents gr,
    (List.range 16).flatMap (portEvents gr), dueIf gr.drain.isSome [.debugDrainTimeout gr.key]]

/-- The core and slot of each live group, each slot once: a core's slots lowest first (R43). -/
def State.slotsInUse (s : State) : List (Nat × Nat) :=
  let gs := s.groups
  (List.range 768).filterMap fun k => if gs.any fun gr => gr.core * 4 + gr.slot == k then some (k / 4, k % 4) else none

/-- The events due for one unit of a cluster. -/
def unitEvents (n : Nat) (c : Cluster) (u : CUnit) : List Event :=
  List.flatten [dueIf (!(c.queues[u.code.toNat]?.getD []).isEmpty || c.jobs.any fun j => j.call.unit == u && j.left == 0)
      [.coprocRecord n u],
    dueIf (!(c.rings[u.code.toNat]?.getD []).isEmpty) [.queueSpillRefill (.calls n u)]]

/-- The events due for one cluster's units (R284, R286). -/
def State.clusterEvents (s : State) (n : Nat) : List Event :=
  match s.clusters[n]? with
  | none => []
  | some c =>
    List.flatten [CUnit.all.flatMap (unitEvents n c), (List.range c.turns.length).map fun k => Event.fragmentTurn n k]

/-- The events due for the engines' commands. -/
def State.engineEvents (s : State) : List Event :=
  List.flatten
    [s.copySlots.flatMap fun e => dueIf e.2.cmd.isSome
      [.engineChunkComplete (e.1 / 64) (e.1 % 64), .engineCommandComplete (.copy (e.1 / 64) (e.1 % 64))],
     (List.range s.credits.length).map fun _ => Event.claveCredit 0,
     s.wloadSlots.flatMap fun e => dueIf e.2.cmd.isSome
      [.wloadRecord (e.1 / 32) (e.1 % 32), .engineCommandComplete (.wload (e.1 / 32) (e.1 % 32))],
     s.cinsSlots.flatMap fun e => dueIf e.2.cmd.isSome
      [.cinsApply (e.1 / 32) (e.1 % 32), .engineCommandComplete (.cins (e.1 / 32) (e.1 % 32))]]

/-- The events due for one partition's consumers and launches. -/
def State.partEvents (s : State) (p : Partition) : List Event :=
  List.flatten
    [p.consumers.flatMap fun c => dueIf (!c.held.isEmpty) [.consumerWaitExpiry p.n c.n],
     (s.launches.filter fun l => l.part == p.n).flatMap fun l =>
      [Event.preconditionRead p.n l.key, Event.launchRefused p.n l.key, Event.cohortReserved p.n l.key],
     [.launchDispatch p.n]]

/-- The default round (log 1, DESIGN CHOICE): every due event once, in a fixed order; then each group's readiness is settled (R306), the
ready ones age, and each slot in use has one issue cycle, a core's lowest slot first (R43); then 1 ns. -/
def State.defaultRound (s : State) : List Sched :=
  if !s.booted then [.event .powerUpBoot]
  else
    let served := (s.requests.filter fun r => r.reply.isNone).map fun r => requestEvent r.code (r.args[0]?.getD 0).toNat r.id
    let evs : List (List Event) :=
      [(List.range s.faults.length).map fun _ => Event.faultRecord 0, s.engineEvents,
       (List.range 48).flatMap s.clusterEvents, s.parts.flatMap s.partEvents,
       (s.groups.append s.draining).flatMap groupEvents,
       s.monitors.map fun m => Event.monitorWindowEnd m.point,
       s.migrations, (List.range s.hotPending.length).map fun _ => Event.hotUpdate 0,
       (List.range s.replicas.length).map fun _ => Event.leaseExpiry 0]
    let late := s.groups.flatMap fun gr => gr.late.map fun _ => Sched.perform gr.key 0 false
    let cycle : List Event :=
      (s.groups.map fun gr => Event.groupAged gr.key).append (s.slotsInUse.map fun cs => Event.slotIssueCycle cs.1 cs.2)
    List.flatten [served, (List.range s.arrivals.length).reverse.map Sched.pending, late, evs.flatten.map Sched.event, s.groups.map fun gr => Sched.retry gr.key, cycle.map Sched.event, [.tick 1]]

end Sys2Proof.Machine
end

