-- ==== Sys2Proof/Machine/LaneMemory.lean ====
section
/-!
DEFINITION. Lane loads, stores, atomics and prefetch (R176, R177, R179 to R181), and the port forms of `mov` (R198).
-/

namespace Sys2Proof.Machine

/-- Read the access of each lane in turn: the bytes of each. -/
def State.readLanes (order : Order) (n : Nat) : List (Nat × Dest) → State → List (Nat × List Byte) × State
  | [], s => ([], s)
  | (l, d) :: r, s =>
    let x := s.readFor order d n
    let y := State.readLanes order n r x.2
    ((l, x.1) :: y.1, y.2)

/-- The shape of `ld` (R176, R177): what the lanes that pass do is `act`. -/
def ldExec (g : BitVec 3) (mem : MemAddr) (obs : BitVec 6) (order : Order) (stage : Bool) (size : Size) (off : BitVec 20)
    (act : Mask → List (Nat × Dest) → State → State) (s : State) : State :=
  laneDo 2 g (memRegs mem) s fun m s =>
    let addr := s.cur.addrOf mem off.toInt stage
    let n := size.bytes
    s.laneAccess 2 m n order obs (s.laneFates m stage addr n true false none) addr fun good ds s =>
      (act good ds s).noteWatch stage n true false (ds.map fun x => (x.1, addr x.1))

/-- Lanes load and put what they read into the registers from d. -/
def State.loadLanes (order : Order) (size : Size) (d : Reg) (good : Mask) (ds : List (Nat × Dest)) (s : State) : State :=
  let r := State.readLanes order size.bytes ds s
  r.2.setCur (r.2.cur.setLoaded size d good r.1)

/-- `ld d, [mem]` (R176, R177). -/
def execLd (g : BitVec 3) (d : Reg) (mem : MemAddr) (obs : BitVec 6) (order : Order) (stage : Bool) (size : Size)
    (off : BitVec 20) (s : State) : Host.Outcome State Fault Refusal :=
  .next (ldExec g mem obs order stage size off (State.loadLanes order size d) s)

/-- Store each lane's bytes in ascending lane order (R177). -/
def State.writeLanes (bytes : Nat → List Byte) : List (Nat × Dest) → State → State
  | [], s => s
  | (l, d) :: r, s => State.writeLanes bytes r (s.groupWrite d (bytes l))

/-- The shape of `st` (R176, R177): what the lanes that pass do with their bytes is `act`. -/
def stExec (g : BitVec 3) (d : Reg) (mem : MemAddr) (obs : BitVec 6) (order : Order) (stage : Bool) (size : Size) (off : BitVec 20)
    (act : (Nat → List Byte) → List (Nat × Dest) → State → State) (s : State) : State :=
  laneDo 2 g (memRegs mem ++ blockRegs d (sizeRegs size)) s fun m s =>
    let gr := s.cur
    let addr := gr.addrOf mem off.toInt stage
    let n := size.bytes
    let bytes := fun l => storeBytes size ((blockRegs d (sizeRegs size)).map fun r => lane (gr.src r) l)
    s.laneAccess 2 m n order obs (s.laneFates m stage addr n false true none) addr fun _ ds s =>
      (act bytes ds s).noteWatch stage n false true (ds.map fun x => (x.1, addr x.1))

/-- `st d, [mem]` (R176, R177). -/
def execSt (g : BitVec 3) (d : Reg) (mem : MemAddr) (obs : BitVec 6) (order : Order) (stage : Bool) (size : Size)
    (off : BitVec 20) (s : State) : Host.Outcome State Fault Refusal :=
  .next (stExec g d mem obs order stage size off State.writeLanes s)

/-- The operands of one lane's atomic (R179). -/
def Group.atomArgs (gr : Group) (op : AtomOp) (dbl : Bool) (d : Reg) (l : Nat) : Nat × Nat :=
  atomOperands dbl ((atomRegs op dbl d).map fun r => lane (gr.src r) l)

/-- One lane's atomic (R179): the old value goes into d, the result to the location, indivisibly. -/
def State.atomLane (op : AtomOp) (dbl : Bool) (d : Reg) (s : State) (x : Nat × Dest) : State :=
  let n := if dbl then 8 else 4
  let gr := s.cur
  let v := gr.atomArgs op dbl d x.1
  let bs := s.readOwned gr.part x.2 n
  let z := if dbl then Size.d else Size.w
  let s1 := s.groupWrite x.2 (leBytes n (atomResult op (8 * n) (leNat bs) v.1 v.2))
  s1.setCur (s1.cur.setLoaded z d (1#64 <<< x.1) [(x.1, bs)])

/-- The shape of `atom` (R179, R180): what the lanes that pass do is `act`. A lane waits while an operand of its is a load's that has not
returned. -/
def atomExec (g : BitVec 3) (d : Reg) (mem : MemAddr) (obs : BitVec 6) (order : Order) (stage dbl : Bool) (aop : AtomOp) (off16 : BitVec 16)
    (act : List (Nat × Dest) → State → State) (s : State) : State :=
  laneDo 2 g (memRegs mem ++ atomRegs aop dbl d) s fun m s =>
    let addr := s.cur.addrOf mem off16.toInt stage
    let n := if dbl then 8 else 4
    s.laneAccess 2 m n order obs (s.laneFates m stage addr n true true (some aop)) addr fun _ ds s =>
      (act ds s).noteWatch stage n true true (ds.map fun x => (x.1, addr x.1))

/-- `atom.op d, [mem]` (R179, R180). -/
def execAtom (g : BitVec 3) (d : Reg) (mem : MemAddr) (obs : BitVec 6) (order : Order) (stage dbl : Bool) (aop : AtomOp)
    (off16 : BitVec 16) (s : State) : Host.Outcome State Fault Refusal :=
  .next (atomExec g d mem obs order stage dbl aop off16 (fun ds s => ds.foldl (State.atomLane aop dbl d) s) s)

/-- `pref [mem]` (R181): changes timing only. -/
def execPref (g : BitVec 3) (mem : MemAddr) (_off : BitVec 20) (s : State) : Host.Outcome State Fault Refusal :=
  .next (laneExec 2 g (memRegs mem) s fun _ gr => gr)

/-- A load stream that has not stopped: elements are left to read and no fault has ended it (R197). -/
def Port.running (p : Port) : Bool := p.bound && p.fault.isNone && decide (p.pos < p.count)

/-- A load port after n elements are popped: unbound once all count elements have been read and the last one popped (R198). -/
def Port.popped (p : Port) (n : Nat) : Port :=
  let q := { p with elems := p.elems.drop n, used := p.used + n }
  if q.fault.isNone ∧ q.count ≤ q.pos ∧ q.elems.isEmpty then Port.unbound else q

/-- A fault a port holds, as the trap of a port form (R198). -/
def portTrap (f : Nat × DWord) (m : Mask) : TrapInfo := ⟨f.1, 0, f.2, m, 1, false⟩

/-- HANDLE of a port form: the port number in trapa (R218). -/
def portHandle (q : BitVec 4) (m : Mask) : TrapInfo := ⟨11, 0, q.setWidth 64, m, 1, false⟩

/-- `mov d, qN` (R198): lane l takes the element of its rank among the acting lanes. -/
def execMovPopPort (g : BitVec 3) (d : Reg) (q : BitVec 4) (s : State) : Host.Outcome State Fault Refusal :=
  .next (laneDo 1 g [] s fun m s =>
    let gr := s.cur
    let p := gr.port q.toNat
    let n := laneCount m
    if p.bound ∧ p.kind ≠ 2 ∧ n ≤ p.elems.length then
      let g1 := gr.setV d m (lanesFrom fun l => p.elems.getD (laneRank m l) 0)
      (s.setCur (g1.setPort q.toNat (p.popped n))).retire 1
    else if p.kind ≠ 2 ∧ p.running then s.hold .portPop
    else
      match p.bound && p.kind != 2, p.fault with
      | true, some f => s.takeTrap (portTrap f m)
      | _, _ => s.takeTrap (portHandle q m))

/-- The elements a port takes: those with room go into it while nothing is spilled, the others to its ring (R198, R273). -/
def Port.pushed (p : Port) (ws : List Word) : Port :=
  let room := if p.ring.isEmpty then 256 - p.elems.length else 0
  { p with elems := p.elems ++ ws.take room, ring := p.ring ++ ws.drop room, used := p.used + ws.length }

/-- `mov qN, a` (R198, R273). -/
def execMovPushPort (g : BitVec 3) (a : Reg) (q : BitVec 4) (s : State) : Host.Outcome State Fault Refusal :=
  .next (laneDo 1 g [a] s fun m s =>
    let gr := s.cur
    let p := gr.port q.toNat
    let ws := (lanesOf m).map fun l => lane (gr.src a) l
    if !p.bound || p.kind != 2 then s.takeTrap (portHandle q m)
    else
      match p.fault with
      | some f => s.takeTrap (portTrap f m)
      | none =>
        if p.count < p.used + ws.length then s.takeTrap (portHandle q m)
        else
          let p1 := p.pushed ws
          let s1 := s.setCur { (gr.setPort q.toNat p1) with pushes := gr.pushes ++ ws.map fun _ => q.toNat }
          let ring := gr.portRing q.toNat
          if p1.ring.isEmpty then s1.retire 1
          else if !p.spill then s.hold .portPush
          else if 4 * p1.ring.length ≤ ring.2 ∧ s1.quotaOk gr.part gr.chain gr.quotas then
            let kept := ws.length - (p1.ring.length - p.ring.length)
            (s1.ringStore gr.part ring 4 (p.used + kept) ((ws.drop kept).map fun w => leBytes 4 w.toNat)).retire 1
          else s.quotaTrap ring.1 m 1)

end Sys2Proof.Machine
end

