-- ==== Sys2Proof/Machine/Streams.lean ====
section
/-!
DEFINITION. The access processor (R196 to R198): `ap.go`, `ap.stop`, `qtst`, the elements that streams move, and the return of
spilled elements to a port (R273).
-/

namespace Sys2Proof.Machine

/-- A reserved kind or field of a stream descriptor is set (R196): a field that its kind must hold at zero is one of them (log 36, DESIGN
CHOICE). -/
def streamReserved (d : Nat) : Bool :=
  let kind := bitsN d 202 200
  decide (bitsN d 255 208 ≠ 0) || decide (bitsN d 199 196 ≠ 0) || decide (3 ≤ kind) ||
  (decide (kind ≠ 1) && (decide (bitsN d 204 203 ≠ 0) || decide (bitsN d 127 64 ≠ 0))) ||
  (decide (kind = 1) && decide (bitsN d 159 128 ≠ 0)) ||
  (decide (bitsN d 206 206 = 1) && decide (kind ≠ 2)) ||
  (decide (bitsN d 205 205 = 1) && decide (bitsN d 63 32 ≠ 0))

/-- The port a descriptor binds (R196). -/
def streamPort (d : Nat) : Port :=
  if bitsN d 191 160 = 0 then Port.unbound
  else
    { Port.unbound with
      bound := true, kind := bitsN d 202 200, spill := bitsN d 206 206 = 1, stage := bitsN d 205 205 = 1
      scale := 2 ^ bitsN d 204 203, count := bitsN d 191 160, stride := (BitVec.ofNat 32 (bitsN d 159 128)).toInt
      index := BitVec.ofNat 64 (bitsN d 127 64), base := BitVec.ofNat 64 (bitsN d 63 0) }

/-- What reading a stream list gives: the descriptors with their ports; or HANDLE with its trapa, or a read that does not go, each with the
number of descriptors read. -/
inductive StreamList where
  | ok (ds : List (Nat × Nat))
  | handle (v n : Nat)
  | stop (f : Fate) (a n : Nat)
  deriving DecidableEq, Repr

/-- Read a stream list from an address, with the descriptors before it (R196): the first that fails decides, its reserved kind
and fields before its port. Of 17 descriptors with the last one last, two name one port. -/
def State.streamList (s : State) : Nat → Nat → List (Nat × Nat) → StreamList
  | 0, a, ds =>
    match s.readRun (piecesOf a 32) with
    | .error (f, x) => .stop f x ds.length
    | .ok bs =>
      let d := leNat bs
      .handle (if streamReserved d ∨ bitsN d 207 207 = 0 then a % 2 ^ 64 else bitsN d 195 192) (ds.length + 1)
  | k + 1, a, ds =>
    match s.readRun (piecesOf a 32) with
    | .error (f, x) => .stop f x ds.length
    | .ok bs =>
      let d := leNat bs
      let q := bitsN d 195 192
      if streamReserved d then .handle (a % 2 ^ 64) (ds.length + 1)
      else if (ds.any fun e => e.1 == q) || (s.cur.port q).bound then .handle q (ds.length + 1)
      else if bitsN d 207 207 = 1 then .ok (ds ++ [(q, d)])
      else s.streamList k (a + 32) (ds ++ [(q, d)])

/-- `ap.go ga` (R196). -/
def execApGo (g : BitVec 3) (a : Reg) (s : State) : Host.Outcome State Fault Refusal :=
  .next (uniDo 2 g (pairRegs a) s fun s =>
    let read := fun n => s.markRun (piecesOf (s.cur.usrcD a).toNat (32 * n))
    match s.streamList 16 (s.cur.usrcD a).toNat [] with
    | .handle v n => (read n).trapPath 11 0 (BitVec.ofNat 64 v) 2 false
    | .stop f x n => (if f.waits || f.isAbsent then s else read n).uniformStop f (BitVec.ofNat 64 x) 2 false
    | .ok ds =>
      let s1 := read ds.length
      (s1.setCur (ds.foldl (fun gr e => gr.setPort e.1 (streamPort e.2)) s1.cur)).retire 2)

/-- `ap.stop` (R198): every stream ends once the elements already pushed are written. -/
def execApStop (g : BitVec 3) (s : State) : Host.Outcome State Fault Refusal :=
  .next (uniDo 2 g [] s fun s =>
    let r := s.endStreams s.cur
    let s1 := r.1.setCur r.2
    if s1.cur.pushesLeft then s1.hold .portPush else s1.retire 2)

/-- The stream of a port is running (R198). -/
def Port.streamRuns (p : Port) : Bool := if p.kind = 2 then p.bound && p.fault.isNone else p.running

/-- `qtst cq, qN` (R198): never waits. -/
def execQtst (g cq : BitVec 3) (qa : BitVec 4) (s : State) : Host.Outcome State Fault Refusal :=
  .next (uniExec 2 g [] s fun gr =>
    let p := gr.port qa.toNat
    gr.setC cq (!p.elems.isEmpty || p.streamRuns))

/-! ### Elements -/

/-- The address of the next element of a load stream: a gather reads its index word first (R196, R197); and the state after. -/
def State.elemAddr (s : State) (gr : Group) (p : Port) : Except (Fate × Int) (Int × State) :=
  if p.kind = 1 then
    let ia : Nat := (p.index.toNat + 4 * p.pos) % 2 ^ 64
    if ia % 4 ≠ 0 then .error (.trap 3, ia)
    else
      match s.fateVirt gr.part gr.ranges ia true false false none 4 with
      | .go d =>
        let r := s.readAs gr.part d 4 .c gr.key s.serve
        .ok (p.base.toNat + (leNat r.1 : Int) * p.scale, r.2)
      | f => .error (f, ia)
  else .ok (p.elemAddr p.pos, s)

/-- What the fate of an element that does not go leaves of its port (R197), with the page it waits for. -/
def Port.stopped (p : Port) (f : Fate) (a : Int) : Port × Option Nat :=
  match f with
  | .replay ia => ({ p with paused := true }, some ia)
  | .trap c => ({ p with fault := some (c, BitVec.ofInt 64 a), paused := false }, none)
  | _ => ({ p with paused := true }, none)

/-- A load stream reads its next element into its port (R197). -/
def State.streamLoad (s : State) (gr : Group) (p : Port) : State × Port :=
  let stop := fun (s : State) (f : Fate) (a : Int) =>
    let r := p.stopped f a
    (match r.2 with | some ia => s.reportFault gr.part ia | none => s, r.1)
  match s.elemAddr gr p with
  | .error (f, a) => stop s f a
  | .ok (a, s1) =>
    match s1.streamFate gr p a true false with
    | .go d =>
      let r := s1.readAs gr.part d 4 .c gr.key s1.serve
      (r.2, { p with elems := p.elems ++ [BitVec.ofNat 32 (leNat r.1)], pos := p.pos + 1, paused := false })
    | f => stop s1 f a

/-- Where the reads of a load stream's next element go: of a gather, its index word and then the element. -/
def State.elemDests (s : State) (gr : Group) (p : Port) : List Dest :=
  let index :=
    if p.kind = 1 then
      match s.fateVirt gr.part gr.ranges ((p.index.toNat + 4 * p.pos) % 2 ^ 64) true false false none 4 with
      | .go d => [d]
      | _ => []
    else []
  match s.elemAddr gr p with
  | .error _ => index
  | .ok (a, _) =>
    match s.streamFate gr p a true false with
    | .go d => index ++ [d]
    | _ => index

/-- A load stream's next element is read while its port has room (R197), after the group's late accesses and pushed elements to its bytes
(R183). -/
def execStreamLoadElement (grp port : Nat) (s0 : State) : Host.Outcome State Fault Refusal :=
  .next (
    let meets := fun q : Group → Dest → Bool => (s0.group? grp).any fun gr => (s0.elemDests gr (gr.port port)).any (q gr)
    let s := if meets fun gr d => gr.late.any fun x => x.meets d 4 then s0.performGroup grp else s0
    match s.group? grp with
    | none => s
    | some gr =>
      let p := gr.port port
      if p.bound ∧ p.kind ≠ 2 ∧ p.running ∧ p.elems.length < 256 ∧
          ¬ (s.elemDests gr p).any (fun d => s.pushMeets gr gr.pushes.length d 4) then
        let r := s.streamLoad gr p
        r.1.modGroup grp fun gr => gr.setPort port r.2
      else s)

/-- The group of a key that has store-stream elements to write: live, or ended (R149). -/
def State.pusher? (s : State) (grp : Nat) : Option Group :=
  match s.group? grp with
  | some gr => some gr
  | none => s.draining.find? fun gr => gr.key == grp

/-- Put back a group whose store streams have written: an ended group with nothing left to write goes (R149). -/
def State.putPusher (s : State) (gr : Group) : State :=
  let s1 := s.modGroup gr.key fun _ => gr
  { s1 with draining := (s1.draining.map fun x => if x.key = gr.key then gr else x).filter Group.pushesLeft }

/-- A store stream writes its oldest pushed element (R197), after the group's late accesses where one meets it (R183). -/
def execStreamStoreElement (grp port : Nat) (s : State) : Host.Outcome State Fault Refusal :=
  .next (
    match s.pusher? grp with
    | none => s
    | some gr =>
      let p := gr.port port
      if p.bound ∧ p.kind = 2 ∧ p.fault.isNone ∧ (s.nextPush gr = some port ∨ s.pushWaits gr port) then
        let r := s.writePush gr port
        r.1.putPusher r.2
      else s)

end Sys2Proof.Machine
end

