-- ==== Sys2Proof/Machine/Collections.lean ====
section
/-!
DEFINITION. Collections (R256 to R269): descriptors, canonical blocks and their images, the home engine's operations on memory, and
`cins`, `crem`, `cnext`, `copen`, `cclose`, `ccount`.
-/

namespace Sys2Proof.Machine

/-! ### The descriptor (R256, R257) -/

/-- Key width. -/
def Coll.k (c : Coll) : Nat := bitsN c.desc 5 0
/-- Payload width. -/
def Coll.w (c : Coll) : Nat := bitsN c.desc 13 8
/-- Virtual address of the block table. -/
def Coll.tab (c : Coll) : Nat := bitsN c.desc 127 64
/-- Block-table entries. -/
def Coll.tabcap (c : Coll) : Nat := bitsN c.desc 191 160
/-- Virtual address of the pool. -/
def Coll.pool (c : Coll) : Nat := bitsN c.desc 255 192
/-- Virtual address of the pool bitmap. -/
def Coll.map (c : Coll) : Nat := bitsN c.desc 319 256
/-- Blocks in the pool. -/
def Coll.poolcap (c : Coll) : Nat := bitsN c.desc 351 320
/-- Every element in order (R258). -/
def Coll.elems (c : Coll) : List (Nat × Nat) := c.blocks.flatMap (·.elems)

/-- A collection descriptor is valid (R257). -/
def collOk (d : Nat) : Bool :=
  decide (bitsN d 7 6 = 0) && decide (4 ≤ bitsN d 5 0) && decide (bitsN d 5 0 ≤ 48) && decide (bitsN d 13 8 ≤ 32) &&
  decide (bitsN d 319 256 % 8 = 0) && decide (bitsN d 255 192 % 256 = 0) && decide (bitsN d 127 64 % 16 = 0) &&
  decide (1 ≤ bitsN d 191 160) && decide (1 ≤ bitsN d 351 320) && decide (bitsN d 351 320 ≤ 2 ^ 24) &&
  decide (bitsN d 511 448 = 0) && decide (bitsN d 159 128 = 0) && decide (bitsN d 63 14 = 0)

/-- Replace bits of a descriptor. -/
def putBits (x lo n v : Nat) : Nat := x - x / 2 ^ lo % 2 ^ n * 2 ^ lo + v % 2 ^ n * 2 ^ lo

/-! ### Blocks (R258 to R261) -/

/-- Element order (R258). -/
def elemLt (a b : Nat × Nat) : Bool := decide (a.1 < b.1) || (decide (a.1 = b.1) && decide (a.2 < b.2))

/-- Insert an element in order. -/
def insertElem (x : Nat × Nat) : List (Nat × Nat) → List (Nat × Nat)
  | [] => [x]
  | y :: r => if elemLt x y then x :: y :: r else y :: insertElem x r

/-- Remove one instance of an element. -/
def removeElem (x : Nat × Nat) : List (Nat × Nat) → List (Nat × Nat)
  | [] => []
  | y :: r => if x = y then r else y :: removeElem x r

/-- The bit length of a number. -/
def bitLength (n : Nat) : Nat := if n = 0 then 0 else Nat.log2 n + 1

/-- The gaps between successive keys. -/
def keyGaps : List (Nat × Nat) → List Nat
  | a :: b :: r => (b.1 - a.1) :: keyGaps (b :: r)
  | _ => []

/-- g of R259. -/
def gapBits (es : List (Nat × Nat)) : Nat := max 1 (bitLength ((keyGaps es).foldl max 0))

/-- A set of elements fits one block (R259). -/
def fitsBlock (w : Nat) (es : List (Nat × Nat)) : Bool :=
  decide (1 ≤ es.length) && decide (es.length ≤ 255) && decide (gapBits es ≤ 31) &&
  decide (64 + w + (es.length - 1) * (gapBits es + w) ≤ 2048)

/-- The canonical blocks of elements in a range (R259), none where one key holds too many copies. -/
def canonical (w : Nat) : Nat → Nat → List (Nat × Nat) → Option (List (Nat × Nat × List (Nat × Nat)))
  | 0, base, es => if es.isEmpty then some [] else if fitsBlock w es then some [(base, 0, es)] else none
  | l + 1, base, es =>
    if es.isEmpty then some []
    else if fitsBlock w es then some [(base, l + 1, es)]
    else
      let mid := base + 2 ^ l
      match canonical w l base (es.filter fun e => decide (e.1 < mid)), canonical w l mid (es.filter fun e => decide (mid ≤ e.1)) with
      | some a, some b => some (a ++ b)
      | _, _ => none

/-- The bits of a block's elements after its first, from stream bit s (R261). -/
def imageTail (w g : Nat) : Nat → List (Nat × Nat) → Nat
  | s, a :: b :: r => (b.1 - a.1) * 2 ^ s + b.2 * 2 ^ (s + g) + imageTail w g (s + g + w) (b :: r)
  | _, _ => 0

/-- A block's image (R261). -/
def blockImage (w : Nat) (es : List (Nat × Nat)) : Nat :=
  match es with
  | [] => 0
  | e :: _ => e.1 + es.length * 2 ^ 48 + gapBits es * 2 ^ 56 + e.2 * 2 ^ 64 + imageTail w (gapBits es) (64 + w) es

/-- Read n further elements of an image from stream bit s after a key. -/
def parseTail (x w g : Nat) : Nat → Nat → Nat → List (Nat × Nat)
  | 0, _, _ => []
  | n + 1, s, key =>
    let k := key + x / 2 ^ s % 2 ^ g
    (k, x / 2 ^ (s + g) % 2 ^ w) :: parseTail x w g n (s + g + w) k

/-- The elements of an image; `blockImage` of them tells whether it keeps to R261. -/
def parseImage (w x : Nat) : List (Nat × Nat) :=
  if bitsN x 55 48 = 0 then []
  else (bitsN x 47 0, x / 2 ^ 64 % 2 ^ w) :: parseTail x w (bitsN x 60 56) (bitsN x 55 48 - 1) (64 + w) (bitsN x 47 0)

/-- A block-table entry (R260). -/
def tableEntry (b : CBlock) : Nat := b.base + b.lvl * 2 ^ 48 + b.blk * 2 ^ 64

/-! ### What the engine reads -/

/-- Why an operation does not go on. -/
inductive CollStop where
  | fate (f : Fate) (a : Nat)
  | badDesc
  | corrupt
  | badKey
  | keyFull
  | full
  deriving DecidableEq, Repr

/-- The bytes of pieces as an engine reads them, a party of class m, or the first that does not go with its address. -/
def State.collPieces (s : State) (b : CmdBase) : List (Int × Nat) → Except CollStop (List Byte)
  | [] => .ok []
  | (a, n) :: r =>
    match s.engineRead (some .m) b false [(a, n)] with
    | .error f => .error (.fate f (a % 2 ^ 64).toNat)
    | .ok bs =>
      match s.collPieces b r with
      | .ok more => .ok (bs ++ more)
      | .error e => .error e

/-- Read n bytes at a virtual address. -/
def State.collRead (s : State) (b : CmdBase) (va n : Nat) : Except CollStop Nat :=
  match s.collPieces b (intPieces va n) with
  | .ok bs => .ok (leNat bs)
  | .error e => .error e

/-- Read a descriptor at a virtual address (R256, R257, R270). -/
def State.descRead (s : State) (b : CmdBase) (va : Nat) (ok : Nat → Bool) : Except CollStop Nat :=
  if va % 64 ≠ 0 then .error .badDesc
  else
    match s.collRead b va 64 with
    | .error e => .error e
    | .ok d => if ok d then .ok d else .error .badDesc

/-- Elements stand in their order (R258). -/
def inOrder : List (Nat × Nat) → Bool
  | a :: b :: r => !elemLt b a && inOrder (b :: r)
  | _ => true

/-- A block of a table entry keeps to R259 to R261; the entry's reserved bits are ignored (R6). -/
def CBlock.ok (c : Coll) (image : Nat) (b : CBlock) : Bool :=
  inOrder b.elems && decide (b.lvl ≤ c.k) && decide (b.base % 2 ^ b.lvl = 0) && decide (b.base + 2 ^ b.lvl ≤ 2 ^ c.k) &&
  decide (b.blk < c.poolcap) && decide (c.bitmap / 2 ^ b.blk % 2 = 1) && !b.elems.isEmpty &&
  (b.elems.all fun e => decide (b.base ≤ e.1) && decide (e.1 < b.base + 2 ^ b.lvl)) && decide (blockImage c.w b.elems = image)

/-- Read the blocks of table entries i, i + 1, … (R260, R261). -/
def State.readBlocks (s : State) (b : CmdBase) (c : Coll) (table : Nat) : Nat → Nat → Except CollStop (List CBlock)
  | 0, _ => .ok []
  | n + 1, i =>
    let e := table / 2 ^ (128 * i) % 2 ^ 128
    let blk := bitsN e 95 64
    if c.poolcap ≤ blk then .error .corrupt
    else
      match s.collRead b (c.pool + 256 * blk) 256 with
      | .error x => .error x
      | .ok img =>
        let x : CBlock := ⟨bitsN e 47 0, bitsN e 53 48, blk, parseImage c.w img⟩
        if !x.ok c img then .error .corrupt
        else
          match s.readBlocks b c table n (i + 1) with
          | .ok r => .ok (x :: r)
          | .error y => .error y

/-- The bitmap's bits of the pool: those past poolcap mean nothing (R256). -/
def Coll.poolBits (c : Coll) : Nat := c.bitmap % 2 ^ c.poolcap

/-- The blocks are the canonical ones of what they hold, each with a pool block of its own, and the bitmap has exactly those
pool blocks set (R256, R259, R260). -/
def Coll.consistent (c : Coll) : Bool :=
  decide (c.elems.length = bitsN c.desc 415 384) && decide ((c.blocks.map (·.blk)).Nodup) &&
  decide (c.poolBits = (c.blocks.map fun b => 2 ^ b.blk).sum) &&
  decide (canonical c.w c.k 0 c.elems = some (c.blocks.map fun b => (b.base, b.lvl, b.elems)))

/-- Read a collection's bitmap, table and blocks as they stand. -/
def State.readColl (s : State) (b : CmdBase) (d : Nat) : Except CollStop Coll :=
  let c0 : Coll := ⟨d, [], 0⟩
  let n := bitsN d 383 352
  if c0.tabcap < n ∨ c0.poolcap < n then .error .corrupt
  else
    match s.collRead b c0.map ((c0.poolcap + 7) / 8) with
    | .error e => .error e
    | .ok m =>
      let c1 : Coll := ⟨d, [], m⟩
      match s.collRead b c0.tab (16 * n) with
      | .error e => .error e
      | .ok table =>
        match s.readBlocks b c1 table n 0 with
        | .error e => .error e
        | .ok bs =>
          let c : Coll := ⟨d, bs, m⟩
          if c.consistent then .ok c else .error .corrupt

/-- The place of a structure's descriptor, as a number: one for each byte of each space; memory that partitions share is one (R22, R314). -/
def State.descKey (s : State) (part : Nat) (ranges : List RangeEnt) (va : Nat) : Nat :=
  match s.translate part ranges va true false false none with
  | .ok (.paged ia) => ia
  | .ok (.stage x) => 2 ^ 60 + x
  | .ok (.peer q ia) => 2 ^ 90 + s.peerIndex part q ia
  | .ok (.host a) => 2 ^ 70 + a
  | _ => 2 ^ 80 + va

/-- An iterator is open on a structure. -/
def State.iterOpen (s : State) (key : Nat) : Bool :=
  s.holders.any fun gr => gr.iters.toList.any fun it => it.opened && decide (s.descKey gr.part gr.ranges it.desc.toNat = key)

/-- What an operation acts on where a party has stored into the structure (R274): what the engine holds, as far as its areas can be
read, what now stands there, or neither (CORRUPT); a free choice (log 9, DESIGN CHOICE). Where what stands there is what the engine
holds, or its areas alone meet a fault, there is no choice. -/
def heldOr {α : Type} (same : α → α → Bool) (n : Nat) (held : Option (α × Option CollStop)) (now : Except CollStop α) :
    Except CollStop α :=
  match held with
  | none => now
  | some (h, stop) =>
    let keep : Except CollStop α := match stop with | none => .ok h | some e => .error e
    match now with
    | .ok x => if same x h then .ok x else if n % 3 = 0 then keep else if n % 3 = 1 then .ok x else .error .corrupt
    | .error e => if stop = some e then .error e else if n % 2 = 0 then keep else .error .corrupt

/-- What the engine holds of a collection, while it has elements or an open iterator. -/
def State.heldColl (s : State) (key : Nat) : Option Coll :=
  match SMap.get none s.heldColls key with
  | none => none
  | some h => if !h.blocks.isEmpty || s.iterOpen key then some h else none

/-- Two readings of a collection agree: bits of the bitmap past the pool mean nothing. -/
def Coll.same (a b : Coll) : Bool := decide ({ a with bitmap := a.poolBits } = { b with bitmap := b.poolBits })

/-- The first run of bytes that an engine cannot read. -/
def State.readStop (s : State) (b : CmdBase) : List (Nat × Nat) → Option CollStop
  | [] => none
  | (a, n) :: r => match s.collRead b a n with | .error e => some e | .ok _ => s.readStop b r

/-- What stops a reading of the areas of a collection as the engine holds it. -/
def State.collStopped (s : State) (b : CmdBase) (va : Nat) (h : Coll) : Option CollStop :=
  s.readStop b ([(va, 64), (h.map, (h.poolcap + 7) / 8), (h.tab, 16 * h.blocks.length)] ++
    h.blocks.map fun x => (h.pool + 256 * x.blk, 256))

/-- The state as an engine reads a structure: what it has left there itself it reads no older (R262). -/
def State.unserved (s : State) (known : Bool) : State := if known then { s with serve := false } else s

/-- A collection as it stands now. -/
def State.collNow (s : State) (b : CmdBase) (va : Nat) : Except CollStop Coll :=
  match s.descRead b va collOk with
  | .error e => .error e
  | .ok d => s.readColl b d

/-- The collection an operation acts on. -/
def State.openColl (s0 : State) (b : CmdBase) (va : Nat) : Except CollStop Coll :=
  let s := s0.unserved (SMap.get none s0.heldColls (s0.descKey b.part b.ranges va)).isSome
  let now := s.collNow b va
  let held := (s.heldColl (s.descKey b.part b.ranges va)).map fun h => (h, s.collStopped b va h)
  heldOr Coll.same (Config.freeNat s.freeCtr) held now

/-- From the first operation that finds elements in a collection on, its engine holds it as it then stands (R274). -/
def State.noteColl (s : State) (b : CmdBase) (va : Nat) : State :=
  let key := s.descKey b.part b.ranges va
  if (s.heldColl key).isSome then s
  else
    match s.openColl b va with
    | .ok x => if x.blocks.isEmpty then s else { s with heldColls := SMap.set none s.heldColls key (some x) }
    | .error _ => s

/-! ### What the engine writes -/

/-- The n-th clear bit of the first cap bits of a number. -/
def clearBit (x cap n : Nat) : Nat := (((List.range cap).filter fun i => decide (x / 2 ^ i % 2 = 0)).drop n).headD 0

/-- Give pool blocks to canonical ranges (R260): a range that was a block keeps its own; a new one takes a free one, which is the
engine's choice (log 7, DESIGN CHOICE). -/
def placeBlocks (old : List CBlock) (cap : Nat) (pick : Nat → Nat) : List (Nat × Nat × List (Nat × Nat)) → Nat → List CBlock × Nat
  | [], m => ([], m)
  | (base, lvl, es) :: r, m =>
    let blk :=
      match old.find? fun b => b.base == base && b.lvl == lvl with
      | some b => b.blk
      | none =>
        let free := ((List.range cap).filter fun i => decide (m / 2 ^ i % 2 = 0)).length
        clearBit m cap (pick r.length % free)
    let x := placeBlocks old cap pick r (m - m / 2 ^ blk % 2 * 2 ^ blk + 2 ^ blk)
    (⟨base, lvl, blk, es⟩ :: x.1, x.2)

/-- The collection with other elements (R264): KEYFULL before FULL. -/
def Coll.withElems (c : Coll) (pick : Nat → Nat) (es : List (Nat × Nat)) : Except CollStop Coll :=
  match canonical c.w c.k 0 es with
  | none => .error .keyFull
  | some rs =>
    let kept := c.blocks.filter fun b => rs.any fun r => r.1 == b.base && r.2.1 == b.lvl
    let mine := (c.blocks.map (·.blk)).foldl (fun m i => m - m / 2 ^ i % 2 * 2 ^ i) c.bitmap
    let m := (kept.map (·.blk)).foldl (fun m i => m - m / 2 ^ i % 2 * 2 ^ i + 2 ^ i) mine
    let free := ((List.range c.poolcap).filter fun i => decide (m / 2 ^ i % 2 = 0)).length
    if 2 ^ 32 ≤ es.length ∨ c.tabcap < rs.length ∨ free + kept.length < rs.length then .error .full
    else
      let x := placeBlocks kept c.poolcap pick rs m
      let d1 := putBits c.desc 352 32 rs.length
      let d2 := putBits d1 384 32 es.length
      .ok ⟨putBits d2 416 32 (bitsN c.desc 447 416 + 1), x.1, x.2⟩

/-- The writes that turn one collection into another: address, number of bytes, contents. -/
def collWrites (va : Nat) (c n : Coll) : List (Nat × Nat × Nat) :=
  let images := (n.blocks.filter fun b => !c.blocks.contains b).filterMap fun b =>
    let same := c.blocks.any fun o => o.blk == b.blk && o.elems == b.elems
    if same then none else some (c.pool + 256 * b.blk, 256, blockImage c.w b.elems)
  let table := ((List.range n.blocks.length).filter fun i => decide (c.blocks[i]? ≠ n.blocks[i]?)).filterMap fun i =>
    (n.blocks[i]?).map fun b => (c.tab + 16 * i, 16, tableEntry b)
  let maps := ((List.range ((c.poolcap + 7) / 8)).filter fun i =>
    decide (c.bitmap / 2 ^ (8 * i) % 256 ≠ n.bitmap / 2 ^ (8 * i) % 256)).map fun i => (c.map + i, 1, n.bitmap / 2 ^ (8 * i) % 256)
  images ++ table ++ maps ++ [(va + 44, 12, bitsN n.desc 447 352)]

/-- Where writes go, or the first that does not go. -/
def State.collDests (s : State) (b : CmdBase) : List (Nat × Nat × Nat) → Except CollStop (List (List (Dest × Nat) × List Byte))
  | [] => .ok []
  | (a, n, x) :: r =>
    match s.runDests b (intPieces a n) with
    | .error f => .error (.fate f.1 f.2)
    | .ok ds =>
      match s.collDests b r with
      | .ok more => .ok ((ds, leBytes n x) :: more)
      | .error e => .error e

/-- Carry out writes: the state and their latest completion times. -/
def State.collStore (s : State) (part : Nat) (ws : List (List (Dest × Nat) × List Byte)) : State × Vector Nat 6 :=
  ws.foldl (fun x w => x.1.engineWrite part w.1 w.2 x.2) (s, Vector.replicate 6 0)

/-- One operation of the home engine that changes a collection (R262): as a whole or not at all. -/
def State.changeColl (s : State) (b : CmdBase) (va : Nat) (c : Coll) (es : List (Nat × Nat)) :
    Except CollStop (State × Vector Nat 6) :=
  match c.withElems (fun i => Config.freeNat (s.freeCtr + 1 + i)) es with
  | .error e => .error e
  | .ok n =>
    match s.collDests b (collWrites va c n) with
    | .error e => .error e
    | .ok ws =>
      let r := s.collStore b.part ws
      let key := s.descKey b.part b.ranges va
      .ok ({ r.1 with
        freeCtr := s.freeCtr + 1 + n.blocks.length
        heldColls := SMap.set none r.1.heldColls key (some n) }, r.2)

/-! ### `cins` (R264) -/

/-- The status code of a stop. -/
def CollStop.code : CollStop → Nat
  | .fate f _ => engineStatusOf f.cause
  | .badDesc => 19 | .corrupt => 20 | .badKey => 18 | .keyFull => 17 | .full => 16

/-- The pairs of a `cins` under a descriptor, or BADKEY. -/
def CinsCmd.newPairs (c : CinsCmd) (x : Coll) : Except CollStop (List (Nat × Nat)) :=
  if x.k > 32 ∧ c.oddKey then .error .badKey
  else
    let ps := c.pairs.map fun p =>
      (if x.k ≤ 32 then p.1.toNat else p.1.toNat + (p.2.2.getD 0).toNat * 2 ^ 32, p.2.1.toNat)
    if ps.any fun p => decide (2 ^ x.k ≤ p.1) || decide (2 ^ x.w ≤ p.2) then .error .badKey else .ok ps

/-- Apply a `cins` command to its collection. -/
def State.applyCins (s : State) (c : CinsCmd) : Except CollStop (State × Vector Nat 6) :=
  match s.openColl c.base c.desc.toNat with
  | .error e => .error e
  | .ok x =>
    match c.newPairs x with
    | .error e => .error e
    | .ok ps => s.changeColl c.base c.desc.toNat x (ps.foldl (fun es p => insertElem p es) x.elems)

/-- Put a `cins` command back into its slot. -/
def State.putCins (s : State) (i : Nat) (c : CinsCmd) : State :=
  let x := SMap.get EngSlot.idle s.cinsSlots i
  { s with cinsSlots := SMap.set EngSlot.idle s.cinsSlots i { x with cmd := some c } }

/-- A `cins` command ends with a status word. -/
def State.endCins (s : State) (i : Nat) (c : CinsCmd) (st : DWord) : State :=
  s.putCins i { c with base := { c.base with result := some st } }

/-- A command with its generation and its place in the order of issue. -/
def CinsCmd.numbered (c : CinsCmd) (gen : Word) (n : Nat) : CinsCmd := { c with base := { c.base with gen := gen, seq := n } }

/-- Mask of class c. -/
def obsC : BitVec 6 := 1

/-- `cins gd, ka, pb, gc` (R264): it is held while the core has 32 in flight; with no acting lane it completes at once. -/
def execCins (g : BitVec 3) (d a b c : Reg) (obs : BitVec 6) (s : State) : Host.Outcome State Fault Refusal :=
  .next (
    let gr := s.cur
    let m := gr.acting g
    if m ≠ 0 && gr.pendingOn ([a, b] ++ pairRegs c) then s.hold .pending
    else
      match s.chooseSlot (.cins gr.core) 32 with
      | none =>
        if m = 0 then (s.setCur ((gr.setG d (loWord (statusWord 0 0))).setG (d + 1) (hiWord (statusWord 0 0)))).retire 2
        else s.hold .engineFull
      | some e =>
        let gen := nextGen (s.slotOf e).1
        let odd := decide (a.toNat % 2 = 1)
        let pairs := (lanesOf m).map fun l =>
          (lane (gr.src a) l, lane (gr.src b) l, if odd then none else some (lane (gr.src (a + 1)) l))
        let cmd : CinsCmd :=
          { base := { gr.cmdBase obs .plain none with notBefore := gr.horizon.toList.getD 0 0 }
            desc := gr.usrcD c, pairs := pairs, oddKey := odd, applied := false }
        let s1 : State := { s with
          cur := gr.setHandle d (handleOf e gr.core gen), freeCtr := s.freeCtr + 1
          cinsSlots := SMap.set EngSlot.idle s.cinsSlots (engIndex e) ⟨gen, some (cmd.numbered gen s.freeCtr), (s.slotOf e).2.2⟩ }
        (if m = 0 then s1.finishCommand e gr.core (statusWord 0 0) else s1).retire 2)

/-- A `cins` command is applied at one instant of engine order (R262, R264). -/
def execCinsApply (core slot : Nat) (s : State) : Host.Outcome State Fault Refusal :=
  .next (
    let i := engIndex (.cins core slot)
    match (SMap.get EngSlot.idle s.cinsSlots i).cmd with
    | none => s
    | some c =>
      if c.base.result.isSome then s
      else if c.base.cancel then s.endCins i c (statusWord 1 0)
      else if s.now < c.base.notBefore then s
      else
        match s.applyCins c with
        | .ok (s1, t) =>
          s1.endCins i { c with applied := true, base := { c.base with times := t } } (statusWord 0 c.pairs.length)
        | .error (.fate (.replay ia) _) => (s.reportFault c.base.part ia).putCins i { c with base := { c.base with paused := true } }
        | .error (.fate .absent _) => s
        | .error e =>
          let s1 := s.noteColl c.base c.desc.toNat
          State.endCins { s1 with freeCtr := s.freeCtr + 1 } i c (statusWord e.code 0))

/-! ### The synchronous forms (R265 to R268) -/

/-- The base under which a synchronous form's engine works: the group's range table. -/
def Group.syncBase (gr : Group) : CmdBase := gr.cmdBase 0 .plain none

/-- What a stop does to a synchronous form (R262): it parks, waits, traps with the fault, or raises HANDLE with a value. -/
def State.syncStop (s : State) (e : CollStop) (handle : DWord) (lanes : Mask) : State :=
  match e with
  | .fate (.replay ia) _ => s.park ia lanes
  | .fate .absent _ => s.hold .presence
  | .fate (.trap c) a => s.trapPath c 0 (BitVec.ofNat 64 a) 2 false
  | _ => State.trapPath { s with freeCtr := s.freeCtr + 1 } 11 0 handle 2 false

/-- HANDLE of a form on a descriptor. -/
def State.descHandle (s : State) (handle : DWord) : State := s.trapPath 11 0 handle 2 false

/-- now ≥ H(c) (R265). -/
def State.pastC (s : State) : Bool := s.reached s.cur.horizon obsC

/-- A register is odd. -/
def oddReg (r : Reg) : Bool := decide (r.toNat % 2 = 1)

/-- A lane's key (R262). -/
def Group.laneKey (gr : Group) (k : Nat) (r : Reg) (l : Nat) : Nat :=
  if k ≤ 32 then (lane (gr.src r) l).toNat else (gr.srcD r l).toNat

/-- A uniform key (R262). -/
def Group.uniKey (gr : Group) (k : Nat) (r : Reg) : Nat := if k ≤ 32 then (gr.usrc r).toNat else (gr.usrcD r).toNat

/-- Remove one instance for each lane in turn (R265): the lanes that found one, and what is left. -/
def removeLanes (key : Nat → Nat × Nat) (es : List (Nat × Nat)) (ls : List Nat) : Mask × List (Nat × Nat) :=
  ls.foldl (fun x l => if x.2.contains (key l) then (x.1 ||| (1#64 <<< l), removeElem (key l) x.2) else x) (0, es)

/-- `crem pd, ka, pb, gc` (R265). -/
def execCrem (g : BitVec 3) (pd : BitVec 3) (a b c : Reg) (s : State) : Host.Outcome State Fault Refusal :=
  .next (laneDo 2 g ([a, b] ++ pairRegs c) s fun m s =>
    let gr := s.cur
    let va := gr.usrcD c
    if !s.pastC then s.hold .order
    else
      match s.openColl gr.syncBase va.toNat with
      | .error e => s.syncStop e va m
      | .ok x =>
        let s := s.noteColl gr.syncBase va.toNat
        if x.k > 32 ∧ oddReg a then s.descHandle va
        else
          let key := fun l => (gr.laneKey x.k a l, (lane (gr.src b) l).toNat)
          let r := removeLanes key x.elems (lanesOf m)
          if r.1 = 0 then (State.setCur { s with freeCtr := s.freeCtr + 1 } (gr.setPred pd m 0)).retire 2
          else
            match s.changeColl gr.syncBase va.toNat x r.2 with
            | .error e => s.syncStop e va m
            | .ok (s1, _) => (s1.setCur (s1.cur.setPred pd m r.1)).retire 2)

/-- `ccount gd, gc, ga, gb` (R266). -/
def execCcount (g : BitVec 3) (d a b c : Reg) (s : State) : Host.Outcome State Fault Refusal :=
  .next (uniDo 2 g ([a, b] ++ pairRegs c) s fun s =>
    let gr := s.cur
    let va := gr.usrcD c
    if !s.pastC then s.hold .order
    else
      match s.openColl gr.syncBase va.toNat with
      | .error e => s.syncStop e va gr.path.mask
      | .ok x =>
        let s := s.noteColl gr.syncBase va.toNat
        if x.k > 32 ∧ (oddReg a || oddReg b) then s.descHandle va
        else
          let lo := gr.uniKey x.k a
          let hi := min (gr.uniKey x.k b) (2 ^ x.k - 1)
          let n := (x.elems.filter fun e => decide (lo ≤ e.1) && decide (e.1 ≤ hi)).length
          (State.setCur { s with freeCtr := s.freeCtr + 1 } (gr.setU d (BitVec.ofNat 32 n))).retire 2)

/-- An iterator. -/
def Group.iter (gr : Group) (n : BitVec 3) : Iter := gr.iters[n.toNat]?.getD Iter.closed
/-- Replace an iterator. -/
def Group.setIter (gr : Group) (n : BitVec 3) (it : Iter) : Group := { gr with iters := gr.iters.setIfInBounds n.toNat it }

/-- The descriptor that `copen` goes by (R262, R267): where a party has stored into a structure with elements or an open iterator, what the
engine holds of it, what stands there if it describes a structure that R259 to R261 admit, or neither (R274). -/
def State.openDesc (s0 : State) (b : CmdBase) (va : Nat) : Except CollStop Nat :=
  let s := s0.unserved (SMap.get none s0.heldColls (s0.descKey b.part b.ranges va)).isSome
  let now := s.descRead b va collOk
  match s.heldColl (s.descKey b.part b.ranges va) with
  | none => now
  | some h =>
    heldOr (· == ·) (Config.freeNat s.freeCtr) (some (h.desc, s.readStop b [(va, 64)]))
      (match now with
       | .ok d => if d = h.desc then .ok d else (match s.readColl b d with | .ok _ => .ok d | .error _ => .error .corrupt)
       | .error e => .error e)

/-- From its first open iterator on, the engine holds a collection as it then stands, though it have no elements (R274). -/
def State.noteOpen (s : State) (b : CmdBase) (va : Nat) : State :=
  let key := s.descKey b.part b.ranges va
  if (s.heldColl key).isSome then s
  else { s with heldColls := SMap.set none s.heldColls key (s.collNow b va).toOption }

/-- `copen itN, gc, ga, gb` (R267). -/
def execCopen (g : BitVec 3) (it : BitVec 3) (a b c : Reg) (s : State) : Host.Outcome State Fault Refusal :=
  .next (uniDo 2 g ([a, b] ++ pairRegs c) s fun s =>
    let gr := s.cur
    let va := gr.usrcD c
    match s.openDesc gr.syncBase va.toNat with
    | .error e => s.syncStop e va gr.path.mask
    | .ok d =>
      let k := bitsN d 5 0
      if k > 32 ∧ (oddReg a || oddReg b) then s.descHandle va
      else
        let hi := gr.uniKey k b
        let lo := gr.uniKey k a
        let top := min hi (2 ^ k - 1)
        let x : Iter := ⟨true, va, decide (k > 32), top, if hi < lo then top + 1 else lo, [], 0, 0, 0, false⟩
        let s1 := s.noteOpen gr.syncBase va.toNat
        (State.setCur { s1 with freeCtr := s.freeCtr + 1 } (gr.setIter it x)).retire 2)

/-- `cclose itN` (R267). -/
def execCclose (g : BitVec 3) (ita : BitVec 3) (s : State) : Host.Outcome State Fault Refusal :=
  .next (uniExec 2 g [] s fun gr => gr.setIter ita Iter.closed)

/-- The buffer is exhausted and the cursor has not passed hi: a block is read (R268). -/
def Iter.hungry (it : Iter) : Bool := decide (it.buf.length ≤ it.pos) && decide (it.cursor ≤ it.hi)

/-- An iterator whose buffer holds a block's image (R226, R261). -/
def Iter.ofImage (it : Iter) (image : Nat) : Iter := { it with image := image, buf := parseImage it.w image, spilled := false }

/-- Read the block whose range holds the least key at or above the cursor that has an element (R268): the buffer is the block, and its
position the first such element. -/
def Iter.refill (c : Coll) (it : Iter) : Iter :=
  if !it.hungry then it
  else
    match c.blocks.find? fun b => b.elems.any fun e => decide (it.cursor ≤ e.1) with
    | none => { it with cursor := it.hi + 1 }
    | some b =>
      { it with
        buf := b.elems, image := blockImage c.w b.elems, w := c.w, cursor := b.base + 2 ^ b.lvl
        pos := (b.elems.filter fun e => decide (e.1 < it.cursor)).length }

/-- The next element for a lane, and the iterator after it (R268). -/
def Iter.take (it : Iter) : Option (Nat × Nat) × Iter :=
  match it.buf[it.pos]? with
  | none => (none, it)
  | some e => if e.1 ≤ it.hi then (some e, { it with pos := it.pos + 1 }) else (none, it)

/-- The elements the lanes take, in order (R268). -/
def Iter.takeAll (c : Option Coll) : List Nat → Iter → List (Nat × (Nat × Nat)) × Iter
  | [], it => ([], it)
  | l :: ls, it =>
    let x := (match c with | some y => it.refill y | none => it).take
    let r := Iter.takeAll c ls x.2
    ((match x.1 with | some e => [(l, e)] | none => []) ++ r.1, r.2)

/-- Serving n lanes reads a block. -/
def Iter.reads (it : Iter) (n : Nat) : Bool :=
  decide (it.buf.length < it.pos + n) && decide (it.cursor ≤ it.hi) && ((it.buf.drop it.pos).all fun e => decide (e.1 ≤ it.hi))

/-- Write what the lanes took: of a register that receives both a key and a payload, the payload stands (log 36, DESIGN CHOICE). -/
def Group.cnextWrite (gr : Group) (m : Mask) (d b : Reg) (px : BitVec 3) (wide : Bool) (xs : List (Nat × (Nat × Nat))) : Group :=
  let got := maskOf fun l => xs.any fun x => x.1 == l
  let at_ := fun l => ((xs.find? fun x => x.1 == l).map (·.2)).getD (0, 0)
  let g1 := gr.setV d got (lanesFrom fun l => BitVec.ofNat 32 (at_ l).1)
  let g2 := if wide then g1.setV (d + 1) got (lanesFrom fun l => BitVec.ofNat 32 ((at_ l).1 / 2 ^ 32)) else g1
  (g2.setV b got (lanesFrom fun l => BitVec.ofNat 32 (at_ l).2)).setPred px m got

/-- `cnext kd, itA, pb, px` (R268). -/
def execCnext (g : BitVec 3) (d : Reg) (ita : BitVec 3) (b : Reg) (px : BitVec 3) (s : State) : Host.Outcome State Fault Refusal :=
  .next (laneDo 2 g [] s fun m s =>
    let gr := s.cur
    let it := gr.iter ita
    let finish := fun (c : Option Coll) (s : State) =>
      let r := it.takeAll c (lanesOf m)
      (s.setCur ((gr.cnextWrite m d b px it.wide r.1).setIter ita r.2)).retire 2
    if !it.opened then s.trapPath 11 0 (BitVec.ofNat 64 ita.toNat) 2 false
    else if it.wide && oddReg d then s.descHandle it.desc
    else if it.reads (laneCount m) then
      if !s.pastC then s.hold .order
      else
        match s.openColl gr.syncBase it.desc.toNat with
        | .error e => s.syncStop e it.desc m
        | .ok x => finish (some x) { s.noteColl gr.syncBase it.desc.toNat with freeCtr := s.freeCtr + 1 }
    else finish none s)

end Sys2Proof.Machine
end

