-- ==== Sys2Proof/Machine/WorkLists.lean ====
section
/-!
DEFINITION. Work lists (R270 to R273): `wlpush`, `wlpop`, `wlins`, `wlclr`, `wlcnt`, and their rings.
-/

namespace Sys2Proof.Machine

/-- A work-list descriptor is valid (R270). -/
def listOk (d : Nat) : Bool :=
  decide (bitsN d 7 6 = 1) && decide (16 ≤ bitsN d 23 16) && decide (bitsN d 319 256 % 4096 = 0) &&
  (decide (1 ≤ bitsN d 255 224) || decide (bitsN d 319 256 = 0)) && decide (bitsN d 383 320 % 64 = 0) &&
  decide (bitsN d 511 480 = 0) && decide (bitsN d 223 24 = 0) && decide (bitsN d 15 9 = 0) && decide (bitsN d 5 0 = 0)

/-- A work list as its engine sees it: the descriptor's bits, the on-chip values, the ring's values and their regions. -/
structure WorkList where
  desc : Nat
  chip : List DWord
  ring : List DWord
  owners : List (List Nat)
  deriving DecidableEq, Repr

/-- Values are 64-bit. -/
def WorkList.wide (l : WorkList) : Bool := bitsN l.desc 8 8 = 1
/-- Bytes of a value. -/
def WorkList.bytes (l : WorkList) : Nat := if l.wide then 8 else 4
/-- Ring capacity. -/
def WorkList.ringcap (l : WorkList) : Nat := bitsN l.desc 255 224
/-- On-chip capacity. -/
def WorkList.qcap (l : WorkList) : Nat := bitsN l.desc 23 16
/-- The ring index of the oldest spilled element. -/
def WorkList.head (l : WorkList) : Nat := bitsN l.desc 479 448
/-- The ring. -/
def WorkList.ringVa (l : WorkList) : Nat := bitsN l.desc 319 256
/-- The membership collection. -/
def WorkList.memb (l : WorkList) : Nat := bitsN l.desc 383 320
/-- The address of ring element j counted from the head. -/
def WorkList.slot (l : WorkList) (j : Nat) : Nat := l.ringVa + (l.head + j) % (max 1 l.ringcap) * l.bytes

/-- The RO fields agree with one another (R270). -/
def listRoOk (d : Nat) : Bool :=
  let spilled := bitsN d 447 416
  let cap := bitsN d 255 224
  decide (spilled ≤ cap) && (decide (cap = 0) || decide (bitsN d 479 448 < cap)) && decide (spilled ≤ bitsN d 415 384)

/-- Read n ring elements from position j on. -/
def State.readRing (s : State) (b : CmdBase) (l : WorkList) : Nat → Nat → Except CollStop (List DWord)
  | 0, _ => .ok []
  | n + 1, j =>
    match s.collRead b (l.slot j) l.bytes with
    | .error e => .error e
    | .ok x =>
      match s.readRing b l n (j + 1) with
      | .ok r => .ok (BitVec.ofNat 64 x :: r)
      | .error e => .error e

/-- A list's areas as they stand. -/
def State.readList (s : State) (b : CmdBase) (va : Nat) : Except CollStop ListImage :=
  match s.descRead b va listOk with
  | .error e => .error e
  | .ok d =>
    if !listRoOk d then .error .corrupt
    else
      match s.readRing b ⟨d, [], [], []⟩ (bitsN d 447 416) 0 with
      | .error e => .error e
      | .ok r => .ok ⟨d, r⟩

/-- What stops a reading of a list's areas as the engine holds them. -/
def State.listStopped (s : State) (b : CmdBase) (va : Nat) (h : ListImage) : Option CollStop :=
  let l : WorkList := ⟨h.desc, [], [], []⟩
  s.readStop b ((va, 64) :: (List.range h.ring.length).map fun j => (l.slot j, l.bytes))

/-- A value the spec does not state: a list's count says that it is on chip, and no instruction put it there (R272, R274; log 9,
DESIGN CHOICE). -/
def strayValue (n : Nat) : DWord := pair (Config.freeWord n) (Config.freeWord (n + 2 ^ 40))

/-- The on-chip values of a list whose fields say that it has n of them (R270, R272). -/
def chipValues (ctr n : Nat) (chip : List DWord) : List DWord :=
  chip.take n ++ (List.range (n - chip.length)).map fun i => strayValue (ctr + i)

/-- What the engine holds of a list, while it has elements. -/
def State.heldList (s : State) (key : Nat) : Option ListImage :=
  (SMap.get none s.heldLists key).filter fun h => decide (bitsN h.desc 415 384 ≠ 0)

/-- The list an operation acts on (R274). -/
def State.openList (s0 : State) (b : CmdBase) (va : Nat) : Except CollStop WorkList :=
  let key := s0.descKey b.part b.ranges va
  let s := s0.unserved (SMap.get none s0.heldLists key).isSome
  let q := SMap.get ListQueue.empty s.lists key
  let held := (s.heldList key).map fun h => (h, s.listStopped b va h)
  match heldOr (fun x y => decide (x = y)) (Config.freeNat s.freeCtr) held (s.readList b va) with
  | .error e => .error e
  | .ok x => .ok ⟨x.desc, chipValues s.freeCtr (bitsN x.desc 415 384 - bitsN x.desc 447 416) q.chip, x.ring, q.owners⟩

/-- From the first operation that finds elements in a list on, its engine holds it as it then stands (R274). -/
def State.noteList (s : State) (b : CmdBase) (va : Nat) (l : WorkList) : State :=
  let key := s.descKey b.part b.ranges va
  if (s.heldList key).isSome || decide (bitsN l.desc 415 384 = 0) then s
  else { s with heldLists := SMap.set none s.heldLists key (some ⟨l.desc, l.ring⟩) }

/-- Append a value (R272): on chip while there is room and the ring is empty, else to the ring's tail; none when it cannot. -/
def WorkList.append (l : WorkList) (chain : List Nat) (x : DWord) : Option WorkList :=
  if l.chip.length < l.qcap ∧ l.ring.isEmpty then some { l with chip := l.chip ++ [x] }
  else if l.ring.length < l.ringcap then some { l with ring := l.ring ++ [x], owners := l.owners ++ [chain] }
  else none

/-- Append several values in order. -/
def WorkList.appendAll (l : WorkList) (chain : List Nat) : List DWord → Option WorkList
  | [] => some l
  | x :: r => match l.append chain x with | some m => m.appendAll chain r | none => none

/-- The list without the oldest value of its ring. -/
def WorkList.dropRing (l : WorkList) : WorkList :=
  { l with ring := l.ring.drop 1, owners := l.owners.drop 1, desc := putBits l.desc 448 32 ((l.head + 1) % (max 1 l.ringcap)) }

/-- The on-chip queue is refilled from the ring's head, at most n values (R272). -/
def WorkList.refill (l : WorkList) : Nat → WorkList
  | 0 => l
  | n + 1 =>
    match l.ring with
    | [] => l
    | x :: _ =>
      if l.chip.length < l.qcap then
        WorkList.refill { l.dropRing with chip := l.chip ++ [x] } n
      else l

/-- Remove the oldest value (R272): of the chip, else of the ring. -/
def WorkList.pop (l : WorkList) : Option (DWord × WorkList) :=
  match l.chip, l.ring with
  | x :: r, _ => some (x, WorkList.refill { l with chip := r } 1)
  | [], x :: _ => some (x, WorkList.refill l.dropRing 1)
  | [], [] => none

/-- The regions a group's spills are charged to, by their keys (R22, R273). -/
def Group.regions (gr : Group) : List Nat := gr.chain.map (regionKey gr.part)

/-- The RO fields of what the list now holds. -/
def WorkList.fields (l : WorkList) : Nat :=
  putBits (putBits l.desc 384 32 (l.chip.length + l.ring.length)) 416 32 l.ring.length

/-- The writes that turn one list into another: new ring values, then the RO fields. -/
def listWrites (va : Nat) (o n : WorkList) : List (Nat × Nat × Nat) :=
  let gone := (n.head + (max 1 n.ringcap) - o.head) % (max 1 n.ringcap)
  let kept := o.ring.length - gone
  let fresh := ((List.range n.ring.length).filter fun j => decide (kept ≤ j)).map fun j =>
    (n.slot j, n.bytes, (n.ring.getD j 0).toNat)
  fresh ++ [(va + 48, 12, bitsN n.fields 479 384)]

/-- Store a changed list, or the stop of a write that does not go. -/
def State.storeList (s : State) (b : CmdBase) (va : Nat) (o n : WorkList) : Except CollStop State :=
  match s.collDests b (listWrites va o n) with
  | .error e => .error e
  | .ok ws =>
    let r := (s.collStore b.part ws).1
    let key := s.descKey b.part b.ranges va
    let q : ListQueue := ⟨n.chip, n.wide, n.owners⟩
    .ok { r with
      freeCtr := s.freeCtr + 1
      lists := SMap.set ListQueue.empty r.lists key q
      heldLists := SMap.set none r.heldLists key (some ⟨n.fields, n.ring⟩) }

/-- The regions of the group in focus keep within their quotas with a list changed (R273). -/
def State.listQuotaOk (s : State) (va : Nat) (n : WorkList) : Bool :=
  let key := s.descKey s.cur.part s.cur.ranges va
  let s1 : State := { s with lists := SMap.set ListQueue.empty s.lists key ⟨n.chip, n.wide, n.owners⟩ }
  s1.quotaOk s.cur.part s.cur.chain s.cur.quotas

/-- The ring's IA, for trapa of QUOTA (R273), whether or not the group may write there; 0 for a list that has no ring, or one whose ring's
address no range holds (log 36, DESIGN CHOICE). -/
def State.ringIA (s : State) (l : WorkList) : Nat :=
  if l.ringcap = 0 then 0
  else match rangeOf s.cur.ranges l.ringVa with | some e => e.iabase + (l.ringVa - e.vbase) | none => 0

/-- A lane's value. -/
def Group.laneValue (gr : Group) (wide : Bool) (r : Reg) (l : Nat) : DWord :=
  if wide then gr.srcD r l else 0#32 ++ lane (gr.src r) l

/-- A form that changes a list and retires with an effect on the group: QUOTA before anything changes (R272, R273). -/
def State.changeList (s : State) (va : DWord) (o : WorkList) (n : Option WorkList) (m : Mask) (f : Group → Group) : State :=
  match n with
  | none => s.quotaTrap (s.ringIA o) m 2
  | some n =>
    if o.ring.length < n.ring.length ∧ !s.listQuotaOk va.toNat n then s.quotaTrap (s.ringIA o) m 2
    else
      match s.storeList s.cur.syncBase va.toNat o n with
      | .error e => s.syncStop e va m
      | .ok s1 => (s1.setCur (f s1.cur)).retire 2

/-- A work-list form of lanes: after H(c), on a list that its register operands suit (R271). -/
def listLanes (g : BitVec 3) (srcs : List Reg) (values : Reg) (c : Reg) (s : State) (f : Mask → DWord → WorkList → State → State) :
    State :=
  laneDo 2 g (srcs ++ pairRegs c) s fun m s =>
    let va := s.cur.usrcD c
    if !s.pastC then s.hold .order
    else
      match s.openList s.cur.syncBase va.toNat with
      | .error e => s.syncStop e va m
      | .ok l =>
        let s := s.noteList s.cur.syncBase va.toNat l
        if l.wide && oddReg values then s.descHandle va else f m va l s

/-- `wlpush a, gc` (R272). -/
def execWlpush (g : BitVec 3) (a c : Reg) (s : State) : Host.Outcome State Fault Refusal :=
  .next (listLanes g [a] a c s fun m va l s =>
    s.changeList va l (l.appendAll s.cur.regions ((lanesOf m).map (s.cur.laneValue l.wide a))) m id)

/-- Pop a value for each lane in turn (R272). -/
def WorkList.popLanes (l : WorkList) : List Nat → List (Nat × DWord) × WorkList
  | [] => ([], l)
  | k :: ks =>
    match l.pop with
    | none => ([], l)
    | some (x, m) =>
      let r := m.popLanes ks
      ((k, x) :: r.1, r.2)

/-- `wlpop d, gc, px` (R272): it never waits for a value. -/
def execWlpop (g : BitVec 3) (d c : Reg) (px : BitVec 3) (s : State) : Host.Outcome State Fault Refusal :=
  .next (listLanes g [] d c s fun m va l s =>
    let r := l.popLanes (lanesOf m)
    let got := maskOf fun k => r.1.any fun x => x.1 == k
    let value := fun k => ((r.1.find? fun x => x.1 == k).map (·.2)).getD 0
    s.changeList va l (some r.2) m fun gr =>
      let g1 := gr.setV d got (lanesFrom fun k => loWord (value k))
      (if l.wide then g1.setV (d + 1) got (lanesFrom fun k => hiWord (value k)) else g1).setPred px m got)

/-- Insert each lane's value that is not yet a member (R272): the lanes that inserted, and the members. -/
def insertLanes (value : Nat → Nat) (es : List (Nat × Nat)) (ls : List Nat) : List Nat × List (Nat × Nat) :=
  ls.foldl (fun x l => if x.2.any fun e => e.1 == value l then x else (x.1 ++ [l], insertElem (value l, 0) x.2)) ([], es)

/-- A membership collection has 32-bit keys and no payload (R270). -/
def Coll.isMembership (c : Coll) : Bool := decide (c.k = 32) && decide (c.w = 0)

/-- `wlins a, gc, px` (R272): the membership and the list change together or not at all. -/
def execWlins (g : BitVec 3) (a c : Reg) (px : BitVec 3) (s : State) : Host.Outcome State Fault Refusal :=
  .next (listLanes g [a] a c s fun m va l s =>
    if l.wide || decide (l.memb = 0) then s.descHandle va
    else
      match s.openColl s.cur.syncBase l.memb with
      | .error e => s.syncStop e va m
      | .ok x =>
        let s := s.noteColl s.cur.syncBase l.memb
        if !x.isMembership then s.descHandle va
        else
          let r := insertLanes (fun k => (lane (s.cur.src a) k).toNat) x.elems (lanesOf m)
          let got := maskOf fun k => r.1.contains k
          match l.appendAll s.cur.regions (r.1.map (s.cur.laneValue false a)) with
          | none => s.quotaTrap (s.ringIA l) m 2
          | some n =>
            if l.ring.length < n.ring.length ∧ !s.listQuotaOk va.toNat n then s.quotaTrap (s.ringIA l) m 2
            else if r.1.isEmpty then (State.setCur { s with freeCtr := s.freeCtr + 1 } (s.cur.setPred px m 0)).retire 2
            else
              match s.collDests s.cur.syncBase (listWrites va.toNat l n) with
              | .error e => s.syncStop e va m
              | .ok _ =>
                match s.changeColl s.cur.syncBase l.memb x r.2 with
                | .error e => s.syncStop e va m
                | .ok (s1, _) => s1.changeList va l (some n) m fun gr => gr.setPred px m got)

/-- A uniform work-list form (R271). -/
def listUni (g : BitVec 3) (c : Reg) (s : State) (f : DWord → WorkList → State → State) : State :=
  uniDo 2 g (pairRegs c) s fun s =>
    let va := s.cur.usrcD c
    if !s.pastC then s.hold .order
    else
      match s.openList s.cur.syncBase va.toNat with
      | .error e => s.syncStop e va s.cur.path.mask
      | .ok l => f va l (s.noteList s.cur.syncBase va.toNat l)

/-- A list with nothing in it: count, spilled and head are 0. -/
def WorkList.cleared (l : WorkList) : WorkList := { l with chip := [], ring := [], owners := [], desc := putBits l.desc 448 32 0 }

/-- `wlclr gc` (R272): the list and its membership collection are emptied together or not at all. -/
def execWlclr (g : BitVec 3) (c : Reg) (s : State) : Host.Outcome State Fault Refusal :=
  .next (listUni g c s fun va l s =>
    let m := s.cur.path.mask
    if l.memb = 0 then s.changeList va l (some l.cleared) m id
    else
      match s.openColl s.cur.syncBase l.memb with
      | .error e => s.syncStop e va m
      | .ok x =>
        let s := s.noteColl s.cur.syncBase l.memb
        if !x.isMembership then s.descHandle va
        else
          match s.collDests s.cur.syncBase (listWrites va.toNat l l.cleared) with
          | .error e => s.syncStop e va m
          | .ok _ =>
            match s.changeColl s.cur.syncBase l.memb x [] with
            | .error e => s.syncStop e va m
            | .ok (s1, _) => s1.changeList va l (some l.cleared) m id)

/-- `wlcnt gd, gc` (R272). -/
def execWlcnt (g : BitVec 3) (d c : Reg) (s : State) : Host.Outcome State Fault Refusal :=
  .next (listUni g c s fun _ l s =>
    (State.setCur { s with freeCtr := s.freeCtr + 1 } (s.cur.setU d (BitVec.ofNat 32 (l.chip.length + l.ring.length)))).retire 2)

end Sys2Proof.Machine
end

