-- ==== Sys2Proof/Machine/Progress.lean ====
section
/-!
DEFINITION. What moves groups on besides their instructions: the issue cycle of a slot (R306 to R308), ageing (R307), the ends of
waits (R145, R146, R155, R173), a trap that is still to be entered (R219), fault records (R223), and what leaves spill rings and
consumer rings (R273, R277).
-/

namespace Sys2Proof.Machine

/-! ### Issue (R306 to R308) -/

/-- The groups resident on a slot. -/
def State.residents (s : State) (core slot : Nat) : List Group := s.groups.filter fun gr => gr.core == core && gr.slot == slot

/-- A slot uses LRR when a group of it has that policy (R307). -/
def slotLrr (gs : List Group) : Bool := gs.any fun gr => gr.lrr

/-- A group issued in the previous cycle and has not yielded since (R307). -/
def State.justIssued (s : State) (gr : Group) : Bool := !gr.yielded && gr.lastIssue == some (s.cycle - 1) && decide (0 < s.cycle)

/-- A group's place in the ranking of R307, least first: aged groups by age of ageing, then class, then the policy's order. -/
def State.rankKey (s : State) (lrr : Bool) (gr : Group) : List Nat :=
  let order :=
    if lrr then [match gr.lastIssue with | none => 0 | some c => c + 1, gr.age]
    else [if s.justIssued gr then 0 else 1, gr.age]
  match gr.agedAt with
  | some c => [0, c, 0] ++ order
  | none => [1, 3 - gr.prio.toNat, 0] ++ order

/-- Lexicographic order of keys. -/
def keyLe : List Nat → List Nat → Bool
  | [], _ => true
  | _ :: _, [] => false
  | a :: r, b :: t => decide (a < b) || (decide (a = b) && keyLe r t)

/-- Insert a group into a ranking. -/
def insertRank (key : Group → List Nat) (x : Group) : List Group → List Group
  | [] => [x]
  | y :: r => if keyLe (key y) (key x) then y :: insertRank key x r else x :: y :: r

/-- A slot's ready groups, ranked (R306, R307). -/
def State.ranking (s : State) (core slot : Nat) : List Group :=
  let gs := s.residents core slot
  (gs.filter Group.ready).foldl (fun r gr => insertRank (s.rankKey (slotLrr gs)) gr r) []

/-- The joins and the switch that come before the next issue of the group in focus (R35, R37); at most n joins. -/
def State.settle : Nat → State → State
  | 0, s => s
  | n + 1, s =>
    if !s.cur.issuable then s
    else
      match s.cur.atJoin with
      | some sl => State.settle n (s.pathJoin sl)
      | none => if s.cur.switchDue false then s.setCur (s.cur.makeCurrent (!s.cur.current)) else s

/-- A group's next instruction is of the lane set; none when nothing of the group issues: a join that waits, or a fetch of either word
that does not go (R175). -/
def State.nextIsLane (s : State) (key : Nat) : Option Bool :=
  let s0 := s.focus key
  let s1 := State.prepare (State.settle (s0.cur.rvdepth.toNat + 4) s0) key false false
  if !s1.cur.ready then none
  else
    match s1.fetchNext with
    | .ok _ bs => some (!(bs.getD 3 0).getLsbD 7)
    | _ => none

/-- What a walk of the ranking has taken: lane instructions, their octets, and whether the uniform pipe is taken. -/
structure Taken where
  lanes : Nat
  octets : List Nat
  uniform : Bool
  keys : List Nat

/-- The octets of a group. -/
def Group.octets (gr : Group) : List Nat := (List.range (gr.width / 8)).map fun i => gr.octet + i

/-- One ready group of the walk (R308): its instruction takes its place, or the group is passed over; one whose fetch faults takes no
place (R175). -/
def State.offer (s : State) (t : Taken) (gr : Group) : Taken :=
  let go := { t with keys := t.keys ++ [gr.key] }
  match s.nextIsLane gr.key with
  | none => go
  | some true =>
    if t.lanes < 4 ∧ gr.octets.all (fun o => !t.octets.contains o) then
      { go with lanes := t.lanes + 1, octets := t.octets ++ gr.octets }
    else t
  | some false => if t.uniform then t else { go with uniform := true }

/-- One cycle of an issue slot (R308): the groups that issue in it come next on the agenda, in ranking order. -/
def execSlotIssueCycle (core slot : Nat) (s : State) : Host.Outcome State Fault Refusal :=
  .next (
    let t := (s.ranking core slot).foldl s.offer ⟨0, [], false, []⟩
    { s with agenda := (t.keys.map fun k => Sched.issue k false false) ++ s.agenda })

/-- N × Q of a slot (R45). -/
def State.ageLimit (s : State) (core slot : Nat) : Nat :=
  let gs := s.residents core slot
  let q := gs.foldl (fun m gr => max m (let x := (gr.pathq.extractLsb' 0 8).toNat; if x = 0 then 8 else x)) 0
  gs.length * q

/-- A ready group that has not issued for N × Q cycles becomes aged (R307). -/
def execGroupAged (grp : Nat) (s : State) : Host.Outcome State Fault Refusal :=
  .next (
    match s.group? grp with
    | none => s
    | some gr =>
      let from_ := max (gr.lastIssue.getD 0) gr.since
      if gr.ready && gr.agedAt.isNone && decide (from_ + s.ageLimit gr.core gr.slot ≤ s.cycle) then
        s.modGroup grp fun gr => { gr with agedAt := some s.cycle }
      else s)

/-! ### Ends of waits -/

/-- A trap whose stack writes had to wait is entered (R219). -/
def execTrapEntry (grp : Nat) (s : State) : Host.Outcome State Fault Refusal :=
  .next (
    match (s.group? grp).bind fun gr => gr.pendingTrap with
    | none => s
    | some t => (s.focus grp).enterTrap t)

/-- A page that a parked group waits for is resolved (R170, R172, R173): it is resident, or its walk is fatal. -/
def State.pageResolved (s : State) (part ia : Nat) : Bool :=
  match s.walk part ia with
  | .replay => false
  | .moving => false
  | _ => true

/-- A parked group's instruction executes again for its unfinished lanes once all its pages are resolved (R173). -/
def execParkedReplay (grp : Nat) (s : State) : Host.Outcome State Fault Refusal :=
  .next (
    match s.group? grp with
    | none => s
    | some gr =>
      match gr.wait with
      | .parked pages =>
        if pages.all (s.pageResolved gr.part) && gr.pendingTrap.isNone then
          s.modGroup grp fun gr => { gr with wait := .again .presence }
        else s
      | _ => s)

/-- A cohort's barrier phase completes once every member has arrived or left (R146). -/
def execBarrierPhaseComplete (cohort : Nat) (s : State) : Host.Outcome State Fault Refusal := .next (s.completePhase cohort)

/-- A sleeping group wakes (R145). -/
def execSleepDeadline (grp : Nat) (s : State) : Host.Outcome State Fault Refusal :=
  .next (
    match s.group? grp with
    | none => s
    | some gr =>
      match gr.wait with
      | .sleep d => if d ≤ s.now then s.modGroup grp fun gr => { gr with wait := .none } else s
      | _ => s)

/-- The group with a reply in g8 to g15 (R155). -/
def Group.takeReply (gr : Group) (ws : Vector Word 16) : Group :=
  let g1 := (List.range 8).foldl (fun gr i => gr.setG (BitVec.ofNat 7 (104 + i)) (ws[i]?.getD 0)) gr
  { g1 with wait := .none }

/-- Carillon's reply to a group's request is delivered (R155, R313). -/
def execSysReply (grp : Nat) (s : State) : Host.Outcome State Fault Refusal :=
  .next (
    match s.group? grp with
    | none => s
    | some gr =>
      match gr.wait with
      | .sys id =>
        match (s.requests.find? fun r => r.id == id).bind fun r => r.reply with
        | none => s
        | some (ws, t) =>
          if t ≤ s.now then
            State.modGroup { s with requests := s.requests.filter fun r => r.id != id } grp fun gr => gr.takeReply ws
          else s
      | _ => s)

/-! ### Fault records (R223) -/

/-- Carillon is told something. -/
def State.notify (s : State) (what : String) : State := { s with out := s.out ++ [.notice what] }

/-- The fate of a write into a record's area, one line each; the count is read too. -/
def State.areaFate (s : State) (r : FaultRec) (off n : Nat) (rd : Bool) : Fate :=
  if r.faultdom % 4096 ≠ 0 then .trap 4
  else
    match s.classify r.part (r.faultdom + off) with
    | .error c => .trap c
    | .ok d => if rd then s.fate r.part d true n else s.storeFate r.part d n

/-- The count of a fault-domain area is raised, and Carillon told. -/
def State.countRecord (s : State) (n : Nat) (r : FaultRec) (d : Dest) : State :=
  let c := leNat (s.readOwned r.part d 8)
  let s1 := s.writeDest r.part d (leBytes 8 (c + 1)) 0
  State.notify { s1 with faults := s1.faults.eraseIdx n } "fault record"

/-- A fault record is written: its 64 bytes, then, once every observer sees them, the count (R223). Records of one area are written
one after another. -/
def execFaultRecord (n : Nat) (s : State) : Host.Outcome State Fault Refusal :=
  .next (
    match s.faults[n]? with
    | none => s
    | some r =>
      if (s.faults.take n).any fun x => x.part == r.part && x.faultdom == r.faultdom then s
      else
        match s.areaFate r 0 8 true with
        | .trap _ => State.notify { s with faults := s.faults.eraseIdx n } "fault record not written"
        | .replay ia => s.reportFault r.part ia
        | .absent => s
        | .go d0 =>
          match r.written with
          | some t => if t ≤ s.now then s.countRecord n r d0 else s
          | none =>
            let k := leNat (s.readOwned r.part d0 8) % 63
            match s.areaFate r (64 + 64 * k) 64 false with
            | .go d =>
              let t := (s.writeTimes d).toList.foldl Nat.max 0
              let s1 := s.writeDest r.part d (leBytes 64 r.bits.toNat) 0
              if t ≤ s.now then s1.countRecord n r d0
              else { s1 with faults := s1.faults.set n { r with written := some t } }
            | .replay ia => s.reportFault r.part ia
            | .absent => s
            | .trap _ => State.notify { s with faults := s.faults.eraseIdx n } "fault record not written")

/-! ### Spill rings and consumers -/

/-- Spilled elements return to their queue in the order they left it (R273). -/
def execQueueSpillRefill (q : QueueRef) (s : State) : Host.Outcome State Fault Refusal :=
  .next (
    match q with
    | .port grp port => s.modGroup grp fun gr => gr.setPort port (gr.port port).refilled
    | .calls cluster unit =>
      let c := s.cluster cluster
      let n := 256 - (c.queue unit).length
      let c1 := c.setQueue unit (c.queue unit) ((c.ring unit).drop n)
      s.setCluster cluster (c1.enter unit ((c.ring unit).take n))
    | .workList grp desc =>
      match s.group? grp with
      | none => s
      | some gr =>
        match s.openList gr.syncBase desc.toNat with
        | .error _ => s
        | .ok l =>
          if l.ring.isEmpty ∨ l.qcap ≤ l.chip.length then s
          else
            match s.storeList gr.syncBase desc.toNat l (l.refill l.qcap) with
            | .ok s1 => s1
            | .error _ => s)

/-- A consumer whose oldest record has waited 10 µs, or that holds a batch, is launched (R277). -/
def execConsumerWaitExpiry (part consumer : Nat) (s : State) : Host.Outcome State Fault Refusal :=
  .next (s.consumerLaunch part consumer)

end Sys2Proof.Machine
end

