-- ==== Sys2Proof/Machine/Approx.lean ====
section
/-!
DEFINITION. The approximate operations of R114. Each exact result is enclosed in a rational interval far narrower than an
ulp; the device's value is then one of the f32 codes inside the bound, and which one is its own choice: the free function
Config.approxPick (log 6, DESIGN CHOICE). Exact results, special values and flags are as the table of R114 states.
-/

namespace Sys2Proof.Machine

/-- The number of fraction bits of the fixed-point sums. -/
def fixBits : Nat := 448
/-- ln 2 in fixed point. -/
def fixLn2 : Nat := 503806212467287336944962318911413164331589999686332526750892113008874715004345470044877937781258350830018788825857087812047298226561348
/-- π in fixed point. -/
def fixPi : Nat := 2283431196591655772568293192637813162989505182201807620455461503647463674352091780948082810000813750461678719846639713479115845689692381
/-- The allowance for the truncations of a fixed-point sum. -/
def fixSlack : Nat := 2 ^ 40

/-- A fixed-point product of magnitudes. -/
def fixMul (a b : Nat) : Nat := a * b / 2 ^ fixBits

/-- A rational in fixed point, truncated. -/
def fixOfQ (q : Q) : Nat := q.num.toNat * 2 ^ fixBits / q.den

/-- Σ x^k / k! from a term (fuel terms): the fixed-point exponential. -/
def expSum : Nat → Nat → Nat → Nat → Nat
  | 0, _, _, _ => 0
  | n + 1, x, k, t => t + expSum n x (k + 1) (fixMul t x / k)

/-- Σ z^(2k+1) / (2k+1): the fixed-point inverse hyperbolic tangent. -/
def atanhSum : Nat → Nat → Nat → Nat → Nat
  | 0, _, _, _ => 0
  | n + 1, z2, k, t => t / k + atanhSum n z2 (k + 2) (fixMul t z2)

/-- The sine (k = 2) or cosine (k = 1) series by alternating terms, signed. -/
def trigSum : Nat → Nat → Nat → Nat → Bool → Int
  | 0, _, _, _, _ => 0
  | n + 1, x2, k, t, neg =>
    (if neg then -(t : Int) else t) + trigSum n x2 (k + 2) (fixMul t x2 / (k * (k + 1))) (!neg)

/-- The interval around a fixed-point value. -/
def fixInterval (x : Nat) : Q × Q := (⟨(x - fixSlack : Nat), 2 ^ fixBits⟩, ⟨(x + fixSlack : Nat), 2 ^ fixBits⟩)

/-- An interval times 2^e. -/
def scaleInterval (i : Q × Q) (e : Int) : Q × Q := (i.1.mul (Q.scale 1 e), i.2.mul (Q.scale 1 e))

/-- 2^f for 0 ≤ f < 1. -/
def exp2Frac (f : Q) : Q × Q :=
  let x := fixMul (fixOfQ f) fixLn2
  fixInterval (expSum 120 x 1 (2 ^ fixBits))

/-- log₂ m for 1 ≤ m < 2, in fixed point. -/
def log2Frac (m : Q) : Nat :=
  let z := fixOfQ ((m.sub (Q.ofInt 1)).div (m.add (Q.ofInt 1)))
  2 * atanhSum 160 (fixMul z z) 1 z * 2 ^ fixBits / fixLn2

/-- sin(π r) for 0 < r ≤ 1/4. -/
def sinSmall (r : Q) : Q × Q :=
  let x := fixMul (fixOfQ r) fixPi
  fixInterval (trigSum 60 (fixMul x x) 2 x false).toNat

/-- cos(π r) for 0 ≤ r ≤ 1/4. -/
def cosSmall (r : Q) : Q × Q :=
  let x := fixMul (fixOfQ r) fixPi
  fixInterval (trigSum 60 (fixMul x x) 1 (2 ^ fixBits) false).toNat

/-- sin(π r) for 0 < r ≤ 1/2. -/
def sinHalf (r : Q) : Q × Q := if r.le ⟨1, 4⟩ then sinSmall r else cosSmall ((⟨1, 2⟩ : Q).sub r)

/-- 1 / √a for a positive rational. -/
def rsqrtInterval (a : Q) : Q × Q :=
  let e := floorLog2 a.den a.num.toNat / 2
  let k : Int := e - 200
  let u := inUnits ⟨a.den, a.num.toNat⟩ (2 * k)
  let r := isqrt (u.1 / u.2)
  (Q.scale r k, Q.scale (r + 1 : Nat) k)

/-- The f32 code at or below, and at or above, a positive magnitude, below infinity. -/
def f32Below (x : Q) : Nat := if x.num ≤ 0 then 0 else min (roundGrid 23 (-126) .rtz false x).1 0x7F7FFFFF
/-- See `f32Below`. -/
def f32Above (x : Q) : Nat := if x.num ≤ 0 then 0 else min (roundGrid 23 (-126) .rup false x).1 0x7F7FFFFF

/-- The device's result for a positive exact value inside the interval, not representable in f32 (R114): magnitude code
and flags. -/
def approxPos (op : Nat) (arg : Word) (bound : Nat) (i : Q × Q) : Nat × FFlags :=
  let e := floorLog2 i.1.num.toNat i.1.den
  if 128 ≤ e then (0x7F800000, fOF ||| fNX)
  else
    let b := Q.scale bound (max e (-126) - 23)
    let lo := f32Above (i.2.sub b)
    let hi := f32Below (i.1.add b)
    let c := lo + Config.approxPick op arg % (hi + 1 - lo)
    (c, fNX ||| flagIf (decide (c < 0x00800000)) fUF)

/-- A positive exact rational result (R114): returned as it is when representable. -/
def approxRational (op : Nat) (arg : Word) (bound : Nat) (x : Q) : Nat × FFlags :=
  let r := ieeeF32.round .rne (.fin false x)
  if r.2.getLsbD 4 then approxPos op arg bound (x, x) else r

/-- Put a sign on a magnitude code. -/
def withSign (neg : Bool) (r : Nat × FFlags) : Nat × FFlags := (r.1 + (if neg then 0x80000000 else 0), r.2)

/-- The canonical f32 NaN (R55). -/
def nanF32 : Nat := 0x7FC00000

/-- `frcp` (R114). -/
def frcpOp (a : Word) : Nat × FFlags :=
  match ieeeF32.decode a.toNat with
  | .nan s => (nanF32, flagIf s fNV)
  | .inf n => withSign n (0, 0)
  | .fin n m => withSign n (if m.num = 0 then (0x7F800000, fDZ) else approxRational 6 a 1 ((Q.ofInt 1).div m))

/-- `frsq` (R114). -/
def frsqOp (a : Word) : Nat × FFlags :=
  match ieeeF32.decode a.toNat with
  | .nan s => (nanF32, flagIf s fNV)
  | .inf n => if n then (nanF32, fNV) else (0, 0)
  | .fin n m =>
    if m.num = 0 then withSign n (0x7F800000, fDZ)
    else if n then (nanF32, fNV)
    else
      let i := rsqrtInterval m
      if ((i.1.mul i.1).mul m).eqv (Q.ofInt 1) then approxRational 7 a 1 i.1 else approxPos 7 a 1 i

/-- `fexp2` (R114). -/
def fexp2Op (a : Word) : Nat × FFlags :=
  match ieeeF32.decode a.toNat with
  | .nan s => (nanF32, flagIf s fNV)
  | .inf n => if n then (0, 0) else (0x7F800000, 0)
  | .fin n m =>
    let x := (FNum.fin n m).toQ
    if Q.le (Q.ofInt 128) x then (0x7F800000, fOF ||| fNX)
    else if Q.lt x (Q.ofInt (-150)) then (0, fUF ||| fNX)
    else
      let i := x.floor
      let f := x.sub (Q.ofInt i)
      if f.num = 0 then approxRational 9 a 2 (Q.scale 1 i) else approxPos 9 a 2 (scaleInterval (exp2Frac f) i)

/-- `flog2` (R114). -/
def flog2Op (a : Word) : Nat × FFlags :=
  match ieeeF32.decode a.toNat with
  | .nan s => (nanF32, flagIf s fNV)
  | .inf n => if n then (nanF32, fNV) else (0x7F800000, 0)
  | .fin n m =>
    if m.num = 0 then (0xFF800000, fDZ)
    else if n then (nanF32, fNV)
    else
      let e := floorLog2 m.num.toNat m.den
      let f := m.mul (Q.scale 1 (-e))
      if f.eqv (Q.ofInt 1) then ieeeF32.round .rne (FNum.ofQ (Q.ofInt e))
      else if 0 ≤ e then approxPos 10 a 2 (fixInterval (e.toNat * 2 ^ fixBits + log2Frac f))
      else withSign true (approxPos 10 a 2 (fixInterval ((-e).toNat * 2 ^ fixBits - log2Frac f)))

/-- |sin(π r)| for a reduced argument 0 ≤ r < 1 in half-turns, exact at 0 and 1/2. -/
def sinReduced (op : Nat) (a : Word) (r : Q) : Nat × FFlags :=
  if r.num = 0 then (0, 0)
  else if r.eqv ⟨1, 2⟩ then (0x3F800000, 0)
  else approxPos op a 2 (sinHalf (if r.le ⟨1, 2⟩ then r else (Q.ofInt 1).sub r))

/-- `fsin` (R114): sin(π a), reduced exactly; an integer a gives a zero with the sign of a. -/
def fsinOp (a : Word) : Nat × FFlags :=
  match ieeeF32.decode a.toNat with
  | .nan s => (nanF32, flagIf s fNV)
  | .inf _ => (nanF32, fNV)
  | .fin n m =>
    let i := m.floor
    let r := m.sub (Q.ofInt i)
    if r.num = 0 then withSign n (0, 0)
    else withSign (n != decide (i % 2 = 1)) (sinReduced 11 a r)

/-- `fcos` (R114): cos(π a) = sin(π (a + 1/2)); an odd multiple of 0.5 gives +0. -/
def fcosOp (a : Word) : Nat × FFlags :=
  match ieeeF32.decode a.toNat with
  | .nan s => (nanF32, flagIf s fNV)
  | .inf _ => (nanF32, fNV)
  | .fin _ m =>
    let x := m.add ⟨1, 2⟩
    let i := x.floor
    let r := x.sub (Q.ofInt i)
    if r.num = 0 then (0, 0) else withSign (decide (i % 2 = 1)) (sinReduced 12 a r)

end Sys2Proof.Machine
end

