-- ==== Sys2Proof/Machine/Pixels.lean ====
section
/-!
DEFINITION. The rasteriser, depth and blender units (R285 to R287): pass descriptors, fragments, and the turns of fragments and
direct records (R284).
-/

namespace Sys2Proof.Machine

/-! ### Memory of a unit (R293, R294) -/

/-- Why a unit does not go on with a record: an access that does not go, or the status that ends it. -/
inductive UnitStop where
  | fate (f : Fate) (va : Nat)
  | status (n : Nat)
  deriving DecidableEq, Repr

/-- The bytes of pieces as a unit reads them, of class x (R200, R293). -/
def State.unitPieces (s : State) (c : Call) : List (Int × Nat) → Except UnitStop (List Byte)
  | [] => .ok []
  | (a, n) :: r =>
    match s.engineRead (some .x) c.base false [(a, n)] with
    | .error f => .error (.fate f (a % 2 ^ 64).toNat)
    | .ok bs =>
      match s.unitPieces c r with
      | .ok more => .ok (bs ++ more)
      | .error e => .error e

/-- Read n bytes at an address that must be a multiple of some number. -/
def State.unitRead (s : State) (c : Call) (va n align : Nat) : Except UnitStop Nat :=
  if va % align ≠ 0 then .error (.status 7)
  else
    match s.unitPieces c (intPieces va n) with
    | .ok bs => .ok (leNat bs)
    | .error e => .error e

/-- Where n bytes at an address are written, in one line. -/
def State.unitDest (s : State) (c : Call) (va n : Nat) (rd : Bool) : Except UnitStop Dest :=
  match s.callFate c va n rd with
  | .go d => .ok d
  | f => .error (.fate f (va % 2 ^ 64))

/-! ### Pass descriptors (R285) -/

/-- A pass descriptor. -/
structure Pass where
  colour : Nat
  depth : Nat
  width : Nat
  height : Nat
  f32 : Bool
  dtest : Nat
  dwrite : Bool
  blends : Bool
  cpitch : Nat
  dpitch : Nat
  deriving DecidableEq, Repr

/-- Read a pass descriptor's bits. -/
def Pass.ofNat (d : Nat) : Pass :=
  { colour := bitsN d 63 0, depth := bitsN d 127 64, width := bitsN d 143 128, height := bitsN d 159 144
    f32 := bitsN d 163 160 = 1, dtest := bitsN d 166 164, dwrite := bitsN d 167 167 = 1, blends := bitsN d 168 168 = 1
    cpitch := bitsN d 223 192, dpitch := bitsN d 255 224 }

/-- Bytes of a colour pixel. -/
def Pass.size (p : Pass) : Nat := if p.f32 then 16 else 4

/-- A pass descriptor keeps to its map; its reserved bits are ignored (R6). -/
def passOk (d : Nat) : Bool := decide (bitsN d 163 160 ≤ 1) && decide (bitsN d 166 164 ≤ 5)

/-- Every pixel of a pass lies at a multiple of its size. -/
def Pass.aligned (p : Pass) : Bool :=
  decide (p.colour % p.size = 0) && decide (p.cpitch % p.size = 0) &&
  (decide (p.depth = 0) || (decide (p.depth % 4 = 0) && decide (p.dpitch % 4 = 0)))

/-- Read a record's pass descriptor: its bits. -/
def State.readPass (s : State) (c : Call) : Except UnitStop Nat :=
  match s.unitRead c (pair (c.word 2) (c.word 3)).toNat 64 64 with
  | .error e => .error e
  | .ok d => if !passOk d then .error (.status 8) else if !(Pass.ofNat d).aligned then .error (.status 7) else .ok d

/-! ### Fragments (R286) -/

/-- An f32 word as a number. -/
def f32Num (w : Word) : FNum := ieeeF32.decode w.toNat
/-- An f32 word is finite. -/
def f32Finite (w : Word) : Bool := match f32Num w with | .fin _ _ => true | _ => false
/-- A finite f32 word's value. -/
def f32Q (w : Word) : Q := (f32Num w).toQ
/-- Round an exact value to f32. -/
def roundF32 (q : Q) : Word := BitVec.ofNat 32 (ieeeF32.round .rne (FNum.ofQ q)).1
/-- The f32 word of 1. -/
def oneF32 : Word := 0x3F800000

/-- The centre of a pixel. -/
def centre (p : Nat) : Q := ⟨2 * p + 1, 2⟩

/-- An edge function (R286). -/
def edge (x y x0 y0 x1 y1 : Q) : Q := ((x.sub x0).mul (y1.sub y0)).sub ((y.sub y0).mul (x1.sub x0))

/-- The sign of a rational. -/
def Q.signum (q : Q) : Int := if 0 < q.num then 1 else if q.num < 0 then -1 else 0

/-- An edge is top-left, for a triangle of some orientation. -/
def topLeft (dx dy : Q) (orient : Int) : Bool :=
  let x := dx.signum * orient
  let y := dy.signum * orient
  decide (y < 0) || (decide (y = 0) && decide (0 < x))

/-- A vertex of a triangle record: its words. -/
def Call.vertex (c : Call) (i j : Nat) : Word := c.word (4 + 3 * (i % 3) + j)

/-- The fragment of a triangle at a pixel. Where a coordinate is no number, whether the pixel is covered is not stated (log 16, DESIGN CHOICE). -/
def triangleFrag (c : Call) (px py : Nat) : Option Frag :=
  let v := fun i j => f32Q (c.vertex i j)
  let pixel := c.key * 2 ^ 32 + py * 2 ^ 16 + px
  let flat := (List.range 3).all fun i => f32Finite (c.vertex i 0) && f32Finite (c.vertex i 1)
  let zOk := (List.range 3).all fun i => f32Finite (c.vertex i 2)
  let area := edge (v 2 0) (v 2 1) (v 0 0) (v 0 1) (v 1 0) (v 1 1)
  let e := fun i => edge (centre px) (centre py) (v i 0) (v i 1) (v (i + 1) 0) (v (i + 1) 1)
  let inside := fun i =>
    decide (0 < (e i).signum * area.signum) ||
    (decide ((e i).num = 0) && topLeft ((v (i + 1) 0).sub (v i 0)) ((v (i + 1) 1).sub (v i 1)) area.signum)
  let covered := if flat then decide (area.num ≠ 0) && (List.range 3).all inside else Config.freeBool pixel
  let z := if flat && zOk then
      roundF32 (((((e 1).mul (v 0 2)).add ((e 2).mul (v 1 2))).add ((e 0).mul (v 2 2))).div area)
    else Config.freeWord pixel
  if covered then some ⟨px, py, z, c.word 13, c.word 14, c.word 15, oneF32⟩ else none

/-- The fragment of a splat at a pixel. -/
def splatFrag (c : Call) (px py : Nat) : Option Frag :=
  let dx := (centre px).sub (f32Q (c.word 4))
  let dy := (centre py).sub (f32Q (c.word 5))
  let q := (((f32Q (c.word 7)).mul (dx.mul dx)).add ((Q.ofInt 2).mul ((f32Q (c.word 8)).mul (dx.mul dy)))).add
    ((f32Q (c.word 9)).mul (dy.mul dy))
  let e := (fexp2Op (roundF32 q ^^^ 0x80000000)).1
  let alpha := BitVec.ofNat 32 (ieeeF32.mulOp .rne (c.word 13).toNat e).1
  if (Q.mk 1 256).le (f32Q alpha) then some ⟨px, py, c.word 6, c.word 10, c.word 11, c.word 12, alpha⟩ else none

/-- A splat record that returns BADDESC (R286). -/
def splatBad (c : Call) : Bool :=
  let q := fun i => f32Q (c.word i)
  !((List.range 10).all fun i => f32Finite (c.word (4 + i))) || (q 7).le Q.zero || (q 9).le Q.zero ||
  ((q 7).mul (q 9)).le ((q 8).mul (q 8)) || (q 13).lt Q.zero || (Q.ofInt 1).lt (q 13)

/-- Every fragment of a rasteriser record over a pass's viewport. -/
def Call.fragments (c : Call) (p : Pass) : List Frag :=
  (List.range p.height).flatMap fun py => (List.range p.width).filterMap fun px =>
    if c.typ = 1 then triangleFrag c px py else splatFrag c px py

/-! ### Steps of a turn (R286) -/

/-- The depth test (R286). -/
def depthTest (t : Nat) (z d : Word) : Bool :=
  let x := f32Num z
  let y := f32Num d
  let num := !x.isNan && !y.isNan
  match t with
  | 0 => true
  | 1 => num && decide (x.cmp y < 0)
  | 2 => num && decide (x.cmp y ≤ 0)
  | 3 => num && decide (0 < x.cmp y)
  | 4 => num && decide (0 ≤ x.cmp y)
  | _ => false

/-- A channel value as an rgba8 code. -/
def unorm (w : Word) : Nat :=
  let x := (ieeeF32.minMax false (ieeeF32.minMax true w.toNat 0).1 0x3F800000).1
  (roundInt .rne ((f32Q (BitVec.ofNat 32 x)).mul (Q.ofInt 255))).1.toNat

/-- An rgba8 code as a channel value. -/
def fromUnorm (c : Nat) : Word := roundF32 ⟨c, 255⟩

/-- One blended channel (R286). -/
def blendOver (src alpha dst : Word) : Word :=
  let om := (ieeeF32.subOp .rne 0x3F800000 alpha.toNat).1
  BitVec.ofNat 32 (ieeeF32.addOp .rne (ieeeF32.mulOp .rne src.toNat alpha.toNat).1 (ieeeF32.mulOp .rne dst.toNat om).1).1

/-- The channels of a stored pixel. -/
def Pass.channels (p : Pass) (bs : Nat) : List Word :=
  (List.range 4).map fun k => if p.f32 then BitVec.ofNat 32 (bs / 2 ^ (32 * k)) else fromUnorm (bs / 2 ^ (8 * k) % 256)

/-- The bytes of a pixel from its channels. -/
def Pass.pixelBytes (p : Pass) (cs : List Word) : List Byte :=
  if p.f32 then cs.flatMap fun w => leBytes 4 w.toNat else cs.map fun w => BitVec.ofNat 8 (unorm w)

/-- The writes of a turn, and whether the depth step passed. -/
structure TurnWrites where
  writes : List (Dest × List Byte)
  passed : Bool
  deriving DecidableEq, Repr

/-- Where a fragment's depth pixel lies (R285). -/
def Pass.depthAt (p : Pass) (f : Frag) : Nat := (p.depth + f.y * p.dpitch + 4 * f.x) % 2 ^ 64
/-- Where a fragment's colour pixel lies (R285). -/
def Pass.colourAt (p : Pass) (f : Frag) : Nat := (p.colour + f.y * p.cpitch + p.size * f.x) % 2 ^ 64

/-- The depth step of a turn. -/
def State.depthStep (s : State) (c : Call) (p : Pass) (f : Frag) : Except UnitStop TurnWrites :=
  if p.depth = 0 then .ok ⟨[], true⟩
  else
    let va := p.depthAt f
    match s.unitRead c va 4 4 with
    | .error e => .error e
    | .ok d =>
      if !depthTest p.dtest f.z (BitVec.ofNat 32 d) then .ok ⟨[], false⟩
      else if !p.dwrite then .ok ⟨[], true⟩
      else
        match s.unitDest c va 4 true with
        | .error e => .error e
        | .ok x => .ok ⟨[(x, leBytes 4 f.z.toNat)], true⟩

/-- The colour step of a turn. -/
def State.colourStep (s : State) (c : Call) (p : Pass) (f : Frag) : Except UnitStop TurnWrites :=
  let va := p.colourAt f
  match s.unitDest c va p.size p.blends with
  | .error e => .error e
  | .ok x =>
    let src := [f.r, f.g, f.b, if p.blends then oneF32 else f.alpha]
    let old := p.channels (leNat (s.readParty c.part x p.size .x 0 c.issued))
    let new := if p.blends then (src.zip old).map fun e => blendOver e.1 f.alpha e.2 else src
    .ok ⟨[(x, p.pixelBytes new)], true⟩

/-- The whole of a fragment's turn. -/
def State.fragStep (s : State) (c : Call) (p : Pass) (f : Frag) : Except UnitStop TurnWrites :=
  match s.depthStep c p f with
  | .error e => .error e
  | .ok d =>
    if !d.passed then .ok d
    else
      match s.colourStep c p f with
      | .error e => .error e
      | .ok k => .ok ⟨d.writes ++ k.writes, true⟩

/-! ### Turns (R284) -/

/-- Two turns belong to one stream and tile. -/
def Turn.meets (a b : Turn) : Bool := a.stream == b.stream && a.tx == b.tx && a.ty == b.ty

/-- The record a turn belongs to; a section has none. -/
def TurnBody.job (b : TurnBody) : Option Nat := match b with | .frag k _ => some k | .direct k _ _ => some k | .sect _ => none

/-- The tile of a direct record's pixel (R284, R287). -/
def Call.tile (c : Call) : Nat × Nat := (bitsN (c.word 4).toNat 15 0 / 16, bitsN (c.word 4).toNat 31 16 / 16)

/-- A direct record still in its call queue goes before a turn (R284): one of its stream and tile with a lower token, or with an equal one
that came before the turn's own record or section. -/
def Cluster.queuedBefore (c : Cluster) (t : Turn) : Bool :=
  (c.queue .depth ++ c.queue .blend).any fun x =>
    decide (x.typ ≠ 0) && !x.stale && x.stream == t.stream && x.tile == (t.tx, t.ty) &&
    (decide (c.diff x.stream x.token < c.diff t.stream t.token) ||
      (x.token == t.token && decide (x.key < t.key)))

/-- The turn at a place may begin (R284): every token below its own is settled, and no turn of its stream and tile with a lower token, or with
its own and of an earlier record or section, or of its own record and an earlier place, is left. -/
def Cluster.mayBegin (c : Cluster) (n : Nat) (t : Turn) : Bool :=
  let d := c.diff t.stream t.token
  decide (d ≤ 0) && !c.queuedBefore t &&
  ((c.turns.zip (List.range c.turns.length)).all fun e =>
    !e.1.meets t || e.2 == n || decide (d < c.diff e.1.stream e.1.token) ||
    (decide (d = c.diff e.1.stream e.1.token) && (decide (t.key < e.1.key) || (decide (t.key = e.1.key) && decide (n < e.2)))))

/-- The record of a turn. -/
def Cluster.jobOf (c : Cluster) (key : Nat) : Option Job := c.jobs.find? fun j => j.call.key == key

/-- What a turn does. -/
def State.turnStep (s : State) (j : Job) (b : TurnBody) : Except UnitStop TurnWrites :=
  let p := Pass.ofNat j.pass
  match b with
  | .frag _ f => s.fragStep j.call p f
  | .direct _ f blend => if blend then s.colourStep j.call p f else s.depthStep j.call p f
  | .sect _ => .ok ⟨[], true⟩

/-- The words of a return after its turns (R286, R287, R294). -/
def Job.summary (j : Job) : List Word :=
  if j.call.unit = .rast then [BitVec.ofNat 32 j.taken, BitVec.ofNat 32 j.passed]
  else if j.call.unit = .depth then [BitVec.ofNat 32 j.passed]
  else [0]

/-- Replace a record in progress. -/
def Cluster.setJob (c : Cluster) (j : Job) : Cluster := { c with jobs := c.jobs.map fun x => if x.call.key = j.call.key then j else x }

/-- A record ends with a status, the first that it meets: the turns it has still to take are dropped; one that has begun keeps its place
until its writes are visible, and the return is sent after the last of them has ended (R284, R286, R294). -/
def State.endJob (s : State) (n : Nat) (j : Job) (status : Nat) : State :=
  let c := s.cluster n
  let ts := c.turns.filter fun t => decide (t.body.job ≠ some j.call.key) || t.began.isSome
  let begun := (ts.filter fun t => decide (t.body.job = some j.call.key)).length
  let j1 := { j with status := if j.status = 0 then status else j.status, left := begun, words := j.summary }
  if begun = 0 then (s.setCluster n { c with turns := ts }).finishJob n j1
  else s.setCluster n (Cluster.setJob { c with turns := ts } j1)

/-- A turn has ended; the last one of a record ends the record. -/
def State.turnOver (s : State) (n k : Nat) (j : Option Job) : State :=
  let c := s.cluster n
  let c1 : Cluster := { c with turns := c.turns.eraseIdx k }
  match j.filter fun j => decide (0 < j.left) with
  | none => s.setCluster n c1
  | some j =>
  if j.left ≤ 1 then (s.setCluster n c1).endJob n { j with left := 0 } 0
  else s.setCluster n (c1.setJob { j with left := j.left - 1 })

/-- Carry out writes of a turn now: the state and their completion times. -/
def State.turnStore (s : State) (part : Nat) (ws : List (Dest × List Byte)) : State × Vector Nat 6 :=
  ws.foldl (fun x w => (x.1.writeDest part w.1 w.2 0, maxTimes x.2 (x.1.writeTimes w.1))) (s, Vector.replicate 6 0)

/-- A turn that has not begun begins (R284, R294). -/
def State.beginTurn (s : State) (n k : Nat) (t : Turn) (j : Job) : State :=
  match s.turnStep j t.body with
  | .error (.fate (.replay ia) _) => s.reportFault j.call.part ia
  | .error (.fate (.trap cause) va) => s.endJob n j (s.unitStatus j.call va cause)
  | .error (.fate _ _) => s
  | .error (.status x) => s.endJob n j x
  | .ok w =>
    let r := s.turnStore j.call.part w.writes
    let j1 := { j with
      taken := j.taken + 1, passed := j.passed + (if w.passed then 1 else 0), times := maxTimes j.times r.2 }
    let done := r.2.toList.foldl Nat.max 0
    let c := r.1.cluster n
    let s1 := r.1.setCluster n (Cluster.setJob { c with turns := c.turns.modify k fun t => { t with began := some done } } j1)
    if done ≤ s1.now then s1.turnOver n k (some j1) else s1

/-- A fragment's turn, or a direct record's, begins or ends (R284, R286). -/
def execFragmentTurn (cluster n : Nat) (s : State) : Host.Outcome State Fault Refusal :=
  .next (
    let c := s.cluster cluster
    match c.turns[n]? with
    | none => s
    | some t =>
      match t.began, t.body.job.bind c.jobOf with
      | some x, j => if t.body.job.isNone || decide (s.now < x) then s else s.turnOver cluster n j
      | none, none => s
      | none, some j => if s.partHalted j.call.part || !c.mayBegin n t then s else s.beginTurn cluster n t j)

/-! ### Records that take turns -/

/-- A rasteriser record's own fields make it BADDESC (R278, R286). -/
def rastBad (c : Call) : Bool := !c.headOk || (decide (c.typ = 2) && (splatBad c || !c.zeros 14 15))

/-- Put a record's turns behind those of its cluster. -/
def Cluster.addTurns (c : Cluster) (j : Job) (ts : List Turn) : Cluster := { c with jobs := c.jobs ++ [j], turns := c.turns ++ ts }

/-- The turn of a fragment. -/
def fragTurn (c : Call) (f : Frag) (b : TurnBody) : Turn := ⟨c.stream, f.x / 16, f.y / 16, c.token, b, none, c.key⟩

/-- The rasteriser runs a record (R286): every fragment takes its place, and the token is settled. -/
def State.runRast (s : State) (n : Nat) (c : Call) : Except UnitStop State :=
  if rastBad c then .error (.status 8)
  else
    match s.readPass c with
    | .error e => .error e
    | .ok d =>
      let fs := c.fragments (Pass.ofNat d)
      let j : Job := { c.job 0 [0, 0] with pass := d, left := fs.length }
      let k := (s.cluster n).settle c.stream c.token
      if fs.isEmpty then .ok ((s.setCluster n k).finishJob n j)
      else .ok (s.setCluster n (k.addTurns j (fs.map fun f => fragTurn c f (.frag c.key f))))

/-- The fragment of a direct record (R287). -/
def Call.direct (c : Call) : Frag :=
  let x := bitsN (c.word 4).toNat 15 0
  let y := bitsN (c.word 4).toNat 31 16
  if c.unit = .depth then ⟨x, y, c.word 5, 0, 0, 0, 0⟩ else ⟨x, y, 0, c.word 6, c.word 7, c.word 8, c.word 5⟩

/-- A depth or blend record takes its turn (R287). -/
def State.runDirect (s : State) (n : Nat) (c : Call) : Except UnitStop State :=
  let bad := !c.headOk || (if c.unit = .depth then !c.zeros 6 7 else !c.zeros 9 15)
  if bad then .error (.status 8)
  else
    match s.readPass c with
    | .error e => .error e
    | .ok d =>
      let p := Pass.ofNat d
      let f := c.direct
      if p.width ≤ f.x ∨ p.height ≤ f.y then .error (.status 9)
      else
        let j : Job := { c.job 0 [0] with pass := d, left := 1 }
        .ok (s.setCluster n ((s.cluster n).addTurns j [fragTurn c f (.direct c.key f (decide (c.unit = .blend)))]))

end Sys2Proof.Machine
end

