-- ==== Sys2Proof/Machine/Units.lean ====
section
/-!
DEFINITION. The tessellator (R288), the texture and volume filter (R289, R290) and the traversal unit (R291, R292): each answers a
record with the words of its return, and the tessellator writes its pattern.
-/

namespace Sys2Proof.Machine

/-- What a record comes to: its status, its return's words, and what it writes. -/
structure Answer where
  status : Nat
  words : List Word
  writes : List (Nat × List Byte)
  deriving DecidableEq, Repr

/-- A record that only returns. -/
def Answer.of (status : Nat) (ws : List Word) : Answer := ⟨status, ws, []⟩

/-! ### Tessellator (R288) -/

/-- The vertices of a pattern as (i, j). -/
def tessVertices (pattern l : Nat) : List (Nat × Nat) :=
  match pattern with
  | 0 => (List.range (l + 1)).flatMap fun j => (List.range (l + 1 - j)).map fun i => (i, j)
  | 1 => (List.range (l + 1)).flatMap fun j => (List.range (l + 1)).map fun i => (i, j)
  | _ => (List.range (l + 1)).map fun i => (i, 0)

/-- The number of vertex (i, j) of the tri pattern. -/
def triVertex (l i j : Nat) : Nat := ((List.range j).map fun k => l + 1 - k).sum + i

/-- The primitives of a pattern as vertex numbers. -/
def tessPrims (pattern l : Nat) : List (List Nat) :=
  match pattern with
  | 0 => (List.range l).flatMap fun j => (List.range (l - j)).flatMap fun i =>
      let v := triVertex l
      [[v i j, v (i + 1) j, v i (j + 1)]] ++
        (if i + 1 + j < l then [[v (i + 1) j, v (i + 1) (j + 1), v i (j + 1)]] else [])
  | 1 => (List.range l).flatMap fun j => (List.range l).flatMap fun i =>
      let a := j * (l + 1) + i
      [[a, a + 1, a + l + 1], [a + 1, a + l + 2, a + l + 1]]
  | _ => (List.range l).map fun i => [i, i + 1]

/-- The tessellator's answer to a pattern record: ALIGN before RANGE where both hold (log 42, DEDUCED). -/
def tessAnswer (c : Call) : Answer :=
  let out := (pair (c.word 2) (c.word 3)).toNat
  let w4 := (c.word 4).toNat
  let pattern := bitsN w4 1 0
  let l := bitsN w4 14 8
  let cap := (c.word 5).toNat
  if !c.headOk || !c.zeros 6 7 || decide (bitsN w4 31 15 ≠ 0) || decide (bitsN w4 7 2 ≠ 0) || decide (pattern = 3) ||
      decide (l = 0) || decide (64 < l) then Answer.of 8 []
  else if out % 16 ≠ 0 then Answer.of 7 []
  else
    let vs := tessVertices pattern l
    let ps := tessPrims pattern l
    let start := (8 * vs.length + 15) / 16 * 16
    let coord := fun i : Nat => leBytes 4 (roundF32 ⟨i, l⟩).toNat
    let vb := vs.flatMap fun v => coord v.1 ++ coord v.2
    let ib := ps.flatMap fun p => p.flatMap fun i => leBytes 2 i
    if cap < start + ib.length then Answer.of 9 []
    else ⟨0, [BitVec.ofNat 32 vs.length, BitVec.ofNat 32 ps.length], [(out, vb), (out + start, ib)]⟩

/-! ### Filter (R289, R290) -/

/-- A texture descriptor. -/
structure Texture where
  base : Nat
  size : Nat → Nat
  dims : Nat
  fmt : Nat
  mode : Nat → Nat
  linear : Bool
  pitch : Nat
  slice : Nat
  border : Word

/-- Read a texture descriptor's bits. -/
def Texture.ofNat (d : Nat) : Texture :=
  { base := bitsN d 63 0, size := fun a => bitsN d (79 + 16 * a) (64 + 16 * a), dims := bitsN d 113 112, fmt := bitsN d 115 114
    mode := fun a => bitsN d (117 + 2 * a) (116 + 2 * a), linear := bitsN d 122 122 = 1, pitch := bitsN d 159 128
    slice := bitsN d 191 160, border := BitVec.ofNat 32 (bitsN d 223 192) }

/-- A texture descriptor keeps to its map; its reserved bits are ignored (R6). -/
def textureOk (d : Nat) : Bool :=
  let t := Texture.ofNat d
  decide (t.fmt ≠ 3) && decide (t.dims ≠ 0) &&
  (List.range 3).all fun a => decide (t.mode a ≠ 3) && decide (1 ≤ t.size a)

/-- Bytes of a texel. -/
def Texture.bytes (t : Texture) : Nat := if t.fmt = 2 then 16 else 4

/-- The channels of a border texel. -/
def Texture.borderTexel (t : Texture) : List Word :=
  if t.fmt = 0 then [t.border, 0, 0, oneF32] else List.replicate 4 t.border

/-- The channels of a stored texel. -/
def Texture.channels (t : Texture) (bs : Nat) : List Word :=
  match t.fmt with
  | 0 => [BitVec.ofNat 32 bs, 0, 0, oneF32]
  | 1 => (List.range 4).map fun k => fromUnorm (bs / 2 ^ (8 * k) % 256)
  | _ => (List.range 4).map fun k => BitVec.ofNat 32 (bs / 2 ^ (32 * k))

/-- The index of a tap on an axis: none outside under border addressing. -/
def Texture.index (t : Texture) (a : Nat) (i : Int) : Option Nat :=
  let n : Int := t.size a
  match t.mode a with
  | 0 => some (max 0 (min i (n - 1))).toNat
  | 1 => some (i % n).toNat
  | _ => if 0 ≤ i ∧ i < n then some i.toNat else none

/-- The taps of an axis: index and weight (f32). An axis beyond dims has one tap of weight 1. -/
def Texture.taps (t : Texture) (a : Nat) (c : Word) : List (Option Nat × Word) :=
  if t.dims ≤ a then [(some 0, oneF32)]
  else
    let x := (f32Q c).mul (Q.ofInt (t.size a))
    if t.linear then
      let y := x.sub ⟨1, 2⟩
      let f := roundF32 (y.sub (Q.ofInt y.floor))
      [(t.index a y.floor, BitVec.ofNat 32 (ieeeF32.subOp .rne 0x3F800000 f.toNat).1), (t.index a (y.floor + 1), f)]
    else [(t.index a x.floor, oneF32)]

/-- The channels of the texel at three indexes. -/
def State.texel (s : State) (c : Call) (t : Texture) (i j k : Option Nat) : Except UnitStop (List Word) :=
  match i, j, k with
  | some i, some j, some k =>
    match s.unitRead c ((t.base + k * t.slice + j * t.pitch + i * t.bytes) % 2 ^ 64) t.bytes t.bytes with
    | .error e => .error e
    | .ok bs => .ok (t.channels bs)
  | _, _, _ => .ok t.borderTexel

/-- An f32 product, rounded to nearest even. -/
def mulF (a b : Word) : Word := BitVec.ofNat 32 (ieeeF32.mulOp .rne a.toNat b.toNat).1
/-- An f32 sum, rounded to nearest even. -/
def addF (a b : Word) : Word := BitVec.ofNat 32 (ieeeF32.addOp .rne a.toNat b.toNat).1

/-- The weight of a tap from its axes' weights: absent axes weigh 1, with no rounding. -/
def Texture.weight (t : Texture) (wx wy wz : Word) : Word :=
  match t.dims with | 1 => wx | 2 => mulF wx wy | _ => mulF (mulF wx wy) wz

/-- Sum taps in their order (R290). -/
def State.sumTaps (s : State) (c : Call) (t : Texture) :
    List ((Option Nat × Word) × (Option Nat × Word) × (Option Nat × Word)) → List Word → Except UnitStop (List Word)
  | [], acc => .ok acc
  | (z, y, x) :: r, acc =>
    match s.texel c t x.1 y.1 z.1 with
    | .error e => .error e
    | .ok ch => s.sumTaps c t r ((acc.zip ch).map fun e => addF e.1 (mulF (t.weight x.2 y.2 z.2) e.2))

/-- The filter's answer to a sample record: BADDESC, NAN, INF, then the base's ALIGN, where several hold (log 42, DEDUCED). -/
def State.filterAnswer (s : State) (c : Call) : Except UnitStop Answer :=
  if !c.headOk || !c.zeros 7 7 then .ok (Answer.of 8 [])
  else
    match s.unitRead c (pair (c.word 2) (c.word 3)).toNat 32 32 with
    | .error e => .error e
    | .ok d =>
      let t := Texture.ofNat d
      let cs := (List.range t.dims).map fun a => f32Num (c.word (4 + a))
      if !textureOk d then .ok (Answer.of 8 [])
      else if cs.any FNum.isNan then .ok (Answer.of 1 [])
      else if cs.any FNum.isInf then .ok (Answer.of 2 [])
      else if t.base % t.bytes ≠ 0 then .ok (Answer.of 7 [])
      else
        let xs := t.taps 0 (c.word 4)
        let ys := t.taps 1 (c.word 5)
        let zs := t.taps 2 (c.word 6)
        let all := zs.flatMap fun z => ys.flatMap fun y => xs.map fun x => (z, y, x)
        match s.sumTaps c t all [0, 0, 0, 0] with
        | .error e => .error e
        | .ok acc => .ok (Answer.of 0 acc)

/-! ### Geometry (R292) -/

/-- A ray: origin, direction and the ends of its range, which may be infinite. -/
structure Ray where
  o : Nat → Q
  d : Nat → Q
  tmin : FNum
  tmax : FNum

/-- The ray of a record. -/
def Call.ray (c : Call) : Ray :=
  ⟨fun a => f32Q (c.word (4 + a)), fun a => f32Q (c.word (8 + a)), f32Num (c.word 7), f32Num (c.word 11)⟩

/-- The status of a ray record's own checks (R292). -/
def Call.rayStatus (c : Call) : Nat :=
  let o := (List.range 3).map fun a => f32Num (c.word (4 + a))
  let d := (List.range 3).map fun a => f32Num (c.word (8 + a))
  let lo := f32Num (c.word 7)
  let hi := f32Num (c.word 11)
  if o.any FNum.isNan then 1
  else if o.any FNum.isInf then 2
  else if (d.any fun x => x.isNan || x.isInf) || d.all FNum.isZero then 3
  else if lo.isNan || hi.isNan || decide (0 < lo.cmp hi) then 4
  else 0

/-- t lies in the ray's range. -/
def Ray.holds (r : Ray) (t : Q) : Bool := decide (r.tmin.cmp (FNum.ofQ t) ≤ 0) && decide ((FNum.ofQ t).cmp r.tmax ≤ 0)

/-- The larger of two numbers. -/
def FNum.larger (a b : FNum) : FNum := if a.cmp b < 0 then b else a
/-- The smaller of two numbers. -/
def FNum.smaller (a b : FNum) : FNum := if b.cmp a < 0 then b else a

/-- Narrow a range by the slab of an axis; none when it is left empty. -/
def Ray.slab (r : Ray) (a : Nat) (lo hi : Q) (x : FNum × FNum) : Option (FNum × FNum) :=
  if (r.d a).num = 0 then (if lo.le (r.o a) && (r.o a).le hi then some x else none)
  else
    let t0 := FNum.ofQ ((lo.sub (r.o a)).div (r.d a))
    let t1 := FNum.ofQ ((hi.sub (r.o a)).div (r.d a))
    let y := if (r.d a).num < 0 then (x.1.larger t1, x.2.smaller t0) else (x.1.larger t0, x.2.smaller t1)
    if 0 < y.1.cmp y.2 then none else some y

/-- The entry of a box (R292): the least t of the intersection of its slabs and the ray's range. -/
def Ray.enters (r : Ray) (lo hi : Nat → Q) : Option FNum :=
  (((r.slab 0 (lo 0) (hi 0) (r.tmin, r.tmax)).bind (r.slab 1 (lo 1) (hi 1))).bind (r.slab 2 (lo 2) (hi 2))).map (·.1)

/-- A determinant of three columns. -/
def det3 (a b c : Nat → Q) : Q :=
  let m := fun i j : Nat => (b i).mul (c j)
  (((a 0).mul ((m 1 2).sub (m 2 1))).sub ((a 1).mul ((m 0 2).sub (m 2 0)))).add ((a 2).mul ((m 0 1).sub (m 1 0)))

/-- A triangle's hit (R292): t, u and v of o + t d = (1 − u − v) v0 + u v1 + v v2. -/
def Ray.triangle (r : Ray) (v : Nat → Nat → Q) : Option (Q × Q × Q) :=
  let e1 := fun a => (v 1 a).sub (v 0 a)
  let e2 := fun a => (v 2 a).sub (v 0 a)
  let nd := fun a => (r.d a).neg
  let rhs := fun a => (r.o a).sub (v 0 a)
  let det := det3 nd e1 e2
  if det.num = 0 then none
  else
    let t := (det3 rhs e1 e2).div det
    let u := (det3 nd rhs e2).div det
    let w := (det3 nd e1 rhs).div det
    if 0 ≤ u.num ∧ 0 ≤ w.num ∧ (u.add w).le (Q.ofInt 1) ∧ r.holds t then some (t, u, w) else none

/-! ### Hierarchies -/

/-- What a traversal has found: the triangles of the leaves it visited, in no order, or why it ended. -/
structure Walked where
  tris : List Nat
  seen : List Nat
  deriving DecidableEq, Repr

/-- A node's box has a bound that is no number: whether the ray enters it is not stated (log 16, DESIGN CHOICE). -/
def boxFinite (n : Nat) : Bool := (List.range 6).all fun i => f32Finite (BitVec.ofNat 32 (n / 2 ^ (32 * i)))

/-- The ray enters the box of a node. -/
def Ray.entersNode (r : Ray) (key n : Nat) : Bool :=
  let w := fun i => f32Q (BitVec.ofNat 32 (n / 2 ^ (32 * i)))
  if boxFinite n then (r.enters w fun a => w (a + 3)).isSome else Config.freeBool key

/-- A hierarchy descriptor. -/
structure Hierarchy where
  nodes : Nat
  nodeCount : Nat
  triCount : Nat
  tris : Nat
  deriving DecidableEq, Repr

/-- Read a hierarchy descriptor's bits. -/
def Hierarchy.ofNat (d : Nat) : Hierarchy := ⟨bitsN d 63 0, bitsN d 95 64, bitsN d 127 96, bitsN d 191 128⟩

/-- Read a node. -/
def State.node (s : State) (c : Call) (h : Hierarchy) (i : Nat) : Except UnitStop Nat :=
  if h.nodeCount ≤ i then .error (.status 9) else s.unitRead c ((h.nodes + 32 * i) % 2 ^ 64) 32 32

/-- Visit nodes (R292): each node once, its children where the ray enters their boxes. An empty leaf range names no index (log 42,
DEDUCED). -/
def State.visit (s : State) (c : Call) (h : Hierarchy) : Nat → List Nat → Walked → Except UnitStop Walked
  | 0, _, w => .ok w
  | _, [], w => .ok w
  | fuel + 1, i :: todo, w =>
    if w.seen.contains i then s.visit c h fuel todo w
    else
      match s.node c h i with
      | .error e => .error e
      | .ok n =>
        let idx := bitsN n 222 192
        let cnt := bitsN n 255 224
        let w1 : Walked := { w with seen := i :: w.seen }
        if bitsN n 223 223 = 1 then
          if cnt ≠ 0 ∧ h.triCount < idx + cnt then .error (.status 9)
          else s.visit c h fuel todo { w1 with tris := w1.tris ++ (List.range cnt).map fun k => idx + k }
        else
          match s.node c h idx, s.node c h (idx + 1) with
          | .ok a, .ok b =>
            let into := fun j n => if c.ray.entersNode (c.key * 2 ^ 32 + j) n then [j] else []
            s.visit c h fuel (into idx a ++ into (idx + 1) b ++ todo) w1
          | .error e, _ => .error e
          | _, .error e => .error e

/-- What a triangle gives: its hit, or that a vertex is no number. -/
inductive TriHit where
  | miss
  | hit (t u v : Q) (i id : Nat)
  | open_
  deriving DecidableEq, Repr

/-- Test a triangle of a hierarchy; the reserved bits of a record in memory are ignored (R6). -/
def State.testTri (s : State) (c : Call) (h : Hierarchy) (i : Nat) : Except UnitStop TriHit :=
  match s.unitRead c ((h.tris + 48 * i) % 2 ^ 64) 48 16 with
  | .error e => .error e
  | .ok x =>
    let w := fun k => BitVec.ofNat 32 (x / 2 ^ (32 * k))
    if !((List.range 9).all fun k => f32Finite (w k)) then .ok .open_
    else
      match c.ray.triangle fun i a => f32Q (w (3 * i + a)) with
      | none => .ok .miss
      | some (t, u, v) => .ok (.hit t u v i (bitsN x 319 288))

/-- The better of two hits: least t, then least triangle index; one that is open stays open. -/
def TriHit.better (a b : TriHit) : TriHit :=
  match a, b with
  | .open_, _ => .open_
  | _, .open_ => .open_
  | .miss, y => y
  | x, .miss => x
  | .hit t u v i d, .hit t' u' v' i' d' =>
    if t.lt t' || (t.eqv t' && decide (i ≤ i')) then .hit t u v i d else .hit t' u' v' i' d'

/-- Test triangles and keep the nearest hit. -/
def State.nearest (s : State) (c : Call) (h : Hierarchy) : List Nat → TriHit → Except UnitStop TriHit
  | [], b => .ok b
  | i :: r, b =>
    match s.testTri c h i with
    | .error e => .error e
    | .ok x => s.nearest c h r (b.better x)

/-- The words of a hit; one that the spec does not state is free in every word but the box count (log 16, DESIGN CHOICE). -/
def TriHit.words (x : TriHit) (key : Nat) : List Word :=
  match x with
  | .miss => []
  | .hit t u v _ d => [1, roundF32 t, BitVec.ofNat 32 d, roundF32 u, roundF32 v]
  | .open_ => (List.range 5).map fun k => Config.freeWord (key * 8 + k)

/-- A ray against a hierarchy. -/
def State.rayTriangles (s : State) (c : Call) : Except UnitStop Answer :=
  match s.unitRead c (pair (c.word 2) (c.word 3)).toNat 32 1 with
  | .error e => .error e
  | .ok d =>
    let h := Hierarchy.ofNat d
    if h.nodes % 32 ≠ 0 ∨ h.tris % 16 ≠ 0 then .ok (Answer.of 7 [])
    else
      match s.visit c h (3 * h.nodeCount + 3) [0] ⟨[], []⟩ with
      | .error e => .error e
      | .ok w =>
        match s.nearest c h w.tris .miss with
        | .error e => .error e
        | .ok x => .ok (Answer.of 0 (x.words c.key))

/-! ### Collections -/

/-- A coordinate of a key's cell: every third bit. -/
def cellCoord (k key a : Nat) : Nat :=
  (List.range (k / 3)).foldl (fun x i => x + key / 2 ^ (3 * i + a) % 2 * 2 ^ i) 0

/-- The collection a record names: one that is not valid, whose k is no multiple of 3, or that is corrupt gives BADDESC. -/
def State.unitColl (s : State) (c : Call) : Except UnitStop Coll :=
  match s.openColl c.base (pair (c.word 2) (c.word 3)).toNat with
  | .ok x => if x.k % 3 = 0 then .ok x else .error (.status 8)
  | .error (.fate f a) => .error (.fate f a)
  | .error _ => .error (.status 8)

/-- The entry of a ray into an element's cube. -/
def Ray.entersCell (r : Ray) (k key : Nat) : Option FNum :=
  r.enters (fun a => Q.ofInt (cellCoord k key a)) fun a => Q.ofInt (cellCoord k key a + 1)

/-- The words of an element that was found. -/
def elemWords (t : Word) (e : Nat × Nat) : List Word :=
  [1, t, BitVec.ofNat 32 e.1, BitVec.ofNat 32 e.2, BitVec.ofNat 32 (e.1 / 2 ^ 32)]

/-- A ray against a collection: the least entry, then the least (key, payload), the order in which elements come. -/
def State.rayCollection (s : State) (c : Call) : Except UnitStop Answer :=
  match s.unitColl c with
  | .error e => .error e
  | .ok x =>
    let hits := x.elems.filterMap fun e => (c.ray.entersCell x.k e.1).map fun t => (t, e)
    let best := hits.foldl (fun (b : Option (FNum × (Nat × Nat))) h =>
      match b with
      | none => some h
      | some y => if h.1.cmp y.1 < 0 then some h else b) none
    match best with
    | none => .ok (Answer.of 0 [])
    | some (t, e) => .ok (Answer.of 0 (elemWords (BitVec.ofNat 32 (ieeeF32.round .rne t).1) e))

/-- A box against a collection: a bound that is upside down decides before the collection is looked at (R292; log 36, DESIGN CHOICE). -/
def State.boxCollection (s : State) (c : Call) : Except UnitStop Answer :=
  let b := fun i : Nat => (c.word (4 + i / 2)).toNat / 2 ^ (16 * (i % 2)) % 2 ^ 16
  if (List.range 3).any fun a => decide (b (a + 3) < b a) then .ok (Answer.of 4 [])
  else
    match s.unitColl c with
    | .error e => .error e
    | .ok x =>
      let inside := x.elems.filter fun e =>
        (List.range 3).all fun a => decide (b a ≤ cellCoord x.k e.1 a) && decide (cellCoord x.k e.1 a ≤ b (a + 3))
      match inside with
      | [] => .ok (Answer.of 0 [])
      | e :: _ => .ok (Answer.of 0 (elemWords 0 e ++ [BitVec.ofNat 32 inside.length]))

/-- The traversal unit's answer to a record (R291, R292). -/
def State.traversalAnswer (s : State) (c : Call) : Except UnitStop Answer :=
  if c.typ = 3 then
    if !c.headOk || !c.zeros 7 15 then .ok (Answer.of 8 []) else s.boxCollection c
  else if !c.headOk || !c.zeros 12 15 then .ok (Answer.of 8 [])
  else if c.rayStatus ≠ 0 then .ok (Answer.of c.rayStatus [])
  else if c.typ = 1 then s.rayTriangles c
  else s.rayCollection c

end Sys2Proof.Machine
end

