-- ==== Sys2Proof/Machine/Records.lean ====
section
/-!
DEFINITION. A unit takes the next record of its call queue (R276, R284, R293, R294); tile sections (R295 to R297).
-/

namespace Sys2Proof.Machine

/-- Where an answer's writes go. -/
def State.answerDests (s : State) (c : Call) : List (Nat × List Byte) → Except UnitStop (List (List (Dest × Nat) × List Byte))
  | [] => .ok []
  | (a, bs) :: r =>
    match s.runDests c.base (intPieces a bs.length) with
    | .error f => .error (.fate f.1 f.2)
    | .ok ds =>
      match s.answerDests c r with
      | .ok more => .ok ((ds, bs) :: more)
      | .error e => .error e

/-- A unit answers a record at once: its writes, then its return. -/
def State.answer (s : State) (n : Nat) (c : Call) (a : Answer) : Except UnitStop State :=
  match s.answerDests c a.writes with
  | .error e => .error e
  | .ok ws =>
    let r := s.collStore c.part ws
    .ok (r.1.finishJob n { c.job a.status a.words with times := r.2 })

/-- A record that is neither stale nor too far above its base. -/
def State.runRecord (s : State) (n : Nat) (c : Call) : Except UnitStop State :=
  if c.typ = 0 then .ok (s.finishJob n (c.job (if c.headOk && c.zeros 2 3 then 0 else 8) []))
  else
    match c.unit with
    | .rast => s.runRast n c
    | .depth => s.runDirect n c
    | .blend => s.runDirect n c
    | .tess => s.answer n c (tessAnswer c)
    | .filt =>
      match s.filterAnswer c with
      | .ok a => s.answer n c a
      | .error e => .error e
    | .trav =>
      match s.traversalAnswer c with
      | .ok a => s.answer n c a
      | .error e => .error e

/-- A record ends with a status before it takes a turn; a rasteriser record settles its token (R284, R294). -/
def State.endRecord (s : State) (n : Nat) (c : Call) (status : Nat) : State :=
  let s1 := if c.unit = .rast then s.setCluster n ((s.cluster n).settle c.stream c.token) else s
  s1.finishJob n (c.job status [])

/-- The head record of a queue waits (R284, R293). -/
def State.recordWaits (s : State) (n : Nat) (c : Call) : Bool :=
  s.partHalted c.part || (!c.stale && decide (256 ≤ (s.cluster n).diff c.stream c.token)) ||
  (decide (c.typ ≠ 0) && decide (s.now < c.notBefore))

/-- A record routed to no consumer that takes it returns BADDESC to its lane and does no work (R277). -/
def State.badRoute (s : State) (c : Call) : Bool := decide (2 ≤ c.route) && (s.routeTo c).isNone

/-- A unit takes the head record of its queue. -/
def State.takeRecord (s : State) (n : Nat) (u : CUnit) (c : Call) (rest : List Call) : State :=
  let k := s.cluster n
  let s1 := State.setCluster { s with freeCtr := s.freeCtr + 1 } n (k.setQueue u rest (k.ring u))
  if c.stale then s1.finishJob n (c.job 10 [])
  else if s.badRoute c then s1.endRecord n c 8
  else
    match s1.runRecord n c with
    | .ok s2 => s2
    | .error (.status x) => s1.endRecord n c x
    | .error (.fate (.trap cause) va) => s1.endRecord n c (s1.unitStatus c va cause)
    | .error (.fate (.replay ia) _) => s.reportFault c.part ia
    | .error (.fate _ _) => s

/-- A unit's next record (R282, R284): one that is done but cannot be delivered is tried again first. A record that stays at the head of its
queue, 256 or more above the base, holds back those behind it (log 36, DESIGN CHOICE). -/
def execCoprocRecord (cluster : Nat) (unit : CUnit) (s : State) : Host.Outcome State Fault Refusal :=
  .next (
    let k := s.cluster cluster
    match k.jobs.find? fun j => j.call.unit == unit && j.left == 0 with
    | some j => s.finishJob cluster j
    | none =>
      match k.queue unit with
      | [] => s
      | c :: rest => if s.recordWaits cluster c then s else s.takeRecord cluster unit c rest)

/-! ### Tile sections (R295 to R297) -/

/-- The turn a section's operand b names; n is the number of the next record. -/
def sectTurn (key n : Nat) (token b : Word) : Turn :=
  ⟨bitsN b.toNat 27 24, bitsN b.toNat 11 0, bitsN b.toNat 23 12, token, .sect key, none, n⟩

/-- The place of a group's turn. -/
def Cluster.findSect (c : Cluster) (key : Nat) (token b : Word) : Option Nat :=
  let t := sectTurn key 0 token b
  (List.range c.turns.length).find? fun i =>
    match c.turns[i]? with
    | some x => decide (x.body = .sect key) && x.meets t && x.token == token
    | none => false

/-- Change a group's section. -/
def Group.setSection (gr : Group) (token b : Word) (f : Section → Section) : Group :=
  { gr with sections := gr.sections.map fun x => if x.token = token ∧ x.b = b then f x else x }

/-- The group's request waits for its turn, or takes it (R295). -/
def State.awaitSection (s : State) (token b : Word) : State :=
  let cl := s.cur.core / 4
  let c := s.cluster cl
  match c.findSect s.cur.key token b with
  | none => s
  | some i =>
    if c.mayBegin i (c.turns[i]?.getD (sectTurn s.cur.key 0 token b)) then
      let s1 := s.setCluster cl { c with turns := c.turns.modify i fun t => { t with began := some s.now } }
      (s1.setCur (s1.cur.setSection token b fun x => { x with held := true, since := none })).retire 2
    else
      let gr := s.cur.setSection token b fun x => { x with since := some (x.since.getD s.now) }
      (s.setCur gr).hold .turn

/-- HANDLE of a section form; trapa holds operand b (log 16, DESIGN CHOICE). -/
def State.sectHandle (s : State) (b : Word) : State := s.trapPath 11 0 (0#32 ++ b) 2 false

/-- `tsec.enter ga, gb` (R295): the token is settled, and the turn takes its place. -/
def execTsecEnter (g : BitVec 3) (a b : Reg) (s : State) : Host.Outcome State Fault Refusal :=
  .next (uniDo 2 g [a, b] s fun s =>
    let token := s.cur.usrc a
    let w := s.cur.usrc b
    if w.extractLsb' 28 4 ≠ 0 then s.sectHandle w
    else
      match s.cur.sections.find? fun x => x.b == w with
      | some x => if x.token = token ∧ !x.held then s.awaitSection token w else s.sectHandle w
      | none =>
        if 4 ≤ s.cur.sections.length then s.sectHandle w
        else
          let cl := s.cur.core / 4
          let c := s.cluster cl
          let t := sectTurn s.cur.key s.nextKey token w
          let s1 := s.setCluster cl (Cluster.settle { c with turns := c.turns ++ [t] } t.stream token)
          (s1.setCur { s1.cur with sections := s1.cur.sections ++ [⟨token, w, false, none⟩] }).awaitSection token w)

/-- `tsec.exit ga, gb` (R295): a release naming every observer; a pending request is withdrawn. -/
def execTsecExit (g : BitVec 3) (a b : Reg) (s : State) : Host.Outcome State Fault Refusal :=
  .next (uniDo 2 g [a, b] s fun s =>
    let token := s.cur.usrc a
    let w := s.cur.usrc b
    match s.cur.sections.find? fun x => x.token == token && x.b == w with
    | none => s.sectHandle w
    | some x =>
      if x.held && !s.releasable allObs then s.hold .order
      else
        let cl := s.cur.core / 4
        let c := s.cluster cl
        let s1 :=
          match c.findSect s.cur.key token w with
          | some i => s.setCluster cl { c with turns := c.turns.eraseIdx i }
          | none => s
        (s1.setCur { s1.cur with sections := s1.cur.sections.filter fun y => !(y.token == token && y.b == w) }).retire 2)

/-- A wait for a section passes the group's limit (R296): SECTION-TIMEOUT, and the request keeps its place. -/
def execSectionTimeout (grp : Nat) (s : State) : Host.Outcome State Fault Refusal :=
  .next (
    match s.group? grp with
    | none => s
    | some gr =>
      let limit := (gr.sect.extractLsb' 0 20).toNat * 1000
      let over_ := gr.sections.any fun x => match x.since with | some t => !x.held && decide (t + limit < s.now) | none => false
      if gr.wait = .again .turn ∧ limit ≠ 0 ∧ !s.partHalted gr.part ∧ over_ then
        let s1 := s.focus grp
        (s1.setCur { s1.cur with sections := s1.cur.sections.map fun x => { x with since := none } }).trapPath 13 0 0 2 true
      else s)

end Sys2Proof.Machine
end

