-- ==== Sys2Proof/Machine/Preempt.lean ====
section
/-!
DEFINITION. Pre-emption and restoration of a partition (R225 to R227).
-/

namespace Sys2Proof.Machine

/-- The part of a sparse array whose indexes satisfy a test, and the rest. -/
def SMap.part {α : Type} (q : Nat → Bool) (m : SMap α) : SMap α × SMap α := (SMap.keep q m, SMap.keep (fun k => !q k) m)

/-- Put saved entries back. -/
def SMap.putAll {α : Type} [DecidableEq α] (d : α) (m : SMap α) (es : SMap α) : SMap α :=
  es.foldl (fun m e => SMap.set d m e.1 e.2) m

/-- A core lies in a partition's clusters. -/
def Partition.hasCore (p : Partition) (core : Nat) : Bool := p.clusters.getLsbD (core / 4)

/-- A load port at pre-emption (R198, R225): its unpopped elements are discarded and the stream moves back to the first of them. One that had
ended on a fault behind unpopped elements reads on from there, and meets the fault again or not (log 36, DESIGN CHOICE). -/
def Port.rewound (p : Port) : Port :=
  if p.bound && p.kind != 2 && !(p.elems.isEmpty && p.ring.isEmpty) then
    { p with elems := [], ring := [], pos := p.used, fault := none, paused := false }
  else p

/-- The time a section's request has waited, in place of since when; and back again (R296, R297). -/
def Section.shift (now : Nat) (x : Section) : Section := { x with since := x.since.map fun t => now - t }

/-- How many cycles ago the group became resident, issued and became aged, in place of when; and back again (R45, R48, R307). -/
def Group.shiftCycles (gr : Group) (cycle : Nat) : Group :=
  { gr with
    since := cycle - gr.since, lastIssue := gr.lastIssue.map fun t => cycle - t, agedAt := gr.agedAt.map fun t => cycle - t }

/-- A trap of a cause that an instruction takes in some of its lanes once the others have completed (R60, R130, R173, R280). -/
def trapsApart (cause : Nat) : Instr → Bool
  | .ld _ _ _ _ _ _ _ _ | .st _ _ _ _ _ _ _ _ | .atom _ _ _ _ _ _ _ _ _ => true
  | .xld _ _ _ _ | .xldLong _ _ _ _ | .xst _ _ _ _ | .xstLong _ _ _ _ => true
  | .qretTrap _ _ _ => cause == 12
  | _ => cause == 15

/-- What a group's instruction has left to do when it reissues after a trap that was not entered (R225; log 30, DEDUCED): nothing but the trap
where WATCH found it complete; its trapping lanes where the others have completed; all of it elsewhere, as at a first issue. A trap at a fetch or
at a join belongs to no fetched instruction. -/
def Group.redo (gr : Group) (t : TrapInfo) : Option Mask :=
  if gr.held.isEmpty then none
  else if t.cause = 18 then some 0
  else if trapsApart t.cause (instrOf gr.held) then some t.lanes
  else none

/-- A trap that is not yet entered is dropped, for its instruction reissues and takes it again (R225). -/
def Group.untrapped (gr : Group) : Group :=
  match gr.pendingTrap with
  | some t => { gr with pendingTrap := none, wait := .again .presence, unfinished := gr.redo t }
  | none => gr

/-- A group as it is saved (R225, R226). -/
def Group.saved (gr : Group) (now cycle : Nat) : Group :=
  { (gr.untrapped.shiftCycles cycle) with
    ports := gr.ports.map Port.rewound, sections := gr.sections.map (Section.shift now) }

/-- A group as it returns (R48, R227). -/
def Group.restored (gr : Group) (now cycle : Nat) : Group :=
  { (gr.shiftCycles cycle) with sections := gr.sections.map (Section.shift now) }

/-- The ring that pre-emption writes an iterator's image to (R226): its IA, where it has room. -/
def Group.imageRing (gr : Group) (i : Nat) : Option Nat :=
  let it := gr.iters[i]?.getD Iter.closed
  let r := placeRing gr.ranges (2 ^ 84 + gr.key * 8 + i)
  if it.opened && !it.buf.isEmpty && decide (256 ≤ r.2) then some r.1 else none

/-- A group whose iterators' images lie in their rings, as far as these can be written (R226). -/
def State.iterSpilled (s : State) (gr : Group) : Group :=
  { gr with iters := Vector.ofFn fun i =>
      let it := gr.iters[i]
      match gr.imageRing i.val with
      | some ia => if s.ringStop gr.part ia 256 true = none then { it with buf := [], image := 0, spilled := true } else it
      | none => it }

/-- The image of an iterator that lies in its ring, or what stops its reading (R226, R227). -/
def State.imageBack (s : State) (gr : Group) (i : Nat) : Except Fate Nat :=
  let ia := (placeRing gr.ranges (2 ^ 84 + gr.key * 8 + i)).1
  match s.ringStop gr.part ia 256 false with
  | some f => .error f
  | none => .ok (leNat ((piecesOf ia 256).flatMap fun p => s.readOwned gr.part (.paged p.1) p.2))

/-- A group with its iterators' images read back (R226, R227): one whose ring cannot be read any more has a value that is not stated (log 38,
DESIGN CHOICE). -/
def State.iterRestored (s : State) (gr : Group) : Group :=
  { gr with iters := Vector.ofFn fun i =>
      let it := gr.iters[i]
      if it.spilled then it.ofImage (match s.imageBack gr i.val with | .ok x => x | .error _ => Config.freeNat (s.freeCtr + i.val))
      else it }

/-- The pages that rings of iterator images wait for: of a running group to be written, of a saved one to be read (R226, R227). -/
def State.imagePages (s : State) (gr : Group) (back : Bool) : List Nat :=
  (List.range 8).filterMap fun i =>
    let f :=
      if back then (if (gr.iters[i]?.getD Iter.closed).spilled then (match s.imageBack gr i with | .error f => some f | .ok _ => none) else none)
      else (gr.imageRing i).bind fun ia => s.ringStop gr.part ia 256 true
    match f with | some (.replay ia) => some ia | _ => none

/-- A slot left without its command: the generation count and the last status stand (R191). -/
def EngSlot.vacated {α : Type} (x : EngSlot α) : EngSlot α := ⟨x.gen, none, x.status⟩

/-- An engine slot belongs to a partition's cores, or its clusters for the loader. -/
def Partition.hasEngine (p : Partition) : EngineRef → Bool
  | .copy core _ => p.hasCore core
  | .cins core _ => p.hasCore core
  | .wload cluster _ => p.clusters.getLsbD cluster

/-- A finished record cannot leave its unit: the ring of its consumer is full, and its cohorts are of the partition itself (R277). -/
def State.ringFull (s : State) (j : Job) : Bool :=
  match s.routeTo j.call with | some x => decide (x.ringcap ≤ x.used) | none => false

/-- The coprocessor records in progress in a cluster have finished, but for what only the partition's own groups can move on (R225): a
turn held back by a section or by a token that no record carries yet, a record whose ring is full. -/
def State.recordsSettled (s : State) (n : Nat) : Bool :=
  let c := s.cluster n
  (c.jobs.all fun j => decide (0 < j.left) || s.ringFull j) &&
    (c.turns.zipIdx.all fun e => e.1.body.job.isNone || (e.1.began.isNone && !c.mayBegin e.2 e.1))

/-- The groups of a partition can be saved now (R225): no Collection Engine command of theirs runs, no copy command of theirs is inside a
chunk that can go on, and no coprocessor record of theirs that can go on is in progress. -/
def State.settled (s : State) (p : Partition) : Bool :=
  (s.copySlots.all fun e => match e.2.cmd with | some c => c.base.part != p.n || c.base.early.isEmpty || c.base.paused | none => true) &&
  (s.cinsSlots.all fun e => match e.2.cmd with | some c => c.base.part != p.n || c.base.result.isSome | none => true) &&
  ((List.range 48).all fun n => !p.clusters.getLsbD n || s.recordsSettled n)

/-- The slots of some indexes that hold a command. -/
def inFlight {α : Type} (q : Nat → Bool) (m : SMap (EngSlot α)) : SMap (EngSlot α) := m.filter fun e => q e.1 && e.2.cmd.isSome

/-- What is saved of a partition's cores and clusters: of the engine slots those that hold a command. The Stage share stays where it is,
with its presence bits. -/
def State.shadowOf (s : State) (p : Partition) : Shadow :=
  { copySlots := inFlight (fun k => p.hasCore (k / 64)) s.copySlots
    wloadSlots := inFlight (fun k => p.clusters.getLsbD (k / 32)) s.wloadSlots
    cinsSlots := inFlight (fun k => p.hasCore (k / 32)) s.cinsSlots
    lost := []
    compand := SMap.keep (fun k => p.hasCore (k / 136)) s.compand
    tileCfg := SMap.keep (fun k => p.hasCore (k / 64)) s.tileCfg
    tiles := SMap.keep (fun k => p.hasCore (k / 262144)) s.tiles
    clusters := ((List.range 48).filter fun n => p.clusters.getLsbD n).map fun n => (n, s.clusters[n]?.getD Cluster.idle) }

/-- The engine slots of a partition's cores, their commands taken. -/
def vacate {α : Type} [DecidableEq α] (q : Nat → Bool) (m : SMap (EngSlot α)) : SMap (EngSlot α) :=
  m.map fun e => if q e.1 then (e.1, e.2.vacated) else e

/-- The cores and clusters of a partition without what is saved. -/
def State.withoutShadow (s : State) (p : Partition) : State :=
  { s with
    copySlots := vacate (fun k => p.hasCore (k / 64)) s.copySlots
    wloadSlots := vacate (fun k => p.clusters.getLsbD (k / 32)) s.wloadSlots
    cinsSlots := vacate (fun k => p.hasCore (k / 32)) s.cinsSlots
    compand := SMap.keep (fun k => !p.hasCore (k / 136)) s.compand
    tileCfg := SMap.keep (fun k => !p.hasCore (k / 64)) s.tileCfg
    tiles := SMap.keep (fun k => !p.hasCore (k / 262144)) s.tiles
    clusters := Vector.ofFn fun n => if p.clusters.getLsbD n.val then Cluster.idle else s.clusters[n] }

/-- Replace a partition's record. -/
def State.modPart (s : State) (n : Nat) (f : Partition → Partition) : State :=
  { s with parts := s.parts.map fun p => if p.n = n then f p else p }

/-- Perform the late stores of some running groups, and write what their store streams hold (R166, R225). -/
def State.flushGroups (s : State) (q : Group → Bool) : State :=
  ((s.groups.filter q).map (·.key)).foldl (fun s key =>
    match s.group? key with
    | none => s
    | some gr =>
      let q := s.performAll gr
      let r := q.1.flushPorts q.2
      r.1.modGroup key fun _ => r.2) s

/-- The groups of a partition leave their cores (R225, R226). -/
def State.saveGroups (s : State) (part : Nat) : State :=
  let gs := s.groups.filter fun gr => gr.part == part
  { s with
    saved := s.saved ++ gs.map fun gr => s.iterSpilled (gr.saved s.now s.cycle)
    cur := if s.cur.live && s.cur.part == part then Group.idle else s.cur
    others := s.others.filter fun gr => gr.part != part
    meets := s.meets.filter fun m => gs.all fun gr => gr.key != m.grp }

/-- The die of a core (R9). -/
def dieOf (core : Nat) : Nat := core / 48

/-- The dies that a partition has clusters on. -/
def Partition.dies (p : Partition) : List Nat := (List.range 4).filter fun d => (List.range 12).any fun k => p.clusters.getLsbD (12 * d + k)

/-- What a group's pre-emption writes into rings of its region's memory (R225, R226): the block image of each open iterator that buffers one,
and its unread return records. -/
def State.spillGroup (s : State) (gr : Group) : State :=
  let s1 := (List.range 8).foldl (fun s i =>
    match gr.imageRing i with
    | some ia => s.ringWrite gr.part ia (leBytes 256 (gr.iters[i]?.getD Iter.closed).image)
    | none => s) s
  s1.ringStore gr.part (placeRing gr.ranges (2 ^ 85 + gr.key)) 32 0
    (gr.returns.map fun r => r.words.flatMap fun w => leBytes 4 w.toNat)

/-- What a partition's pre-emption writes into rings outside the quota (R225, R226): its groups' and its queued call records. -/
def State.spillPart (s : State) (p : Partition) : State :=
  let s1 := (s.groups.filter fun gr => gr.part == p.n).foldl State.spillGroup s
  ((List.range 48).filter fun n => p.clusters.getLsbD n).foldl (fun s n =>
    s.spillCalls n ((s.cluster n).queues.toList.flatten.filter fun c => c.part == p.n)) s1

/-- The shadow store of each die of a partition takes its state, or is left by it (R22, R227); what the store held before goes to HBM. -/
def State.setStore (s : State) (p : Partition) (n : Option Nat) : State :=
  { s with shadowStore := p.dies.foldl (fun m d => SMap.set none m d n) s.shadowStore }

/-- Pre-empt a partition (R225, R226): every group stops at its next instruction boundary, which in the model is between two
steps; store streams write what was pushed; then the groups, their cores' engines and their clusters' queues are saved. While a
page holds a pushed element or an iterator's image back, or an engine's command still runs to completion, the partition is not yet halted. -/
def State.preempt (s : State) (part : Nat) : State :=
  match s.part? part with
  | none => s
  | some p =>
    if p.halted then s
    else if !s.settled p then s
    else
      let s1 := s.flushGroups fun gr => gr.part == part
      let gs := s1.groups.filter fun gr => gr.part == part
      let pages := gs.flatMap fun gr => s1.imagePages gr false
      if gs.any Group.pushesLeft then s1
      else if !pages.isEmpty then pages.foldl (fun s ia => s.reportFault part ia) s1
      else
        let s2 := s1.spillPart p
        (((s2.withoutShadow p).saveGroups part).setStore p (some part)).modPart part fun p =>
          { p with halted := true, shadow := s2.shadowOf p }

/-- Carillon stops, drains and saves a partition (R225). -/
def execPreempt (part : Nat) (s : State) : Host.Outcome State Fault Refusal := .next (s.preempt part)

/-- Saved commands return to their slots: a slot that has taken others since keeps its count and its last status (R191). -/
def recommand {α : Type} [DecidableEq α] (m es : SMap (EngSlot α)) : SMap (EngSlot α) :=
  es.foldl (fun m e => SMap.set EngSlot.idle m e.1 { SMap.get EngSlot.idle m e.1 with cmd := e.2.cmd }) m

/-- What was saved returns to a partition's cores and clusters (R227), whatever they have held since. -/
def State.withShadow (s : State) (p : Partition) (h : Shadow) : State :=
  { s with
    copySlots := recommand s.copySlots h.copySlots
    wloadSlots := recommand s.wloadSlots h.wloadSlots
    cinsSlots := recommand s.cinsSlots h.cinsSlots
    compand := SMap.putAll none (SMap.keep (fun k => !p.hasCore (k / 136)) s.compand) h.compand
    tileCfg := SMap.putAll 0 (SMap.keep (fun k => !p.hasCore (k / 64)) s.tileCfg) (SMap.keep (fun k => p.hasCore (k / 64)) h.tileCfg)
    tiles := SMap.putAll 0 (SMap.keep (fun k => !p.hasCore (k / 262144)) s.tiles) (SMap.keep (fun k => p.hasCore (k / 262144)) h.tiles)
    clusters := h.clusters.foldl (fun v e => v.setIfInBounds e.1 e.2) s.clusters }

/-- A cluster holds nothing of any group's: no call record, no job, no turn. -/
def Cluster.quiet (c : Cluster) : Bool :=
  c.queues.toList.all (·.isEmpty) && c.rings.toList.all (·.isEmpty) && c.jobs.isEmpty && c.turns.isEmpty

/-- What is still saved once clusters have left the partition (R64, R314): nothing of theirs but what its groups need to go on. -/
def Shadow.without (h : Shadow) (gone : BitVec 48) : Shadow :=
  { h with
    compand := SMap.keep (fun k => !gone.getLsbD (k / 136 / 4)) h.compand
    clusters := h.clusters.filter fun e => !(gone.getLsbD e.1 && e.2.quiet) }

/-- A Stage share lies in the partition's lines (R21, R161). -/
def Partition.hasShare (p : Partition) (first lines : Nat) : Bool :=
  (List.range 256).all fun m => !(decide (first < (m + 1) * 8192) && decide (m * 8192 < first + lines)) || p.stageMiB.getLsbD m

/-- A halted partition still has the cores, clusters and Stage lines that its saved state returns to. -/
def State.restorable (s : State) (p : Partition) : Bool :=
  (s.saved.all fun gr =>
    gr.part != p.n || (p.hasCore gr.core && !s.fenced.contains (.core, gr.core) && p.hasShare gr.stgFirst gr.stgLines)) &&
  (p.shadow.clusters.all fun e => p.clusters.getLsbD e.1) &&
  (p.shadow.copySlots.all fun e => p.hasCore (e.1 / 64)) && (p.shadow.wloadSlots.all fun e => p.clusters.getLsbD (e.1 / 32)) &&
  (p.shadow.cinsSlots.all fun e => p.hasCore (e.1 / 32))

/-- A group whose saved state an error has struck (R165): the words and predicates it comes back with are not stated (log 38, DESIGN
CHOICE). -/
def Group.struck (gr : Group) (n : Nat) : Group :=
  { gr with
    v := Vector.ofFn fun r => Vector.ofFn fun l => Config.freeWord (n + 64 * r.val + l.val)
    g := Vector.ofFn fun i => Config.freeWord (n + 6144 + i.val)
    p := Vector.ofFn fun i =>
      (Config.freeWord (n + 6176 + 2 * i.val) ++ Config.freeWord (n + 6177 + 2 * i.val)) &&& widthMask gr.width }

/-- Restore a halted partition (R227), once the rings of its groups' iterator images can be read. -/
def State.restore (s : State) (part : Nat) : State :=
  match s.part? part with
  | none => s
  | some p =>
    let pages := (s.saved.filter fun gr => gr.part == part).flatMap fun gr => s.imagePages gr true
    if p.halted && !pages.isEmpty then pages.foldl (fun s ia => s.reportFault part ia) s
    else if p.halted && s.restorable p then
      let back := fun gr : Group =>
        let g1 := s.iterRestored (gr.restored s.now s.cycle)
        if p.shadow.lost.contains (dieOf gr.core) then g1.struck (s.freeCtr + gr.key * 8192) else g1
      let gs := (s.saved.filter fun gr => gr.part == part).map back
      let s1 := (s.withShadow p p.shadow).setStore p none
      State.modPart
        { s1 with freeCtr := if p.shadow.lost.isEmpty then s.freeCtr else s.freeCtr + s.nextKey * 8192, saved := s1.saved.filter (fun gr => gr.part != part), others := s1.others ++ gs } part
        fun p => { p with halted := false, shadow := Shadow.empty }
    else s

/-- Carillon returns saved contexts and resumes engines and streams (R227). -/
def execRestore (part : Nat) (s : State) : Host.Outcome State Fault Refusal := .next (s.restore part)

end Sys2Proof.Machine
end

