-- ==== Sys2Proof/Machine/System.lean ====
section
/-!
DEFINITION. Control registers (R82, R150 to R153), system forms (R154, R155), hints (R99), illegal patterns (R98), fetch faults
(R175), and `glaunch` (R156, R299 to R301).
-/

namespace Sys2Proof.Machine

/-! ### Control registers -/

/-- `wct` (R205): the largest horizon. -/
def Group.wct (gr : Group) : Nat := gr.horizon.toList.foldl Nat.max 0

/-- `rvsp` (R39). -/
def Group.rvsp (gr : Group) : DWord := 0#32 ++ gr.rvcap ++ gr.rvdepth

/-- The value of a control register (R82, R152): `lid` apart, which each lane reads for itself. -/
def State.readCtl (s : State) (n : Nat) : DWord :=
  let gr := s.cur
  match n with
  | 0 => gr.xm
  | 1 => gr.pathq.setWidth 64
  | 2 => gr.rvsb
  | 3 => gr.rvsp
  | 4 => BitVec.ofNat 64 gr.wct
  | 5 => BitVec.ofNat 64 s.now
  | 6 => BitVec.ofNat 64 gr.leader
  | 7 => gr.gid.setWidth 64
  | 8 => gr.cid.setWidth 64
  | 9 => gr.fsr.setWidth 64
  | 10 => gr.mxc.setWidth 64
  | 11 => gr.prio.setWidth 64
  | 12 => (BitVec.ofBool gr.roleNone ++ gr.roleIdx).setWidth 64
  | 13 => gr.trapv.setWidth 64
  | 14 => gr.trapc.setWidth 64
  | 15 => gr.trapa
  | 16 => gr.trapm
  | 17 => gr.path.mask
  | 18 => gr.sect.setWidth 64
  | _ => BitVec.ofNat 64 gr.stgFirst

/-- The group after a control register is written (R151, R217, R296): reserved bits stay zero, a class above the one the group
was given is written as that class, and lanes at and above the width stay off. -/
def Group.writeCtl (gr : Group) (n : Nat) (x : DWord) : Group :=
  match n with
  | 0 => { gr with xm := x &&& widthMask gr.width }
  | 1 => { gr with pathq := x.setWidth 32 &&& 0xFF }
  | 2 => { gr with rvsb := x &&& ~~~15#64 }
  | 9 => { gr with fsr := x.setWidth 32 &&& fsrMask }
  | 10 => { gr with mxc := x.setWidth 32 }
  | 11 => { gr with prio := if gr.prioCap.toNat < (x.extractLsb' 0 2).toNat then gr.prioCap else x.extractLsb' 0 2 }
  | 13 => { gr with trapv := x.setWidth 30 }
  | 14 => { gr with trapc := x.setWidth 32 &&& 0xF003FFFF }
  | 15 => { gr with trapa := x }
  | 16 => { gr with trapm := x &&& widthMask gr.width }
  | 18 => { gr with sect := x.setWidth 32 &&& 0xFFFFF }
  | _ => gr

/-- `mfc d, ctl` (R150). -/
def execMfc (g : BitVec 3) (d : Reg) (ctl : BitVec 7) (s : State) : Host.Outcome State Fault Refusal :=
  .next (uniExec 2 g [] s fun gr =>
    if ctl = 6 ∧ isV d then gr.setV d (widthMask gr.width) (lanesFrom fun l => BitVec.ofNat 32 l)
    else if ctlWide ctl then gr.setUD d (s.readCtl ctl.toNat)
    else gr.setU d (loWord (s.readCtl ctl.toNat)))

/-- The registers a control register's operand names. -/
def ctlRegs (ctl : BitVec 7) (a : Reg) : List Reg := if ctlWide ctl then pairRegs a else [a]

/-- The operand of a control-register write. -/
def Group.ctlOperand (gr : Group) (ctl : BitVec 7) (a : Reg) : DWord :=
  if ctlWide ctl then gr.usrcD a else (gr.usrc a).setWidth 64

/-- `mtc ctl, a` but for `rvsp` (R151). -/
def execMtc (g : BitVec 3) (ctl : BitVec 7) (a : Reg) (s : State) : Host.Outcome State Fault Refusal :=
  .next (uniExec 2 g (ctlRegs ctl a) s fun gr => gr.writeCtl ctl.toNat (gr.ctlOperand ctl a))

/-- The held entries that a higher cap puts into memory (R221): those from the old cap below the new one and below the depth. -/
def Group.released (gr : Group) (cap : Nat) : List (BitVec 128) :=
  let old := gr.rvcap.toNat
  (List.range (min cap gr.rvdepth.toNat - old)).map fun i => SMap.get 0 gr.reserve (old + i)

/-- `mtc rvsp, a` (R39, R151, R221): depth above cap raises RVSTACK-OVF, unless the depth stays and cap is not lowered. -/
def execMtcRvsp (g : BitVec 3) (a : Reg) (s : State) : Host.Outcome State Fault Refusal :=
  .next (uniDo 2 g (pairRegs a) s fun s =>
    let gr := s.cur
    let x := gr.usrcD a
    let cap : BitVec 16 := x.extractLsb' 16 16
    let depth : BitVec 16 := x.extractLsb' 0 16
    let keeps := depth == gr.rvdepth && decide (gr.rvcap.toNat ≤ cap.toNat)
    if cap.toNat < depth.toNat ∧ !keeps then s.stackOverflow 2
    else
      let es := gr.released cap.toNat
      let s1 := s.setCur { gr with rvcap := cap }
      match s1.pushFate gr.rvcap.toNat es with
      | some (f, addr) => s.uniformStop f (BitVec.ofNat 64 addr) 2 false
      | none =>
        let s2 := s1.pushWrite gr.rvcap.toNat es
        (s2.setCur { s2.cur with
          rvdepth := depth
          reserve := SMap.keep (fun k => decide (cap.toNat ≤ k) && decide (k < depth.toNat)) s2.cur.reserve }).retire 2)

/-- `xmset pa` (R153): the bits of the issuing path's lanes only. -/
def execXmset (g pa : BitVec 3) (s : State) : Host.Outcome State Fault Refusal :=
  .next (uniExec 2 g [] s fun gr =>
    { gr with xm := (gr.xm &&& ~~~gr.path.mask) ||| (gr.pred pa &&& gr.path.mask) })

/-! ### Traps, requests, hints, illegal patterns, fetch faults -/

/-- `trap n` (R154). -/
def execTrap (g : BitVec 3) (n7 : BitVec 7) (s : State) : Host.Outcome State Fault Refusal :=
  .next (uniDo 2 g [] s fun s => s.trapPath 17 n7.toNat 0 2 false)

/-- A debug halt in place of a trap (R228): the PC stays at the instruction, and the group resumes after it. -/
def State.debugStop (s : State) (len : Nat) : State :=
  let p := s.cur.path.pc
  (s.retireTo p).setCur { (s.retireTo p).cur with halted := true, resume := some (p + BitVec.ofNat 30 len) }

/-- `brk n` (R154, R228). -/
def execBrk (g : BitVec 3) (n7 : BitVec 7) (s : State) : Host.Outcome State Fault Refusal :=
  .next (uniDo 2 g [] s fun s =>
    if s.debugOn && s.haltBrk then s.debugStop 2 else s.trapPath 16 n7.toNat 0 2 false)

/-- The registers g8 to g15 of a service request (R155). -/
def sysRegs : List Reg := (List.range 8).map fun i => BitVec.ofNat 7 (104 + i)

/-- `sys n` (R155, R311): a request once every observer sees the group's writes; the group waits for the reply. A pushed element that still waits
for its page or for presence is no performed write, and holds no request back, as R155 names the completion times alone (log 36, DESIGN
CHOICE). -/
def execSys (g : BitVec 3) (n7 : BitVec 7) (s : State) : Host.Outcome State Fault Refusal :=
  .next (uniDo 2 g sysRegs s fun s =>
    if !s.reached s.cur.horizon allObs then s.hold .order
    else
      let gr := s.cur
      let args : Vector Word 16 := Vector.ofFn fun i => if i.val < 8 then gr.greg (BitVec.ofNat 7 (104 + i.val)) else 0
      let s1 := s.retire 2
      { s1 with
        cur := { s1.cur with wait := .sys s.nextKey }, nextKey := s.nextKey + 1
        requests := s1.requests ++ [⟨s.nextKey, .sys gr.key, n7.toNat, gr.part, 0, true, false, args, none⟩] })

/-- The length of a hint (R99). -/
def hintLen (hx : Option (BitVec 32)) : Nat := if hx.isSome then 2 else 1

/-- `nop` and every other hint (R99). -/
def execNop (_g : BitVec 3) (_d _a _b : BitVec 7) (hx : Option (BitVec 32)) (s : State) :
    Host.Outcome State Fault Refusal :=
  .next (s.retire (hintLen hx))

/-- `prefc` (R99): a code-fetch hint, which changes timing only. -/
def execPrefc (_g : BitVec 3) (_d _a : BitVec 7) (hx : Option (BitVec 32)) (s : State) :
    Host.Outcome State Fault Refusal :=
  .next (s.retire (hintLen hx))

/-- The length of a pattern in words (R89). -/
def wordLen (w0 : BitVec 32) : Nat := if w0.getLsbD 30 then 2 else 1

/-- An instruction's trap ILL (R98, R218): the words in trapa; a uniform-set pattern traps the path whatever its guard, a
lane-set pattern the effective mask, and with none it has no effect. -/
def State.illegal (s : State) (w0 w1 : BitVec 32) : State :=
  let len := wordLen w0
  let addr := pair w0 (if w0.getLsbD 30 then w1 else 0)
  if w0.getLsbD 31 then s.trapPath 1 0 addr len false
  else if s.cur.emask = 0 then s.retire len
  else s.takeTrap ⟨1, 0, addr, s.cur.emask, len, false⟩

/-- An ILL pattern (R98). -/
def execIllegalPattern (w0 w1 : BitVec 32) (s : State) : Host.Outcome State Fault Refusal := .next (s.illegal w0 w1)

/-- A fetch meets PERM or a fatal PAGE (R100, R175): the path traps at the fetched PC without issuing, and replays. -/
def execFetchFault (grp : Nat) (fatal second : Bool) (addr : DWord) (s : State) : Host.Outcome State Fault Refusal :=
  .next (
    let s1 := s.focus grp
    if s1.cur.live && s1.cur.key == grp && s1.cur.issuable then
      s1.enterTrap ⟨if fatal then 5 else 4, 0, addr, s1.cur.path.mask, if second then 2 else 1, true⟩
    else s)

/-! ### Submitting a launch -/

/-- What a read of a precondition's word finds. -/
inductive WordRead where
  | value (x : Nat)
  | wait (ia : Option Nat)
  | bad
  deriving DecidableEq, Repr

/-- Read a precondition's word at its owning point: paged memory of the partition only (R159, R300). -/
def State.readWord (s : State) (part ia : Nat) : WordRead :=
  if ia % 8 ≠ 0 then .bad
  else
    match s.classify part ia with
    | .ok (.paged ia) =>
      match s.fate part (.paged ia) false 8 with
      | .go d => .value (leNat (s.readOwned part d 8))
      | .replay p => .wait (some p)
      | .absent => .wait none
      | .trap _ => .bad
    | _ => .bad

/-- The relation of a precondition (R300). -/
def relHolds (rel : Nat) (word value : Nat) : Bool :=
  match rel with
  | 0 => true
  | 1 => decide (value ≤ word)
  | 2 => decide (word = value)
  | _ => decide (word ≠ value)

/-- The launch's precondition word. -/
def Launch.read (l : Launch) (s : State) : WordRead := s.readWord l.part (l.precond.extractLsb' 128 52).toNat

/-- A launch after a read of its precondition's word (R300): the first read that finds the relation true makes it eligible. -/
def Launch.afterRead (l : Launch) (w : WordRead) (now : Nat) : Launch :=
  let holds :=
    match w with
    | .value x => relHolds (l.precond.extractLsb' 0 2).toNat x (l.precond.extractLsb' 64 64).toNat
    | _ => false
  { l with eligible := l.eligible || holds, lastRead := now }

/-- The page that a read of a precondition's word waits for is reported (R170, R300). -/
def State.reportWord (s : State) (part : Nat) (w : WordRead) : State :=
  match w with | .wait (some ia) => s.reportFault part ia | _ => s

/-- The entries of a partition's launch queue (R299). -/
def State.queueLength (s : State) (part : Nat) : Nat := (s.launches.filter fun l => l.part == part && l.queued).length

/-- A launch entry is accepted into its partition's queue with a precondition, whose word is read at once, or finds no free entry (R299,
R300). -/
def State.submit (s : State) (part : Nat) (entry : BitVec 1024) (addr : DWord) (pre : BitVec 256) : Option State :=
  if 64 ≤ s.queueLength part then none
  else
    let l : Launch :=
      { key := s.nextKey, part := part, entry := entry, addr := addr, precond := pre
        eligible := decide (pre.extractLsb' 0 2 = 0), nextCid := 0, skipped := none, reserved := false, cls := 0, lastRead := s.now
        queued := true, consumer := none }
    let s1 := { s with nextKey := s.nextKey + 1 }
    if l.eligible then some { s1 with launches := s1.launches ++ [l] }
    else
      let w := l.read s
      some ({ s1 with launches := s1.launches ++ [l.afterRead w s.now] }.reportWord part w)

/-- `glaunch cq, ga` (R156): the entry is a 128-byte plain load of the group; a misaligned one raises ALIGN (R31, R177). -/
def execGlaunch (g cq : BitVec 3) (a : Reg) (s : State) : Host.Outcome State Fault Refusal :=
  .next (uniDo 1 g (pairRegs a) s fun s =>
    let va := (s.cur.usrcD a).toNat
    if va % 128 ≠ 0 then s.trapPath 3 0 (BitVec.ofNat 64 va) 1 false
    else
      match s.curFate va true false false none 128 with
      | .go d =>
        let r := s.groupRead d 128
        let s1 := r.2
        match s1.submit s1.cur.part (BitVec.ofNat 1024 (leNat r.1)) (BitVec.ofNat 64 (iaAt s.cur.ranges va)) 0 with
        | some s2 => (s2.setCur (s2.cur.setC cq true)).retire 1
        | none => (s1.setCur (s1.cur.setC cq false)).retire 1
      | f => s.uniformStop f (BitVec.ofNat 64 va) 1 false)

end Sys2Proof.Machine
end

