-- ==== Sys2Proof/Machine/UniMemory.lean ====
section
/-!
DEFINITION. Uniform loads, stores, atomics and `fence` (R176, R178 to R180, R184): one access for the group.
-/

namespace Sys2Proof.Machine

/-- A uniform access (R178): it waits for presence or for its order; the whole group parks or traps. One that is performed but for its
watchpoint's trap has only that left (R218, R225). -/
def State.uniAccess (s : State) (len n : Nat) (order : Order) (obs : BitVec 6) (f : Fate) (a : Int) (act : Dest → State → State) :
    State :=
  if s.cur.unfinished = some 0 then s.finishAccess len true
  else match f with
  | .go d => if s.orderWaits order obs [(d, n)] then s.hold .order else (act d s).finishAccess len true
  | _ => s.uniformStop f (BitVec.ofInt 64 a) len false

/-- The shape of a uniform load (R176, R178): what it does at its destination is `act`. -/
def gldExec (g : BitVec 3) (mem : MemAddr) (obs : BitVec 6) (order : Order) (stage : Bool) (size : Size) (off : BitVec 20)
    (act : Dest → State → State) (s : State) : State :=
  uniDo 2 g (memRegs mem) s fun s =>
    let a := s.cur.addrOf mem off.toInt stage s.cur.leader
    let n := size.bytes
    s.uniAccess 2 n order obs (s.accessFate stage a n true false none) a fun x s =>
      (act x s).noteWatch stage n true false [(s.cur.leader, a)]

/-- A uniform load puts what it reads into the registers from d. -/
def State.loadUni (order : Order) (size : Size) (d : Reg) (x : Dest) (s : State) : State :=
  let r := s.readFor order x size.bytes
  r.2.setCur (r.2.cur.setWords d (loadWords size r.1))

/-- `gld d, [mem]` (R176, R178). -/
def execGld (g : BitVec 3) (d : Reg) (mem : MemAddr) (obs : BitVec 6) (order : Order) (stage : Bool) (size : Size)
    (off : BitVec 20) (s : State) : Host.Outcome State Fault Refusal :=
  .next (gldExec g mem obs order stage size off (State.loadUni order size d) s)

/-- The shape of a uniform store (R176, R178): what it does with its bytes is `act`. -/
def gstExec (g : BitVec 3) (d : Reg) (mem : MemAddr) (obs : BitVec 6) (order : Order) (stage : Bool) (size : Size) (off : BitVec 20)
    (act : List Byte → Dest → State → State) (s : State) : State :=
  uniDo 2 g (memRegs mem ++ blockRegs d (sizeRegs size)) s fun s =>
    let a := s.cur.addrOf mem off.toInt stage s.cur.leader
    let n := size.bytes
    let bs := storeBytes size ((blockRegs d (sizeRegs size)).map s.cur.usrc)
    s.uniAccess 2 n order obs (s.accessFate stage a n false true none) a fun x s =>
      (act bs x s).noteWatch stage n false true [(s.cur.leader, a)]

/-- `gst d, [mem]` (R176, R178). -/
def execGst (g : BitVec 3) (d : Reg) (mem : MemAddr) (obs : BitVec 6) (order : Order) (stage : Bool) (size : Size)
    (off : BitVec 20) (s : State) : Host.Outcome State Fault Refusal :=
  .next (gstExec g d mem obs order stage size off (fun bs x s => s.groupWrite x bs) s)

/-- The shape of a uniform atomic (R178 to R180): what it does with its operands is `act`. -/
def gatomExec (g : BitVec 3) (d : Reg) (mem : MemAddr) (obs : BitVec 6) (order : Order) (stage dbl : Bool) (aop : AtomOp) (off16 : BitVec 16)
    (act : Nat × Nat → Dest → State → State) (s : State) : State :=
  uniDo 2 g (memRegs mem ++ atomRegs aop dbl d) s fun s =>
    let a := s.cur.addrOf mem off16.toInt stage s.cur.leader
    let n := if dbl then 8 else 4
    let v := atomOperands dbl ((atomRegs aop dbl d).map s.cur.usrc)
    s.uniAccess 2 n order obs (s.accessFate stage a n true true (some aop)) a fun x s =>
      (act v x s).noteWatch stage n true true [(s.cur.leader, a)]

/-- A uniform atomic at its destination: the old value goes into d, the result to the location, indivisibly. -/
def State.atomUni (aop : AtomOp) (dbl : Bool) (d : Reg) (v : Nat × Nat) (x : Dest) (s : State) : State :=
  let n := if dbl then 8 else 4
  let bs := s.readOwned s.cur.part x n
  let s1 := s.groupWrite x (leBytes n (atomResult aop (8 * n) (leNat bs) v.1 v.2))
  s1.setCur (s1.cur.setWords d (loadWords (if dbl then .d else .w) bs))

/-- `gatom.op d, [mem]` (R178 to R180). -/
def execGatom (g : BitVec 3) (d : Reg) (mem : MemAddr) (obs : BitVec 6) (order : Order) (stage dbl : Bool) (aop : AtomOp)
    (off16 : BitVec 16) (s : State) : Host.Outcome State Fault Refusal :=
  .next (gatomExec g d mem obs order stage dbl aop off16 (State.atomUni aop dbl d) s)

/-- `fence.oM` (R184): waits until earlier pushes are performed and now has reached the horizon of every named observer. -/
def execFence (g : BitVec 3) (obs : BitVec 6) (s : State) : Host.Outcome State Fault Refusal :=
  .next (uniDo 2 g [] s fun s => if s.releasable obs then s.retire 2 else s.hold .order)

end Sys2Proof.Machine
end

