-- ==== Sys2Proof/Machine/Tiles.lean ====
section
/-!
DEFINITION. Tiles (R231 to R233) and the forms that configure, fill, store, convert and move them (R236 to R239), and companding
tables (R62 to R64, R240).
-/

namespace Sys2Proof.Machine

/-! ### Tiles -/

/-- A tile configuration (R231). -/
structure TileCfg where
  fmt : Fmt
  rows : Nat
  cols : Nat
  deriving DecidableEq, Repr

/-- The configuration a word holds; bits 31 to 20 are reserved. -/
def TileCfg.ofWord (w : Word) : TileCfg :=
  ⟨Fmt.ofCode (w.extractLsb' 0 4), (w.extractLsb' 4 6).toNat, (w.extractLsb' 10 10).toNat⟩

/-- The word of a configuration. -/
def TileCfg.toWord (c : TileCfg) : Word := 0#12 ++ BitVec.ofNat 10 c.cols ++ BitVec.ofNat 6 c.rows ++ c.fmt.code

/-- Data bytes of a row. -/
def TileCfg.rowBytes (c : TileCfg) : Nat := (c.cols * c.fmt.width + 7) / 8
/-- The row pitch P (R232). -/
def TileCfg.pitch (c : TileCfg) : Nat := (c.rowBytes + 15) / 16 * 16
/-- A configuration is valid (R232). -/
def TileCfg.ok (c : TileCfg) : Bool :=
  decide (c.fmt.code.toNat ≤ 10) && decide (c.rows ≤ 32) && decide (c.cols ≤ 512) && decide (c.rows * c.pitch ≤ 4096)
/-- A configuration word is valid: its format code too (R232). -/
def cfgWordOk (w : Word) : Bool := decide ((w.extractLsb' 0 4).toNat ≤ 10) && (TileCfg.ofWord w).ok

/-- The physical tile of a group's tile (R231), as an index over all cores. -/
def Group.tile (gr : Group) (n : Nat) : Nat := gr.core * 64 + gr.tileBase + n

/-- A tile's configuration. -/
def State.tileCfgOf (s : State) (t : Nat) : TileCfg := TileCfg.ofWord (SMap.get 0 s.tileCfg t)

/-- Bytes of a tile's data. -/
def State.tileBytes (s : State) (t off n : Nat) : List Byte := readBytes s.tiles (t * 4096 + off) n

/-- Replace a tile's data: the bytes given, and zeros after them. -/
def State.setTile (s : State) (t : Nat) (w : Word) (bs : List Byte) : State :=
  { s with
    tileCfg := SMap.set 0 s.tileCfg t w
    tiles := writeBytes (s.tiles.filter fun e => decide (e.1 < t * 4096) || decide ((t + 1) * 4096 ≤ e.1)) (t * 4096) bs }

/-- Overwrite some bytes of a tile. -/
def State.pokeTile (s : State) (t off : Nat) (bs : List Byte) : State :=
  { s with tiles := writeBytes s.tiles (t * 4096 + off) bs }

/-- The code of element (r, k) of a tile under a configuration (R50, R232). -/
def State.tileElem (s : State) (t : Nat) (c : TileCfg) (r k : Nat) : Nat :=
  let w := c.fmt.width
  let bit := k * w
  leNat (s.tileBytes t (r * c.pitch + bit / 8) ((w + 7) / 8)) / 2 ^ (bit % 8) % 2 ^ w

/-- Write the code of element (r, k) of a tile. -/
def State.setTileElem (s : State) (t : Nat) (c : TileCfg) (r k code : Nat) : State :=
  let w := c.fmt.width
  let bit := k * w
  let off := r * c.pitch + bit / 8
  let n := (w + 7) / 8
  let old := leNat (s.tileBytes t off n)
  let lo := 2 ^ (bit % 8)
  s.pokeTile t off (leBytes n (old - old / lo % 2 ^ w * lo + code % 2 ^ w * lo))

/-- Pack a row of codes (R50): the row's data bytes. -/
def packRow (w : Nat) (codes : List Nat) : List Byte :=
  leBytes ((codes.length * w + 7) / 8) ((codes.zip (List.range codes.length)).foldl (fun x e => x + e.1 % 2 ^ w * 2 ^ (e.2 * w)) 0)

/-- The data of a tile from its codes, row by row. -/
def packTile (c : TileCfg) (code : Nat → Nat → Nat) : List Byte :=
  (List.range c.rows).flatMap fun r =>
    let row := packRow c.fmt.width ((List.range c.cols).map fun k => code r k)
    row ++ List.replicate (c.pitch - row.length) 0

/-! ### Issue -/

/-- An instruction's own words raise ILL (R98, R231). -/
def State.illegalInstr (s : State) (i : Instr) : State := s.illegal (loWord i.trapWords) (hiWord i.trapWords)

/-- The tile that a weight-stream load's next record writes (R249). -/
def WloadCmd.nextTile (c : WloadCmd) : Nat := c.core * 64 + c.tileBase + (c.regs.getD 2 0).toNat + c.base.chunk

/-- A weight-stream load has still to write a tile. -/
def WloadCmd.willWrite (c : WloadCmd) (t : Nat) : Bool :=
  c.base.result.isNone && decide (c.nextTile ≤ t) &&
    decide (t < c.core * 64 + c.tileBase + (c.regs.getD 2 0).toNat + (c.regs.getD 3 0).toNat)

/-- A tile of the group in focus that a weight-stream load of its has still to write (R251). -/
def State.tileAwaited (s : State) (t : Nat) : Bool :=
  s.wloadSlots.any fun e =>
    match e.2.cmd with
    | none => false
    | some c => c.base.grp == s.cur.key && c.willWrite t

/-- A tile or matrix instruction (R98, R231, R251): a tile operand at or above the allotment is ILL whatever the guard; it waits
for pending registers and for tiles that a weight-stream load has still to write. -/
def tileDo (i : Instr) (len : Nat) (g : BitVec 3) (tiles : List Nat) (srcs : List Reg) (s : State) (f : State → State) : State :=
  if tiles.any fun t => decide (s.cur.tileCount ≤ t) then s.illegalInstr i
  else
    uniDo len g srcs s fun s =>
      if tiles.any fun t => s.tileAwaited (s.cur.tile t) then s.hold .tile else f s

/-- MATRIX-BOUND (R218): the path, replay. -/
def State.matrixBound (s : State) (len : Nat) : State := s.trapPath 7 0 0 len true

/-! ### Configuring and moving (R236 to R239) -/

/-- Configure a tile (R236). -/
def State.configure (s : State) (t : Nat) (w : Word) (len : Nat) : State :=
  if cfgWordOk w then (s.setTile (s.cur.tile t) (w &&& 0xFFFFF) []).retire len else s.matrixBound len

/-- `tcfg tN, b` (R236). -/
def execTcfg (g : BitVec 3) (t : BitVec 6) (b : Reg) (s : State) : Host.Outcome State Fault Refusal :=
  .next (tileDo (.tcfg g t b) 1 g [t.toNat] [b] s fun s => s.configure t.toNat (s.cur.usrc b) 1)

/-- `tcfg tN, word` (R236). -/
def execTcfgImm (g : BitVec 3) (t : BitVec 6) (w : BitVec 32) (s : State) : Host.Outcome State Fault Refusal :=
  .next (tileDo (.tcfgImm g t w) 2 g [t.toNat] [] s fun s => s.configure t.toNat w 2)

/-- `tzero tN` (R236). -/
def execTzero (g : BitVec 3) (t : BitVec 6) (s : State) : Host.Outcome State Fault Refusal :=
  .next (tileDo (.tzero g t) 1 g [t.toNat] [] s fun s =>
    (s.setTile (s.cur.tile t.toNat) (SMap.get 0 s.tileCfg (s.cur.tile t.toNat)) []).retire 1)

/-- The 16-byte units of the rows of a tile in memory (R237): tile offset, address or Stage offset, bytes. -/
def rowUnits (c : TileCfg) (base : Int) (stride : Int) (stage : Bool) : List (Nat × Int × Nat) :=
  (List.range c.rows).flatMap fun r : Nat => (List.range ((c.rowBytes + 15) / 16)).map fun q : Nat =>
    let a : Int := base + (r : Int) * stride + (16 * q : Nat)
    (r * c.pitch + 16 * q, (if stage then a else a % 2 ^ 64), min 16 (c.rowBytes - 16 * q))

/-- The fate of an access whose alignment has been checked. -/
def State.unitFate (s : State) (stage : Bool) (a : Int) (n : Nat) (rd wr : Bool) : Fate :=
  if stage then s.curShare a n else s.curFate a.toNat rd wr false none n

/-- A tile access to memory (R237): alignment whatever the configuration; then the units, for the group as a whole. -/
def tileMem (i : Instr) (g : BitVec 3) (t : BitVec 6) (k : BitVec 4) (b : Reg) (obs : BitVec 6) (order : Order) (stage : Bool)
    (off : BitVec 20) (wr : Bool) (s : State) (f : TileCfg → List (Nat × Int × Nat) → List Dest → State → State) : State :=
  tileDo i 2 g [t.toNat] (memRegs (.base k) ++ [b]) s fun s =>
    let gr := s.cur
    let base := gr.addrOf (.base k) 0 stage 0
    let start := gr.addrOf (.base k) off.toInt stage 0
    let stride := (gr.usrc b).toInt
    let c := s.tileCfgOf (gr.tile t.toNat)
    if base % 16 ≠ 0 ∨ off.toInt % 16 ≠ 0 ∨ stride % 16 ≠ 0 then s.trapPath 3 0 (BitVec.ofInt 64 start) 2 false
    else if c.rows = 0 ∨ c.cols = 0 then s.retire 2
    else
      let us := rowUnits c start stride stage
      let fs := us.map fun u => (s.unitFate stage u.2.1 u.2.2 (!wr) wr, u.2.1)
      match groupFate fs with
      | some (fate, a) => s.uniformStop fate (BitVec.ofInt 64 a) 2 false
      | none =>
        let ds := fs.map fun x => x.1.dest
        if s.orderWaits order obs (ds.zip (us.map (·.2.2))) then s.hold .order else (f c us ds s).retire 2

/-- `tld tN, [gk + off], gs` (R237): the tile's rows, with the padding of each row zero. -/
def execTld (g : BitVec 3) (t : BitVec 6) (k : BitVec 4) (b : Reg) (obs : BitVec 6) (order : Order) (stage : Bool)
    (off : BitVec 20) (s : State) : Host.Outcome State Fault Refusal :=
  .next (tileMem (.tld g t k b obs order stage off) g t k b obs order stage off false s fun c us ds s =>
    let key := s.cur.tile t.toNat
    let s1 := (List.range c.rows).foldl (fun s r => s.pokeTile key (r * c.pitch) (List.replicate c.pitch 0)) s
    (us.zip ds).foldl (fun a u =>
      let r := a.readFor order u.2 u.1.2.2
      r.2.pokeTile key u.1.1 r.1) s1)

/-- `tsv tN, [gk + off], gs` (R237): only data bytes are written. -/
def execTsv (g : BitVec 3) (t : BitVec 6) (k : BitVec 4) (b : Reg) (obs : BitVec 6) (order : Order) (stage : Bool)
    (off : BitVec 20) (s : State) : Host.Outcome State Fault Refusal :=
  .next (tileMem (.tsv g t k b obs order stage off) g t k b obs order stage off true s fun _ us ds s =>
    let key := s.cur.tile t.toNat
    (us.zip ds).foldl (fun a u => a.groupWrite u.2 (s.tileBytes key u.1.1 u.1.2.2)) s)

/-- `tcvt.fmt tD, tA` (R126, R238). -/
def execTcvt (g : BitVec 3) (t ta : BitVec 6) (dst : Fmt) (rnd : Rnd) (s : State) : Host.Outcome State Fault Refusal :=
  .next (tileDo (.tcvt g t ta dst rnd) 2 g [t.toNat, ta.toNat] [] s fun s =>
    let ka := s.cur.tile ta.toNat
    let a := s.tileCfgOf ka
    let d : TileCfg := ⟨dst, a.rows, a.cols⟩
    if !d.ok then s.matrixBound 2
    else
      let conv := fun r k => cvtOp dst a.fmt rnd false (a.fmt.laneForm (s.tileElem ka a r k))
      let fl := (List.range a.rows).foldl (fun f r => (List.range a.cols).foldl (fun f k => f ||| (conv r k).2) f) 0
      let s1 := s.setTile (s.cur.tile t.toNat) d.toWord (packTile d fun r k => (conv r k).1.toNat)
      (s1.setCur (s1.cur.addFlags fl)).retire 2)

/-- The row and first column that `tmv` names, none where it is outside the tile (R239). -/
def tmvPlace (c : TileCfg) (w : Word) : Option (Nat × Nat) :=
  let r := (w.extractLsb' 0 6).toNat
  let c0 := (w.extractLsb' 16 10).toNat
  if w &&& 0xFC00FFC0 ≠ 0 ∨ c.rows ≤ r ∨ c.cols ≤ c0 then none else some (r, c0)

/-- The lane form of a tile's element; the t2 code 0b10 moves as it stands (R51, R239). -/
def tileLane (f : Fmt) (code : Nat) : Word := if f = .t2 ∧ code = 2 then 2 else loWord (f.laneForm code)

/-- `tmv.v vd, tA, gb` (R239). -/
def execTmvV (g : BitVec 3) (d : Reg) (ta : BitVec 6) (b : Reg) (s : State) : Host.Outcome State Fault Refusal :=
  .next (tileDo (.tmvV g d ta b) 2 g [ta.toNat] [b] s fun s =>
    let gr := s.cur
    let c := s.tileCfgOf (gr.tile ta.toNat)
    match tmvPlace c (gr.usrc b) with
    | none => s.matrixBound 2
    | some (r, c0) =>
      (s.setCur (gr.setV d gr.emask (lanesFrom fun l =>
        if c0 + l < c.cols then tileLane c.fmt (s.tileElem (gr.tile ta.toNat) c r (c0 + l)) else 0))).retire 2)

/-- `tmv.t tD, va, gb` (R239). -/
def execTmvT (g : BitVec 3) (t : BitVec 6) (a b : Reg) (s : State) : Host.Outcome State Fault Refusal :=
  .next (tileDo (.tmvT g t a b) 2 g [t.toNat] [a, b] s fun s =>
    let gr := s.cur
    let c := s.tileCfgOf (gr.tile t.toNat)
    match tmvPlace c (gr.usrc b) with
    | none => s.matrixBound 2
    | some (r, c0) =>
      ((lanesOf gr.emask).foldl (fun s l =>
        if c0 + l < c.cols then s.setTileElem (gr.tile t.toNat) c r (c0 + l) (lane (gr.src a) l).toNat else s) s).retire 2)

/-! ### Companding tables (R62 to R64, R240) -/

/-- Breakpoint k of the default curve: k/8 − 1 (R64). -/
def defaultBreak (k : Nat) : Word := BitVec.ofNat 32 (ieeeF32.round .rne (FNum.ofQ ⟨(k : Int) - 8, 8⟩)).1

/-- Breakpoint k of table n of a core. -/
def State.breakCode (s : State) (core n k : Nat) : Word :=
  (SMap.get none s.compand ((core * 8 + n) * 17 + k)).getD (defaultBreak k)

/-- The 17 breakpoints of table n of a core, as an instruction reads them at its issue (R64). -/
def State.curve (s : State) (core n : Nat) : List Word := (List.range 17).map (s.breakCode core n)

/-- Breakpoint k of a curve as a real. -/
def breakpoint (ws : List Word) (k : Nat) : Q := (ieeeF32.decode (ws.getD k 0).toNat).toQ

/-- An image keeps to R62: finite, strictly rising breakpoints, and a zero last word (R64). -/
def compandOk (ws : List Nat) : Bool :=
  decide (ws.getD 17 0 = 0) &&
  ((List.range 17).all fun k => match ieeeF32.decode (ws.getD k 0) with | .fin _ _ => true | _ => false) &&
  ((List.range 16).all fun k => decide (FNum.cmp (ieeeF32.decode (ws.getD k 0)) (ieeeF32.decode (ws.getD (k + 1) 0)) = -1))

/-- `ctld n, ga` (R240). -/
def execCtld (g n : BitVec 3) (a : Reg) (s : State) : Host.Outcome State Fault Refusal :=
  .next (uniDo 1 g (pairRegs a) s fun s =>
    let va := (s.cur.usrcD a).toNat
    if va % 8 ≠ 0 then s.trapPath 3 0 (BitVec.ofNat 64 va) 1 false
    else
      match s.readRun (piecesOf va 72) with
      | .error (f, x) => s.uniformStop f (BitVec.ofNat 64 x) 1 false
      | .ok bs =>
        let s := s.markRun (piecesOf va 72)
        let ws := (List.range 18).map fun k => leNat ((bs.drop (4 * k)).take 4)
        if !compandOk ws then s.matrixBound 1
        else
          let base := (s.cur.core * 8 + n.toNat) * 17
          State.retire { s with
            compand := (List.range 17).foldl
              (fun m k => SMap.set none m (base + k) (some (BitVec.ofNat 32 (ws.getD k 0)))) s.compand } 1)

/-- A companding curve (R62): a real to u in [0, 256]. -/
def curveUp (ws : List Word) (x : Q) : Q :=
  if x.le (breakpoint ws 0) then Q.zero
  else if (breakpoint ws 16).le x then Q.ofInt 256
  else
    let i := ((List.range 16).find? fun i => x.lt (breakpoint ws (i + 1))).getD 15
    let lo := breakpoint ws i
    let hi := breakpoint ws (i + 1)
    (Q.ofInt (16 * i)).add ((Q.ofInt 16).mul ((x.sub lo).div (hi.sub lo)))

/-- Companding a real to a code (R62): the code and its flags. -/
def compandTo (ws : List Word) (f : Fmt) (esc : Bool) (mode : Rnd) (x : FNum) : Nat × FFlags :=
  match x with
  | .nan _ => (0, fNV)
  | _ =>
    let u := match x with
      | .inf neg => if neg then Q.zero else Q.ofInt 256
      | v => curveUp ws v.toQ
    let v := if f = .n8 then u else u.sub (Q.ofInt 128)
    let r := roundInt mode v
    let lo : Int := if f = .n8 then 0 else if esc then -127 else -128
    let hi : Int := if f = .n8 then 255 else 127
    let c := max lo (min hi r.1)
    (codeN c 8, flagIf (r.2 || decide (c ≠ r.1)) fNX)

/-- Operand fetch of a companded code (R63): an f32 value; its rounding raises no flag (log 36, DESIGN CHOICE). -/
def compandFrom (ws : List Word) (f : Fmt) (c : Nat) : FNum :=
  let u : Int := if f = .n8 then c else sextN c 8 + 128
  let i := min (u.toNat / 16) 15
  let lo := breakpoint ws i
  let hi := breakpoint ws (i + 1)
  let x := lo.add (((Q.ofInt (u - 16 * i)).mul (hi.sub lo)).div (Q.ofInt 16))
  ieeeF32.decode (ieeeF32.round .rne (FNum.ofQ x)).1

end Sys2Proof.Machine
end

