-- ==== Sys2Proof/Machine/Debug.lean ====
section
/-!
DEFINITION. The debug port (R228, R229), island frequencies (R24), the Gong signal and device reset (R230).
-/

namespace Sys2Proof.Machine

/-- Carillon changes an island's frequency (R23, R24): timing only. -/
def execIslandFrequencyChange (island setting : Nat) (s : State) : Host.Outcome State Fault Refusal :=
  .next { s with islands := s.islands.setIfInBounds island setting }

/-- A group that holds a context, running or saved. -/
def State.holder? (s : State) (key : Nat) : Option Group := s.holders.find? fun gr => gr.key == key

/-- Change a group, running or saved. -/
def State.modHolder (s : State) (key : Nat) (f : Group → Group) : State :=
  let s1 := s.modGroup key f
  { s1 with saved := s1.saved.map fun gr => if gr.key = key then f gr else gr }

/-- Change one element of a vector. -/
def vecMod {α : Type} {n : Nat} (v : Vector α n) (i : Nat) (f : α → α) : Vector α n :=
  match v[i]? with
  | none => v
  | some x => v.setIfInBounds i (f x)

/-- The debug port's answer to a command. -/
def State.debugAnswer (s : State) (grp : Nat) (what : String) (value : Nat) : State := { s with out := s.out ++ [.debug grp what value] }

/-- A command of the debug port on a group: nothing while the port is not enabled, or there is no such group (R228). -/
def State.debugOn? (s : State) (grp : Nat) (f : Group → State) : State :=
  if s.debugOn then (match s.holder? grp with | none => s | some gr => f gr) else s

/-- The group is inside an instruction: some of its lanes have acted, and others are unfinished (R173). -/
def Group.inside (gr : Group) : Bool := gr.unfinished.isSome

/-- HALT (R228): the group stops at its next instruction boundary, which is now, or after the instruction it is inside. -/
def execDebugHalt (grp : Nat) (s : State) : Host.Outcome State Fault Refusal :=
  .next (s.debugOn? grp fun _ => s.modHolder grp fun gr =>
    if gr.inside then { gr with stepping := true } else { gr with halted := true, stepping := false })

/-- A halted group goes on: one halted on BRK or WATCH goes on after its instruction (R228). A halt that is due no longer is. -/
def Group.goOn (gr : Group) : Group :=
  match gr.resume with
  | some pc => { (gr.setPc pc) with halted := false, stepping := false, resume := none }
  | none => { gr with halted := false, stepping := false }

/-- RESUME (R228). -/
def execDebugResume (grp : Nat) (s : State) : Host.Outcome State Fault Refusal :=
  .next (s.debugOn? grp fun _ => s.modHolder grp Group.goOn)

/-- STEP (R228): one instruction issues, then the group halts again; on a group that is not halted it does nothing (log 36, DESIGN CHOICE). -/
def execDebugStep (grp : Nat) (s : State) : Host.Outcome State Fault Refusal :=
  .next (s.debugOn? grp fun _ => s.modHolder grp fun gr => if gr.halted then { gr.goOn with stepping := true } else gr)

/-! ### Saved-state items (R226) -/

/-- A tile of a group, as its core numbers it; none outside its allotment. -/
def Group.ownTile (gr : Group) (t : Nat) : Option Nat := if t < gr.tileCount then some (gr.core * 64 + gr.tileBase + t) else none

/-- The state that an item of a group's tiles is read from and written to: a halted partition's tiles are saved with it (R226). -/
def State.savedPart (s : State) (gr : Group) : Option Partition :=
  (s.part? gr.part).bind fun p => if p.halted then some p else none

/-- The tile configurations and the tile bytes of a group's partition, where they now are. -/
def State.tilesOf (s : State) (gr : Group) : SMap Word × List Host.Cell :=
  match s.savedPart gr with
  | some p => (p.shadow.tileCfg, p.shadow.tiles)
  | none => (s.tileCfg, s.tiles)

/-- Change the tile configurations and the tile bytes of a group's partition, where they now are. -/
def State.setTiles (s : State) (gr : Group) (cfg : SMap Word) (tiles : List Host.Cell) : State :=
  match s.savedPart gr with
  | some p => s.modPart p.n fun p => { p with shadow := { p.shadow with tileCfg := cfg, tiles := tiles } }
  | none => { s with tileCfg := cfg, tiles := tiles }

/-- The code of a copy form, with its operands' places: bit 2 the destination in the Stage, bit 3 the source. -/
def CopyCmd.formNumber (c : CopyCmd) : Nat :=
  (match c.form with | .acp => 0 | .acp2 => 1 | .acpg => 2 | .afill => 3) + 4 * c.ds.toNat + 8 * c.fs.toNat

/-- A command of another form. -/
def CopyCmd.withForm (c : CopyCmd) (n : Nat) : CopyCmd :=
  { c with
    form := (match n % 4 with | 0 => .acp | 1 => .acp2 | 2 => .acpg | _ => .afill), ds := n / 4 % 2 == 1, fs := n / 8 % 2 == 1 }

/-- A range-table entry as the 32 bytes of R166. -/
def RangeEnt.toNat (e : RangeEnt) : Nat :=
  e.valid.toNat + 4 * e.typ + 32 * e.r.toNat + 64 * e.w.toNat + 128 * e.x.toNat + 2 ^ 32 * e.len + 2 ^ 64 * e.vbase + 2 ^ 128 * e.iabase +
    2 ^ 192 * e.aux

/-- A field of a copy-engine command (R226). -/
def CopyCmd.item (c : CopyCmd) (x : CmdItem) : Option Nat :=
  match x with
  | .gen => some c.base.gen.toNat
  | .issuer => some c.base.grp
  | .form => some c.formNumber
  | .reg k => (c.regs[k]?).map BitVec.toNat
  | .range e => (c.base.ranges[e]?).map RangeEnt.toNat
  | .stgFirst => some c.base.stgFirst
  | .stgLines => some c.base.stgLines
  | .obs => some c.base.obs.toNat
  | .order => some c.base.order.code.toNat
  | .clave => c.base.clave
  | .notBefore => some c.base.notBefore
  | .done => some c.base.done
  | .early => some (c.base.early.dedup.map fun k => 2 ^ k).sum
  | .chunk => some c.base.chunk
  | .time o => c.base.times[o.bit]?
  | .cancel => some c.base.cancel.toNat
  | .paused => some c.base.paused.toNat
  | .result => c.base.result.map BitVec.toNat

/-- A copy-engine command after one of its fields is written; one that it has not stays out. -/
def CopyCmd.setItem (c : CopyCmd) (x : CmdItem) (v : Nat) : CopyCmd :=
  let base := fun b : CmdBase => { c with base := b }
  match x with
  | .gen => base { c.base with gen := BitVec.ofNat 32 v }
  | .issuer => base { c.base with grp := v }
  | .form => c.withForm v
  | .reg k => { c with regs := c.regs.modify k fun _ => BitVec.ofNat 32 v }
  | .range e => base { c.base with ranges := c.base.ranges.modify e fun _ => RangeEnt.ofNat v }
  | .stgFirst => base { c.base with stgFirst := v }
  | .stgLines => base { c.base with stgLines := v }
  | .obs => base { c.base with obs := BitVec.ofNat 6 v }
  | .order => base { c.base with order := Order.ofCode (BitVec.ofNat 2 v) }
  | .clave => base { c.base with clave := c.base.clave.map fun _ => v }
  | .notBefore => base { c.base with notBefore := v }
  | .done => base { c.base with done := v }
  | .early => base { c.base with early := (List.range 4096).filter fun k => v.testBit k }
  | .chunk => base { c.base with chunk := v }
  | .time o => base { c.base with times := c.base.times.setIfInBounds o.bit v }
  | .cancel => base { c.base with cancel := v % 2 == 1 }
  | .paused => base { c.base with paused := v % 2 == 1 }
  | .result => base { c.base with result := c.base.result.map fun _ => BitVec.ofNat 64 v }

/-- The copy slots of the cores of a group's partition, where they now are. -/
def State.copySlotsOf (s : State) (gr : Group) : SMap (EngSlot CopyCmd) :=
  match s.savedPart gr with | some p => p.shadow.copySlots | none => s.copySlots

/-- The companding tables of the cores of a group's partition, where they now are. -/
def State.compandOf (s : State) (gr : Group) : SMap (Option Word) :=
  match s.savedPart gr with | some p => p.shadow.compand | none => s.compand

/-- The command in a slot of the copy engine of a group's core (R226). -/
def State.commandAt (s : State) (gr : Group) (slot : Nat) : Option CopyCmd :=
  if slot < 64 then (SMap.get EngSlot.idle (s.copySlotsOf gr) (gr.core * 64 + slot)).cmd else none

/-- Write a field of the command in a slot of the copy engine of a group's core. -/
def State.setCommand (s : State) (gr : Group) (slot : Nat) (x : CmdItem) (v : Nat) : State :=
  match s.commandAt gr slot with
  | none => s
  | some c =>
    let m := s.copySlotsOf gr
    let k := gr.core * 64 + slot
    let m1 := SMap.set EngSlot.idle m k { SMap.get EngSlot.idle m k with cmd := some (c.setItem x v) }
    match s.savedPart gr with
    | some p => s.modPart p.n fun p => { p with shadow := { p.shadow with copySlots := m1 } }
    | none => { s with copySlots := m1 }

/-- Write a word of the companding tables of a group's core: table k / 17, breakpoint k % 17 (R62). -/
def State.setCurve (s : State) (gr : Group) (k v : Nat) : State :=
  let m := SMap.set none (s.compandOf gr) (gr.core * 136 + k) (some (BitVec.ofNat 32 v))
  match s.savedPart gr with
  | some p => s.modPart p.n fun p => { p with shadow := { p.shadow with compand := m } }
  | none => { s with compand := m }

/-- The image of a group's iterator: the block it buffers, which pre-emption may have put into its ring (R226). -/
def State.imageOf (s : State) (gr : Group) (i : Nat) : Option Nat :=
  (gr.iters[i]?).bind fun t => if t.spilled then (s.imageBack gr i).toOption else some t.image

/-- The value of a saved-state item of a group, or where it stands (R10, R12, R226); none for an item that does not exist. The remaining count
of the current path is the quantum it became current with and the count of its issues since (R35); a port's scale is its descriptor's field. -/
def State.debugValue (s : State) (gr : Group) (x : DebugItem) : Option Nat :=
  let port := fun q (f : Port → Nat) => (gr.ports[q]?).map f
  let iter := fun i (f : Iter → Nat) => (gr.iters[i]?).map f
  match x with
  | .vreg r l => if l < gr.width then (gr.v[r]?).map fun v => (lane v l).toNat else none
  | .xreg l i => if l < gr.width ∧ i < gr.xwords then some (SMap.get 0 gr.xregs (i * 64 + l)).toNat else none
  | .greg r => (gr.g[r]?).map BitVec.toNat
  | .ppred p => (gr.p[p]?).map BitVec.toNat
  | .cpred c => if c < 7 then some (gr.c.getLsbD c).toNat else none
  | .pending => some gr.pend.toNat
  | .tileCfg t => (gr.ownTile t).map fun k => (SMap.get 0 (s.tilesOf gr).1 k).toNat
  | .tileByte t off => if off < 4096 then (gr.ownTile t).map fun k => (SMap.get 0 (s.tilesOf gr).2 (k * 4096 + off)).toNat else none
  | .slotPc b => if (gr.slotAt b).live then some (gr.slotAt b).pc.toNat else none
  | .slotMask b => some (if (gr.slotAt b).live then (gr.slotAt b).mask.toNat else 0)
  | .slotJoin b => if (gr.slotAt b).live then some (gr.slotAt b).join.toNat else none
  | .current => some gr.current.toNat
  | .count => some gr.count
  | .reserve k => if gr.rvcap.toNat ≤ k ∧ k < gr.rvdepth.toNat then some (SMap.get 0 gr.reserve k).toNat else none
  | .ctl n => if n < 20 ∧ n ≠ 6 then some ((State.setCur s gr).readCtl n).toNat else none
  | .horizon o => gr.horizon[o.bit]?
  | .unfinished => gr.unfinished.map BitVec.toNat
  | .iterOpen i => iter i fun t => t.opened.toNat
  | .iterDesc i => iter i fun t => t.desc.toNat
  | .iterHi i => iter i fun t => t.hi
  | .iterCursor i => iter i fun t => t.cursor
  | .iterPos i => iter i fun t => t.pos
  | .portBound q => port q fun p => p.bound.toNat
  | .portPos q => port q fun p => p.pos
  | .sectionHeld i => (gr.sections[i]?).map fun x => x.held.toNat
  | .arrived => some (decide (gr.wait = .bar)).toNat
  | .slot => some (gr.core * 4 + gr.slot)
  | .octet => some gr.octet
  | .parkedWord k => if 4 * k < gr.held.length then some (leNat ((gr.held.drop (4 * k)).take 4)) else none
  | .iterImage i => s.imageOf gr i
  | .portKind q => port q fun p => p.kind
  | .portSpill q => port q fun p => p.spill.toNat
  | .portStage q => port q fun p => p.stage.toNat
  | .portScale q => port q fun p => Nat.log2 p.scale
  | .portCount q => port q fun p => p.count
  | .portStride q => port q fun p => (BitVec.ofInt 64 p.stride).toNat
  | .portIndex q => port q fun p => p.index.toNat
  | .portBase q => port q fun p => p.base.toNat
  | .portFaultCause q => (gr.ports[q]?.bind (·.fault)).map (·.1)
  | .portFaultAddr q => (gr.ports[q]?.bind (·.fault)).map fun f => f.2.toNat
  | .portPaused q => port q fun p => p.paused.toNat
  | .quantum => some gr.quantum
  | .sectionToken i => (gr.sections[i]?).map fun x => x.token.toNat
  | .sectionTile i => (gr.sections[i]?).map fun x => x.b.toNat
  | .command slot y => (s.commandAt gr slot).bind fun c => c.item y
  | .curve k => if k < 136 then some ((SMap.get none (s.compandOf gr) (gr.core * 136 + k)).getD (defaultBreak (k % 17))).toNat else none

/-- The destination registers of a load. -/
def loadRegs (i : Instr) : List Reg :=
  match i with
  | .ld _ d _ _ _ _ z _ => blockRegs d (sizeRegs z)
  | .gld _ d _ _ _ _ z _ => blockRegs d (sizeRegs z)
  | .atom _ d _ _ _ _ dbl op _ => atomRegs op dbl d
  | .gatom _ d _ _ _ _ dbl op _ => atomRegs op dbl d
  | _ => []

/-- The destinations of the loads that have issued and not returned, and of the load that the group is inside or holds for a page, for presence
or for order (R229). -/
def Group.outstanding (gr : Group) : List Reg :=
  let open_ := gr.inside || (match gr.wait with | .parked _ => true | .again .presence => true | .again .order => true | _ => false)
  (gr.late.flatMap fun x => x.act.regs) ++ if open_ then loadRegs (instrOf gr.held) else []

/-- The item is a register that a WRITE must leave alone (R229): the destination of an outstanding load, or a g-register of a pair whose
handle is pending. -/
def Group.debugPending (gr : Group) (x : DebugItem) : Bool :=
  match x with
  | .greg r => gr.pend.getLsbD (r / 2) || gr.outstanding.any fun y => y.toNat == 96 + r
  | .vreg r _ => gr.outstanding.any fun y => y.toNat == r
  | _ => false

/-- Write a path slot's item: of a live slot only, and a mask with a lane of the group. -/
def Group.writeSlot (gr : Group) (b : Bool) (f : PathSlot → PathSlot) : Group :=
  let p := f (gr.slotAt b)
  if (gr.slotAt b).live && p.mask != 0 then gr.setSlot b p else gr

/-- Write a control register through the debug port: what `mtc` may write as `mtc` does, `rvsp` without moving an entry, and the
identity and role of the group. `wct`, `now`, `lid`, `pmask` and `stgb` hold no value of their own to write. -/
def Group.debugCtl (gr : Group) (n v : Nat) : Group :=
  match n with
  | 3 => { gr with rvcap := BitVec.ofNat 16 (v / 65536), rvdepth := BitVec.ofNat 16 v }
  | 7 => { gr with gid := BitVec.ofNat 4 v }
  | 8 => { gr with cid := BitVec.ofNat 32 v }
  | 12 => { gr with roleNone := (BitVec.ofNat 5 v).getLsbD 4, roleIdx := BitVec.ofNat 4 v }
  | _ => gr.writeCtl n (BitVec.ofNat 64 v)

/-- The group after one of its own items is written. -/
def Group.debugSet (gr : Group) (x : DebugItem) (v : Nat) : Group :=
  let w : Word := BitVec.ofNat 32 v
  let iter := fun i (f : Iter → Iter) => { gr with iters := vecMod gr.iters i f }
  let port := fun q (f : Port → Port) => if (gr.port q).bound then gr.setPort q (f (gr.port q)) else gr
  let sect := fun i (f : Section → Section) => { gr with sections := gr.sections.modify i f }
  match x with
  | .vreg r l => if r < 96 ∧ l < gr.width then { gr with v := vecMod gr.v r fun y => y.setIfInBounds l w } else gr
  | .xreg l i => if l < gr.width ∧ i < gr.xwords then { gr with xregs := SMap.set 0 gr.xregs (i * 64 + l) w } else gr
  | .greg r => { gr with g := gr.g.setIfInBounds r w }
  | .ppred p => { gr with p := gr.p.setIfInBounds p (BitVec.ofNat 64 v &&& widthMask gr.width) }
  | .cpred c => if c < 7 then gr.setC (BitVec.ofNat 3 c) (v % 2 == 1) else gr
  | .pending => { gr with pend := BitVec.ofNat 16 v }
  | .slotPc b => { (gr.writeSlot b fun p => { p with pc := BitVec.ofNat 30 v }) with
      resume := if b = gr.issuing then none else gr.resume, held := if b = gr.issuing then [] else gr.held }
  | .slotMask b => gr.writeSlot b fun p => { p with mask := BitVec.ofNat 64 v &&& widthMask gr.width }
  | .slotJoin b => gr.writeSlot b fun p => { p with join := BitVec.ofNat 30 v }
  | .current => if (gr.slotAt (v % 2 == 1)).live then { gr with current := v % 2 == 1 } else gr
  | .count => { gr with count := v }
  | .reserve k =>
    if gr.rvcap.toNat ≤ k ∧ k < gr.rvdepth.toNat then { gr with reserve := SMap.set 0 gr.reserve k (BitVec.ofNat 128 v) } else gr
  | .ctl n => gr.debugCtl n v
  | .horizon o => { gr with horizon := gr.horizon.setIfInBounds o.bit v }
  | .unfinished => { gr with unfinished := gr.unfinished.map fun _ => BitVec.ofNat 64 v }
  | .iterOpen i => iter i fun t => { t with opened := v % 2 == 1 }
  | .iterDesc i => iter i fun t => { t with desc := BitVec.ofNat 64 v }
  | .iterHi i => iter i fun t => { t with hi := v }
  | .iterCursor i => iter i fun t => { t with cursor := v }
  | .iterPos i => iter i fun t => { t with pos := v }
  | .portBound q => gr.setPort q (if v % 2 = 1 then { (gr.port q) with bound := true } else Port.unbound)
  | .portPos q => gr.setPort q { (gr.port q) with pos := v, used := v, elems := [] }
  | .sectionHeld i => sect i fun x => { x with held := v % 2 == 1 }
  | .sectionToken i => sect i fun x => { x with token := w }
  | .sectionTile i => sect i fun x => { x with b := w }
  | .parkedWord k =>
    if 4 * k < gr.held.length then { gr with held := gr.held.take (4 * k) ++ leBytes 4 v ++ gr.held.drop (4 * k + 4) } else gr
  | .iterImage i => iter i fun t => t.ofImage (v % 2 ^ 2048)
  | .portKind q => port q fun p => { p with kind := v % 4 }
  | .portSpill q => port q fun p => { p with spill := v % 2 == 1 }
  | .portStage q => port q fun p => { p with stage := v % 2 == 1 }
  | .portScale q => port q fun p => { p with scale := 2 ^ (v % 4) }
  | .portCount q => port q fun p => { p with count := v % 2 ^ 32 }
  | .portStride q => port q fun p => { p with stride := (BitVec.ofNat 64 v).toInt }
  | .portIndex q => port q fun p => { p with index := BitVec.ofNat 64 v }
  | .portBase q => port q fun p => { p with base := BitVec.ofNat 64 v }
  | .portFaultCause q => port q fun p => { p with fault := p.fault.map fun f => (v % 256, f.2) }
  | .portFaultAddr q => port q fun p => { p with fault := p.fault.map fun f => (f.1, BitVec.ofNat 64 v) }
  | .portPaused q => port q fun p => { p with paused := v % 2 == 1 }
  | .quantum => { gr with quantum := v % 256 }
  | .slot => gr
  | .octet => gr
  | .tileCfg _ => gr
  | .tileByte _ _ => gr
  | .arrived => gr
  | .command _ _ => gr
  | .curve _ => gr

/-- The device after a saved-state item of a group is written (R228). -/
def State.debugSet (s : State) (gr : Group) (x : DebugItem) (v : Nat) : State :=
  match x with
  | .tileCfg t =>
    match gr.ownTile t with
    | some k => s.setTiles gr (SMap.set 0 (s.tilesOf gr).1 k (BitVec.ofNat 32 v &&& 0xFFFFF)) (s.tilesOf gr).2
    | none => s
  | .tileByte t off =>
    match gr.ownTile t with
    | some k =>
      if off < 4096 then s.setTiles gr (s.tilesOf gr).1 (SMap.set 0 (s.tilesOf gr).2 (k * 4096 + off) (BitVec.ofNat 8 v)) else s
    | none => s
  | .arrived =>
    let rest := fun l : List Nat => l.filter fun k => k != gr.key
    let s1 := s.modHolder gr.key fun y => { y with wait := if v % 2 = 1 then .bar else if y.wait = .bar then .none else y.wait }
    { s1 with cohorts := s1.cohorts.map fun c =>
        if c.key = gr.cohort then { c with arrived := rest c.arrived ++ if v % 2 = 1 then [gr.key] else [] } else c }
  | .command slot y => s.setCommand gr slot y v
  | .curve k => if k < 136 then s.setCurve gr k v else s
  | _ => s.modHolder gr.key fun y => y.debugSet x v

/-- READ (R228): the answer is the item's value. -/
def execDebugRead (grp : Nat) (item : DebugItem) (s : State) : Host.Outcome State Fault Refusal :=
  .next (s.debugOn? grp fun gr =>
    match s.debugValue gr item with
    | some v => s.debugAnswer grp "READ" v
    | none => s.debugAnswer grp "NONE" 0)

/-- The item says where the group stands (R12), which a WRITE does not change. -/
def placementItem (x : DebugItem) : Bool := match x with | .slot => true | .octet => true | _ => false

/-- WRITE (R228, R229): refused with PENDING for the destination of an outstanding load and for a register whose handle is pending; else it
takes effect at once. -/
def execDebugWrite (grp : Nat) (item : DebugItem) (value : Nat) (s : State) : Host.Outcome State Fault Refusal :=
  .next (s.debugOn? grp fun gr =>
    if placementItem item then s.debugAnswer grp "NONE" 0
    else if gr.debugPending item then s.debugAnswer grp "PENDING" 0 else (s.debugSet gr item value).debugAnswer grp "WRITTEN" 0)

/-- No load of the group is outstanding and no register of it is pending (R228). -/
def Group.drained (gr : Group) : Bool := gr.pend == 0 && gr.outstanding.isEmpty

/-- DRAIN (R228): DONE at once when nothing of the group is outstanding. -/
def execDebugDrain (grp timeout : Nat) (s : State) : Host.Outcome State Fault Refusal :=
  .next (s.debugOn? grp fun gr =>
    if gr.drained then s.debugAnswer grp "DONE" 0 else s.modHolder grp fun gr => { gr with drain := some (s.now + timeout) })

/-- A DRAIN is answered (R228): DONE once nothing is outstanding, TIMEOUT once its time has passed. -/
def execDebugDrainTimeout (grp : Nat) (s : State) : Host.Outcome State Fault Refusal :=
  .next (
    match s.holder? grp with
    | none => s
    | some gr =>
      match gr.drain with
      | none => s
      | some t =>
        let done := s.modHolder grp fun gr => { gr with drain := none }
        if gr.drained then done.debugAnswer grp "DONE" 0 else if t ≤ s.now then done.debugAnswer grp "TIMEOUT" 0 else s)

/-- WATCH (R228): one of a core's four watchpoints is set or cleared. -/
def execDebugWatch (core idx : Nat) (watch : Option Watch) (s : State) : Host.Outcome State Fault Refusal :=
  .next (
    if s.debugOn && decide (core < 192) && decide (idx < 4) then
      { s with watches := SMap.set none s.watches (core * 4 + idx) watch }
    else s)

/-- TRAPMODE (R228): one mode for each cause, for every group of the device (log 36, DESIGN CHOICE). -/
def execDebugTrapmode (onWatch halt : Bool) (s : State) : Host.Outcome State Fault Refusal :=
  .next (if s.debugOn then (if onWatch then { s with haltWatch := halt } else { s with haltBrk := halt }) else s)

/-! ### Gong and reset (R230) -/

/-- The Gong signal: every clock stops (R230). -/
def execGong (s : State) : Host.Outcome State Fault Refusal := .next { s with frozen := true }

/-- Reset discards the state of R226, the Stage and the L2 (R230): the device is as State.reset, but for the flash, what lies
outside the package and what is yet to happen (log 1, DESIGN CHOICE); a byte of memory whose line the L2 held changed is lost with
it, and which bytes those are is a free choice (log 15, DESIGN CHOICE). -/
def execDeviceReset (s : State) : Host.Outcome State Fault Refusal :=
  .next
    { State.reset with
      mem := (s.mem.map fun e =>
        (e.1, if Config.freeBool (s.freeCtr + e.1) then e.2 else Config.freeByte (s.freeCtr + e.1))).filter fun e => e.2 != 0
      flashA := s.flashA, flashB := s.flashB, hostBytes := s.hostBytes, peerBytes := s.peerBytes, powered := s.powered
      freeCtr := s.freeCtr + 2 ^ 45, agenda := s.agenda }

end Sys2Proof.Machine
end

