-- ==== Sys2Proof/Machine/Launching.lean ====
section
/-!
DEFINITION. The dispatcher (R299 to R305): preconditions, refusals, the next cohort, and what dispatch gives its groups (R31, R32,
R161, R166).
-/

namespace Sys2Proof.Machine

/-- A launch of a partition's queue, or one with cohorts running. -/
def State.launch? (s : State) (part key : Nat) : Option Launch :=
  s.launches.find? fun l => l.key == key && l.part == part

/-- Change a launch. -/
def State.modLaunch (s : State) (key : Nat) (f : Launch → Launch) : State :=
  { s with launches := s.launches.map fun l => if l.key = key then f l else l }

/-- The launch still has cohorts to dispatch. -/
def Launch.pending (l : Launch) : Bool := decide (l.nextCid < launchTotal l.entry) || decide (l.nextCid = 0)

/-! ### Preconditions (R300) -/

/-- The dispatcher reads a precondition's word; the first read that finds the relation true makes the launch eligible (R300). -/
def execPreconditionRead (part launch : Nat) (s : State) : Host.Outcome State Fault Refusal :=
  .next (
    match s.launch? part launch with
    | none => s
    | some l =>
      if l.eligible then s
      else
        let w := l.read s
        (s.modLaunch launch fun l => l.afterRead w s.now).reportWord part w)

/-! ### Refusals (R31, R301) -/

/-- The groups of a cohort at dispatch (R31). -/
def entryGroups (e : BitVec 1024) : Nat := fieldN e 229 226 + 1
/-- The lanes of a group (R31). -/
def entryWidth (e : BitVec 1024) : Nat := 8 * 2 ^ fieldN e 225 224

/-- The cores of a partition that dispatch, lowest first: those of its clusters that are not fenced (R21, R325). -/
def State.coresOf (s : State) (p : Partition) : List Nat :=
  (List.range 192).filter fun c => p.clusters.getLsbD (c / 4) && !s.fenced.contains (.core, c)

/-- A cohort of the entry fits an empty core with the partition's whole Stage free (R301, R305). -/
def State.fitsEmpty (s : State) (p : Partition) (e : BitVec 1024) : Bool :=
  !(s.coresOf p).isEmpty &&
  (placeAll 0 (entryWidth e) (fieldN e 246 237) (entryGroups e) []).isSome &&
  decide (fieldN e 236 230 * entryGroups e ≤ 64) &&
  (fieldN e 279 256 == 0 || (stageRuns p.stageMiB).any fun r => decide (fieldN e 279 256 ≤ r.2))

/-- The lowest refusal reason that the entry itself gives, or its precondition (R301). -/
def State.entryRefusal (s : State) (p : Partition) (l : Launch) : Option Nat :=
  let e := l.entry
  if launchTotal e = 0 ∨ 2 ^ 32 < launchTotal e then some 1
  else if 64 < fieldN e 236 230 * entryGroups e then some 2
  else if 928 < fieldN e 246 237 ∨ fieldN e 295 280 = 0 then some 3
  else if fieldN e 323 320 ≠ 0 ∨ fieldN e 65 64 ≠ 0 then some 4
  else if !s.fitsEmpty p e then some 5
  else none

/-- The reason 8 of a launch that waits for its precondition (R300, R301). -/
def State.wordRefusal (s : State) (l : Launch) : Option Nat :=
  if l.eligible then none else match l.read s with | .bad => some 8 | _ => none

/-- The RCB chain of a launch. -/
def State.launchChain (s : State) (l : Launch) : Except ChainStop (List (Nat × BitVec 1024)) :=
  s.rcbChain l.part (fieldN l.entry 51 0)

/-- The lowest refusal reason of a launch that is eligible or whose precondition cannot be read (R301); none while its chain waits
for a page. -/
def State.refusal (s : State) (p : Partition) (l : Launch) : Option Nat :=
  let word := s.wordRefusal l
  if !l.eligible && word.isNone then none
  else
    match s.launchChain l with
    | .error (.wait _) => none
    | .error (.refuse r) => (s.entryRefusal p l).or (word.or (some r))
    | .ok c =>
      (s.entryRefusal p l).or
        (if rootBad c then some 6 else if 16 < (effective c 7 280 276).getD 0 then some 7 else word)

/-- The queue entry goes: a refused launch dispatches nothing more (R299, R301). -/
def State.closeLaunch (s : State) (l : Launch) : State :=
  let s1 := s.modLaunch l.key fun x => { x with queued := false, eligible := true, nextCid := max 1 (launchTotal x.entry) }
  s1.dropLaunch l.key

/-- A launch is refused (R301): its REFUSED record goes to the fault domain of the named RCB, or, where that cannot be determined,
Carillon is told. -/
def execLaunchRefused (part launch : Nat) (s : State) : Host.Outcome State Fault Refusal :=
  .next (
    match s.part? part, s.launch? part launch with
    | some p, some l =>
      if !l.pending then s
      else
        match s.refusal p l with
        | none => s
        | some r =>
          let dom := match s.launchChain l with | .ok c => effective c 6 371 320 | .error _ => none
          let s1 : State :=
            match dom with
            | none => s.notify "launch refused"
            | some d =>
              let bits := faultBits s.now l.addr.toNat r (fieldN l.entry 157 128) 0 0 0 (fieldN l.entry 51 0) 0 4
              { s with faults := s.faults ++ [⟨part, d, bits, none⟩] }
          s1.closeLaunch l
    | _, _ => s)

/-- A head cohort skipped for 100 µs becomes reserved (R302). -/
def execCohortReserved (part launch : Nat) (s : State) : Host.Outcome State Fault Refusal :=
  .next (
    match s.launch? part launch with
    | none => s
    | some l =>
      match l.skipped with
      | none => s
      | some t => if t + 100000 ≤ s.now then s.modLaunch launch fun l => { l with reserved := true } else s)

/-! ### Dispatch (R302 to R305) -/

/-- The bytes at an IA, line by line, or the first line that does not go. -/
def State.readIAs (s : State) (part : Nat) : List (Nat × Nat) → Except Fate (List Byte)
  | [] => .ok []
  | (a, n) :: r =>
    match s.readIA part a n with
    | .error f => .error f
    | .ok bs =>
      match s.readIAs part r with
      | .error f => .error f
      | .ok rest => .ok (bs ++ rest)

/-- The range table of a region as the core loads it (R166): 64 entries of 32 bytes; one that cannot be read loads as 64 invalid
entries. The error is a page, or a line's presence, to wait for. -/
def State.loadRanges (s : State) (part ia : Nat) : Except (Option Nat) (List RangeEnt) :=
  if ia % 2048 ≠ 0 then .ok []
  else
    match s.readIAs part (piecesOf ia 2048) with
    | .ok bs => .ok ((List.range 64).map fun i => RangeEnt.ofNat (leNat ((bs.drop (32 * i)).take 32)))
    | .error (.replay p) => .error (some p)
    | .error .absent => .error none
    | .error _ => .ok []

/-- The spill quotas of a chain's regions (R27, R28, R273). -/
def chainQuotas : List (Nat × BitVec 1024) → List Nat
  | [] => []
  | e :: r => (effective (e :: r) 2 255 224).getD 0 :: chainQuotas r

/-- A core that a cohort of an entry fits (R305): its groups' places, its first tile and its first Stage line. -/
def State.fitCore (s : State) (p : Partition) (e : BitVec 1024) (core : Nat) : Option (List (Nat × Nat) × Nat × Nat) :=
  match placeAll core (entryWidth e) (fieldN e 246 237) (entryGroups e) s.groups,
      freeTiles s.groups core (fieldN e 236 230 * entryGroups e), s.stageRun p core (fieldN e 279 256) with
  | some places, some tile, some line => some (places, tile, line)
  | _, _, _ => none

/-- The lowest-numbered core that fits (R305). -/
def State.fitAny (s : State) (p : Partition) (e : BitVec 1024) : Option (Nat × List (Nat × Nat) × Nat × Nat) :=
  (s.coresOf p).findSome? fun c => (s.fitCore p e c).map fun x => (c, x)

/-- A group at dispatch (R32), from what all groups of its cohort share. -/
def Group.dispatched (l : Launch) (chain : List (Nat × BitVec 1024)) (ranges : List RangeEnt) (s : State)
    (core tile line gid : Nat) (place : Nat × Nat) : Group :=
  let e := l.entry
  let eff := fun bit hi lo => (effective chain bit hi lo).getD 0
  let tiles := fieldN e 236 230
  let prio := BitVec.ofNat 2 (eff 4 271 270)
  { Group.fresh (entryWidth e) (BitVec.ofNat 30 (fieldN e 157 128)) with
    key := s.nextKey + 1 + gid, part := l.part, cohort := s.nextKey, core := core, slot := place.1, octet := place.2
    cid := BitVec.ofNat 32 l.nextCid, gid := BitVec.ofNat 4 gid, xwords := fieldN e 246 237
    g := Vector.ofFn fun i => if i.val < 16 then e.extractLsb' (512 + 32 * i.val) 32 else 0
    rvsb := stackBase e l.nextCid gid, rvcap := BitVec.ofNat 16 (fieldN e 295 280), prio := prio, prioCap := prio
    stgFirst := line, stgLines := fieldN e 279 256, tileBase := tile + gid * tiles, tileCount := tiles
    codebase := e.extractLsb' 64 64, ranges := ranges, chain := chain.map (·.1), roletab := eff 7 435 384
    rolecnt := eff 7 280 276, faultdom := eff 6 371 320, quotas := chainQuotas chain, lrr := decide (eff 5 272 272 = 1)
    age := s.nextAge + gid, since := s.cycle }

/-- A cohort is dispatched to a core (R32, R161, R166, R305). -/
def State.dispatch (s : State) (l : Launch) (chain : List (Nat × BitVec 1024)) (ranges : List RangeEnt) (core : Nat)
    (places : List (Nat × Nat)) (tile line : Nat) : State :=
  let n := places.length
  let lines := fieldN l.entry 279 256
  let gs := (List.range n).map fun i => Group.dispatched l chain ranges s core tile line i (places.getD i (0, 0))
  let c : Cohort :=
    { key := s.nextKey, launch := l.key, part := l.part, core := core, cid := l.nextCid, members := gs.map (·.key)
      arrived := [], stgFirst := line, stgLines := lines }
  let s1 := (s.clearShare line lines).clearTiles core tile (fieldN l.entry 236 230 * n)
  let s2 : State :=
    { s1 with others := s1.others ++ gs, cohorts := s1.cohorts ++ [c], nextKey := s.nextKey + 1 + n, freeCtr := s.freeCtr + 1 }
  s2.modLaunch l.key fun x =>
    { x with nextCid := x.nextCid + 1, skipped := none, reserved := false
             queued := x.queued && decide (x.nextCid + 1 < launchTotal x.entry) }

/-- A launch the dispatcher considers, with its class and its chain; no chain while that waits for a page (R301), and the class is
then that of the last reading. -/
structure Candidate where
  launch : Launch
  prio : Nat
  chain : Option (List (Nat × BitVec 1024))

/-- The launches considered, in the order of R302: by class, then by acceptance. -/
def State.candidates (s : State) (p : Partition) : List Candidate :=
  let all := (s.launches.filter fun l => l.part == p.n && l.eligible && l.pending && (s.refusal p l).isNone).filterMap fun l =>
    match s.launchChain l with
    | .ok c => some (Candidate.mk l ((effective c 4 271 270).getD 0) (some c))
    | .error (.wait _) => some (Candidate.mk l l.cls none)
    | .error _ => none
  [3, 2, 1, 0].flatMap fun k => all.filter fun c => c.prio == k

/-- The dispatcher's reading of the chains (R301, R302): the pages they wait for are reported, of a launch that is to be refused for its
precondition too; of a chain that can be read the class is kept. -/
def State.readChains (s : State) (p : Partition) : State :=
  (s.launches.filter fun l => l.part == p.n && l.pending && (l.eligible || (s.wordRefusal l).isSome)).foldl (fun s l =>
    match s.launchChain l with
    | .error (.wait (some ia)) => s.reportFault p.n ia
    | .ok c => s.modLaunch l.key fun l => { l with cls := (effective c 4 271 270).getD 0 }
    | _ => s) s

/-- A head cohort is skipped (R302). -/
def State.skip (s : State) (key : Nat) : State :=
  s.modLaunch key fun l => { l with skipped := l.skipped.or (some s.now) }

/-- The walk of the order (R302): the first head cohort that passes the budgets and fits is dispatched; a reserved one that does not,
or whose chain waits for a page, holds back all that come after it. -/
def State.dispatchFirst (s : State) (p : Partition) : List Candidate → State
  | [] => s
  | c :: r =>
    let l := c.launch
    match c.chain with
    | none => if l.reserved then s else s.dispatchFirst p r
    | some chain =>
      let skipped := if l.reserved then s.skip l.key else (s.skip l.key).dispatchFirst p r
      if s.withinBudget p.n (entryGroups l.entry) (fieldN l.entry 279 256) true chain then
        match s.fitAny p l.entry with
        | none => skipped
        | some (core, places, tile, line) =>
          match s.loadRanges p.n ((effective chain 8 499 448).getD 0) with
          | .error ia =>
            let s1 := match ia with | some a => s.reportFault p.n a | none => s
            if l.reserved then s1 else s1.dispatchFirst p r
          | .ok ranges => s.dispatch l chain ranges core places tile line
      else skipped

/-- One dispatch decision of a partition's dispatcher (R302). -/
def execLaunchDispatch (part : Nat) (s : State) : Host.Outcome State Fault Refusal :=
  .next (
    match s.part? part with
    | none => s
    | some p =>
      if p.halted then s
      else
        let s1 := s.readChains p
        s1.dispatchFirst p (s1.candidates p))

end Sys2Proof.Machine
end

