-- ==== Sys2Proof/Machine/Service.lean ====
section
/-!
DEFINITION. The requests that Carillon serves (R311 to R313): how a request is checked, read and answered, DSTAT (R322), measurement
(R320), and the requests a program may make: PING, LAUNCH, STATUS, QUOTE (R321), HOT, RELOAD (R166), MONITOR (R323, R324), MIGRATE
and QUOTA.
-/

namespace Sys2Proof.Machine

/-! ### The device's status (R312, R322) -/

/-- The parts of a kind in service. -/
def State.inService (s : State) (k : PartKind) (all : Nat) : Nat := ((List.range all).filter fun n => !s.fenced.contains (k, n)).length

/-- DSTAT (R322). -/
def State.dstat (s : State) : DWord :=
  BitVec.ofBool (!s.fenced.isEmpty) ++ BitVec.ofBool s.debugOn ++ BitVec.ofBool s.hostUp ++ BitVec.ofBool s.recovery ++ 0#30 ++
    BitVec.ofNat 4 (s.inService .port 8) ++ BitVec.ofNat 6 (s.inService .channel 32) ++ BitVec.ofNat 4 (s.inService .stack 8) ++
    BitVec.ofNat 8 (s.inService .slice 64) ++ BitVec.ofNat 8 (s.inService .core 192)

/-- A status word (R312). -/
def State.statusOf (s : State) (code : Nat) : Word :=
  BitVec.ofBool (!s.fenced.isEmpty) ++ BitVec.ofBool s.debugOn ++ 0#22 ++ BitVec.ofNat 8 code

/-- DSTAT has changed: vector 16 is signalled over the host link (R316). -/
def State.statusChanged (s : State) : State := if s.hostUp then { s with out := s.out ++ [.msix 16] } else s

/-! ### Replies (R312, R313, R317) -/

/-- The words of a reply. -/
def State.replyWords (s : State) (code : Nat) (ws : List Word) : Vector Word 16 :=
  Vector.ofFn fun i => if i.val = 0 then s.statusOf code else if code = 0 then ws.getD (i.val - 1) 0 else 0

/-- The first byte of a mailbox slot's record in the mailbox. -/
def slotByte (part slot : Nat) : Nat := part * 0x1000 + slot * 128

/-- A request is answered (R311, R312, R317): a group's reply waits until now has reached the times of Carillon's writes; a mailbox
slot takes the reply words, then done, and its vector is signalled; a network reply is sent. -/
def State.reply (s : State) (r : Request) (code : Nat) (ws : List Word) (time : Nat) : State :=
  let words := s.replyWords code ws
  let gone := s.requests.filter fun x => x.id != r.id
  match r.source with
  | .sys _ =>
    { s with requests := s.requests.map fun x => if x.id = r.id then { x with reply := some (words, Nat.max s.now time) } else x }
  | .mailbox part slot =>
    let a := slotByte part slot
    let m := writeBytes s.mailbox (a + 64) (words.toList.flatMap fun w => leBytes 4 w.toNat)
    { s with
      requests := gone, mailbox := writeBytes m (a + 6) [SMap.get 0 m (a + 6) ||| 1]
      out := s.out ++ (if s.hostUp then [.msix part] else []) }
  | .net e => { s with requests := gone, out := s.out ++ [.reply e r.tag words] }

/-- Two words of a 64-bit value. -/
def wordsOf (x : DWord) : List Word := [loWord x, hiWord x]

/-- Argument word i of a request. -/
def Request.arg (r : Request) (i : Nat) : Nat := (r.args[i]?.getD 0).toNat
/-- The 64-bit value in argument words i and i + 1. -/
def Request.argD (r : Request) (i : Nat) : Nat := r.arg i + r.arg (i + 1) * 2 ^ 32
/-- The group a request came from. -/
def Request.grp (r : Request) : Option Nat := match r.source with | .sys g => some g | _ => none

/-! ### Serving (R312, R320) -/

/-- The codes served in recovery (R320). -/
def recoveryCodes : List Nat := [0, 2, 3, 19]

/-- A request whose group has ended: nobody takes its reply, and it is not served (log 43, DESIGN CHOICE). -/
def State.orphan (s : State) (r : Request) : Bool := match r.grp with | some g => (s.holder? g).isNone | none => false

/-- The partition a request is served for: in recovery there is none, and the four codes served then need none (R320; log 43, DESIGN
CHOICE). -/
def State.reqPart (s : State) (r : Request) : Option Partition :=
  if s.recovery then
    some { n := r.part, clusters := 0, stageMiB := 0, rangeIA := 0, ranges := [], root := 0, halted := false, consumers := [], peers := []
           exports := [], shadow := Shadow.empty }
  else s.part? r.part

/-- The checks every request meets (R312, R313, R320): then it is served for its partition. -/
def State.serveReq (s : State) (id code : Nat) (f : Request → Partition → State) : State :=
  match s.requests.find? fun r => r.id == id with
  | none => s
  | some r =>
    if r.reply.isSome || r.code != code || !s.booted || s.orphan r then s
    else if s.recovery && !recoveryCodes.contains code then s.reply r 5 [] 0
    else if 16 ≤ code ∧ (r.grp.isSome ∨ !r.listed) then s.reply r 2 [] 0
    else if !r.reservedOk then s.reply r 3 [] 0
    else
      match s.reqPart r with
      | none => s.reply r 3 [] 0
      | some p => f r p

/-- A code of the table of R313, and of PARTITION an operation of the table of R314. -/
def Request.known (r : Request) : Bool :=
  decide (r.code < 9) || (decide (r.code = 16) && decide (r.arg 0 < 6)) || (decide (17 ≤ r.code) && decide (r.code < 22))

/-- A request whose code, or whose PARTITION operation, is in no table (R312, R314). -/
def State.answerUnknown (s : State) (id : Nat) : State :=
  match s.requests.find? fun r => r.id == id with
  | none => s
  | some r =>
    if r.reply.isSome || r.known || !s.booted || s.orphan r then s
    else if s.recovery then s.reply r 5 [] 0
    else if r.code = 16 then s.reply r (if r.grp.isSome ∨ !r.listed then 2 else 3) [] 0
    else s.reply r 1 [] 0

/-! ### Addresses in requests (R313) -/

/-- Why an address of a request does not go: Carillon waits, or answers a code. -/
inductive ReqStop where
  | wait (ia : Option Nat)
  | code (c : Nat)
  deriving DecidableEq, Repr

/-- What a stop makes of a request. -/
def State.reqStop (s : State) (r : Request) (x : ReqStop) : State :=
  match x with
  | .wait (some ia) => s.reportFault r.part ia
  | .wait none => s
  | .code c => s.reply r c [] 0

/-- Memory ranges cover n bytes from an IA, with as many steps as there are ranges. -/
def coversFrom (ranges : List (Nat × Nat)) : Nat → Nat → Nat → Bool
  | _, _, 0 => true
  | 0, _, _ + 1 => false
  | fuel + 1, a, n + 1 =>
    match ranges.find? fun r => decide (r.1 ≤ a) && decide (a < r.1 + r.2) with
    | none => false
    | some r => coversFrom ranges fuel (r.1 + r.2) (n + 1 - (r.1 + r.2 - a))

/-- A partition's memory ranges hold n bytes from an IA (R21). -/
def covers (ranges : List (Nat × Nat)) (a n : Nat) : Bool := coversFrom ranges (ranges.length + 1) a n

/-- The fate of one piece of a request's buffer: a group's virtual address under its range table, else an IA. -/
def State.reqFate (s : State) (r : Request) (wr : Bool) (a n : Nat) : Fate :=
  match r.grp.bind s.holder? with
  | some gr =>
    match s.translate r.part gr.ranges (a % 2 ^ 64) (!wr) wr false none with
    | .error c => .trap c
    | .ok d => if wr then s.storeFate r.part d n else s.fate r.part d false n
  | none => if wr then s.storeFate r.part (.paged a) n else s.fate r.part (.paged a) false n

/-- The places of the pieces of a request's buffer. -/
def State.reqDests (s : State) (r : Request) (wr : Bool) : List (Nat × Nat) → Except ReqStop (List (Dest × Nat))
  | [] => .ok []
  | (a, n) :: t =>
    match s.reqFate r wr a n with
    | .go d =>
      match s.reqDests r wr t with
      | .ok ds => .ok ((d, n) :: ds)
      | .error e => .error e
    | .replay ia => .error (.wait (some ia))
    | .absent => .error (.wait none)
    | .trap _ => .error (.code 4)

/-- The places of n bytes from an address of a request (R313). -/
def State.reqBuffer (s : State) (r : Request) (p : Partition) (wr : Bool) (a n : Nat) : Except ReqStop (List (Dest × Nat)) :=
  if r.grp.isNone && !covers p.ranges a n then .error (.code 3) else s.reqDests r wr (piecesOf a n)

/-- The bytes at some places. -/
def State.readPlaces (s : State) (part : Nat) (ds : List (Dest × Nat)) : List Byte := ds.flatMap fun d => s.readParty part d.1 d.2 .h 0 0

/-- Read n bytes from an address of a request. -/
def State.reqRead (s : State) (r : Request) (p : Partition) (a n : Nat) : Except ReqStop (List Byte) :=
  match s.reqBuffer r p false a n with
  | .ok ds => .ok (s.readPlaces r.part ds)
  | .error e => .error e

/-- Write bytes at some places: the state and the latest completion time. -/
def State.writePlaces (s : State) (part : Nat) : List (Dest × Nat) → List Byte → Nat → State × Nat
  | [], _, t => (s, t)
  | (d, n) :: r, bs, t =>
    (s.writeDest part d (bs.take n) 0).writePlaces part r (bs.drop n) ((s.writeTimes d).toList.foldl Nat.max t)

/-! ### Recovery (R320) -/

/-- In recovery no page table exists, and an address of a request is a physical one (log 43, DESIGN CHOICE): its n bytes exist and their
lines are clean. -/
def State.physRange (s : State) (a n : Nat) : Bool :=
  (piecesOf a n).all fun p => physPresent p.1 && physPresent (p.1 + p.2 - 1) && !s.poisoned false (p.1 / 128)

/-! ### Measurement (R320) -/

/-- The bytes of a measurement register or digest. -/
def digestBytes (x : BitVec 512) : List Byte := leBytes 64 x.toNat

/-- A measurement register is extended with a digest (R320). -/
def State.extend (s : State) (k : Nat) (d : BitVec 512) : State :=
  let m := Config.shake256 (digestBytes (s.mregs[k]?.getD 0) ++ digestBytes d)
  { s with mregs := s.mregs.setIfInBounds k m }

/-! ### PING, STATUS, LAUNCH -/

/-- PING (R313). -/
def execPing (r : Nat) (s : State) : Host.Outcome State Fault Refusal :=
  .next (s.serveReq r 0 fun q _ => s.reply q 0 (s.fwVersion :: wordsOf s.dstat) 0)

/-- STATUS (R313, R322). -/
def execStatus (r : Nat) (s : State) : Host.Outcome State Fault Refusal :=
  .next (s.serveReq r 2 fun q _ => s.reply q 0 (wordsOf s.dstat) 0)

/-- The IA of an address of a request (R313): of a `sys`, that which it names under the caller's range table. -/
def State.reqIA (s : State) (r : Request) (a : Nat) : Nat :=
  match r.grp.bind s.holder? with
  | some gr => iaAt gr.ranges a
  | none => a

/-- A launch with its entry and precondition read is put into the queue, or finds it full (R299, R313). -/
def State.submitFor (s : State) (r : Request) (entry : List Byte) (ia : Nat) (pre : List Byte) : State :=
  match s.submit r.part (BitVec.ofNat 1024 (leNat entry)) (BitVec.ofNat 64 ia) (BitVec.ofNat 256 (leNat pre)) with
  | some s1 => s1.reply r 0 [1] 0
  | none => s.reply r 0 [0] 0

/-- LAUNCH (R299, R313): a copy of the entry with its precondition goes to the partition's queue. -/
def execLaunch (r : Nat) (s : State) : Host.Outcome State Fault Refusal :=
  .next (s.serveReq r 1 fun q p =>
    let a := q.argD 0
    let pa := q.argD 2
    if a % 128 ≠ 0 ∨ pa % 32 ≠ 0 then s.reply q 3 [] 0
    else
      match s.reqBuffer q p false a 128 with
      | .error e => s.reqStop q e
      | .ok ds =>
        let ia := s.reqIA q a
        if pa = 0 then s.submitFor q (s.readPlaces q.part ds) ia []
        else
          match s.reqRead q p pa 32 with
          | .error e => s.reqStop q e
          | .ok pre => s.submitFor q (s.readPlaces q.part ds) ia pre)

/-! ### QUOTE (R321) -/

/-- The signed part of a quote, bytes 0 to 767. -/
def State.quoteBody (s : State) (nonce : List Byte) : List Byte :=
  leBytes 8 1 ++ leBytes 8 s.dstat.toNat ++ leBytes 8 s.now ++ leBytes 8 s.fwVersion.toNat ++
    ((nonce ++ List.replicate 32 0).take 32) ++ digestBytes (Config.shake256 Config.identityKey) ++
    s.mregs.toList.flatMap digestBytes ++ List.replicate 128 0

/-- A quote (R321). -/
def State.quoteBytes (s : State) (nonce : List Byte) : List Byte :=
  let body := s.quoteBody nonce
  body ++ (Config.falconSign body ++ List.replicate 1280 0).take 1280

/-- QUOTE (R313, R321). -/
def execQuote (r : Nat) (s : State) : Host.Outcome State Fault Refusal :=
  .next (s.serveReq r 3 fun q p =>
    let a := q.argD 0
    let nonce := (List.range 4).flatMap fun i => leBytes 4 (q.arg (4 + i))
    if a % 8 ≠ 0 then s.reply q 3 [] 0
    else if s.recovery then
      if s.physRange a 2048 then State.reply { s with mem := writeBytes s.mem a (s.quoteBytes nonce) } q 0 [2048] 0 else s.reply q 4 [] 0
    else
      match s.reqBuffer q p true a 2048 with
      | .error e => s.reqStop q e
      | .ok ds =>
        let w := s.writePlaces q.part ds (s.quoteBytes nonce) 0
        w.1.reply q 0 [2048] w.2)

/-! ### HOT, MIGRATE -/

/-- Where the address of a request that names a page lies (R313): a stop, or the IA of paged memory; none where it lies in no page. -/
def State.reqPage (s : State) (r : Request) (p : Partition) (a : Nat) : Except ReqStop (Option Nat) :=
  match r.grp.bind s.holder? with
  | some gr =>
    match s.translate r.part gr.ranges a true false false none with
    | .ok (.paged ia) => .ok (some ia)
    | .ok _ => .ok none
    | .error _ => .error (.code 4)
  | none => if p.hasIA a then .ok (some a) else .error (.code 3)

/-- HOT (R169, R313): the page's counter, tier, home and log₂ size. -/
def execHot (r : Nat) (s : State) : Host.Outcome State Fault Refusal :=
  .next (s.serveReq r 4 fun q p =>
    match s.reqPage q p (q.argD 0) with
    | .error e => s.reqStop q e
    | .ok none => s.reply q 3 [] 0
    | .ok (some ia) =>
      match s.walk q.part ia with
      | .replay => s.reqStop q (.wait (some ia))
      | .moving => s
      | .fatal => s.reply q 4 [] 0
      | .resident _ _ home size leaf =>
        let e := leNat (readBytes s.mem leaf 16)
        s.reply q 0 ([bitsN e 127 112, bitsN e 5 5, home, Nat.log2 size].map (BitVec.ofNat 32)) 0)

/-- MIGRATE (R313): a hint, which Carillon may refuse silently, as it does one that names no page or no tier; a migration is an event of its
own. -/
def execMigrate (r : Nat) (s : State) : Host.Outcome State Fault Refusal :=
  .next (s.serveReq r 7 fun q p =>
    match s.reqPage q p (q.argD 0) with
    | .error e => s.reqStop q e
    | .ok none => s.reply q 0 [] 0
    | .ok (some ia) =>
      match s.walk q.part ia with
      | .replay => s.reqStop q (.wait (some ia))
      | .moving => s
      | .fatal => s.reply q 4 [] 0
      | .resident _ _ _ _ _ => s.reply q 0 [] 0)

/-! ### RELOAD (R166) -/

/-- A region lies in a caller's region or below it; a request from outside the device may name any (R313). -/
def State.regionAllowed (s : State) (r : Request) (chain : List (Nat × BitVec 1024)) : Bool :=
  match r.grp.bind s.holder? with
  | some gr => chain.any fun e => e.1 == gr.chain.getD 0 0
  | none => true

/-- A group whose own region is the one of an RCB. -/
def Group.ofRegion (gr : Group) (part rcb : Nat) : Bool := decide (gr.part = part) && gr.chain.getD 0 0 == rcb

/-- A group is at an instruction boundary with its issued accesses drained, or parked on a page (R166). -/
def Group.reloadable (gr : Group) : Bool := !gr.pushesLeft && (!gr.inside || match gr.wait with | .parked _ => true | _ => false)

/-- The groups of a region take a range table (R166). -/
def State.reload (s : State) (part rcb : Nat) (ranges : List RangeEnt) : State × Nat :=
  let set := fun gr : Group => if gr.ofRegion part rcb then { gr with ranges := ranges } else gr
  ({ s.modGroups set with saved := s.saved.map set }, (s.holders.filter fun gr => gr.ofRegion part rcb).length)

/-- RELOAD (R166, R313): the range table of a region is read again for its groups, whose issued accesses are drained under the old one
first; the reply waits for that. -/
def execReload (r : Nat) (s : State) : Host.Outcome State Fault Refusal :=
  .next (s.serveReq r 5 fun q p =>
    let rcb := q.argD 0
    if q.grp.isNone && !covers p.ranges rcb 128 then s.reply q 3 [] 0
    else
      match s.rcbChain q.part rcb with
      | .error (.wait ia) => s.reqStop q (.wait ia)
      | .error (.refuse _) => s.reply q 4 [] 0
      | .ok chain =>
        if !s.regionAllowed q chain then s.reply q 2 [] 0
        else
          match s.loadRanges q.part ((effective chain 8 499 448).getD 0) with
          | .error ia => s.reqStop q (.wait ia)
          | .ok ranges =>
            let s1 := s.flushGroups fun gr => gr.ofRegion q.part rcb
            if s1.groups.all fun gr => !gr.ofRegion q.part rcb || gr.reloadable then
              let x := s1.reload q.part rcb ranges
              x.1.reply q 0 [BitVec.ofNat 32 x.2] 0
            else s1)

/-! ### MONITOR (R323, R324) -/

/-- A monitor point exists (R323). -/
def pointExists (n : Nat) : Bool :=
  match n / 1024 with
  | 0 => decide (n % 1024 < 288) | 1 => decide (n % 1024 < 64) | 2 => decide (n % 1024 < 8) | 3 => decide (n % 1024 < 32)
  | 4 => decide (n % 1024 < 64) | 5 => decide (n % 1024 < 4) | _ => false

/-- A partition owns the queue points of its clusters and the power points of their islands (R23, R323): the island of cluster n is number n
(log 36, DESIGN CHOICE). -/
def Partition.ownsPoint (p : Partition) (n : Nat) : Bool :=
  match n / 1024 with
  | 0 => p.clusters.getLsbD (n % 1024 / 6)
  | 4 => decide (n % 1024 < 48) && p.clusters.getLsbD (n % 1024)
  | _ => false

/-- The record of a window (R324). -/
def Window.bytes (w : Window) (point : Nat) : List Byte :=
  leBytes 8 w.start ++ leBytes 8 w.stop ++ leBytes 4 w.samples ++ leBytes 4 point ++ leBytes 8 w.lo ++ leBytes 8 w.hi ++
    (w.bins.flatMap fun b => leBytes 4 b) ++ List.replicate 24 0

/-- The window MONITOR returns for a point (R324): the last completed one; with none, no samples, and times the spec does not
give (log 7, DESIGN CHOICE). -/
def State.lastWindow (s : State) (point : Nat) : Window :=
  match (s.monitors.find? fun m => m.point == point).bind (·.last) with
  | some w => w
  | none => Window.fresh (Config.freeNat s.freeCtr % 2 ^ 64) (Config.freeNat (s.freeCtr + 1) % 2 ^ 64)

/-- A new window of a point is opened (R324). -/
def State.openWindow (s : State) (point us : Nat) : State :=
  let w := Window.fresh s.now (s.now + 1000 * us)
  let last := (s.monitors.find? fun m => m.point == point).bind (·.last)
  { s with monitors := (s.monitors.filter fun m => m.point != point) ++ [⟨point, some w, last⟩], freeCtr := s.freeCtr + 2 }

/-- A point's window that has reached its length becomes its last completed one (R324). -/
def State.closeWindow (s : State) (point : Nat) : State :=
  { s with monitors := s.monitors.map fun m =>
      match m.cur with
      | some w => if m.point = point ∧ w.stop ≤ s.now then { m with cur := none, last := some w } else m
      | none => m }

/-- MONITOR (R313, R324). -/
def execMonitor (r : Nat) (s : State) : Host.Outcome State Fault Refusal :=
  .next (s.serveReq r 6 fun q p =>
    let point := q.arg 0
    if !p.ownsPoint point && (q.grp.isSome || !q.listed) then s.reply q 2 [] 0
    else if !pointExists point then s.reply q 3 [] 0
    else if q.arg 1 = 0 ∨ 1000000 < q.arg 1 then s.reply q 3 [] 0
    else
      match s.reqBuffer q p true (q.argD 2) 128 with
      | .error e => s.reqStop q e
      | .ok ds =>
        let s0 := s.closeWindow point
        let w := s0.writePlaces q.part ds ((s0.lastWindow point).bytes point) 0
        (w.1.openWindow point (q.arg 1)).reply q 0 [128] w.2)

/-- A window reaches its length and becomes the point's last completed one (R324). -/
def execMonitorWindowEnd (point : Nat) (s : State) : Host.Outcome State Fault Refusal :=
  .next (s.closeWindow point)

/-! ### QUOTA (R273, R313) -/

/-- QUOTA (R273, R313): Carillon grants a group's region some of the units asked, by its own policy (log 10, DESIGN CHOICE). A request from
outside names no region, and none is granted. -/
def execQuota (r : Nat) (s : State) : Host.Outcome State Fault Refusal :=
  .next (s.serveReq r 8 fun q _ =>
    match q.grp.bind s.holder? with
    | none => s.reply q 0 [0] 0
    | some gr =>
      let rcb := regionKey gr.part (gr.chain.getD 0 0)
      let ask := q.arg 0
      if Config.quotaDenied rcb ask then s.reply q 2 [] 0
      else
        let n := min ask (Config.quotaGrant rcb (SMap.get 0 s.granted rcb) ask)
        State.reply { s with granted := SMap.set 0 s.granted rcb (SMap.get 0 s.granted rcb + n) } q 0 [BitVec.ofNat 32 n] 0)

end Sys2Proof.Machine
end

