-- ==== Sys2Proof/Machine/Administration.lean ====
section
/-!
DEFINITION. The requests that only the host and the network may make: PARTITION and its six operations (R314), CONSUMERS (R277),
DEBUG (R228), FWUPD, PEERS and EXPORT (R315).
-/

namespace Sys2Proof.Machine

/-! ### Partition descriptors (R314) -/

/-- A partition descriptor as its words give it. -/
structure PartDesc where
  n : Nat
  clusters : BitVec 48
  stageMiB : BitVec 256
  list : Nat
  count : Nat

/-- The descriptor in a request's words 1 to 15. -/
def PartDesc.of (r : Request) : PartDesc :=
  { n := r.arg 1 % 16, clusters := BitVec.ofNat 48 (r.argD 2)
    stageMiB := BitVec.ofNat 256 (((List.range 8).map fun i => r.arg (4 + i) * 2 ^ (32 * i)).sum), list := r.argD 12
    count := r.arg 14 }

/-- The descriptor's reserved bits are zero, its list is aligned, its count is in range, and it names a cluster. -/
def PartDesc.ok (d : PartDesc) (r : Request) : Bool :=
  decide (r.arg 1 < 16) && decide (r.arg 3 < 2 ^ 16) && decide (r.arg 15 = 0) && decide (d.list % 16 = 0) &&
    decide (d.count ≤ 64) && d.clusters != 0

/-- Words 2 to 15 of a request are zero. -/
def Request.restZero (r : Request) : Bool := (List.range 14).all fun i => decide (r.arg (2 + i) = 0)

/-- A range-list entry (R314): base and length in bytes, or none for a reserved bit, a base off its 64 KiB, a length of 0, or a range
that leaves paged memory. -/
def rangeEntry (x : Nat) : Option (Nat × Nat) :=
  let base := bitsN x 51 0
  let len := bitsN x 95 64 * 65536
  if bitsN x 127 96 = 0 ∧ bitsN x 63 52 = 0 ∧ base % 65536 = 0 ∧ 0 < len ∧ base + len ≤ stageWindow then some (base, len)
  else none

/-- The entries of a list of n-byte records. -/
def listEntries (n count : Nat) (bs : List Byte) : List Nat := (List.range count).map fun i => leNat ((bs.drop (n * i)).take n)

/-- All of some entries read, or none. -/
def allSome {α β : Type} (f : α → Option β) : List α → Option (List β)
  | [] => some []
  | x :: r =>
    match f x, allSome f r with
    | some y, some ys => some (y :: ys)
    | _, _ => none

/-- Bytes at an IA of a list that a request names, in the named partition's page table. -/
def State.readListIn (s : State) (part ia n : Nat) : Except ReqStop (List Byte) :=
  match s.reqDests ⟨0, .net 0, 0, part, 0, true, true, Vector.replicate 16 0, none⟩ false (piecesOf ia n) with
  | .ok ds => .ok (s.readPlaces part ds)
  | .error e => .error e

/-- The range list of a descriptor, read under the named partition's page table (log 10, DESIGN CHOICE). -/
def State.rangeList (s : State) (d : PartDesc) : Except ReqStop (List (Nat × Nat)) :=
  match s.readListIn d.n d.list (16 * d.count) with
  | .error e => .error e
  | .ok bs =>
    match allSome rangeEntry (listEntries 16 d.count bs) with
    | some rs => .ok rs
    | none => .error (.code 3)

/-- Another partition has one of the descriptor's clusters or Stage MiB (R21). -/
def State.overlaps (s : State) (d : PartDesc) : Bool :=
  s.parts.any fun p => p.n != d.n && (p.clusters &&& d.clusters != 0 || p.stageMiB &&& d.stageMiB != 0)

/-- A cluster is neither idle nor halted (R21): a group, a record, or an engine's command is on it. -/
def State.clusterBusy (s : State) (n : Nat) : Bool :=
  let c := s.cluster n
  s.groups.any (fun gr => gr.core / 4 == n) ||
  c.queues.toList.any (fun q => !q.isEmpty) || c.rings.toList.any (fun q => !q.isEmpty) || !c.jobs.isEmpty ||
  s.copySlots.any (fun e => e.1 / 64 / 4 == n && e.2.cmd.isSome) ||
  s.wloadSlots.any (fun e => e.1 / 32 == n && e.2.cmd.isSome) ||
  s.cinsSlots.any (fun e => e.1 / 32 / 4 == n && e.2.cmd.isSome)

/-- One of some clusters is busy. -/
def State.anyBusy (s : State) (m : BitVec 48) : Bool := (List.range 48).any fun n => m.getLsbD n && s.clusterBusy n

/-- Clusters enter or leave a partition: their companding tables hold the default curve again (R64, R314). -/
def State.resetCompand (s : State) (m : BitVec 48) : State :=
  { s with compand := SMap.keep (fun k => !m.getLsbD (k / 136 / 4)) s.compand }

/-- A run of Stage lines meets some MiB. -/
def meetsMiB (m : BitVec 256) (first lines : Nat) : Bool :=
  (List.range 256).any fun i => m.getLsbD i && decide (first < (i + 1) * 8192) && decide (i * 8192 < first + lines)

/-- A running partition's cohorts, or its engines' commands, use lines of some Stage MiB (R21). -/
def State.sharesIn (s : State) (part : Nat) (m : BitVec 256) : Bool :=
  let uses := fun b : CmdBase => b.part == part && meetsMiB m b.stgFirst b.stgLines
  (s.cohorts.any fun c => c.part == part && meetsMiB m c.stgFirst c.stgLines) ||
  (s.copySlots.any fun e => e.2.cmd.any fun c => uses c.base) || (s.wloadSlots.any fun e => e.2.cmd.any fun c => uses c.base)

/-- Stage lines that enter or leave a partition hold nothing of their last owner's: they are zero, present and clean (R22; log 43, DESIGN
CHOICE). -/
def State.clearMiB (s : State) (m : BitVec 256) : State :=
  { s with
    stage := s.stage.filter fun e => !m.getLsbD (e.1 / 2 ^ 20)
    absent := s.absent.filter fun a => !m.getLsbD (a.1 / 8192)
    poison := SMap.keep (fun k => decide (k < 2 ^ 40) || !m.getLsbD ((k - 2 ^ 40) / 8192)) s.poison }

/-- A PARTITION request of an operation (R314): the header's part field must be zero; then it is served. -/
def State.servePart (s : State) (id op : Nat) (f : Request → State) : State :=
  match s.requests.find? fun r => r.id == id with
  | none => s
  | some r =>
    if r.reply.isSome || r.code != 16 || r.arg 0 != op || !s.booted || s.orphan r then s
    else if s.recovery then s.reply r 5 [] 0
    else if r.grp.isSome ∨ !r.listed then s.reply r 2 [] 0
    else if !r.reservedOk ∨ r.part ≠ 0 then s.reply r 3 [] 0
    else f r

/-- The partition that an operation on word 1 alone names. -/
def State.namedPart (s : State) (r : Request) : Option Partition :=
  if r.arg 1 < 16 ∧ r.restZero then s.part? (r.arg 1) else none

/-- A new partition (R283, R314): empty queues and tables, and the page-table root that Carillon places. -/
def PartDesc.fresh (d : PartDesc) (ranges : List (Nat × Nat)) : Partition :=
  { n := d.n, clusters := d.clusters, stageMiB := d.stageMiB, rangeIA := d.list, ranges := ranges, root := Config.ptRoot d.n
    halted := false, consumers := [], peers := [], exports := [], shadow := Shadow.empty }

/-- The clusters of a new partition start with every chime counter and base at 0 and nothing queued (R283, R314). -/
def State.resetClusters (s : State) (m : BitVec 48) : State :=
  { s with clusters := Vector.ofFn fun n => if m.getLsbD n.val then Cluster.idle else s.clusters[n] }

/-- CREATE (R314): the range list must lie in the ranges it gives the partition (R313). -/
def execPartitionCreate (r : Nat) (s : State) : Host.Outcome State Fault Refusal :=
  .next (s.servePart r 0 fun q =>
    let d := PartDesc.of q
    if !d.ok q || (s.part? d.n).isSome || s.overlaps d then s.reply q 3 [] 0
    else if s.anyBusy d.clusters then s.reply q 5 [] 0
    else
      match State.rangeList { s with parts := s.parts ++ [d.fresh []] } d with
      | .error e => s.reqStop { q with part := d.n } e
      | .ok ranges =>
        if covers ranges d.list (16 * d.count) then
          let s1 := ((s.resetClusters d.clusters).resetCompand d.clusters).clearMiB d.stageMiB
          State.reply { s1 with parts := s1.parts ++ [d.fresh ranges] } q 0 [1] 0
        else s.reply q 3 [] 0)

/-- RESIZE (R314): clusters, Stage and memory ranges are replaced. A cluster that enters or leaves starts anew, with the default curves
(R64, R283), in what is saved of a halted partition too; Stage lines that a running partition's cohorts or commands use cannot leave it
(R21). -/
def execPartitionResize (r : Nat) (s : State) : Host.Outcome State Fault Refusal :=
  .next (s.servePart r 1 fun q =>
    let d := PartDesc.of q
    match s.part? d.n with
    | none => s.reply q 3 [] 0
    | some p =>
      let changed := p.clusters ^^^ d.clusters
      let lines := p.stageMiB ^^^ d.stageMiB
      if !d.ok q || s.overlaps d || !covers p.ranges d.list (16 * d.count) then s.reply q 3 [] 0
      else if s.anyBusy changed || (!p.halted && s.sharesIn d.n (p.stageMiB &&& ~~~d.stageMiB)) then s.reply q 5 [] 0
      else
        match s.rangeList d with
        | .error e => s.reqStop { q with part := d.n } e
        | .ok ranges =>
          let s1 := (((s.resetClusters changed).resetCompand changed).clearMiB lines).modPart d.n fun p =>
            { p with
              clusters := d.clusters, stageMiB := d.stageMiB, rangeIA := d.list, ranges := ranges
              shadow := p.shadow.without (p.clusters &&& ~~~d.clusters) }
          s1.reply q 0 [1] 0)

/-- A place of a structure's descriptor goes with a partition: in its Stage lines, or in memory of no other (R22). -/
def State.goneKey (s : State) (p : Partition) (key : Nat) : Bool :=
  if key < 2 ^ 52 then s.parts.all fun q => q.n == p.n || !q.hasIA key
  else decide (2 ^ 60 ≤ key) && decide (key < 2 ^ 60 + 2 ^ 28) && p.hasLine ((key - 2 ^ 60) / 128)

/-- A partition is removed with its launch queue, its saved state and its tables (R314); no line is absent for a command of it any more, and
nothing of it is left to one that is created under its number (R22). -/
def State.removePart (s : State) (p : Partition) : State :=
  let mine := fun region => decide (region / 2 ^ 52 = p.n)
  { s.resetCompand p.clusters with
    absent := s.absent.filter fun a => !p.hasEngine a.2
    credits := s.credits.filter fun c => !p.hasLine (c.clave / 128)
    faults := s.faults.filter fun f => f.part != p.n
    cycles := SMap.keep (fun k => !mine k) s.cycles
    charged := SMap.keep (fun k => !mine k) s.charged
    granted := SMap.keep (fun k => !mine k) s.granted
    heldColls := SMap.keep (fun k => !s.goneKey p k) s.heldColls
    heldLists := SMap.keep (fun k => !s.goneKey p k) s.heldLists
    lists := SMap.keep (fun k => !s.goneKey p k) s.lists
    peerLink := s.peerLink.filter fun e => e.1 != p.n
    shadowStore := s.shadowStore.filter fun e => e.2 != some p.n
    parts := s.parts.filter fun x => x.n != p.n
    launches := s.launches.filter fun l => l.part != p.n
    saved := s.saved.filter fun gr => gr.part != p.n
    cohorts := s.cohorts.filter fun c => c.part != p.n }

/-- DESTROY (R314). -/
def execPartitionDestroy (r : Nat) (s : State) : Host.Outcome State Fault Refusal :=
  .next (s.servePart r 2 fun q =>
    match s.namedPart q with
    | none => s.reply q 3 [] 0
    | some p => if s.anyBusy p.clusters then s.reply q 5 [] 0 else (s.removePart p).reply q 0 [1] 0)

/-- The partition of a number is halted. -/
def State.isHalted (s : State) (n : Nat) : Bool := match s.part? n with | some p => p.halted | none => false

/-- HALT (R225, R314): the reply is sent once the partition is halted. -/
def execPartitionHalt (r : Nat) (s : State) : Host.Outcome State Fault Refusal :=
  .next (s.servePart r 3 fun q =>
    match s.namedPart q with
    | none => s.reply q 3 [] 0
    | some p =>
      let s1 := s.preempt p.n
      if s1.isHalted p.n then s1.reply q 0 [1] 0 else s1)

/-- RESUME (R227, R314): the reply is sent once the partition's groups are ready. -/
def execPartitionResume (r : Nat) (s : State) : Host.Outcome State Fault Refusal :=
  .next (s.servePart r 4 fun q =>
    match s.namedPart q with
    | none => s.reply q 3 [] 0
    | some p =>
      if !p.halted then s.reply q 3 [] 0
      else
        let s1 := s.restore p.n
        if s1.isHalted p.n then s1 else s1.reply q 0 [1] 0)

/-- The descriptor words 1 to 14 of a partition, and word 15 (R314). -/
def Partition.words (p : Partition) : List Word :=
  [BitVec.ofNat 32 p.n, p.clusters.extractLsb' 0 32, p.clusters.extractLsb' 32 32] ++
    ((List.range 8).map fun i => p.stageMiB.extractLsb' (32 * i) 32) ++ wordsOf (BitVec.ofNat 64 p.rangeIA) ++
    [BitVec.ofNat 32 p.ranges.length, BitVec.ofNat 32 p.halted.toNat]

/-- The bytes of a partition's range list. -/
def Partition.listBytes (p : Partition) : List Byte :=
  p.ranges.flatMap fun e => leBytes 8 e.1 ++ leBytes 8 (e.2 / 65536)

/-- QUERY (R314): the descriptor, with the range list written at its address. -/
def execPartitionQuery (r : Nat) (s : State) : Host.Outcome State Fault Refusal :=
  .next (s.servePart r 5 fun q =>
    match s.namedPart q with
    | none => s.reply q 3 [] 0
    | some p =>
      match s.reqBuffer { q with part := p.n } p true p.rangeIA p.listBytes.length with
      | .error e => s.reqStop { q with part := p.n } e
      | .ok ds => (s.writePlaces p.n ds p.listBytes 0).1.reply q 0 p.words 0)

/-! ### Tables of a partition (R277, R315) -/

/-- An entry of a consumer table (R277): a consumer, or none where it is not valid. -/
def consumerOf (n x : Nat) : Option Consumer :=
  let batch := bitsN x 175 168
  let rsz := bitsN x 167 160
  let ringcap := bitsN x 159 128
  let ring := bitsN x 127 64
  if bitsN x 176 176 = 1 ∧ 1 ≤ batch ∧ batch ≤ ringcap ∧ (rsz = 4 ∨ rsz = 5) ∧ ring % 4096 = 0 ∧ bitsN x 511 177 = 0 ∧
      bitsN x 63 52 = 0 then
    some { n := n, batch := batch, rsz := rsz, ringcap := ringcap, ring := ring, tmpl := bitsN x 51 0, tail := 0, held := []
           batches := [] }
  else none

/-- A consumer installed in place of another (R277): with the same ring it goes on where that one stands, its records and batches kept; what
becomes of records in a ring that is replaced is not said, and the new one starts empty (log 39, DESIGN CHOICE). -/
def Consumer.after (old : Option Consumer) (c : Consumer) : Consumer :=
  match old with
  | some o =>
    if o.ring = c.ring ∧ o.ringcap = c.ringcap ∧ o.rsz = c.rsz then { c with tail := o.tail, held := o.held, batches := o.batches } else c
  | none => c

/-- CONSUMERS (R277, R313): the partition's consumer table is replaced, and mreg3 extended with its digest (R320). -/
def execConsumers (r : Nat) (s : State) : Host.Outcome State Fault Refusal :=
  .next (s.serveReq r 17 fun q p =>
    match s.reqRead q p (q.argD 0) 16256 with
    | .error e => s.reqStop q e
    | .ok bs =>
      let cs := ((listEntries 64 254 bs).zipIdx.filterMap fun e => (consumerOf e.2 e.1).map fun c =>
        Consumer.after (p.consumers.find? fun o => o.n == c.n) c)
      let s1 := (s.modPart p.n fun p => { p with consumers := cs }).extend 3 (Config.shake256 bs)
      s1.reply q 0 [] 0)

/-- A peer-list entry (R315): its number, operations and address, or none for a reserved bit. -/
def peerOf (x : Nat) : Option (Nat × BitVec 16 × BitVec 128) :=
  if bitsN x 255 176 = 0 ∧ bitsN x 159 144 = 0 ∧ bitsN x 175 172 = 0 then
    some (bitsN x 143 128, BitVec.ofNat 16 (bitsN x 175 160), BitVec.ofNat 128 x)
  else none

/-- PEERS (R315, R319): the partition's peer table is replaced, and mreg3 extended with the list's digest. -/
def execPeers (r : Nat) (s : State) : Host.Outcome State Fault Refusal :=
  .next (s.serveReq r 20 fun q p =>
    let n := q.arg 2
    if q.argD 0 % 8 ≠ 0 ∨ 65536 < n then s.reply q 3 [] 0
    else
      match s.reqRead q p (q.argD 0) (32 * n) with
      | .error e => s.reqStop q e
      | .ok bs =>
        match allSome peerOf (listEntries 32 n bs) with
        | none => s.reply q 3 [] 0
        | some ps =>
          if decide (ps.map (·.1)).Nodup then
            ((s.modPart p.n fun p => { p with peers := ps }).extend 3 (Config.shake256 bs)).reply q 0 [BitVec.ofNat 32 n] 0
          else s.reply q 3 [] 0)

/-- An export-list entry (R315): base, length, readable, writable; none for a reserved bit, a base off its 64 KiB, or a length
of 0. -/
def exportOf (x : Nat) : Option (Nat × Nat × Bool × Bool) :=
  let base := bitsN x 51 0
  let len := bitsN x 95 64 * 65536
  if bitsN x 127 96 = 0 ∧ bitsN x 63 54 = 0 ∧ base % 65536 = 0 ∧ 0 < len then
    some (base, len, bitsN x 53 53 = 1, bitsN x 52 52 = 1)
  else none

/-- EXPORT (R315, R319): the partition's export list is replaced, and mreg3 extended with the list's digest. -/
def execExportList (r : Nat) (s : State) : Host.Outcome State Fault Refusal :=
  .next (s.serveReq r 21 fun q p =>
    let n := q.arg 2
    if q.argD 0 % 16 ≠ 0 ∨ 64 < n then s.reply q 3 [] 0
    else
      match s.reqRead q p (q.argD 0) (16 * n) with
      | .error e => s.reqStop q e
      | .ok bs =>
        match allSome exportOf (listEntries 16 n bs) with
        | none => s.reply q 3 [] 0
        | some es =>
          if es.all fun e => covers p.ranges e.1 e.2.1 then
            ((s.modPart p.n fun p => { p with exports := es }).extend 3 (Config.shake256 bs)).reply q 0 [BitVec.ofNat 32 n] 0
          else s.reply q 3 [] 0)

/-! ### DEBUG, FWUPD (R228, R313) -/

/-- DEBUG (R228, R313, R320): a verified unlock enables the debug port and extends mreg2; any other is DENIED (log 10, DESIGN CHOICE). -/
def execDebug (r : Nat) (s : State) : Host.Outcome State Fault Refusal :=
  .next (s.serveReq r 18 fun q _ =>
    let ws := q.args.toList
    if Config.unlockVerify ws then
      let s1 := State.extend { s with debugOn := true } 2 (Config.shake256 (ws.flatMap fun w => leBytes 4 w.toNat))
      (if s.debugOn then s1 else s1.statusChanged).reply q 0 [] 0
    else s.reply q 2 [] 0)

/-- FWUPD (R313): the image is written to a flash slot of Carillon's choice (log 7, DESIGN CHOICE). -/
def execFwupd (r : Nat) (s : State) : Host.Outcome State Fault Refusal :=
  .next (s.serveReq r 19 fun q p =>
    let burn := fun bs : List Byte =>
      let b := Config.freeBool s.freeCtr
      (State.setFlash { s with freeCtr := s.freeCtr + 1 } b bs).reply q 0 [BitVec.ofNat 32 b.toNat] 0
    if s.recovery then
      if s.physRange (q.argD 0) (q.arg 2) then burn (readBytes s.mem (q.argD 0) (q.arg 2)) else s.reply q 4 [] 0
    else
      match s.reqRead q p (q.argD 0) (q.arg 2) with
      | .error e => s.reqStop q e
      | .ok bs => burn bs)

end Sys2Proof.Machine
end

