-- ==== Sys2Proof/Machine/LaneFloat.lean ====
section
/-!
DEFINITION. Lane float instructions (R112 to R115): each acting lane computes one exact result rounded once, with its flags;
lanes that raise an enabled flag trap FP (R60).
-/

namespace Sys2Proof.Machine

/-- The IEEE format of a lane float format. -/
def ieeeOf (ff : FFmt) : IEEE := match ff with | .f32 => ieeeF32 | .f64 => ieeeF64

/-- A float source in a lane, as a code. -/
def Group.fsrc (gr : Group) (ff : FFmt) (r : Reg) (l : Nat) : Nat :=
  match ff with | .f32 => (lane (gr.src r) l).toNat | .f64 => (gr.srcD r l).toNat

/-- The registers a float source names. -/
def fregs (ff : FFmt) (r : Reg) : List Reg := match ff with | .f32 => [r] | .f64 => pairRegs r

/-- Write float codes in the lanes of a mask: one register, or an even pair under f64 (R79). -/
def Group.setF (gr : Group) (ff : FFmt) (d : Reg) (m : Mask) (f : Nat → Nat) : Group :=
  match ff with
  | .f32 => gr.setV d m (lanesFrom fun l => BitVec.ofNat 32 (f l))
  | .f64 =>
    (gr.setV d m (lanesFrom fun l => BitVec.ofNat 32 (f l))).setV (d + 1) m
      (lanesFrom fun l => BitVec.ofNat 32 (f l / 4294967296))

/-- A lane float operation: result code and flags of each lane, from the group as it stands. -/
def floatExec (len : Nat) (g : BitVec 3) (ff : FFmt) (d : Reg) (srcs : List Reg) (s : State)
    (f : Group → Nat → Nat × FFlags) : State :=
  laneFloat len g srcs s (fun l => (f s.cur l).2) fun m gr => gr.setF ff d m fun l => (f s.cur l).1

/-- `fadd d, a, b`, short f32 under rne (R112). -/
def execFadd (g : BitVec 3) (d a b : Reg) (s : State) : Host.Outcome State Fault Refusal :=
  .next (floatExec 1 g .f32 d [a, b] s fun gr l => ieeeF32.addOp .rne (gr.fsrc .f32 a l) (gr.fsrc .f32 b l))

/-- `fsub d, a, b`, short f32 under rne (R112). -/
def execFsub (g : BitVec 3) (d a b : Reg) (s : State) : Host.Outcome State Fault Refusal :=
  .next (floatExec 1 g .f32 d [a, b] s fun gr l => ieeeF32.subOp .rne (gr.fsrc .f32 a l) (gr.fsrc .f32 b l))

/-- `fmul d, a, b`, short f32 under rne (R112). -/
def execFmul (g : BitVec 3) (d a b : Reg) (s : State) : Host.Outcome State Fault Refusal :=
  .next (floatExec 1 g .f32 d [a, b] s fun gr l => ieeeF32.mulOp .rne (gr.fsrc .f32 a l) (gr.fsrc .f32 b l))

/-- `ffma d, a, b`: d := a × b + d (R112). -/
def execFfma (g : BitVec 3) (d a b : Reg) (s : State) : Host.Outcome State Fault Refusal :=
  .next (floatExec 1 g .f32 d [a, b, d] s fun gr l =>
    ieeeF32.fmaOp .rne (gr.fsrc .f32 a l) (gr.fsrc .f32 b l) (gr.fsrc .f32 d l))

/-- `fmin d, a, b`, short f32 (R113). -/
def execFmin (g : BitVec 3) (d a b : Reg) (s : State) : Host.Outcome State Fault Refusal :=
  .next (floatExec 1 g .f32 d [a, b] s fun gr l => ieeeF32.minMax false (gr.fsrc .f32 a l) (gr.fsrc .f32 b l))

/-- `fmax d, a, b`, short f32 (R113). -/
def execFmax (g : BitVec 3) (d a b : Reg) (s : State) : Host.Outcome State Fault Refusal :=
  .next (floatExec 1 g .f32 d [a, b] s fun gr l => ieeeF32.minMax true (gr.fsrc .f32 a l) (gr.fsrc .f32 b l))

/-- `fadd.fmt.rnd d, a, b` (R112). -/
def execFaddX (g : BitVec 3) (d a b : Reg) (ff : FFmt) (rnd : Rnd) (s : State) : Host.Outcome State Fault Refusal :=
  .next (floatExec 2 g ff d (fregs ff a ++ fregs ff b) s fun gr l =>
    (ieeeOf ff).addOp rnd (gr.fsrc ff a l) (gr.fsrc ff b l))

/-- `fsub.fmt.rnd d, a, b` (R112). -/
def execFsubX (g : BitVec 3) (d a b : Reg) (ff : FFmt) (rnd : Rnd) (s : State) : Host.Outcome State Fault Refusal :=
  .next (floatExec 2 g ff d (fregs ff a ++ fregs ff b) s fun gr l =>
    (ieeeOf ff).subOp rnd (gr.fsrc ff a l) (gr.fsrc ff b l))

/-- `fmul.fmt.rnd d, a, b` (R112). -/
def execFmulX (g : BitVec 3) (d a b : Reg) (ff : FFmt) (rnd : Rnd) (s : State) : Host.Outcome State Fault Refusal :=
  .next (floatExec 2 g ff d (fregs ff a ++ fregs ff b) s fun gr l =>
    (ieeeOf ff).mulOp rnd (gr.fsrc ff a l) (gr.fsrc ff b l))

/-- `ffma.fmt.rnd d, a, b, c` (R112). -/
def execFfmaX (g : BitVec 3) (d a b c : Reg) (ff : FFmt) (rnd : Rnd) (s : State) : Host.Outcome State Fault Refusal :=
  .next (floatExec 2 g ff d (fregs ff a ++ fregs ff b ++ fregs ff c) s fun gr l =>
    (ieeeOf ff).fmaOp rnd (gr.fsrc ff a l) (gr.fsrc ff b l) (gr.fsrc ff c l))

/-- `fmin.fmt d, a, b` (R113). -/
def execFminX (g : BitVec 3) (d a b : Reg) (ff : FFmt) (s : State) : Host.Outcome State Fault Refusal :=
  .next (floatExec 2 g ff d (fregs ff a ++ fregs ff b) s fun gr l =>
    (ieeeOf ff).minMax false (gr.fsrc ff a l) (gr.fsrc ff b l))

/-- `fmax.fmt d, a, b` (R113). -/
def execFmaxX (g : BitVec 3) (d a b : Reg) (ff : FFmt) (s : State) : Host.Outcome State Fault Refusal :=
  .next (floatExec 2 g ff d (fregs ff a ++ fregs ff b) s fun gr l =>
    (ieeeOf ff).minMax true (gr.fsrc ff a l) (gr.fsrc ff b l))

/-- `frcp d, a` (R114). -/
def execFrcp (g : BitVec 3) (d a : Reg) (s : State) : Host.Outcome State Fault Refusal :=
  .next (floatExec 2 g .f32 d [a] s fun gr l => frcpOp (lane (gr.src a) l))

/-- `frsq d, a` (R114). -/
def execFrsq (g : BitVec 3) (d a : Reg) (s : State) : Host.Outcome State Fault Refusal :=
  .next (floatExec 2 g .f32 d [a] s fun gr l => frsqOp (lane (gr.src a) l))

/-- `fexp2 d, a` (R114). -/
def execFexp2 (g : BitVec 3) (d a : Reg) (s : State) : Host.Outcome State Fault Refusal :=
  .next (floatExec 2 g .f32 d [a] s fun gr l => fexp2Op (lane (gr.src a) l))

/-- `flog2 d, a` (R114). -/
def execFlog2 (g : BitVec 3) (d a : Reg) (s : State) : Host.Outcome State Fault Refusal :=
  .next (floatExec 2 g .f32 d [a] s fun gr l => flog2Op (lane (gr.src a) l))

/-- `fsin d, a` (R114). -/
def execFsin (g : BitVec 3) (d a : Reg) (s : State) : Host.Outcome State Fault Refusal :=
  .next (floatExec 2 g .f32 d [a] s fun gr l => fsinOp (lane (gr.src a) l))

/-- `fcos d, a` (R114). -/
def execFcos (g : BitVec 3) (d a : Reg) (s : State) : Host.Outcome State Fault Refusal :=
  .next (floatExec 2 g .f32 d [a] s fun gr l => fcosOp (lane (gr.src a) l))

/-- `fsqrt.fmt.rnd d, a` (R114). -/
def execFsqrt (g : BitVec 3) (d a : Reg) (ff : FFmt) (rnd : Rnd) (s : State) : Host.Outcome State Fault Refusal :=
  .next (floatExec 2 g ff d (fregs ff a) s fun gr l => (ieeeOf ff).sqrtOp rnd (gr.fsrc ff a l))

/-- The class bit of a float code (R115). -/
def classBit (p : IEEE) (c : Nat) : Nat :=
  let sub := decide (c / 2 ^ p.mbits % 2 ^ p.ebits = 0)
  match p.decode c with
  | .nan sig => if sig then 0 else 1
  | .inf neg => if neg then 2 else 9
  | .fin neg m => if m.num = 0 then (if neg then 5 else 6) else if neg then (if sub then 4 else 3) else (if sub then 7 else 8)

/-- `fclass d, a` (R115). -/
def execFclass (g : BitVec 3) (d a : Reg) (ff : FFmt) (s : State) : Host.Outcome State Fault Refusal :=
  .next (floatExec 2 g .f32 d (fregs ff a) s fun gr l => (2 ^ classBit (ieeeOf ff) (gr.fsrc ff a l), 0))

end Sys2Proof.Machine
end

