-- ==== Sys2Proof/Machine/LaneInt.lean ====
section
/-!
DEFINITION. Lane integer instructions (R105 to R111): each is one operation on 32-bit values, applied in the acting lanes.
-/

namespace Sys2Proof.Machine

/-- A one-source lane operation. -/
def lane1 (f : Word → Word) (d a : Reg) (m : Mask) (gr : Group) : Group :=
  let x := gr.src a
  gr.setV d m (lanesFrom fun l => f (lane x l))

/-- A two-source lane operation. -/
def lane2 (f : Word → Word → Word) (d a b : Reg) (m : Mask) (gr : Group) : Group :=
  let x := gr.src a
  let y := gr.src b
  gr.setV d m (lanesFrom fun l => f (lane x l) (lane y l))

/-- A three-source lane operation. -/
def lane3 (f : Word → Word → Word → Word) (d a b c : Reg) (m : Mask) (gr : Group) : Group :=
  let x := gr.src a
  let y := gr.src b
  let z := gr.src c
  gr.setV d m (lanesFrom fun l => f (lane x l) (lane y l) (lane z l))

/-- The low 32 bits of an exact integer (`.wrap`, R106). -/
def wrap32 (x : Int) : Word := BitVec.ofInt 32 x
/-- Clamp into the signed range (`.sat`, R107). -/
def satS (x : Int) : Word := BitVec.ofInt 32 (min (max x (-2147483648)) 2147483647)
/-- Clamp into the unsigned range (`.sat` of `.n32`, R107). -/
def satU (x : Int) : Word := BitVec.ofInt 32 (min (max x 0) 4294967295)
/-- Write an exact signed result under an overflow code (R106, R107). -/
def writeS (sat : Bool) (x : Int) : Word := if sat then satS x else wrap32 x
/-- Write an exact unsigned result under an overflow code (R106, R107). -/
def writeU (sat : Bool) (x : Int) : Word := if sat then satU x else wrap32 x

/-- Left shift by a register amount over all 32 bits (R109). -/
def shlOp (a b : Word) : Word := if b.toNat < 32 then a <<< b.toNat else 0
/-- Logical right shift by a register amount (R109). -/
def shrOp (a b : Word) : Word := if b.toNat < 32 then a >>> b.toNat else 0
/-- Arithmetic right shift by a register amount (R109). -/
def sarOp (a b : Word) : Word := if b.toNat < 32 then a.sshiftRight b.toNat else if a.msb then 0xFFFFFFFF else 0
/-- Rotate left by the amount mod 32 (R109). -/
def rotOp (a b : Word) : Word := a.rotateLeft (b.toNat % 32)
/-- High 32 bits of the signed product (R106). -/
def mulhiOp (a b : Word) : Word := BitVec.ofInt 32 (a.toInt * b.toInt / 4294967296)
/-- High 32 bits of the unsigned product (R106). -/
def mulhiUOp (a b : Word) : Word := BitVec.ofNat 32 (a.toNat * b.toNat / 4294967296)
/-- The number of one bits (R106). -/
def popcOp (a : Word) : Word := BitVec.ofNat 32 ((List.range 32).filter fun i => a.getLsbD i).length
/-- Leading zero bits; clz(0) = 32 (R106). -/
def clzOp (a : Word) : Word := BitVec.ofNat 32 (if a = 0 then 32 else 31 - Nat.log2 a.toNat)
/-- Bit i of the result is bit 31 − i (R106). -/
def brevOp (a : Word) : Word := a.reverse
/-- The width of a bitfield that begins at pos (R110). -/
def fieldLen (pos len : Nat) : Nat := if 32 ≤ pos then 0 else min len (32 - pos)
/-- Extract a bitfield (R110). -/
def bfxOp (a b c : Word) : Word :=
  let n := fieldLen b.toNat c.toNat
  if n = 0 then 0 else BitVec.ofNat 32 (a.toNat / 2 ^ b.toNat % 2 ^ n)
/-- Insert a bitfield (R110). -/
def bfiOp (len : Nat) (a b c : Word) : Word :=
  let n := fieldLen c.toNat len
  let m : Word := BitVec.ofNat 32 ((2 ^ n - 1) * 2 ^ (c.toNat % 32))
  if n = 0 then a else (a &&& ~~~m) ||| ((b <<< (c.toNat % 32)) &&& m)

/-- `add d, a, b`, short (R105). -/
def execAdd (g : BitVec 3) (d a b : Reg) (s : State) : Host.Outcome State Fault Refusal :=
  .next (laneExec 1 g [a, b] s (lane2 (fun x y => x + y) d a b))

/-- `sub d, a, b`, short (R105). -/
def execSub (g : BitVec 3) (d a b : Reg) (s : State) : Host.Outcome State Fault Refusal :=
  .next (laneExec 1 g [a, b] s (lane2 (fun x y => x - y) d a b))

/-- `mullo d, a, b`, short (R105). -/
def execMullo (g : BitVec 3) (d a b : Reg) (s : State) : Host.Outcome State Fault Refusal :=
  .next (laneExec 1 g [a, b] s (lane2 (fun x y => x * y) d a b))

/-- `and d, a, b`, short (R105). -/
def execAnd (g : BitVec 3) (d a b : Reg) (s : State) : Host.Outcome State Fault Refusal :=
  .next (laneExec 1 g [a, b] s (lane2 (fun x y => x &&& y) d a b))

/-- `or d, a, b`, short (R105). -/
def execOr (g : BitVec 3) (d a b : Reg) (s : State) : Host.Outcome State Fault Refusal :=
  .next (laneExec 1 g [a, b] s (lane2 (fun x y => x ||| y) d a b))

/-- `xor d, a, b`, short (R105). -/
def execXor (g : BitVec 3) (d a b : Reg) (s : State) : Host.Outcome State Fault Refusal :=
  .next (laneExec 1 g [a, b] s (lane2 (fun x y => x ^^^ y) d a b))

/-- `add d, a, imm`, short immediate (R86, R105). -/
def execAddImm (g : BitVec 3) (d a : Reg) (i : BitVec 7) (s : State) : Host.Outcome State Fault Refusal :=
  .next (laneExec 1 g [a] s (lane1 (fun x => x + imm7 i) d a))

/-- `add d, a, imm`, E1 immediate (R105). -/
def execAddImmLong (g : BitVec 3) (d a : Reg) (w : BitVec 32) (s : State) : Host.Outcome State Fault Refusal :=
  .next (laneExec 2 g [a] s (lane1 (fun x => x + w) d a))

/-- `and d, a, imm`, short immediate (R86, R105). -/
def execAndImm (g : BitVec 3) (d a : Reg) (i : BitVec 7) (s : State) : Host.Outcome State Fault Refusal :=
  .next (laneExec 1 g [a] s (lane1 (fun x => x &&& imm7 i) d a))

/-- `and d, a, imm`, E1 immediate (R105). -/
def execAndImmLong (g : BitVec 3) (d a : Reg) (w : BitVec 32) (s : State) : Host.Outcome State Fault Refusal :=
  .next (laneExec 2 g [a] s (lane1 (fun x => x &&& w) d a))

/-- `or d, a, imm`, short immediate (R86, R105). -/
def execOrImm (g : BitVec 3) (d a : Reg) (i : BitVec 7) (s : State) : Host.Outcome State Fault Refusal :=
  .next (laneExec 1 g [a] s (lane1 (fun x => x ||| imm7 i) d a))

/-- `or d, a, imm`, E1 immediate (R105). -/
def execOrImmLong (g : BitVec 3) (d a : Reg) (w : BitVec 32) (s : State) : Host.Outcome State Fault Refusal :=
  .next (laneExec 2 g [a] s (lane1 (fun x => x ||| w) d a))

/-- `shl d, a, imm`, short immediate 0 to 31 (R105). -/
def execShlImm (g : BitVec 3) (d a : Reg) (i : BitVec 7) (s : State) : Host.Outcome State Fault Refusal :=
  .next (laneExec 1 g [a] s (lane1 (fun x => x <<< i.toNat) d a))

/-- `shl d, a, imm`, E1 immediate 0 to 31 (R105). -/
def execShlImmLong (g : BitVec 3) (d a : Reg) (w : BitVec 32) (s : State) : Host.Outcome State Fault Refusal :=
  .next (laneExec 2 g [a] s (lane1 (fun x => x <<< w.toNat) d a))

/-- `shr d, a, imm`, short immediate 0 to 31 (R105). -/
def execShrImm (g : BitVec 3) (d a : Reg) (i : BitVec 7) (s : State) : Host.Outcome State Fault Refusal :=
  .next (laneExec 1 g [a] s (lane1 (fun x => x >>> i.toNat) d a))

/-- `shr d, a, imm`, E1 immediate 0 to 31 (R105). -/
def execShrImmLong (g : BitVec 3) (d a : Reg) (w : BitVec 32) (s : State) : Host.Outcome State Fault Refusal :=
  .next (laneExec 2 g [a] s (lane1 (fun x => x >>> w.toNat) d a))

/-- `sar d, a, imm`, short immediate 0 to 31 (R105). -/
def execSarImm (g : BitVec 3) (d a : Reg) (i : BitVec 7) (s : State) : Host.Outcome State Fault Refusal :=
  .next (laneExec 1 g [a] s (lane1 (fun x => x.sshiftRight i.toNat) d a))

/-- `sar d, a, imm`, E1 immediate 0 to 31 (R105). -/
def execSarImmLong (g : BitVec 3) (d a : Reg) (w : BitVec 32) (s : State) : Host.Outcome State Fault Refusal :=
  .next (laneExec 2 g [a] s (lane1 (fun x => x.sshiftRight w.toNat) d a))

/-- `movi d, imm`, short (R105). -/
def execMovi (g : BitVec 3) (d : Reg) (i : BitVec 7) (s : State) : Host.Outcome State Fault Refusal :=
  .next (laneExec 1 g [] s (fun m gr => gr.setV d m (Vector.replicate 64 (imm7 i))))

/-- `movi d, imm`, E1 (R105). -/
def execMoviLong (g : BitVec 3) (d : Reg) (w : BitVec 32) (s : State) : Host.Outcome State Fault Refusal :=
  .next (laneExec 2 g [] s (fun m gr => gr.setV d m (Vector.replicate 64 w)))

/-- `mov d, a` (R111). -/
def execMov (g : BitVec 3) (d a : Reg) (s : State) : Host.Outcome State Fault Refusal :=
  .next (laneExec 1 g [a] s (lane1 (fun x => x) d a))

/-- AddX: exact, then the overflow code (R106, R107). -/
def execAddX (g : BitVec 3) (d a b : Reg) (sat : Bool) (s : State) : Host.Outcome State Fault Refusal :=
  .next (laneExec 2 g [a, b] s (lane2 (fun x y => writeS sat (x.toInt + y.toInt)) d a b))

/-- SubX: exact, then the overflow code (R106, R107). -/
def execSubX (g : BitVec 3) (d a b : Reg) (sat : Bool) (s : State) : Host.Outcome State Fault Refusal :=
  .next (laneExec 2 g [a, b] s (lane2 (fun x y => writeS sat (x.toInt - y.toInt)) d a b))

/-- AddN32: exact, then the overflow code (R106, R107). -/
def execAddN32 (g : BitVec 3) (d a b : Reg) (sat : Bool) (s : State) : Host.Outcome State Fault Refusal :=
  .next (laneExec 2 g [a, b] s (lane2 (fun x y => writeU sat ((x.toNat : Int) + y.toNat)) d a b))

/-- SubN32: exact, then the overflow code (R106, R107). -/
def execSubN32 (g : BitVec 3) (d a b : Reg) (sat : Bool) (s : State) : Host.Outcome State Fault Refusal :=
  .next (laneExec 2 g [a, b] s (lane2 (fun x y => writeU sat ((x.toNat : Int) - y.toNat)) d a b))

/-- The carry of `addc` and the borrow of `subb` in lane l, from the exact sum or difference (R108). -/
def carryExec (g : BitVec 3) (d a b : Reg) (pi po : BitVec 3) (s : State) (f : Nat → Nat → Nat → Int)
    (out : Int → Bool) : State :=
  laneExec 2 g [a, b] s fun m gr =>
    let x := gr.src a
    let y := gr.src b
    let r := fun l => f (lane x l).toNat (lane y l).toNat ((gr.pred pi).getLsbD l).toNat
    (gr.setV d m (lanesFrom fun l => wrap32 (r l))).setPred po m (maskOf fun l => out (r l))

/-- `addc d, a, b, pi, po` (R108). -/
def execAddc (g : BitVec 3) (d a b : Reg) (pi po : BitVec 3) (s : State) : Host.Outcome State Fault Refusal :=
  .next (carryExec g d a b pi po s (fun x y c => (x + y + c : Nat)) fun r => decide (4294967296 ≤ r))

/-- `subb d, a, b, pi, po` (R108). -/
def execSubb (g : BitVec 3) (d a b : Reg) (pi po : BitVec 3) (s : State) : Host.Outcome State Fault Refusal :=
  .next (carryExec g d a b pi po s (fun x y c => (x : Int) - y - c) fun r => decide (r < 0))

/-- `neg d, a` (R106, R107). -/
def execNeg (g : BitVec 3) (d a : Reg) (sat : Bool) (s : State) : Host.Outcome State Fault Refusal :=
  .next (laneExec 2 g [a] s (lane1 (fun x => writeS sat (-x.toInt)) d a))

/-- `abs d, a` (R106, R107). -/
def execAbs (g : BitVec 3) (d a : Reg) (sat : Bool) (s : State) : Host.Outcome State Fault Refusal :=
  .next (laneExec 2 g [a] s (lane1 (fun x => writeS sat x.toInt.natAbs) d a))

/-- Min, extended (R106). -/
def execMin (g : BitVec 3) (d a b : Reg) (s : State) : Host.Outcome State Fault Refusal :=
  .next (laneExec 2 g [a, b] s (lane2 (fun x y => if x.slt y then x else y) d a b))

/-- MinN32, extended (R106). -/
def execMinN32 (g : BitVec 3) (d a b : Reg) (s : State) : Host.Outcome State Fault Refusal :=
  .next (laneExec 2 g [a, b] s (lane2 (fun x y => if x.ult y then x else y) d a b))

/-- Max, extended (R106). -/
def execMax (g : BitVec 3) (d a b : Reg) (s : State) : Host.Outcome State Fault Refusal :=
  .next (laneExec 2 g [a, b] s (lane2 (fun x y => if x.slt y then y else x) d a b))

/-- MaxN32, extended (R106). -/
def execMaxN32 (g : BitVec 3) (d a b : Reg) (s : State) : Host.Outcome State Fault Refusal :=
  .next (laneExec 2 g [a, b] s (lane2 (fun x y => if x.ult y then y else x) d a b))

/-- MulloX, extended (R106). -/
def execMulloX (g : BitVec 3) (d a b : Reg) (s : State) : Host.Outcome State Fault Refusal :=
  .next (laneExec 2 g [a, b] s (lane2 (fun x y => x * y) d a b))

/-- Mulhi, extended (R106). -/
def execMulhi (g : BitVec 3) (d a b : Reg) (s : State) : Host.Outcome State Fault Refusal :=
  .next (laneExec 2 g [a, b] s (lane2 (fun x y => mulhiOp x y) d a b))

/-- MulhiN32, extended (R106). -/
def execMulhiN32 (g : BitVec 3) (d a b : Reg) (s : State) : Host.Outcome State Fault Refusal :=
  .next (laneExec 2 g [a, b] s (lane2 (fun x y => mulhiUOp x y) d a b))

/-- Shl, extended (R109). -/
def execShl (g : BitVec 3) (d a b : Reg) (s : State) : Host.Outcome State Fault Refusal :=
  .next (laneExec 2 g [a, b] s (lane2 (fun x y => shlOp x y) d a b))

/-- Shr, extended (R109). -/
def execShr (g : BitVec 3) (d a b : Reg) (s : State) : Host.Outcome State Fault Refusal :=
  .next (laneExec 2 g [a, b] s (lane2 (fun x y => shrOp x y) d a b))

/-- Sar, extended (R109). -/
def execSar (g : BitVec 3) (d a b : Reg) (s : State) : Host.Outcome State Fault Refusal :=
  .next (laneExec 2 g [a, b] s (lane2 (fun x y => sarOp x y) d a b))

/-- Rot, extended (R109). -/
def execRot (g : BitVec 3) (d a b : Reg) (s : State) : Host.Outcome State Fault Refusal :=
  .next (laneExec 2 g [a, b] s (lane2 (fun x y => rotOp x y) d a b))

/-- AndX, extended (R106). -/
def execAndX (g : BitVec 3) (d a b : Reg) (s : State) : Host.Outcome State Fault Refusal :=
  .next (laneExec 2 g [a, b] s (lane2 (fun x y => x &&& y) d a b))

/-- OrX, extended (R106). -/
def execOrX (g : BitVec 3) (d a b : Reg) (s : State) : Host.Outcome State Fault Refusal :=
  .next (laneExec 2 g [a, b] s (lane2 (fun x y => x ||| y) d a b))

/-- XorX, extended (R106). -/
def execXorX (g : BitVec 3) (d a b : Reg) (s : State) : Host.Outcome State Fault Refusal :=
  .next (laneExec 2 g [a, b] s (lane2 (fun x y => x ^^^ y) d a b))

/-- Andn, extended (R106). -/
def execAndn (g : BitVec 3) (d a b : Reg) (s : State) : Host.Outcome State Fault Refusal :=
  .next (laneExec 2 g [a, b] s (lane2 (fun x y => x &&& ~~~y) d a b))

/-- Mad: a × b + c exactly, then the overflow code (R106, R107). -/
def execMad (g : BitVec 3) (d a b c : Reg) (sat : Bool) (s : State) : Host.Outcome State Fault Refusal :=
  .next (laneExec 2 g [a, b, c] s (lane3 (fun x y z => writeS sat (x.toInt * y.toInt + z.toInt)) d a b c))

/-- MadN32: a × b + c exactly, then the overflow code (R106, R107). -/
def execMadN32 (g : BitVec 3) (d a b c : Reg) (sat : Bool) (s : State) : Host.Outcome State Fault Refusal :=
  .next (laneExec 2 g [a, b, c] s (lane3 (fun x y z => writeU sat ((x.toNat : Int) * y.toNat + z.toNat)) d a b c))

/-- `sad d, a, b, c` (R106). -/
def execSad (g : BitVec 3) (d a b c : Reg) (s : State) : Host.Outcome State Fault Refusal :=
  .next (laneExec 2 g [a, b, c] s (lane3 (fun x y z => wrap32 ((x.toInt - y.toInt).natAbs + z.toInt)) d a b c))

/-- `sad.n32 d, a, b, c` (R106). -/
def execSadN32 (g : BitVec 3) (d a b c : Reg) (s : State) : Host.Outcome State Fault Refusal :=
  .next (laneExec 2 g [a, b, c] s (lane3 (fun x y z => wrap32 (((x.toNat : Int) - y.toNat).natAbs + z.toNat)) d a b c))

/-- `not d, a` (R106). -/
def execNot (g : BitVec 3) (d a : Reg) (s : State) : Host.Outcome State Fault Refusal :=
  .next (laneExec 2 g [a] s (lane1 (fun x => ~~~x) d a))

/-- `bfx d, a, b, c` (R110). -/
def execBfx (g : BitVec 3) (d a b c : Reg) (s : State) : Host.Outcome State Fault Refusal :=
  .next (laneExec 2 g [a, b, c] s (lane3 bfxOp d a b c))

/-- `bfi d, a, b, c, len` (R110). -/
def execBfi (g : BitVec 3) (d a b c : Reg) (len : BitVec 6) (s : State) : Host.Outcome State Fault Refusal :=
  .next (laneExec 2 g [a, b, c] s (lane3 (bfiOp len.toNat) d a b c))

/-- `popc d, a` (R106). -/
def execPopc (g : BitVec 3) (d a : Reg) (s : State) : Host.Outcome State Fault Refusal :=
  .next (laneExec 2 g [a] s (lane1 (popcOp) d a))

/-- `clz d, a` (R106). -/
def execClz (g : BitVec 3) (d a : Reg) (s : State) : Host.Outcome State Fault Refusal :=
  .next (laneExec 2 g [a] s (lane1 (clzOp) d a))

/-- `brev d, a` (R106). -/
def execBrev (g : BitVec 3) (d a : Reg) (s : State) : Host.Outcome State Fault Refusal :=
  .next (laneExec 2 g [a] s (lane1 (brevOp) d a))

/-- `lea d, a, b, s` (R106). -/
def execLea (g : BitVec 3) (d a b : Reg) (sh : BitVec 2) (s : State) : Host.Outcome State Fault Refusal :=
  .next (laneExec 2 g [a, b] s (lane2 (fun x y => x + (y <<< sh.toNat)) d a b))

end Sys2Proof.Machine
end

