-- ==== Sys2Proof/Machine/LaneMove.lean ====
section
/-!
DEFINITION. Cross-lane operations (R120 to R124), conversion (R125, R126), stream decode (R127, R128) and the register array
(R129, R130).
-/

namespace Sys2Proof.Machine

/-- Lane j of a source, or 0 at and above the width (R120). -/
def laneBelow (gr : Group) (x : LaneVec) (j : Nat) : Word := if j < gr.width then lane x j else 0

/-- The source lane of a shuffle (R121). -/
def shflFrom (sh : Shfl) (l : Nat) (amount : Word) : Int :=
  match sh with
  | .up => (l : Int) - amount.toNat
  | .down => (l : Int) + amount.toNat
  | .xor => (l ^^^ (amount.toNat % 64) : Nat)

/-- The operation of a scan or reduction (R122). -/
def redOp (o : RedOp) (x y : Word) : Word :=
  match o with
  | .add => x + y
  | .min => if x.slt y then x else y
  | .max => if x.slt y then y else x
  | .minN => if x.ult y then x else y
  | .maxN => if x.ult y then y else x

/-- The inclusive segmented scan over a list of lanes (R122): the value each lane gets. -/
def scanFrom (o : RedOp) (x : LaneVec) (head : Mask) : Option Word → List Nat → List (Nat × Word)
  | _, [] => []
  | acc, l :: ls =>
    let v :=
      match acc with
      | none => lane x l
      | some y => if head.getLsbD l then lane x l else redOp o y (lane x l)
    (l, v) :: scanFrom o x head (some v) ls

/-- The reduction over a list of lanes (R123). -/
def reduceFrom (o : RedOp) (x : LaneVec) : List Nat → Option Word
  | [] => none
  | l :: ls => some (ls.foldl (fun y k => redOp o y (lane x k)) (lane x l))

/-- `vperm d, a, b` (R120). -/
def execVperm (g : BitVec 3) (d a b : Reg) (s : State) : Host.Outcome State Fault Refusal :=
  .next (laneExec 1 g [a, b] s fun m gr =>
    let x := gr.src a
    let y := gr.src b
    gr.setV d m (lanesFrom fun l => laneBelow gr x ((lane y l).toNat % 64)))

/-- `vbcast d, a, k` (R120). -/
def execVbcast (g : BitVec 3) (d a : Reg) (k : BitVec 6) (s : State) : Host.Outcome State Fault Refusal :=
  .next (laneExec 1 g [a] s fun m gr =>
    gr.setV d m (Vector.replicate 64 (laneBelow gr (gr.src a) k.toNat)))

/-- `vshfl.dir d, a, b` (R121). -/
def execVshfl (g : BitVec 3) (d a b : Reg) (sh : Shfl) (s : State) : Host.Outcome State Fault Refusal :=
  .next (laneExec 2 g [a, b] s fun m gr =>
    let x := gr.src a
    let y := gr.src b
    gr.setV d m (lanesFrom fun l =>
      let j := shflFrom sh l (lane y l)
      if 0 ≤ j ∧ j < gr.width then lane x j.toNat else lane x l))

/-- `vscan.op d, a, ps` (R122). -/
def execVscan (g : BitVec 3) (d a : Reg) (px : BitVec 3) (rop : RedOp) (s : State) : Host.Outcome State Fault Refusal :=
  .next (laneExec 2 g [a] s fun m gr =>
    let r := scanFrom rop (gr.src a) (gr.pred px) none (lanesOf m)
    gr.setV d m (lanesFrom fun l => ((r.find? fun e => e.1 == l).map (·.2)).getD 0))

/-- `vred.op gd, a` (R123). -/
def execVred (g : BitVec 3) (d a : Reg) (rop : RedOp) (s : State) : Host.Outcome State Fault Refusal :=
  .next (laneExec 2 g [a] s fun m gr =>
    match reduceFrom rop (gr.src a) (lanesOf m) with
    | none => gr
    | some w => gr.setG d w)

/-- `vvote.any pd, pa` (R124). -/
def execVvoteAny (g pd pa : BitVec 3) (s : State) : Host.Outcome State Fault Refusal :=
  .next (laneExec 2 g [] s fun m gr =>
    gr.setPred pd m (if gr.pred pa &&& m = 0 then 0 else m))

/-- `vvote.all pd, pa` (R124). -/
def execVvoteAll (g pd pa : BitVec 3) (s : State) : Host.Outcome State Fault Refusal :=
  .next (laneExec 2 g [] s fun m gr =>
    gr.setPred pd m (if gr.pred pa &&& m = m then m else 0))

/-- `vvote.mask gd, pa` (R124). -/
def execVvoteMask (g : BitVec 3) (d : Reg) (pa : BitVec 3) (s : State) : Host.Outcome State Fault Refusal :=
  .next (laneExec 2 g [] s fun m gr =>
    let x := gr.pred pa &&& m
    (gr.setG d (loWord x)).setG (d + 1) (hiWord x))

/-- `vfirst gd, pa` (R124). -/
def execVfirst (g : BitVec 3) (d : Reg) (pa : BitVec 3) (s : State) : Host.Outcome State Fault Refusal :=
  .next (laneExec 1 g [] s fun m gr =>
    gr.setG d (if gr.pred pa &&& m = 0 then 0xFFFFFFFF else BitVec.ofNat 32 (lowestLane (gr.pred pa &&& m))))

/-- A conversion source in a lane (R125). -/
def Group.cvtSrc (gr : Group) (f : Fmt) (a : Reg) (l : Nat) : DWord :=
  match f with | .f64 => gr.srcD a l | _ => (lane (gr.src a) l).setWidth 64

/-- Write conversion results: the destination format's lane form (R49, R125). -/
def Group.setCvt (gr : Group) (f : Fmt) (d : Reg) (m : Mask) (x : Nat → DWord) : Group :=
  let g1 := gr.setV d m (lanesFrom fun l => loWord (x l))
  match f with | .f64 => g1.setV (d + 1) m (lanesFrom fun l => hiWord (x l)) | _ => g1

/-- The registers a conversion source names. -/
def cvtRegs (f : Fmt) (a : Reg) : List Reg := match f with | .f64 => pairRegs a | _ => [a]

/-- `cvt.dst.src d, a` (R125, R126); with no float format on either side it raises no flag (R104, R126). -/
def execCvt (g : BitVec 3) (d a : Reg) (dst src : Fmt) (rnd : Rnd) (s : State) : Host.Outcome State Fault Refusal :=
  .next (laneFloat 2 g (cvtRegs src a) s (fun l => (cvtOp dst src rnd false (s.cur.cvtSrc src a l)).2)
    fun m gr => gr.setCvt dst d m fun l => (cvtOp dst src rnd false (s.cur.cvtSrc src a l)).1)

/-- `cvt.esc.dst.src d, a` (R125, R126). -/
def execCvtEsc (g : BitVec 3) (d a : Reg) (dst src : Fmt) (rnd : Rnd) (s : State) : Host.Outcome State Fault Refusal :=
  .next (laneFloat 2 g (cvtRegs src a) s (fun l => (cvtOp dst src rnd true (s.cur.cvtSrc src a l)).2)
    fun m gr => gr.setCvt dst d m fun l => (cvtOp dst src rnd true (s.cur.cvtSrc src a l)).1)

/-- A stream of the Stage as a number whose bit i is stream bit i (R127), over `len` bits from bit address A of a share, each byte read on its
own (R201). -/
def State.stageBits (s : State) (addr len : Nat) : Nat :=
  leNat ((List.range (len / 8 + 2)).flatMap fun i => s.stageRead (s.cur.stgFirst * 128 + addr / 8 + i) 1) / 2 ^ (addr % 8)

/-- One varint element from a stream (R127): its data from chunk c on, and the chunks it takes. -/
def varintElem (w x : Nat) : Nat → Nat → Nat × Nat
  | 0, _ => (0, 0)
  | fuel + 1, c =>
    let chunk := x / 2 ^ (c * w) % 2 ^ w
    let v := chunk % 2 ^ (w - 1) * 2 ^ (c * (w - 1))
    if chunk / 2 ^ (w - 1) = 0 then (v, 1)
    else
      let r := varintElem w x fuel (c + 1)
      (v + r.1, r.2 + 1)

/-- n varint elements (R127): value and stream bits consumed through each. -/
def varintElems (w : Nat) : Nat → Nat → Nat → List (Nat × Nat)
  | 0, _, _ => []
  | n + 1, x, used =>
    let r := varintElem w x ((32 + w - 2) / (w - 1)) 0
    let bits := r.2 * w
    (r.1, used + bits) :: varintElems w n (x / 2 ^ bits) (used + bits)

/-- Running sums of the gaps (R127). -/
def gapElems (w : Nat) : Nat → Nat → Nat → Nat → List (Nat × Nat)
  | 0, _, _, _ => []
  | n + 1, x, acc, used => (acc + x % 2 ^ w, used + w) :: gapElems w n (x / 2 ^ w) (acc + x % 2 ^ w) (used + w)

/-- Bitplane elements (R127). -/
def planeElems (w n x : Nat) : List (Nat × Nat) :=
  (List.range n).map fun j =>
    ((List.range w).foldl (fun v p => 2 * v + x / 2 ^ (p * n + j) % 2) 0, w * n)

/-- What stops the reading of a run of a share's bytes, and where: its first absent line, which is waited for before anything is read (R128,
R162), else its first poisoned line. -/
def State.shareRun (s : State) (first n : Nat) : Option (Nat × Fate) :=
  let bad := (List.range (n / 128 + 2)).filterMap fun i =>
    let b := Nat.max first ((first / 128 + i) * 128)
    if first + n ≤ b then none
    else
      let len := min (first + n - b) (128 - b % 128)
      match s.afterPushed len (s.fate 0 (.stage (s.cur.stgFirst * 128 + b)) false 1) with
      | .go _ => none
      | f => some (b, f)
  match bad.find? fun e => e.2.isAbsent with | some e => some e | none => bad.head?

/-- `vdec` (R127, R128): decode one element for each acting lane from the Stage share. The bytes it reads are known from those before
them, so it waits at the first absent line of the share before it is known to leave the share; over a poisoned line every acting
lane traps PAGE, with the share offset of its first byte read in trapa (R165; log 36, DESIGN CHOICE). -/
def vdecExec (g : BitVec 3) (d a b : Reg) (elems : Nat → Nat → List (Nat × Nat)) (longest least : Nat → Nat) (s : State) : State :=
  laneDo 2 g (pairRegs a ++ [b]) s fun m s =>
    let gr := s.cur
    let addr := (pair (gr.greg a) (gr.greg (a + 1))).toNat
    let n := laneCount m
    let es := elems n (s.stageBits addr (longest n))
    let total := (es.getLast?.map (·.2)).getD 0
    let first := addr / 8
    let stop := (addr + total - 1) / 8 + 1
    let share := gr.stgLines * 128
    let out := s.takeTrap ⟨6, 0, BitVec.ofNat 64 addr, m, 2, false⟩
    if 2 ^ 35 ≤ addr ∨ share < (addr + least n - 1) / 8 + 1 then out
    else
      match s.shareRun first (min stop share - first) with
      | some (o, .trap c) => s.takeTrap ⟨c, 0, BitVec.ofNat 64 o, m, 2, false⟩
      | some (_, _) => s.hold .presence
      | none =>
        if share < stop then out
        else
          let at_ := fun l => es.getD (laneRank m l) (0, 0)
          let base := gr.src b
          let g1 := gr.setV d m (lanesFrom fun l => lane base l + BitVec.ofNat 32 (at_ l).1)
          (s.setCur (g1.setV (d + 1) m (lanesFrom fun l => BitVec.ofNat 32 (at_ l).2))).retire 2

/-- `vdec.gap d, ga, b, w` (R127, R128). -/
def execVdecGap (g : BitVec 3) (d a b : Reg) (wd : BitVec 7) (s : State) : Host.Outcome State Fault Refusal :=
  .next (vdecExec g d a b (fun n x => gapElems wd.toNat n x 0 0) (fun n => n * wd.toNat) (fun n => n * wd.toNat) s)

/-- `vdec.varint d, ga, b, w` (R127, R128). -/
def execVdecVarint (g : BitVec 3) (d a b : Reg) (wd : BitVec 7) (s : State) : Host.Outcome State Fault Refusal :=
  .next (vdecExec g d a b (fun n x => varintElems wd.toNat n x 0)
    (fun n => n * ((32 + wd.toNat - 2) / (wd.toNat - 1)) * wd.toNat) (fun n => n * wd.toNat) s)

/-- `vdec.bitplane d, ga, b, w` (R127, R128). -/
def execVdecBitplane (g : BitVec 3) (d a b : Reg) (wd : BitVec 7) (s : State) : Host.Outcome State Fault Refusal :=
  .next (vdecExec g d a b (fun n x => planeElems wd.toNat n x) (fun n => n * wd.toNat) (fun n => n * wd.toNat) s)

/-- The key of a lane's register-array word. -/
def xkey (l idx : Nat) : Nat := idx * 64 + l

/-- A register-array form (R129, R130): lanes whose index lies outside the allotment trap PERM, the others complete. -/
def xarrayExec (len : Nat) (g : BitVec 3) (a : Reg) (imm : Word) (srcs : List Reg) (s : State)
    (f : (Nat → Nat) → Mask → Group → Group) : State :=
  let m := s.cur.todo g
  if m = 0 then s.retire len
  else if s.cur.pendingOn srcs then s.hold .pending
  else
    let x := s.cur.src a
    let idx := fun l => ((lane x l).toNat : Int) + imm.toInt
    let bad := maskOf fun l => m.getLsbD l && !(decide (0 ≤ idx l) && decide (idx l < s.cur.xwords))
    let s1 := s.setCur (f (fun l => (idx l).toNat) (m &&& ~~~bad) s.cur)
    if bad = 0 then s1.retire len
    else s1.takeTrap ⟨4, 0, BitVec.ofInt 64 (idx (lowestLane bad)), bad, len, false⟩

/-- Read register-array words into a register (R129). -/
def xread (d : Reg) (idx : Nat → Nat) (m : Mask) (gr : Group) : Group :=
  gr.setV d m (lanesFrom fun l => SMap.get 0 gr.xregs (xkey l (idx l)))

/-- Write register-array words from a register (R129). -/
def xwrite (d : Reg) (idx : Nat → Nat) (m : Mask) (gr : Group) : Group :=
  let x := gr.src d
  { gr with xregs := (lanesOf m).foldl (fun r l => SMap.set 0 r (xkey l (idx l)) (lane x l)) gr.xregs }

/-- `xld d, a, imm` (R129, R130). -/
def execXld (g : BitVec 3) (d a : Reg) (i : BitVec 7) (s : State) : Host.Outcome State Fault Refusal :=
  .next (xarrayExec 1 g a (imm7 i) [a] s (xread d))

/-- `xst d, a, imm` (R129, R130). -/
def execXst (g : BitVec 3) (d a : Reg) (i : BitVec 7) (s : State) : Host.Outcome State Fault Refusal :=
  .next (xarrayExec 1 g a (imm7 i) [a] s (xwrite d))

/-- `xld d, a, imm` (R129, R130). -/
def execXldLong (g : BitVec 3) (d a : Reg) (w : BitVec 32) (s : State) : Host.Outcome State Fault Refusal :=
  .next (xarrayExec 2 g a w [a] s (xread d))

/-- `xst d, a, imm` (R129, R130). -/
def execXstLong (g : BitVec 3) (d a : Reg) (w : BitVec 32) (s : State) : Host.Outcome State Fault Refusal :=
  .next (xarrayExec 2 g a w [a] s (xwrite d))

end Sys2Proof.Machine
end

