-- ==== Sys2Proof/Machine/LanePred.lean ====
section
/-!
DEFINITION. Lane compares, predicate combination and select (R116 to R119).
-/

namespace Sys2Proof.Machine

/-- A lane compare (R116): in the lanes of the effective mask, with the guard entering the combining type. -/
def compareExec (g pd pe : BitVec 3) (ct : CType) (srcs : List Reg) (s : State) (test : Group → Nat → Bool) : State :=
  laneExec 2 g srcs s fun _ gr => gr.compare gr.emask (gr.pred g) (maskOf (test gr)) pd pe ct

/-- `cmp.cond pd, pe, a, b` (R117). -/
def execCmp (g pd pe : BitVec 3) (a b : Reg) (op : CmpOp) (ct : CType) (s : State) : Host.Outcome State Fault Refusal :=
  .next (compareExec g pd pe ct [a, b] s fun gr l => cmpTest op (lane (gr.src a) l) (lane (gr.src b) l))

/-- `cmp.cond pd, pe, a, imm` (R117). -/
def execCmpImm (g pd pe : BitVec 3) (a : Reg) (i : BitVec 7) (op : CmpOp) (ct : CType) (s : State) : Host.Outcome State Fault Refusal :=
  .next (compareExec g pd pe ct [a] s fun gr l => cmpTest op (lane (gr.src a) l) (imm7 i))

/-- `tst pd, pe, a, b` (R117). -/
def execTst (g pd pe : BitVec 3) (a b : Reg) (ct : CType) (s : State) : Host.Outcome State Fault Refusal :=
  .next (compareExec g pd pe ct [a, b] s fun gr l => lane (gr.src a) l &&& lane (gr.src b) l != 0)

/-- A test of `fcmp` on two float codes, with its flags (R118). -/
def fcmpTest (p : IEEE) (o : FcmpOp) (a b : Nat) : Bool × FFlags :=
  let x := p.decode a
  let y := p.decode b
  let un := x.isNan || y.isNan
  let sig := flagIf (x.isSnan || y.isSnan) fNV
  let any := flagIf un fNV
  match o with
  | .eq => (!un && decide (x.cmp y = 0), sig)
  | .ne => (un || decide (x.cmp y ≠ 0), sig)
  | .lt => (!un && decide (x.cmp y < 0), any)
  | .le => (!un && decide (x.cmp y ≤ 0), any)
  | .gt => (!un && decide (0 < x.cmp y), any)
  | .ge => (!un && decide (0 ≤ x.cmp y), any)
  | .ord => (!un, sig)
  | .unord => (un, sig)

/-- The lanes that an `fcmp` compares, and of them those its guard lets (R116): a reissue compares in the lanes that do not trap again
(R225). -/
def Group.fcmpLanes (gr : Group) (g : BitVec 3) (good : Mask) : Mask × Mask :=
  if gr.unfinished.isSome then (good, good) else (gr.emask &&& (~~~(gr.pred g) ||| good), gr.pred g)

/-- `fcmp.cond pd, pe, a, b` (R118): lanes that trap write neither predicate. -/
def execFcmp (g pd pe : BitVec 3) (a b : Reg) (fop : FcmpOp) (ct : CType) (ff : FFmt) (s : State) : Host.Outcome State Fault Refusal :=
  .next (laneFloat 2 g (fregs ff a ++ fregs ff b) s
    (fun l => (fcmpTest (ieeeOf ff) fop (s.cur.fsrc ff a l) (s.cur.fsrc ff b l)).2)
    fun good gr => gr.compare (gr.fcmpLanes g good).1 (gr.fcmpLanes g good).2
      (maskOf fun l => (fcmpTest (ieeeOf ff) fop (s.cur.fsrc ff a l) (s.cur.fsrc ff b l)).1) pd pe ct)

/-- `pand pd, pa, pb` (R119). -/
def execPand (g pd pa pb : BitVec 3) (s : State) : Host.Outcome State Fault Refusal :=
  .next (laneExec 1 g [] s fun m gr => gr.setPred pd m (gr.pred pa &&& gr.pred pb))

/-- `por pd, pa, pb` (R119). -/
def execPor (g pd pa pb : BitVec 3) (s : State) : Host.Outcome State Fault Refusal :=
  .next (laneExec 1 g [] s fun m gr => gr.setPred pd m (gr.pred pa ||| gr.pred pb))

/-- `pxor pd, pa, pb` (R119). -/
def execPxor (g pd pa pb : BitVec 3) (s : State) : Host.Outcome State Fault Refusal :=
  .next (laneExec 1 g [] s fun m gr => gr.setPred pd m (gr.pred pa ^^^ gr.pred pb))

/-- `pmov pd, pa` (R119). -/
def execPmov (g pd pa : BitVec 3) (s : State) : Host.Outcome State Fault Refusal :=
  .next (laneExec 1 g [] s fun m gr => gr.setPred pd m (gr.pred pa))

/-- `sel d, a, b, px` (R119). -/
def execSel (g : BitVec 3) (d a b : Reg) (px : BitVec 3) (s : State) : Host.Outcome State Fault Refusal :=
  .next (laneExec 2 g [a, b] s fun m gr =>
    let x := gr.src a
    let y := gr.src b
    gr.setV d m (lanesFrom fun l => if (gr.pred px).getLsbD l then lane x l else lane y l))

end Sys2Proof.Machine
end

