-- ==== Sys2Proof/Machine/Matrix.lean ====
section
/-!
DEFINITION. Matrix products: format blocks (R234, R235), operands with their scales and outlier lists (R61, R65, R243), chunk sums,
merging of escapes and promotion (R67 to R72), the issue checks (R242), and `mma`, `mmat` and `mmag` (R241, R244).
-/

namespace Sys2Proof.Machine

/-! ### Operands -/

/-- An operand tile of a product: its tile and configuration, and what the format block says of its side. -/
structure Operand where
  tile : Nat
  cfg : TileCfg
  fmt : Fmt
  sck : Nat
  blk : Nat
  esc : Bool
  cmp : Bool
  /-- the companding table it names, as read at issue (R64) -/
  curve : List Word
  /-- the share its scale table lies in, by first line and number of lines, and the table's Stage offset -/
  share : Nat × Nat
  scales : Nat
  /-- the same of its outlier list -/
  listShare : Nat × Nat
  list : Nat
  cap : Nat
  deriving DecidableEq, Repr

/-- A of a format block (R234): the side of a tile with some list number, under a curve and a share. -/
def sideA (b : Nat) (curve : List Word) (share : Nat × Nat) (tile : Nat) (cfg : TileCfg) (n : Nat) : Operand :=
  { tile := tile, cfg := cfg, fmt := Fmt.ofCode (BitVec.ofNat 4 (bitsN b 3 0)), sck := bitsN b 11 10
    blk := 16 * 2 ^ bitsN b 15 14, esc := bitsN b 8 8 = 1, cmp := bitsN b 18 18 = 1, curve := curve
    share := share, scales := bitsN b 95 64, listShare := share, list := bitsN b 159 128 + 8 * bitsN b 207 200 * n, cap := bitsN b 207 200 }

/-- B of a format block (R234). -/
def sideB (b : Nat) (curve : List Word) (share : Nat × Nat) (tile : Nat) (cfg : TileCfg) (n : Nat) : Operand :=
  { tile := tile, cfg := cfg, fmt := Fmt.ofCode (BitVec.ofNat 4 (bitsN b 7 4)), sck := bitsN b 13 12
    blk := 16 * 2 ^ bitsN b 17 16, esc := bitsN b 9 9 = 1, cmp := bitsN b 19 19 = 1, curve := curve
    share := share, scales := bitsN b 127 96, listShare := share, list := bitsN b 191 160 + 8 * bitsN b 215 208 * n, cap := bitsN b 215 208 }

/-- The bytes of one scale: s8 or bf16 (R61). -/
def Operand.scaleBytes (o : Operand) : Nat := if o.sck = 2 then 2 else 1

/-- Blocks along K. -/
def Operand.blocks (o : Operand) : Nat := (o.cfg.cols + o.blk - 1) / o.blk

/-- The scale of element (r, k) (R61, R235); none is a zero scale. -/
def State.scaleAt (s : State) (o : Operand) (r k : Nat) : Option FNum :=
  if o.sck = 0 then some (.fin false (Q.ofInt 1))
  else
    let i := r * o.blocks + k / o.blk
    scaleValue o.sck (leNat (s.stageRead (o.share.1 * 128 + o.scales + i * o.scaleBytes) o.scaleBytes))

/-- The code of element (r, k). -/
def State.opCode (s : State) (o : Operand) (r k : Nat) : Nat := s.tileElem o.tile o.cfg r k

/-- Element (r, k) is escaped (R65). -/
def State.escaped (s : State) (o : Operand) (r k : Nat) : Bool := o.esc && o.fmt.isEscape (s.opCode o r k)

/-- The value of an element's code, before its scale (R49, R63). -/
def State.opValue (s : State) (o : Operand) (r k : Nat) : FNum :=
  if o.cmp then compandFrom o.curve o.fmt (s.opCode o r k) else o.fmt.value (s.opCode o r k)

/-- Entry j of an operand's outlier list. -/
def State.listEntry (s : State) (o : Operand) (j : Nat) : Nat := leNat (s.stageRead (o.listShare.1 * 128 + o.list + 8 * j) 8)

/-- A list entry is live and names a row and a column (R65). -/
def entryMatches (e r k : Nat) : Bool := decide (bitsN e 31 16 = 0) && decide (bitsN e 15 6 = k) && decide (bitsN e 5 0 = r)

/-- The outlier value of an escaped element (R65): that of the first live entry that matches. -/
def State.outlier (s : State) (o : Operand) (r k : Nat) : Option FNum :=
  ((List.range o.cap).find? fun j => entryMatches (s.listEntry o j) r k).map fun j =>
      ieeeF32.decode (bitsN (s.listEntry o j) 63 32)

/-! ### Sums (R67 to R72) -/

/-- How a pair of operands is summed (R67). -/
inductive PairKind where | int | f8 | real
  deriving DecidableEq, Repr

/-- i8, n8 and i4. -/
def smallInt (f : Fmt) : Bool := match f with | .i8 => true | .n8 => true | .i4 => true | _ => false

/-- The chunk length and kind of a pair, none for a pair outside R67. -/
def pairOf (fa fb : Fmt) (ca cb : Bool) : Option (Nat × PairKind) :=
  if ca || cb then
    if (smallInt fa || decide (fa = .f8)) && (smallInt fb || decide (fb = .f8)) then some (32, .real) else none
  else if smallInt fa && smallInt fb then some (32, .int)
  else if (decide (fa = .t2) && smallInt fb) || (smallInt fa && decide (fb = .t2)) then some (128, .int)
  else if fa = .f8 ∧ fb = .f8 then some (32, .f8)
  else if (fa = .bf16 ∧ fb = .bf16) ∨ (fa = .h16 ∧ fb = .h16) then some (32, .real)
  else none

/-- The exact sum of products (R70): a NaN operand or ∞ × 0, or products of both infinite signs, give NaN and invalid. -/
def exactSum (ts : List (FNum × FNum)) : FNum × FFlags :=
  let ps := ts.map fun t => (t.1.mul t.2).1
  if ps.any FNum.isNan then (.nan false, fNV)
  else
    let pos := ps.any fun p => p.isInf && !p.sign
    let neg := ps.any fun p => p.isInf && p.sign
    if pos && neg then (.nan false, fNV)
    else if pos then (.inf false, 0)
    else if neg then (.inf true, 0)
    else
      let q := ps.foldl (fun q p => q.add p.toQ) Q.zero
      (FNum.ofQ q, 0)

/-- An f8 code as sign, M and E (R70). -/
def f8Parts (c : Nat) : Bool × Nat × Int :=
  let e := bitsN c 6 3
  (bitsN c 7 7 = 1, if e = 0 then bitsN c 2 0 else 8 + bitsN c 2 0, if e = 0 then -9 else (e : Int) - 10)

/-- The chunk sum of f8 products (R70), from their codes. -/
def f8Sum (ts : List (Nat × Nat)) : FNum × FFlags :=
  if ts.any fun t => t.1 == 0x80 || t.2 == 0x80 then (.nan false, 0)
  else
    let ps := (ts.map fun t =>
      let a := f8Parts t.1
      let b := f8Parts t.2
      (xor a.1 b.1, a.2.1 * b.2.1, a.2.2 + b.2.2)).filter fun p => p.2.1 != 0
    match ps with
    | [] => (.fin false Q.zero, 0)
    | p :: r =>
      let emax := r.foldl (fun m x => max m x.2.2) p.2.2
      let one := fun x : Bool × Nat × Int =>
        let q := Q.scale (x.2.1 : Int) (x.2.2 - emax + 26)
        (if x.1 then -q.floor else q.floor, decide (q.num % q.den ≠ 0))
      let s := ps.foldl (fun n x => n + (one x).1) 0
      (FNum.ofQ (Q.scale s (emax - 26)), flagIf (ps.any fun x => (one x).2) fNX)

/-- An exact product; a finite zero has no sign. A signalling NaN, such as a bf16 scale, raises invalid, as IEEE 754 multiplication has
it (R70; log 36, DESIGN CHOICE). -/
def mulExact (a b : FNum) : FNum × FFlags :=
  match a, b with
  | .fin _ _, .fin _ _ => (FNum.ofQ (a.toQ.mul b.toQ), 0)
  | _, _ => a.mul b

/-- An accumulator element in progress: its code, the flags raised, and the counts of R74. -/
structure Acc where
  c : Nat
  flags : FFlags
  nan : Nat
  code : Nat
  sat : Nat
  deriving DecidableEq, Repr

/-- Promotion of a chunk value (R71). -/
def promote (i32 : Bool) (x : Acc) (t : FNum) (fl : FFlags) : Acc :=
  if i32 then
    let n := t.toQ.floor + sextN x.c 32
    let m := max (-2147483648) (min 2147483647 n)
    { x with c := codeN m 32, flags := x.flags ||| fl, sat := x.sat + (if m = n then 0 else 1) }
  else
    let old := ieeeF32.decode x.c
    let r := ieeeF32.roundWith .rne (old.add .rne t)
    let turned := (ieeeF32.decode r.1).isNan && !old.isNan
    { x with c := r.1, flags := x.flags ||| fl ||| r.2, nan := x.nan + (if turned then 1 else 0) }

/-- One row of one operand. -/
structure OpRow where
  o : Operand
  r : Nat
  deriving DecidableEq, Repr

/-- An operand's element in a merge (R72): an outlier value, which carries no scale, or the code's value times its scale,
with the flags of that product. -/
def State.mergeValue (s : State) (x : OpRow) (k : Nat) : FNum × FFlags :=
  if s.escaped x.o x.r k then ((s.outlier x.o x.r k).getD (.nan false), 0)
  else
    match s.scaleAt x.o x.r k with
    | none => (.fin false Q.zero, 0)
    | some v => mulExact (s.opValue x.o x.r k) v

/-- Merge the escaped positions into a dense chunk value (R72). -/
def State.mergeEscapes (s : State) (a b : OpRow) (ks : List Nat) (t : FNum × FFlags) : FNum × FFlags :=
  let r0 := ieeeF32.roundWith .rne t
  let r := ks.foldl (fun (x : Nat × FFlags) k =>
    let u := s.mergeValue a k
    let v := s.mergeValue b k
    let y := ieeeF32.roundWith .rne (u.1.fma .rne v.1 (ieeeF32.decode x.1))
    (y.1, x.2 ||| u.2 ||| v.2 ||| y.2)) r0
  (ieeeF32.decode r.1, r.2)

/-- A sub-chunk's value (R67, R68, R70, R72): the dense sum, scaled, with its escapes merged. Where short blocks split a chunk, R72 is taken of
each sub-chunk by itself: its own escapes are merged into it, and only one that holds an escape is rounded first (log 36, DESIGN CHOICE). -/
def State.chunkSum (s : State) (kind : PairKind) (a b : OpRow) (ks : List Nat) : FNum × FFlags :=
  let k0 := ks.headD 0
  match s.scaleAt a.o a.r k0, s.scaleAt b.o b.r k0 with
  | some sa, some sb =>
    let esc := fun k => s.escaped a.o a.r k || s.escaped b.o b.r k
    let dense := ks.filter fun k => !esc k
    let d :=
      match kind with
      | .f8 => f8Sum (dense.map fun k => (s.opCode a.o a.r k, s.opCode b.o b.r k))
      | _ => exactSum (dense.map fun k => (s.opValue a.o a.r k, s.opValue b.o b.r k))
    let v := if a.o.sck = 0 then d else (let m := mulExact d.1 sa; (m.1, d.2 ||| m.2))
    let v := if b.o.sck = 0 then v else (let m := mulExact v.1 sb; (m.1, v.2 ||| m.2))
    let es := ks.filter esc
    if es.isEmpty then v else s.mergeEscapes a b es v
  | _, _ => (.fin false Q.zero, 0)

/-- The t2 codes 0b10 of an operand's row that enter sums with escapes disabled (R51, R74): none of a block under a zero scale, whose
sum is +0 whatever it holds (R61; log 36, DESIGN CHOICE); one at a position that is escaped on the other operand, whose product comes after the
dense sum (R72), counts (log 36, DESIGN CHOICE). -/
def State.t2Codes (s : State) (a b : OpRow) (kk : Nat) : Nat :=
  let one := fun (x : OpRow) (k : Nat) =>
    decide (x.o.fmt = .t2) && !x.o.esc && decide (s.opCode x.o x.r k = 2) && (s.scaleAt a.o a.r k).isSome &&
      (s.scaleAt b.o b.r k).isSome
  ((List.range kk).filter (one a)).length + ((List.range kk).filter (one b)).length

/-- The length of a sub-chunk (R68): the chunk, or the shorter block of a scaled operand. -/
def subLength (chunk : Nat) (a b : Operand) : Nat :=
  min chunk (min (if a.sck = 0 then chunk else a.blk) (if b.sck = 0 then chunk else b.blk))

/-- One accumulator element (R68): its sub-chunks in ascending K order, each promoted before the next begins. -/
def State.prodElem (s : State) (chunk : Nat) (kind : PairKind) (i32 : Bool) (a b : OpRow) (kk c0 : Nat) : Acc :=
  let l := subLength chunk a.o b.o
  let r := (List.range ((kk + l - 1) / l)).foldl (fun x j =>
    let t := s.chunkSum kind a b ((List.range (min l (kk - j * l))).map fun k => j * l + k)
    promote i32 x t.1 t.2) ⟨c0, 0, 0, 0, 0⟩
  { r with code := s.t2Codes a b kk }

/-- One product: the C tile, A's rows and B's rows. -/
structure Prod where
  c : Nat
  ccfg : TileCfg
  as : List OpRow
  bs : List OpRow
  z : Bool
  deriving DecidableEq, Repr

/-- K of a product: the columns of its A. -/
def Prod.kk (p : Prod) : Nat := match p.as with | [] => 0 | a :: _ => a.o.cfg.cols

/-- What products add up to besides their tiles: flags and counts. -/
structure Totals where
  flags : FFlags
  nan : Nat
  code : Nat
  sat : Nat
  deriving DecidableEq, Repr

/-- Carry out a product (R241): every element of C in M × N. -/
def State.runProd (s : State) (chunk : Nat) (kind : PairKind) (p : Prod) (t : Totals) : State × Totals :=
  let elems := (List.range p.as.length).flatMap fun i => (List.range p.bs.length).map fun n => (i, n)
  elems.foldl (fun x e =>
    match p.as[e.1]?, p.bs[e.2]? with
    | some a, some b =>
      let c0 := if p.z then 0 else s.tileElem p.c p.ccfg e.1 e.2
      let r := s.prodElem chunk kind (decide (p.ccfg.fmt = .i32)) a b p.kk c0
      (x.1.setTileElem p.c p.ccfg e.1 e.2 r.c,
        ⟨x.2.flags ||| r.flags, x.2.nan + r.nan, x.2.code + r.code, x.2.sat + r.sat⟩)
    | _, _ => x) (s, t)

/-! ### Issue checks (R242) -/

/-- Why a tile or matrix instruction does not go on. -/
inductive Stop where
  | ill
  | fate (f : Fate) (a : Int)
  | bound
  /-- ESC-NOENT: side (0 A, 1 B), row and column -/
  | noEntry (side row col : Nat)
  deriving DecidableEq, Repr

/-- The trap, wait or parking of a stop (R218, R242). -/
def State.stopWith (s : State) (i : Instr) (x : Stop) : State :=
  match x with
  | .ill => s.illegalInstr i
  | .fate f a => s.uniformStop f (BitVec.ofInt 64 a) 2 false
  | .bound => s.matrixBound 2
  | .noEntry side row col => s.trapPath 9 side (BitVec.ofNat 64 (row * 2 ^ 32 + col)) 2 true

/-- The first stop of some checks. -/
def firstStop (xs : List (Option Stop)) : Option Stop := xs.findSome? id

/-- A stop under a condition. -/
def stopIf (c : Bool) (x : Stop) : Option Stop := if c then some x else none

/-- A table of n bytes at a Stage offset must be aligned and lie in the share (R161, R235). -/
def extentStop (share : Nat × Nat) (off n align : Nat) : Option Stop :=
  if off % align ≠ 0 then some (.fate (.trap 3) off)
  else if n = 0 then none
  else
    match shareByte share.1 share.2 off n with
    | .error c => some (.fate (.trap c) off)
    | .ok _ => none

/-- The share of the group in focus: its first line and its number of lines. -/
def Group.share (gr : Group) : Nat × Nat := (gr.stgFirst, gr.stgLines)

/-- The extent of an operand's scale table (R235). -/
def scaleStop (o : Operand) : Option Stop :=
  if o.sck = 0 then none else extentStop o.share o.scales (o.cfg.rows * o.blocks * o.scaleBytes) o.scaleBytes

/-- The extent of an operand's outlier list (R235). -/
def listStop (o : Operand) : Option Stop := if o.esc then extentStop o.listShare o.list (8 * o.cap) 8 else none

/-- Plain Stage loads of the group in a share, by offset and bytes, each in one line: the first whose line is absent or poisoned (R162,
R165, R235). -/
def State.readsStop (s : State) (share : Nat × Nat) (rs : List (Nat × Nat)) : Option Stop :=
  if s.absent.isEmpty && s.poison.isEmpty && s.cur.pushes.isEmpty then none
  else
    (groupFate (rs.map fun p => (s.afterPushed p.2 (s.fate 0 (.stage (share.1 * 128 + p.1)) false p.2), (p.1 : Int)))).map fun e =>
      .fate e.1 e.2

/-- The fields of one side of a format block that are ILL (R234, R242 step 3). -/
def sideBad (fmt sck : Nat) (esc cmp : Bool) : Bool :=
  let f := Fmt.ofCode (BitVec.ofNat 4 fmt)
  decide (sck = 3) || (cmp && !(decide (f = .i8) || decide (f = .n8))) ||
    (esc && !(decide (f = .i8) || decide (f = .t2) || decide (f = .f8)))

/-- The block's pair, none where step 3 of R242 raises ILL. -/
def blockPair (b : Nat) : Option (Nat × PairKind) :=
  let bad := sideBad (bitsN b 3 0) (bitsN b 11 10) (bitsN b 8 8 = 1) (bitsN b 18 18 = 1) ||
    sideBad (bitsN b 7 4) (bitsN b 13 12) (bitsN b 9 9 = 1) (bitsN b 19 19 = 1) ||
    decide (6 < bitsN b 3 0) || decide (6 < bitsN b 7 4)
  if bad then none
  else
    pairOf (Fmt.ofCode (BitVec.ofNat 4 (bitsN b 3 0))) (Fmt.ofCode (BitVec.ofNat 4 (bitsN b 7 4))) (bitsN b 18 18 = 1)
      (bitsN b 19 19 = 1)

/-- The accumulator R67 permits: f32, or i32 under an integer pair with no scale, curve or escape. -/
def accOk (kind : PairKind) (b : Nat) (c : TileCfg) : Bool :=
  decide (c.fmt = .f32) ||
  (decide (c.fmt = .i32) && decide (kind = .int) && decide (bitsN b 11 10 = 0) && decide (bitsN b 13 12 = 0) &&
    decide (bitsN b 9 8 = 0) && decide (bitsN b 19 18 = 0))

/-- The distinct operands of some rows. -/
def operandsOf (xs : List OpRow) : List Operand := (xs.map (·.o)).dedup

/-- MATRIX-BOUND of one product (R242 step 6). -/
def Prod.bad (p : Prod) (a b : List Operand) : Bool :=
  (a.any fun o => decide (o.cfg.fmt ≠ o.fmt)) || (b.any fun o => decide (o.cfg.fmt ≠ o.fmt)) ||
  (a.any fun x => b.any fun y => decide (x.cfg.cols ≠ y.cfg.cols)) ||
  decide (p.ccfg.rows < p.as.length) || decide (p.ccfg.cols < p.bs.length)

/-- The first escape of some rows with no entry (R65): an escape in a zero-scale block is not looked up (R61). -/
def State.escStop (s : State) (side : Nat) (xs : List OpRow) : Option Stop :=
  xs.findSome? fun x =>
    if !x.o.esc then none
    else
      ((List.range x.o.cfg.cols).find? fun k =>
        s.escaped x.o x.r k && (s.scaleAt x.o x.r k).isSome && (s.outlier x.o x.r k).isNone).map fun k => .noEntry side x.r k

/-- The scale entries that rows of operands use (R235). -/
def State.scalesRead (s : State) (xs : List OpRow) : Option Stop :=
  firstStop (xs.map fun x =>
    if x.o.sck = 0 then none
    else s.readsStop x.o.share ((List.range x.o.blocks).map fun j =>
      (x.o.scales + (x.r * x.o.blocks + j) * x.o.scaleBytes, x.o.scaleBytes)))

/-- The outlier entries that are read to resolve the escapes of some rows (R65, R235): each list from its start to the entry that
matches. -/
def State.entriesRead (s : State) (xs : List OpRow) : Option Stop :=
  if s.absent.isEmpty && s.poison.isEmpty && s.cur.pushes.isEmpty then none
  else
    firstStop (xs.flatMap fun x =>
      if !x.o.esc then []
      else
        ((List.range x.o.cfg.cols).filter fun k => s.escaped x.o x.r k && (s.scaleAt x.o x.r k).isSome).map fun k =>
          let n := ((List.range x.o.cap).findIdx fun j => entryMatches (s.listEntry x.o j) x.r k) + 1
          s.readsStop x.o.listShare ((List.range (min n x.o.cap)).map fun j => (x.o.list + 8 * j, 8)))

/-- A product with the operands it names even where it has no row. -/
structure Job1 where
  p : Prod
  a : List Operand
  b : List Operand
  deriving DecidableEq, Repr

/-- The rows of a product that reads its operands' elements: none where M or N is 0. -/
def Job1.rowsRead (j : Job1) : List OpRow := if j.p.as.isEmpty || j.p.bs.isEmpty then [] else j.p.as ++ j.p.bs

/-- Steps 4 to 7 of R242 over the participating products, with what step 5 and step 6 check besides; the entries that are used are
read once steps 5 and 6 have passed. -/
def State.prodStops (s : State) (kind : PairKind) (b : Nat) (js : List Job1) (extra5 extra6 : Option Stop) : Option Stop :=
  firstStop [
    stopIf (js.any fun j => !accOk kind b j.p.ccfg) .ill,
    extra5,
    js.findSome? fun j => j.a.findSome? scaleStop,
    js.findSome? fun j => j.b.findSome? scaleStop,
    js.findSome? fun j => j.a.findSome? listStop,
    js.findSome? fun j => j.b.findSome? listStop,
    extra6,
    stopIf (js.any fun j => j.p.bad j.a j.b) .bound,
    js.findSome? fun j => s.scalesRead j.rowsRead,
    js.findSome? fun j => s.entriesRead j.rowsRead,
    js.findSome? fun j =>
      if j.p.as.isEmpty || j.p.bs.isEmpty then none else firstStop [s.escStop 0 j.p.as, s.escStop 1 j.p.bs]]

/-- Carry out products and retire (R233, R241): flags and counts are added then. -/
def State.runProds (s : State) (chunk : Nat) (kind : PairKind) (js : List Job1) : State × Totals :=
  js.foldl (fun x j => x.1.runProd chunk kind j.p x.2) (s, ⟨0, 0, 0, 0⟩)

/-- Add flags and counts of products to the group in focus. -/
def State.addTotals (s : State) (t : Totals) : State := s.setCur ((s.cur.addFlags t.flags).addCounts t.nan t.code 0 t.sat)

/-- The active octets of the group (R40, R241). -/
def Group.activeOctets (gr : Group) : List Nat :=
  (List.range (gr.width / 8)).filter fun o => decide (gr.emask &&& (0xFF#64 <<< (8 * o)) ≠ 0)

/-- Read the format block (R234): the block, or the stop of its own offset. -/
def State.readBlock (s : State) (c : Reg) : Except Stop Nat :=
  let off : Int := (s.cur.usrcD c).toNat
  match s.accessFate true off 32 true false none with
  | .go (.stage x) => .ok (leNat (s.stageRead x 32))
  | f => .error (.fate f off)

/-- A matrix instruction (R242): the tiles it names, C apart from A and B; the block; the products it gives. -/
def matrixDo (i : Instr) (g : BitVec 3) (cs as bs : List Nat) (c : Reg) (srcs : List Reg) (s : State)
    (f : Nat → Nat → PairKind → State → State) : State :=
  if cs.any fun t => as.contains t || bs.contains t then s.illegalInstr i
  else
    tileDo i 2 g (cs ++ as ++ bs) (pairRegs c ++ srcs) s fun s =>
      match s.readBlock c with
      | .error x => s.stopWith i x
      | .ok b =>
        match blockPair b with
        | none => s.stopWith i .ill
        | some (chunk, kind) => f b chunk kind s

/-- Check the products and carry them out. -/
def State.checkAndRun (s : State) (i : Instr) (b chunk : Nat) (kind : PairKind) (js : List Job1)
    (extra5 extra6 : Option Stop) : State :=
  match s.prodStops kind b js extra5 extra6 with
  | some x => s.stopWith i x
  | none =>
    let r := s.runProds chunk kind js
    (r.1.addTotals r.2).retire 2

/-- An A operand of the group in focus. -/
def State.opA (s : State) (b t n : Nat) : Operand :=
  sideA b (s.curve s.cur.core (bitsN b 22 20)) s.cur.share (s.cur.tile t) (s.tileCfgOf (s.cur.tile t)) n
/-- A B operand of the group in focus. -/
def State.opB (s : State) (b t n : Nat) : Operand :=
  sideB b (s.curve s.cur.core (bitsN b 25 23)) s.cur.share (s.cur.tile t) (s.tileCfgOf (s.cur.tile t)) n

/-- Every row of an operand. -/
def Operand.allRows (o : Operand) : List OpRow := (List.range o.cfg.rows).map fun r => ⟨o, r⟩

/-- The product of one whole A tile and one whole B tile into a C tile of the group in focus. -/
def State.tileProd (s : State) (c : Nat) (a b : Operand) (z : Bool) : Job1 :=
  ⟨⟨s.cur.tile c, s.tileCfgOf (s.cur.tile c), a.allRows, b.allRows, z⟩, [a], [b]⟩

/-- n tile numbers from t. -/
def tilesFrom (t : BitVec 6) (n : Nat) : List Nat := (List.range n).map fun o => t.toNat + o

/-- `mma tD, tA, tB, gc`, accumulating or `.z` (R241). -/
def execMma (g : BitVec 3) (t ta tb : BitVec 6) (c : Reg) (rnd : Rnd) (z : Bool) (s : State) :
    Host.Outcome State Fault Refusal :=
  .next (
    let i := Instr.mma g t ta tb c rnd z
    let q := s.cur.width / 8
    matrixDo i g (tilesFrom t q) (tilesFrom ta q) [tb.toNat] c [] s fun b chunk kind s =>
      s.checkAndRun i b chunk kind
        (s.cur.activeOctets.map fun o =>
          s.tileProd (t.toNat + o) (s.opA b (ta.toNat + o) o) (s.opB b tb.toNat 0) z) none none)

/-- `mmat tD, tA, tB, gc`, accumulating or `.z` (R241). -/
def execMmat (g : BitVec 3) (t ta tb : BitVec 6) (c : Reg) (rnd : Rnd) (z : Bool) (s : State) :
    Host.Outcome State Fault Refusal :=
  .next (
    let i := Instr.mmat g t ta tb c rnd z
    let q := s.cur.width / 8
    matrixDo i g (tilesFrom t q) [ta.toNat] (tilesFrom tb q) c [] s fun b chunk kind s =>
      s.checkAndRun i b chunk kind
        (s.cur.activeOctets.map fun o =>
          s.tileProd (t.toNat + o) (s.opA b ta.toNat 0) (s.opB b (tb.toNat + o) o) z) none none)

/-! ### Grouped products (R244) -/

/-- Entry g of a group table: off and cnt. -/
def State.groupEntry (s : State) (off g : Nat) : Nat × Nat :=
  let e := leNat (s.stageRead (s.cur.stgFirst * 128 + off + 4 * g) 4)
  (bitsN e 15 0, bitsN e 31 16)

/-- The rows of the A row space that an entry names; those beyond its 32 × Q rows are none. -/
def State.spaceRows (s : State) (b ta off cnt : Nat) : List OpRow :=
  (List.range (min cnt (4 * s.cur.width - off))).map fun i =>
    let r := off + i
    ⟨s.opA b (ta + r / 32) (r / 32), r % 32⟩

/-- The product of one group. -/
def State.groupProd (s : State) (b t ta tb : Nat) (z : Bool) (g off cnt : Nat) : Job1 :=
  let rows := s.spaceRows b ta off cnt
  let bo := s.opB b (tb + g) g
  ⟨⟨s.cur.tile (t + g), s.tileCfgOf (s.cur.tile (t + g)), rows, bo.allRows, z⟩, operandsOf rows, [bo]⟩

/-- `mmag tD, tA, tB, gc, gx`, accumulating or `.z` (R244). Every entry counts for cnt > 32 and for the sum of the counts, also one whose octet
has no active lane, and only those that are performed for off + cnt; step 4 of R242 looks at the C tiles of the entries that are performed, and
at none where the table itself is misaligned or out of range, so that step 5's trap comes first there (log 36, DESIGN CHOICE). -/
def execMmag (g : BitVec 3) (t ta tb : BitVec 6) (c gx : Reg) (rnd : Rnd) (z : Bool) (s : State) :
    Host.Outcome State Fault Refusal :=
  .next (
    let i := Instr.mmag g t ta tb c gx rnd z
    let q := s.cur.width / 8
    matrixDo i g (tilesFrom t q) (tilesFrom ta q) (tilesFrom tb q) c (pairRegs gx) s fun b chunk kind s =>
      let off := (s.cur.usrc gx).toNat
      let n := (s.cur.usrc (gx + 1)).toNat
      let table := extentStop s.cur.share off (4 * n) 4
      if s.cur.activeOctets.isEmpty then s.retire 2
      else
        match (if table.isSome then none else s.readsStop s.cur.share ((List.range (min n q)).map fun k => (off + 4 * k, 4))) with
        | some x => s.stopWith i x
        | none =>
          let es := if table.isSome then [] else (List.range (min n q)).map fun k => (k, s.groupEntry off k)
          let on := es.filter fun e => s.cur.activeOctets.contains e.1 && decide (0 < e.2.2)
          let js := on.map fun e => s.groupProd b t.toNat ta.toNat tb.toNat z e.1 e.2.1 e.2.2
          let bad := decide (q < n) || (es.any fun e => decide (32 < e.2.2)) || decide (32 * q < (es.map (·.2.2)).sum) ||
            (on.any fun e => decide (32 * q < e.2.1 + e.2.2)) || (js.any fun j => j.p.as.any fun x => decide (x.o.cfg.rows ≤ x.r))
          s.checkAndRun i b chunk kind js table (stopIf bad .bound))

end Sys2Proof.Machine
end

