-- ==== Sys2Proof/Machine/Meeting.lean ====
section
/-!
DEFINITION. `mmx`, the cluster-cooperative product (R245): joining a meeting, and the products once all have met.
-/

namespace Sys2Proof.Machine

/-- The participants mask of a format block. -/
def Meet.coop (m : Meet) : BitVec 4 := m.block.extractLsb' 216 4
/-- The rendezvous tag of a format block. -/
def Meet.ctag (m : Meet) : BitVec 8 := m.block.extractLsb' 220 8

/-- The cores of a cluster that take part. -/
def Meet.cores (m : Meet) : List Nat :=
  ((List.range 4).filter fun q => m.coop.getLsbD q).map fun q => m.core / 4 * 4 + q

/-- The B supplier of a participant: the lowest core in coop of its parity. -/
def Meet.supplier (m : Meet) : Nat := (m.cores.find? fun c => c % 2 == m.core % 2).getD m.core

/-- The first `mmx` of a core that waits with a participant's coop and ctag. -/
def State.partner (s : State) (m : Meet) (core : Nat) : Option Meet :=
  s.meets.find? fun x => x.core == core && x.coop == m.coop && x.ctag == m.ctag

/-- Everyone a participant meets, none while one has not issued or its own core has an earlier one waiting. -/
def State.meeting (s : State) (m : Meet) : Option (List Meet) :=
  let ps := m.cores.filterMap (s.partner m)
  if ps.length = m.cores.length ∧ ps.any (fun x => x.grp == m.grp) then some ps else none

/-- B tile j of a supplier, under the block of the participant in focus; its outlier list is the supplier's, and so is the operand b that names
the tile, where the participants' differ (R245; log 36, DESIGN CHOICE). -/
def State.meetB (s : State) (m sup : Meet) (gr : Group) (j : Nat) : Operand :=
  let t := gr.tile (sup.tb.toNat + j)
  let b := sup.block.toNat
  { sideB m.block.toNat m.curveB s.cur.share t (s.tileCfgOf t) 0 with
    listShare := gr.share, list := bitsN b 191 160 + 8 * bitsN b 215 208 * j, cap := bitsN b 215 208 }

/-- The products of the participant in focus; without a supplier only their A sides are known. -/
def State.meetJobs (s : State) (m : Meet) (sup : Option (Meet × Group)) : List Job1 :=
  (List.range 4).flatMap fun i => (List.range 6).map fun j =>
    let a := { s.opA m.block.toNat (m.ta.toNat + i) i with curve := m.curveA }
    let c := s.cur.tile (m.t.toNat + 6 * i + j)
    match sup with
    | some (x, gr) =>
      let b := s.meetB m x gr j
      ⟨⟨c, s.tileCfgOf c, a.allRows, b.allRows, m.z⟩, [a], [b]⟩
    | none => ⟨⟨c, s.tileCfgOf c, a.allRows, [], m.z⟩, [a], []⟩

/-- The supplier of a participant among those that have met. -/
def State.supplierOf (s : State) (m : Meet) (ps : List Meet) : Option (Meet × Group) :=
  match ps.find? fun x => x.core == m.supplier with
  | none => none
  | some x => (s.group? x.grp).map fun gr => (x, gr)

/-- The first failing check of the participant in focus (R242, R245). -/
def State.meetStop (s : State) (m : Meet) (ps : List Meet) : Option Stop :=
  match blockPair m.block.toNat with
  | none => some .ill
  | some (_, kind) =>
    s.prodStops kind m.block.toNat (s.meetJobs m (s.supplierOf m ps)) none
      (stopIf (!m.coop.getLsbD (m.core % 4)) .bound)

/-- One participant's products, its flags and counts, and its retirement. -/
def State.meetRun (s : State) (m : Meet) (ps : List Meet) : State :=
  let s1 := s.focus m.grp
  match blockPair m.block.toNat with
  | none => s1
  | some (chunk, kind) =>
    let r := s1.runProds chunk kind (s1.meetJobs m (s1.supplierOf m ps))
    (r.1.addTotals r.2).retire 2

/-- A group's `mmx` waits no more. -/
def State.leaveMeet (s : State) (key : Nat) : State := { s with meets := s.meets.filter fun x => x.grp != key }

/-- The participant in focus has joined: it waits until all have issued; one whose checks fail then traps alone and leaves; when
none fails every participant carries out its products (R245). -/
def State.meetGo (s : State) (i : Instr) (m : Meet) : State :=
  match s.meeting m with
  | none => s.hold .meeting
  | some ps =>
    match s.meetStop m ps with
    | some x => (s.leaveMeet m.grp).stopWith i x
    | none =>
      if ps.any fun x => ((s.focus x.grp).meetStop x ps).isSome then s.hold .meeting
      else
        let s1 := (ps.filter fun x => x.grp != m.grp).foldl (fun s x => s.meetRun x ps) s
        ps.foldl (fun s x => s.leaveMeet x.grp) (s1.meetRun m ps)

/-- The checks a participant can make alone: its supplier's tiles are its own or not yet known. -/
def State.soloStop (s : State) (m : Meet) : Option Stop :=
  s.meetStop m (if m.supplier = m.core then [m] else [])

/-- `mmx tD, tA, tB, gc`, accumulating or `.z` (R245). The tiles that b names are held to the allotment, to the overlap with the C tiles and to
pending loads in every participant, of whom one alone supplies B (R98; log 36, DESIGN CHOICE). -/
def execMmx (g : BitVec 3) (t ta tb : BitVec 6) (c : Reg) (rnd : Rnd) (z : Bool) (s : State) :
    Host.Outcome State Fault Refusal :=
  .next (
    let i := Instr.mmx g t ta tb c rnd z
    let cs := tilesFrom t 24
    let as := tilesFrom ta 4
    let bs := tilesFrom tb 6
    if cs.any fun t => as.contains t || bs.contains t then s.illegalInstr i
    else
      tileDo i 2 g (cs ++ as ++ bs) (pairRegs c) s fun s =>
        match s.meets.find? fun x => x.grp == s.cur.key with
        | some m => s.meetGo i m
        | none =>
          match s.readBlock c with
          | .error x => s.stopWith i x
          | .ok b =>
            let m : Meet :=
              ⟨s.cur.core, s.cur.key, BitVec.ofNat 256 b, s.curve s.cur.core (bitsN b 22 20), s.curve s.cur.core (bitsN b 25 23), t, ta,
                tb, z⟩
            match s.soloStop m with
            | some x => s.stopWith i x
            | none => State.meetGo { s with meets := s.meets ++ [m] } i m)

end Sys2Proof.Machine
end

