-- ==== Sys2Proof/Machine/Outer.lean ====
section
/-!
DEFINITION. What reaches the device from outside: boot (R320), the host link and its BARs (R214, R316, R317), peers (R315, R319),
parts that are fenced or fail (R325, R326), and the loss of power (R25).
-/

namespace Sys2Proof.Machine

/-! ### Boot (R320) -/

/-- The boot ROM runs (R320): the first image that verifies, slot A before slot B, is measured and run; with neither, slot A is
measured and the device serves in recovery. -/
def execPowerUpBoot (s : State) : Host.Outcome State Fault Refusal :=
  .next (
    if s.booted then s
    else
      let run := fun image : List Byte =>
        let s1 := (s.extend 0 (Config.shake256 image)).extend 1 (Config.shake256 Config.signedConfig)
        { s1 with booted := true, recovery := false, fwVersion := Config.firmwareVersion image }
      if Config.falconVerify s.flashA then run s.flashA
      else if Config.falconVerify s.flashB then run s.flashB
      else
        let s1 := s.extend 0 (Config.shake256 s.flashA)
        State.statusChanged { s1 with booted := true, recovery := true, fwVersion := Config.firmwareVersion [] })

/-- The host link trains or is lost (R18, R316): DSTAT changes. -/
def execHostLinkTrain (up : Bool) (s : State) : Host.Outcome State Fault Refusal :=
  .next (if s.hostUp = up then s else State.statusChanged { s with hostUp := up })

/-! ### The control BAR (R316, R317) -/

/-- A byte of the control BAR: status page, mailbox slots; at an offset to which the spec gives no content, a free byte (log 7, DESIGN CHOICE). -/
def State.controlByte (s : State) (off : Nat) : Byte :=
  if off < 0x40 then (digestBytes (Config.shake256 Config.identityKey)).getD off 0
  else if off < 0x48 then (leBytes 8 s.fwVersion.toNat).getD (off - 0x40) 0
  else if off < 0x50 then (leBytes 8 s.dstat.toNat).getD (off - 0x48) 0
  else if 0x10000 ≤ off ∧ off < 0x20000 ∧ off % 0x1000 < 0x800 then SMap.get 0 s.mailbox (off - 0x10000)
  else Config.freeByte (s.freeCtr + off)

/-- A byte the host writes into the control BAR: the status page is read only, and so is a record's done bit (R311, R316). -/
def State.controlWrite (s : State) (off : Nat) (b : Byte) : State :=
  if 0x10000 ≤ off ∧ off < 0x20000 ∧ off % 0x1000 < 0x800 then
    let i := off - 0x10000
    let x := if i % 128 = 6 then (b &&& 0xFE) ||| (SMap.get 0 s.mailbox i &&& 1) else b
    { s with mailbox := SMap.set 0 s.mailbox i x }
  else s

/-- The request in a mailbox slot (R311). -/
def State.slotRequest (s : State) (part slot : Nat) : Request :=
  let x := leNat (readBytes s.mailbox (slotByte part slot) 128)
  { id := s.nextKey, source := .mailbox part slot, code := bitsN x 7 0, part := bitsN x 11 8, tag := bitsN x 47 32
    reservedOk := decide (bitsN x 31 12 = 0) && decide (bitsN x 511 49 = 0), listed := Config.requesterListed (2 ^ 32 + part)
    args := Vector.ofFn fun i => BitVec.ofNat 32 (bitsN x (543 + 32 * i.val) (512 + 32 * i.val)), reply := none }

/-- The doorbell of a partition's mailbox (R316): ignored with other bits set, or for a slot that is being served; else done is
cleared and the slot's request starts. -/
def State.doorbell (s : State) (part v : Nat) : State :=
  if 16 ≤ v ∨ s.requests.any (fun r => decide (r.source = .mailbox part v)) then s
  else
    let i := slotByte part v + 6
    { s with
      mailbox := SMap.set 0 s.mailbox i (SMap.get 0 s.mailbox i &&& 0xFE), nextKey := s.nextKey + 1
      requests := s.requests ++ [s.slotRequest part v] }

/-- A write of the host into the control BAR. -/
def State.controlWrites (s : State) (off : Nat) (bs : List Byte) : State :=
  if 0x10000 ≤ off ∧ off < 0x20000 ∧ off % 0x1000 = 0x800 ∧ bs.length = 4 then s.doorbell ((off - 0x10000) / 0x1000) (leNat bs)
  else (bs.zipIdx off).foldl (fun s e => s.controlWrite e.2 e.1) s

/-! ### Accesses to memory from outside (R200, R214) -/

/-- What an access from outside finds. -/
inductive Outer where
  /-- performed: the bytes it reads, and the state after it -/
  | done (bytes : List Byte) (s : State)
  /-- it waits for a page -/
  | wait (ia : Nat)
  /-- it is turned away -/
  | refused
  deriving DecidableEq, Repr

/-- The places of a run of paged memory that is read, or written: a write is not stopped by poison (R165). -/
def State.outerPlaces (s : State) (part : Nat) (wr : Bool) : List (Nat × Nat) → Except Fate (List (Nat × Nat))
  | [] => .ok []
  | (a, n) :: r =>
    match (if wr then s.storeFate part (.paged a) n else s.fate part (.paged a) false n) with
    | .go _ => (s.outerPlaces part wr r).map fun t => (a, n) :: t
    | f => .error f

/-- The bytes of one line read by a party of a class: at the owning point, or from a replica that the class may read (R200, R204),
as the state's free counter has it (log 5, DEDUCED). -/
def State.outerBytes (s : State) (part : Nat) (cls : Obs) (a n : Nat) : List Byte :=
  match (if Config.freeBool (s.freeCtr + a) then s.replicaFor a n (holderOf cls) 0 0 else none) with
  | some r => (r.bytes.drop (a % 128)).take n
  | none => s.readOwned part (.paged a) n

/-- An access from outside has written some runs: the side it came from reads them no older (R214, R317). -/
def State.outerWritten (s : State) (cls : Obs) (ps : List (Nat × Nat)) : State :=
  ps.foldl (fun s x => s.markOuter (holderOf cls) x.1 x.2) s

/-- An access of a party of a class to n bytes of a partition's paged memory (R201, R214). -/
def State.outerAccess (s : State) (part : Nat) (cls : Obs) (a : Nat) (kind : ExtKind) : Outer :=
  let places := fun wr n => s.outerPlaces part wr (piecesOf a n)
  match kind with
  | .read n =>
    match places false n with
    | .ok ps =>
      .done (ps.flatMap fun x => s.outerBytes part cls x.1 x.2)
        (ps.foldl (fun s x => s.touch part (.paged x.1) x.2 false) { s with freeCtr := s.freeCtr + 1 })
    | .error (.replay ia) => .wait ia
    | .error _ => .refused
  | .write bs =>
    match places true bs.length with
    | .ok ps => .done [] ((s.writePlaces part (ps.map fun x => (.paged x.1, x.2)) bs 0).1.outerWritten cls ps)
    | .error (.replay ia) => .wait ia
    | .error _ => .refused
  | .atomic op dbl v x =>
    let n := if dbl then 8 else 4
    if a % n ≠ 0 ∨ (op = .fadd ∧ dbl) then .refused
    else
      match s.fate part (.paged a) true n with
      | .go _ =>
        let m := leNat (s.readOwned part (.paged a) n)
        let new := atomResult op (8 * n) m (v.toNat % 2 ^ (8 * n)) (x.toNat % 2 ^ (8 * n))
        .done (leBytes n m) ((s.writeDest part (.paged a) (leBytes n new) 0).outerWritten cls [(a, n)])
      | .replay ia => .wait ia
      | _ => .refused

/-- The host link completes an atomic (R180, R316): FetchAdd, Swap and CAS. -/
def hostAtomic : ExtKind → Bool
  | .atomic .add _ _ _ => true
  | .atomic .xchg _ _ _ => true
  | .atomic .cas _ _ _ => true
  | .atomic _ _ _ _ => false
  | _ => true

/-- An access of the host to a partition's launch area (R316), of class h: the state after it, or the page it waits for. -/
def State.launchAccess (s : State) (off : Nat) (kind : ExtKind) : Except (Nat × Nat) State :=
  let part := off / 0x100000
  if (s.part? part).isNone || !hostAtomic kind then .ok s
  else
    match s.outerAccess part .h (Config.launchArea part + off % 0x100000) kind with
    | .done bs s1 => .ok (if bs.isEmpty then s1 else { s1 with out := s1.out ++ [.hostRead bs] })
    | .wait ia => .error (part, ia)
    | .refused => .ok s

/-- An access of the host (R316): the state after it, or the page it waits for. -/
def State.hostAccess (s : State) (bar : HostBar) (off : Nat) (kind : ExtKind) : Except (Nat × Nat) State :=
  match bar with
  | .launch => if off < 0x1000000 then s.launchAccess off kind else .ok s
  | .control =>
    match kind with
    | .read n =>
      .ok { s with
        out := s.out ++ [.hostRead ((List.range n).map fun i => s.controlByte (off + i))], freeCtr := s.freeCtr + 0x100000 }
    | .write bs => .ok (s.controlWrites off bs)
    | .atomic _ _ _ _ => .ok s

/-- A partition exports a run of its memory for a kind of access (R315, R319). -/
def Partition.exportsRun (p : Partition) (a n : Nat) (rd wr : Bool) : Bool :=
  p.exports.any fun e => decide (e.1 ≤ a) && decide (a + n ≤ e.1 + e.2.1) && (!rd || e.2.2.1) && (!wr || e.2.2.2)

/-- The size of an access from outside, and whether it reads and writes. -/
def extNeeds : ExtKind → Nat × Bool × Bool
  | .read n => (n, true, false)
  | .write bs => (bs.length, false, true)
  | .atomic _ dbl _ _ => (if dbl then 8 else 4, true, true)

/-- An access of a peer (R319): performed on an exported range, of class n, or refused with a transport error; or the page it waits
for. -/
def State.peerAccess (s : State) (part : Nat) (ia : BitVec 52) (kind : ExtKind) : Except (Nat × Nat) State :=
  let k := extNeeds kind
  if !((s.part? part).any fun p => p.exportsRun ia.toNat k.1 k.2.1 k.2.2) then .ok (s.notify "transport error")
  else
    match s.outerAccess part .n ia.toNat kind with
    | .done bs s1 => .ok (if bs.isEmpty then s1 else { s1 with out := s1.out ++ [.peerRead part bs] })
    | .wait ia => .error (part, ia)
    | .refused => .ok (s.notify "transport error")

/-- The requester of an access from outside (R214): the host, or the peers of a partition, which stand for one connection (log 40,
DESIGN CHOICE). -/
def requesterOf : Event → Option Nat
  | .hostAccess _ _ _ => some 0
  | .peerAccess part _ _ => some (part + 1)
  | _ => none

/-- An access from outside is performed, or the page it waits for. -/
def State.performOuter (s : State) (e : Event) : Except (Nat × Nat) State :=
  match e with
  | .hostAccess bar off kind => s.hostAccess bar off kind
  | .peerAccess part ia kind => s.peerAccess part ia kind
  | _ => .ok s

/-- An access arrives from outside (R172, R214): it is performed, or waits behind an earlier one of its requester or for a page. -/
def State.arriveOuter (s : State) (e : Event) : State :=
  let queue := fun s : State => { s with arrivals := s.arrivals ++ [e] }
  if s.arrivals.any fun x => requesterOf x == requesterOf e then queue s
  else
    match s.performOuter e with
    | .ok s1 => s1
    | .error (part, ia) => queue (s.reportFault part ia)

/-- An access from outside that waits is tried again, unless an earlier one of its requester still waits (R172, R214). -/
def State.retryArrival (s : State) (n : Nat) : State :=
  match s.arrivals[n]? with
  | none => s
  | some e =>
    if (s.arrivals.take n).any fun x => requesterOf x == requesterOf e then s
    else
      match s.performOuter e with
      | .ok s1 => { s1 with arrivals := s1.arrivals.eraseIdx n }
      | .error (part, ia) => s.reportFault part ia

/-- An access arrives from the host link (R214, R316). -/
def execHostAccess (bar : HostBar) (off : Nat) (kind : ExtKind) (s : State) : Host.Outcome State Fault Refusal :=
  .next (if s.hostUp then s.arriveOuter (.hostAccess bar off kind) else s)

/-- An access arrives from a peer (R214, R319). -/
def execPeerAccess (part : Nat) (ia : BitVec 52) (kind : ExtKind) (s : State) : Host.Outcome State Fault Refusal :=
  .next (s.arriveOuter (.peerAccess part ia kind))

/-- A peer's transport gives up (R319): accesses over it meet a fatal PAGE until the connection delivers again. -/
def execPeerTransportFailure (part peer : Nat) (s : State) : Host.Outcome State Fault Refusal :=
  .next
    { s with peerLink := (s.peerLink.filter fun e => !(e.1 == part && e.2.1 == peer)) ++ [(part, peer, true)] }

/-! ### Parts (R325, R326) -/

/-- The number of parts of a kind (R9, R10). -/
def partCount : PartKind → Nat | .core => 192 | .slice => 64 | .stack => 8 | .channel => 32 | .port => 8

/-- A part is fenced (R325): DSTAT changes. -/
def State.fence (s : State) (kind : PartKind) (n : Nat) : State :=
  if partCount kind ≤ n ∨ s.fenced.contains (kind, n) then s
  else State.statusChanged { s with fenced := s.fenced ++ [(kind, n)] }

/-- A slice out of service owns no line: those that had moved to it are written back, which counts, and dropped (R164, R171, R325). -/
def State.leaveSlice (s : State) (kind : PartKind) (n : Nat) : State :=
  if kind = .slice then
    (s.moved.filter fun e => e.2 == some n).foldl (fun s e =>
      match s.partOfLine e.1 with | some p => s.evictLine p e.1 | none => s) s
  else s

/-- Carillon fences a part (R325): the pages it homes or backs move off it, as its migrations come to them. -/
def execPartFence (kind : PartKind) (n : Nat) (s : State) : Host.Outcome State Fault Refusal := .next ((s.fence kind n).leaveSlice kind n)

/-- The groups of a failed core end with DEATH records of cause 0 (R326). -/
def State.killCore (s : State) (core : Nat) : State :=
  ((s.groups.filter fun gr => gr.core == core).map (·.key)).foldl (fun s key =>
    let s1 := s.focus key
    if s1.cur.live && s1.cur.key == key then s1.die 0 0 0 s1.cur.path.pc else s1) s

/-- A command in flight ends with status PAGE. -/
def CmdBase.failed (b : CmdBase) : CmdBase :=
  { b with result := match b.result with | some x => some x | none => some (statusWord 3 b.done) }

/-- Which engine commands a part's failure ends (R326), each by its core and itself. -/
structure Doomed where
  copy : Nat → CopyCmd → Bool
  load : WloadCmd → Bool
  insert : Nat → CinsCmd → Bool

/-- The slots of some commands after those that a test picks, by their slots' index, have failed. -/
def failIn {α : Type} (q : Nat → α → Bool) (f : α → α) (m : SMap (EngSlot α)) : SMap (EngSlot α) :=
  m.map fun e => (e.1, { e.2 with cmd := e.2.cmd.map fun c => if q e.1 c then f c else c })

/-- A copy command that fails. -/
def CopyCmd.fail (c : CopyCmd) : CopyCmd := { c with base := c.base.failed }
/-- A weight-stream load that fails. -/
def WloadCmd.fail (c : WloadCmd) : WloadCmd := { c with base := c.base.failed }
/-- A `cins` command that fails. -/
def CinsCmd.fail (c : CinsCmd) : CinsCmd := { c with base := c.base.failed }

/-- The engine commands that a part's failure ends have status PAGE (R326), those saved with a halted partition too, and the lines of the
copies among them are present again (R162). -/
def State.failCommands (s : State) (d : Doomed) : State :=
  let copy := failIn (fun i c => d.copy (i / 64) c) CopyCmd.fail
  let load := failIn (fun _ c => d.load c) WloadCmd.fail
  let insert := failIn (fun i c => d.insert (i / 32) c) CinsCmd.fail
  let ended := fun m : SMap (EngSlot CopyCmd) => (m.filter fun e => e.2.cmd.any fun c => d.copy (e.1 / 64) c).map (·.1)
  let gone := ended s.copySlots ++ s.parts.flatMap fun p => ended p.shadow.copySlots
  { s with
    copySlots := copy s.copySlots, wloadSlots := load s.wloadSlots, cinsSlots := insert s.cinsSlots
    parts := s.parts.map fun p => { p with shadow := { p.shadow with
      copySlots := copy p.shadow.copySlots, wloadSlots := load p.shadow.wloadSlots, cinsSlots := insert p.shadow.cinsSlots } }
    absent := s.absent.filter fun a => match a.2 with | .copy c k => !gone.contains (c * 64 + k) | _ => true }

/-- The engine commands of a failed core (R326). -/
def State.failEngines (s : State) (core : Nat) : State :=
  let s1 := s.failCommands ⟨fun k _ => k == core, fun c => c.core == core, fun k _ => k == core⟩
  { s1 with meets := s1.meets.filter fun m => m.core != core }

/-- Some calls in one unit's queue and ring, and the queue and ring without them. -/
def Cluster.withoutCalls (c : Cluster) (u : CUnit) (q : Call → Bool) : List Call × Cluster :=
  ((c.queue u ++ c.ring u).filter q, c.setQueue u ((c.queue u).filter fun x => !q x) ((c.ring u).filter fun x => !q x))

/-- A queued record ends with status PAGE (R326): one that carries a turn's token, or is null, settles it (R284). -/
def State.failCall (s : State) (n : Nat) (c : Call) : State :=
  let s1 := if c.unit = .rast ∨ c.settlesOnEntry then s.setCluster n ((s.cluster n).settle c.stream c.token) else s
  s1.finishJob n (c.job 5 [])

/-- The coprocessor records of a cluster that a part's failure ends have status PAGE (R326): those queued are done, those in progress drop the
turns they have left. -/
def State.failRecords (s : State) (n : Nat) (queued : Call → Bool) (begun : Job → Bool) : State :=
  let s1 := CUnit.all.foldl (fun s u =>
    let x := (s.cluster n).withoutCalls u queued
    x.1.foldl (fun s c => s.failCall n c) (s.setCluster n x.2)) s
  ((s1.cluster n).jobs.filter fun j => begun j && decide (0 < j.left)).foldl (fun s j => s.endJob n j 5) s1

/-! ### What depends on a stack, a channel or a slice (R326; log 44, DESIGN CHOICE) -/

/-- The page of an IA is backed by a stack or channel, or homed at a slice. -/
def State.pageOn (s : State) (kind : PartKind) (n part ia : Nat) : Bool :=
  match s.walk part ia with
  | .resident pa _ home _ _ =>
    match kind with
    | .slice => home == n
    | .stack => !physTier pa && decide (pa / 0x1000000000 = n)
    | .channel => physTier pa && Config.onChannel (pa / 65536 * 65536) n
    | _ => false
  | _ => false

/-- A virtual address of a command or record lies on such a page, or reads through an aperture from one. -/
def State.vaOn (s : State) (kind : PartKind) (n : Nat) (b : CmdBase) (va : Nat) : Bool :=
  match s.translate b.part b.ranges (va % 2 ^ 64) false false false none with
  | .ok (.paged ia) => s.pageOn kind n b.part ia
  | .ok (.aperture q base off desc) =>
    (desc :: apertureIAs q base off (s.apertureBits b.part desc) 1).any fun ia => s.pageOn kind n b.part ia
  | _ => false

/-- The virtual addresses of a run, one to a line. -/
def runVAs (a : Int) (n : Nat) : List Nat := (intPieces a n).map fun p => (p.1 % 2 ^ 64).toNat

/-- A copy command has still to read or write a byte on the part. -/
def State.copyOn (s : State) (kind : PartKind) (n : Nat) (c : CopyCmd) : Bool :=
  let on := fun a k => (runVAs a k).any fun va => s.vaOn kind n c.base va
  (List.range c.rows).any fun r =>
    let skip := c.base.done - r * c.width
    decide (skip < c.width) &&
      ((!c.ds && on (c.dstRow r + skip) (c.width - skip)) || (decide (c.form = .acpg) && on (c.addr 4 false + 4 * r) 4) ||
        (match s.srcRow c r with | .ok (some a) => !c.fs && on (a + skip) (c.width - skip) | _ => false))

/-- A record in a queue names an address on the part. -/
def State.callOn (s : State) (kind : PartKind) (n : Nat) (c : Call) : Bool :=
  decide (c.typ ≠ 0) && !c.stale && s.vaOn kind n c.base (pair (c.word 2) (c.word 3)).toNat

/-- A record in progress has a turn to take on a pixel that lies on the part. -/
def State.jobOn (s : State) (kind : PartKind) (n : Nat) (k : Cluster) (j : Job) : Bool :=
  let p := Pass.ofNat j.pass
  let on := fun f : Frag => (decide (p.depth ≠ 0) && s.vaOn kind n j.call.base (p.depthAt f)) || s.vaOn kind n j.call.base (p.colourAt f)
  k.turns.any fun t =>
    t.began.isNone && (match t.body with | .frag x f => x == j.call.key && on f | .direct x f _ => x == j.call.key && on f | .sect _ => false)

/-- The records that a partition's saved clusters hold end in the same way (R225, R326). -/
def State.failSaved (s : State) (kind : PartKind) (n part : Nat) : State :=
  let saved := fun s : State => ((s.part? part).map fun p => p.shadow.clusters).getD []
  (saved s).foldl (fun x e =>
    let y := State.failRecords (x.setCluster e.1 e.2) e.1 (s.callOn kind n) (s.jobOn kind n e.2)
    { y.setCluster e.1 (x.cluster e.1) with parts := y.parts.map fun p =>
        if p.n = part then
          { p with shadow := { p.shadow with clusters := p.shadow.clusters.map fun d => if d.1 = e.1 then (e.1, y.cluster e.1) else d } }
        else p }) s

/-- Engine commands and records that depend on a failed stack, channel or slice end with status PAGE, those saved with a halted partition too. -/
def State.failDependents (s : State) (kind : PartKind) (n : Nat) : State :=
  let s1 := s.failCommands
    { copy := fun _ c => s.copyOn kind n c
      load := fun c => s.vaOn kind n c.base (c.recs.getLast?.getD 0)
      insert := fun _ c => !c.applied && s.vaOn kind n c.base c.desc.toNat }
  let s2 := (List.range 48).foldl (fun x k => x.failRecords k (s.callOn kind n) (s.jobOn kind n (s.cluster k))) s1
  (s.parts.map (·.n)).foldl (fun x part => x.failSaved kind n part) s2

/-- Another copy of a line stands when a part fails: a live replica that no write has passed (R203, R326). -/
def State.copied (s : State) (line : Nat) : Bool :=
  s.replicas.any fun r => r.line == line && decide (s.now < r.expiry) && r.stores.isEmpty &&
    (match r.holder with | .own _ => false | _ => true)

/-- The physical line of a line of paged memory, whose page is resident or migrating (R169, R172). -/
def State.physLine (s : State) (line : Nat) : Option Nat :=
  match s.partOfLine line with
  | none => none
  | some p =>
    match s.walk p (line * 128) with
    | .resident pa _ _ _ _ => some (pa / 128)
    | .moving => ((s.part? p).bind fun p => s.migratingFrom (line * 128) 4 0 p.root).map fun m =>
        (bitsN m.2.2 76 48 * 65536 + line * 128 % m.2.1) / 128
    | _ => none

/-- A slice fails (R326): of the lines it owns, those that had changed and had no other copy read as poisoned; it holds none any more. -/
def State.loseSlice (s : State) (n : Nat) : State :=
  let held := (s.l2.filter fun e => s.ownerOf e.1 == some n).map (·.1)
  let lost := held.filter fun line => (SMap.get none s.l2 line).getD false && !s.copied line
  { s with
    poison := (lost.filterMap s.physLine).foldl (fun m k => SMap.set none m k (some (BitVec.allOnes 128))) s.poison
    l2 := SMap.keep (fun line => !held.contains line) s.l2, moved := SMap.keep (fun line => !held.contains line) s.moved }

/-- A stack fails (R326): its lines read as poisoned, but for those that the L2 holds or a replica has. -/
def State.loseStack (s : State) (n : Nat) : State :=
  let kept := s.l2.map (·.1) ++ (s.replicas.map (·.line)).filter s.copied
  { s with failed := s.failed ++ [(n, (kept.filterMap s.physLine).dedup)] }

/-- A part fails in use (R326): it is fenced at once; a core's groups end; engine commands and records that depend on the part end; lines whose
only copy lay in a slice or a stack read as poisoned. -/
def execPartFailure (kind : PartKind) (n : Nat) (s : State) : Host.Outcome State Fault Refusal :=
  .next (
    if partCount kind ≤ n then s
    else
      let s1 := s.flushAllLate.fence kind n
      match kind with
      | .core => ((s1.killCore n).failEngines n).failRecords (n / 4) (fun c => c.core == n) (fun j => j.call.core == n)
      | .slice => (s1.failDependents kind n).loseSlice n
      | .stack => (s1.failDependents kind n).loseStack n
      | .channel => s1.failDependents kind n
      | .port => s1)

/-- The package loses power (R25): every island loses its state; the flash keeps its images. -/
def execPowerLoss (s : State) : Host.Outcome State Fault Refusal :=
  .next
    { State.reset with
      powered := false, flashA := s.flashA, flashB := s.flashB, hostBytes := s.hostBytes, peerBytes := s.peerBytes
      freeCtr := s.freeCtr + 1, agenda := s.agenda }

end Sys2Proof.Machine
end

