-- ==== Sys2Proof/Machine/Quant.lean ====
section
/-!
DEFINITION. `quant` (R246, R247): tiles of floats to tiles of codes, with the election of outliers.
-/

namespace Sys2Proof.Machine

/-- The quotient of two numbers in real arithmetic, a division by a zero scale value as IEEE 754 has it (log 17, DESIGN CHOICE). -/
def FNum.quot (x s : FNum) : FNum × FFlags :=
  match x, s with
  | .nan _, _ => (.nan false, flagIf (x.isSnan || s.isSnan) fNV)
  | _, .nan _ => (.nan false, flagIf s.isSnan fNV)
  | .inf _, .inf _ => (.nan false, fNV)
  | .inf n, .fin m _ => (.inf (xor n m), 0)
  | .fin n _, .inf m => (.fin (xor n m) Q.zero, 0)
  | .fin n a, .fin m b =>
    if b.num = 0 then (if a.num = 0 then (.nan false, fNV) else (.inf (xor n m), fDZ))
    else (.fin (xor n m) (a.div b), 0)

/-- A number is above a positive threshold in magnitude; a NaN never is. -/
def FNum.above (x t : FNum) : Bool :=
  match x with
  | .nan _ => false
  | .inf _ => true
  | .fin _ m => t.toQ.lt m

/-- Conversion of a number to a quantised format (R58, R126): the code and its flags. -/
def convTo (f : Fmt) (mode : Rnd) (esc : Bool) (x : FNum) : Nat × FFlags :=
  if f.isFloat then f.roundFloat mode esc x
  else
    let rg := f.range esc
    let r := intRound mode rg.1 rg.2 x
    (codeN r.1 f.width, r.2)

/-- The escape code of a format (R51 to R53). -/
def escapeCode (f : Fmt) : Nat := if f = .t2 then 2 else 0x80

/-- The code of largest magnitude with a sign (R247). -/
def clampCode (f : Fmt) (neg : Bool) : Nat :=
  match f with
  | .i8 => if neg then 0x81 else 127
  | .f8 => if neg then 0xFF else 0x7F
  | .t2 => if neg then 3 else 1
  | .n8 => if neg then 0 else 255
  | _ => if neg then 8 else 7

/-- What `quant` makes of one element: elected with its value, or a code with its flags. -/
inductive Quantised where
  | elected (x : FNum)
  | code (c : Nat) (f : FFlags)
  deriving DecidableEq, Repr

/-- One element (R246). -/
def State.quantElem (s : State) (o : Operand) (thr : FNum) (mode : Rnd) (src : Fmt) (i k : Nat) : Quantised :=
  let x := src.value (s.opCode o i k)
  match s.scaleAt o i k with
  | none => .code 0 0
  | some sc =>
    let y := if o.sck = 0 then (x, 0) else x.quot sc
    if o.esc && y.1.above thr then .elected x
    else
      let r := if o.cmp then compandTo o.curve o.fmt o.esc mode y.1 else convTo o.fmt mode o.esc y.1
      .code r.1 (r.2 ||| y.2)

/-- The formats `quant` makes. -/
def quantFmt (c : Nat) : Bool := decide (c ≤ 4)

/-- A positive finite threshold. -/
def thrOk (t : FNum) : Bool := match t with | .fin neg m => !neg && decide (m.num ≠ 0) | _ => false

/-- Step 3 of R246: B's side of the block is checked too, by R49 and the block's map (R234; log 36, DESIGN CHOICE). -/
def quantBad (b : Nat) : Bool :=
  !quantFmt (bitsN b 3 0) || sideBad (bitsN b 3 0) (bitsN b 11 10) (bitsN b 8 8 = 1) (bitsN b 18 18 = 1) ||
  decide (6 < bitsN b 7 4) || sideBad (bitsN b 7 4) (bitsN b 13 12) (bitsN b 9 9 = 1) (bitsN b 19 19 = 1) ||
  (decide (bitsN b 8 8 = 1) && !thrOk (ieeeF32.decode (bitsN b 63 32)))

/-- An outlier list's entry for an elected element (R65, R66). -/
def outlierEntry (x : FNum) (i k : Nat) : Nat := (ieeeF32.round .rne x).1 * 2 ^ 32 + k * 64 + i

/-- The entry that marks an empty place (R65, R246). -/
def emptyEntry : Nat := 0xFFFF0000

/-- Write an outlier list as plain Stage stores of the group. -/
def State.writeList (s : State) (first : Nat) (es : List Nat) : State :=
  (List.range es.length).foldl (fun s j => s.groupWrite (.stage (first + 8 * j)) (leBytes 8 (es.getD j 0))) s

/-- What stops the stores of an operand's list, which are plain Stage stores of the group: a line that is absent or poisoned (R162, R165,
R246). -/
def State.listWrites (s : State) (o : Operand) : Option Stop :=
  if o.esc then s.readsStop o.listShare ((List.range o.cap).map fun j => (o.list + 8 * j, 8)) else none

/-- The codes, the elected elements' places and values, and the flags, in ascending (i, k). -/
def State.quantAll (s : State) (o : Operand) (thr : FNum) (mode : Rnd) (src : Fmt) :
    List (Nat × Nat × Quantised) :=
  (List.range o.cfg.rows).flatMap fun i => (List.range o.cfg.cols).map fun k => (i, k, s.quantElem o thr mode src i k)

/-- The elected of some elements. -/
def electedOf (qs : List (Nat × Nat × Quantised)) : List (Nat × Nat × FNum) :=
  qs.filterMap fun q => match q.2.2 with | .elected x => some (q.1, q.2.1, x) | _ => none

/-- Carry out a `quant` whose checks have passed. -/
def State.runQuant (s : State) (t : BitVec 6) (o : Operand) (qs : List (Nat × Nat × Quantised)) : State :=
  let el := electedOf qs
  let kept := el.take o.cap
  let codeAt := fun i k =>
    match qs.find? fun q => q.1 == i && q.2.1 == k with
    | some (_, _, .code c _) => c
    | some (_, _, .elected x) => if kept.any fun e => e.1 == i && e.2.1 == k then escapeCode o.fmt else clampCode o.fmt x.sign
    | none => 0
  let d : TileCfg := ⟨o.fmt, o.cfg.rows, o.cfg.cols⟩
  let fl := qs.foldl (fun f q => match q.2.2 with | .code _ g => f ||| g | _ => f) 0
  let s1 := s.setTile (s.cur.tile t.toNat) d.toWord (packTile d codeAt)
  let es := kept.map fun e => outlierEntry e.2.2 e.1 e.2.1
  let s2 := if o.esc then
      s1.writeList (s1.cur.stgFirst * 128 + o.list) (es ++ List.replicate (o.cap - es.length) emptyEntry) else s1
  (s2.setCur ((s2.cur.addFlags fl).addCounts 0 0 (el.length - o.cap) 0)).retire 2

/-- `quant.rnd tD, tA, gc` (R246, R247). -/
def execQuant (g : BitVec 3) (t ta : BitVec 6) (c : Reg) (rnd : Rnd) (s : State) : Host.Outcome State Fault Refusal :=
  .next (
    let i := Instr.quant g t ta c rnd
    tileDo i 2 g [t.toNat, ta.toNat] (pairRegs c) s fun s =>
      match s.readBlock c with
      | .error x => s.stopWith i x
      | .ok b =>
        if quantBad b then s.illegalInstr i
        else
          let o := s.opA b ta.toNat 0
          let src := o.cfg.fmt
          let d : TileCfg := ⟨o.fmt, o.cfg.rows, o.cfg.cols⟩
          let okSrc := decide (src = .f32) || decide (src = .bf16) || decide (src = .h16)
          match firstStop [scaleStop o, listStop o, stopIf (!okSrc || !d.ok) .bound, s.scalesRead o.allRows] with
          | some x => s.stopWith i x
          | none =>
            let qs := s.quantAll o (ieeeF32.decode (bitsN b 63 32)) rnd src
            let n := (electedOf qs).length
            if o.esc && decide (o.cap < n) && decide (bitsN b 26 26 = 1) then
              s.trapPath 8 o.cap (BitVec.ofNat 64 n) 2 true
            else
              match s.listWrites o with
              | some x => s.stopWith i x
              | none => s.runQuant t o qs)

end Sys2Proof.Machine
end

