-- ==== Sys2Proof/Machine/Scalar.lean ====
section
/-!
DEFINITION. Uniform scalar instructions (R132 to R136): one operation for the group on 32-bit values, or on register pairs
in the `.d` forms.
-/

namespace Sys2Proof.Machine

/-- A one-source uniform operation on 32 bits. -/
def uni1 (f : Word → Word) (d a : Reg) (gr : Group) : Group := gr.setU d (f (gr.usrc a))
/-- A two-source uniform operation on 32 bits. -/
def uni2 (f : Word → Word → Word) (d a b : Reg) (gr : Group) : Group := gr.setU d (f (gr.usrc a) (gr.usrc b))
/-- A one-source uniform operation on 64 bits. -/
def uniD1 (f : DWord → DWord) (d a : Reg) (gr : Group) : Group := gr.setUD d (f (gr.usrcD a))
/-- A two-source uniform operation on 64 bits. -/
def uniD2 (f : DWord → DWord → DWord) (d a b : Reg) (gr : Group) : Group := gr.setUD d (f (gr.usrcD a) (gr.usrcD b))

/-- 64-bit left shift by a full 64-bit amount (R135). -/
def shlD (a b : DWord) : DWord := if b.toNat < 64 then a <<< b.toNat else 0
/-- 64-bit logical right shift (R135). -/
def shrD (a b : DWord) : DWord := if b.toNat < 64 then a >>> b.toNat else 0
/-- 64-bit arithmetic right shift (R135). -/
def sarD (a b : DWord) : DWord :=
  if b.toNat < 64 then a.sshiftRight b.toNat else if a.msb then BitVec.allOnes 64 else 0

/-- `gadd d, a, b`, short (R134). -/
def execGadd (g : BitVec 3) (d a b : Reg) (s : State) : Host.Outcome State Fault Refusal :=
  .next (uniExec 1 g [a, b] s (uni2 (fun x y => x + y) d a b))

/-- `gsub d, a, b`, short (R134). -/
def execGsub (g : BitVec 3) (d a b : Reg) (s : State) : Host.Outcome State Fault Refusal :=
  .next (uniExec 1 g [a, b] s (uni2 (fun x y => x - y) d a b))

/-- `gmul d, a, b`, short (R134). -/
def execGmul (g : BitVec 3) (d a b : Reg) (s : State) : Host.Outcome State Fault Refusal :=
  .next (uniExec 1 g [a, b] s (uni2 (fun x y => x * y) d a b))

/-- `gand d, a, b`, short (R134). -/
def execGand (g : BitVec 3) (d a b : Reg) (s : State) : Host.Outcome State Fault Refusal :=
  .next (uniExec 1 g [a, b] s (uni2 (fun x y => x &&& y) d a b))

/-- `gor d, a, b`, short (R134). -/
def execGor (g : BitVec 3) (d a b : Reg) (s : State) : Host.Outcome State Fault Refusal :=
  .next (uniExec 1 g [a, b] s (uni2 (fun x y => x ||| y) d a b))

/-- `gxor d, a, b`, short (R134). -/
def execGxor (g : BitVec 3) (d a b : Reg) (s : State) : Host.Outcome State Fault Refusal :=
  .next (uniExec 1 g [a, b] s (uni2 (fun x y => x ^^^ y) d a b))

/-- `gadd d, a, imm`, short (R134). -/
def execGaddImm (g : BitVec 3) (d a : Reg) (i : BitVec 7) (s : State) : Host.Outcome State Fault Refusal :=
  .next (uniExec 1 g [a] s (uni1 (fun x => x + imm7 i) d a))

/-- `gadd d, a, imm`, E1 (R134). -/
def execGaddImmLong (g : BitVec 3) (d a : Reg) (w : BitVec 32) (s : State) : Host.Outcome State Fault Refusal :=
  .next (uniExec 2 g [a] s (uni1 (fun x => x + w) d a))

/-- `gand d, a, imm`, short (R134). -/
def execGandImm (g : BitVec 3) (d a : Reg) (i : BitVec 7) (s : State) : Host.Outcome State Fault Refusal :=
  .next (uniExec 1 g [a] s (uni1 (fun x => x &&& imm7 i) d a))

/-- `gand d, a, imm`, E1 (R134). -/
def execGandImmLong (g : BitVec 3) (d a : Reg) (w : BitVec 32) (s : State) : Host.Outcome State Fault Refusal :=
  .next (uniExec 2 g [a] s (uni1 (fun x => x &&& w) d a))

/-- `gor d, a, imm`, short (R134). -/
def execGorImm (g : BitVec 3) (d a : Reg) (i : BitVec 7) (s : State) : Host.Outcome State Fault Refusal :=
  .next (uniExec 1 g [a] s (uni1 (fun x => x ||| imm7 i) d a))

/-- `gor d, a, imm`, E1 (R134). -/
def execGorImmLong (g : BitVec 3) (d a : Reg) (w : BitVec 32) (s : State) : Host.Outcome State Fault Refusal :=
  .next (uniExec 2 g [a] s (uni1 (fun x => x ||| w) d a))

/-- `gshl d, a, imm`, 0 to 31, short (R134). -/
def execGshlImm (g : BitVec 3) (d a : Reg) (i : BitVec 7) (s : State) : Host.Outcome State Fault Refusal :=
  .next (uniExec 1 g [a] s (uni1 (fun x => x <<< i.toNat) d a))

/-- `gshl d, a, imm`, 0 to 31, E1 (R134). -/
def execGshlImmLong (g : BitVec 3) (d a : Reg) (w : BitVec 32) (s : State) : Host.Outcome State Fault Refusal :=
  .next (uniExec 2 g [a] s (uni1 (fun x => x <<< w.toNat) d a))

/-- `gshr d, a, imm`, 0 to 31, short (R134). -/
def execGshrImm (g : BitVec 3) (d a : Reg) (i : BitVec 7) (s : State) : Host.Outcome State Fault Refusal :=
  .next (uniExec 1 g [a] s (uni1 (fun x => x >>> i.toNat) d a))

/-- `gshr d, a, imm`, 0 to 31, E1 (R134). -/
def execGshrImmLong (g : BitVec 3) (d a : Reg) (w : BitVec 32) (s : State) : Host.Outcome State Fault Refusal :=
  .next (uniExec 2 g [a] s (uni1 (fun x => x >>> w.toNat) d a))

/-- `gsar d, a, imm`, 0 to 31, short (R134). -/
def execGsarImm (g : BitVec 3) (d a : Reg) (i : BitVec 7) (s : State) : Host.Outcome State Fault Refusal :=
  .next (uniExec 1 g [a] s (uni1 (fun x => x.sshiftRight i.toNat) d a))

/-- `gsar d, a, imm`, 0 to 31, E1 (R134). -/
def execGsarImmLong (g : BitVec 3) (d a : Reg) (w : BitVec 32) (s : State) : Host.Outcome State Fault Refusal :=
  .next (uniExec 2 g [a] s (uni1 (fun x => x.sshiftRight w.toNat) d a))

/-- `gmovi d, imm`, short (R134). -/
def execGmovi (g : BitVec 3) (d : Reg) (i : BitVec 7) (s : State) : Host.Outcome State Fault Refusal :=
  .next (uniExec 1 g [] s fun gr => gr.setU d (imm7 i))

/-- `gmovi d, imm`, E1 (R134). -/
def execGmoviLong (g : BitVec 3) (d : Reg) (w : BitVec 32) (s : State) : Host.Outcome State Fault Refusal :=
  .next (uniExec 2 g [] s fun gr => gr.setU d w)

/-- `gmov d, a`, short (R134). -/
def execGmov (g : BitVec 3) (d a : Reg) (s : State) : Host.Outcome State Fault Refusal :=
  .next (uniExec 1 g [a] s (uni1 (fun x => x) d a))

/-- `gadd d, a, b`, extended (R135). -/
def execGaddX (g : BitVec 3) (d a b : Reg) (s : State) : Host.Outcome State Fault Refusal :=
  .next (uniExec 2 g [a, b] s (uni2 (fun x y => x + y) d a b))

/-- `gsub d, a, b`, extended (R135). -/
def execGsubX (g : BitVec 3) (d a b : Reg) (s : State) : Host.Outcome State Fault Refusal :=
  .next (uniExec 2 g [a, b] s (uni2 (fun x y => x - y) d a b))

/-- `gmul d, a, b`, extended (R135). -/
def execGmulX (g : BitVec 3) (d a b : Reg) (s : State) : Host.Outcome State Fault Refusal :=
  .next (uniExec 2 g [a, b] s (uni2 (fun x y => x * y) d a b))

/-- `gshl d, a, b`, extended (R135). -/
def execGshl (g : BitVec 3) (d a b : Reg) (s : State) : Host.Outcome State Fault Refusal :=
  .next (uniExec 2 g [a, b] s (uni2 (fun x y => shlOp x y) d a b))

/-- `gshr d, a, b`, extended (R135). -/
def execGshr (g : BitVec 3) (d a b : Reg) (s : State) : Host.Outcome State Fault Refusal :=
  .next (uniExec 2 g [a, b] s (uni2 (fun x y => shrOp x y) d a b))

/-- `gsar d, a, b`, extended (R135). -/
def execGsar (g : BitVec 3) (d a b : Reg) (s : State) : Host.Outcome State Fault Refusal :=
  .next (uniExec 2 g [a, b] s (uni2 (fun x y => sarOp x y) d a b))

/-- `gand d, a, b`, extended (R135). -/
def execGandX (g : BitVec 3) (d a b : Reg) (s : State) : Host.Outcome State Fault Refusal :=
  .next (uniExec 2 g [a, b] s (uni2 (fun x y => x &&& y) d a b))

/-- `gor d, a, b`, extended (R135). -/
def execGorX (g : BitVec 3) (d a b : Reg) (s : State) : Host.Outcome State Fault Refusal :=
  .next (uniExec 2 g [a, b] s (uni2 (fun x y => x ||| y) d a b))

/-- `gxor d, a, b`, extended (R135). -/
def execGxorX (g : BitVec 3) (d a b : Reg) (s : State) : Host.Outcome State Fault Refusal :=
  .next (uniExec 2 g [a, b] s (uni2 (fun x y => x ^^^ y) d a b))

/-- `gmov d, a`, extended (R135). -/
def execGmovX (g : BitVec 3) (d a : Reg) (s : State) : Host.Outcome State Fault Refusal :=
  .next (uniExec 2 g [a] s (uni1 (fun x => x) d a))

/-- `glea d, a, b, s` (R135). -/
def execGlea (g : BitVec 3) (d a b : Reg) (sh : BitVec 2) (s : State) : Host.Outcome State Fault Refusal :=
  .next (uniExec 2 g [a, b] s (uni2 (fun x y => x + (y <<< sh.toNat)) d a b))

/-- `gsel d, a, b, cx` (R135). -/
def execGsel (g : BitVec 3) (d a b : Reg) (px : BitVec 3) (s : State) : Host.Outcome State Fault Refusal :=
  .next (uniExec 2 g [a, b] s fun gr => gr.setU d (if gr.cpred px then gr.usrc a else gr.usrc b))

/-- `gadd.d d, a, b` (R135). -/
def execGaddD (g : BitVec 3) (d a b : Reg) (s : State) : Host.Outcome State Fault Refusal :=
  .next (uniExec 2 g (pairRegs a ++ pairRegs b) s (uniD2 (fun x y => x + y) d a b))

/-- `gsub.d d, a, b` (R135). -/
def execGsubD (g : BitVec 3) (d a b : Reg) (s : State) : Host.Outcome State Fault Refusal :=
  .next (uniExec 2 g (pairRegs a ++ pairRegs b) s (uniD2 (fun x y => x - y) d a b))

/-- `gmul.d d, a, b` (R135). -/
def execGmulD (g : BitVec 3) (d a b : Reg) (s : State) : Host.Outcome State Fault Refusal :=
  .next (uniExec 2 g (pairRegs a ++ pairRegs b) s (uniD2 (fun x y => x * y) d a b))

/-- `gshl.d d, a, b` (R135). -/
def execGshlD (g : BitVec 3) (d a b : Reg) (s : State) : Host.Outcome State Fault Refusal :=
  .next (uniExec 2 g (pairRegs a ++ pairRegs b) s (uniD2 (fun x y => shlD x y) d a b))

/-- `gshr.d d, a, b` (R135). -/
def execGshrD (g : BitVec 3) (d a b : Reg) (s : State) : Host.Outcome State Fault Refusal :=
  .next (uniExec 2 g (pairRegs a ++ pairRegs b) s (uniD2 (fun x y => shrD x y) d a b))

/-- `gsar.d d, a, b` (R135). -/
def execGsarD (g : BitVec 3) (d a b : Reg) (s : State) : Host.Outcome State Fault Refusal :=
  .next (uniExec 2 g (pairRegs a ++ pairRegs b) s (uniD2 (fun x y => sarD x y) d a b))

/-- `gand.d d, a, b` (R135). -/
def execGandD (g : BitVec 3) (d a b : Reg) (s : State) : Host.Outcome State Fault Refusal :=
  .next (uniExec 2 g (pairRegs a ++ pairRegs b) s (uniD2 (fun x y => x &&& y) d a b))

/-- `gor.d d, a, b` (R135). -/
def execGorD (g : BitVec 3) (d a b : Reg) (s : State) : Host.Outcome State Fault Refusal :=
  .next (uniExec 2 g (pairRegs a ++ pairRegs b) s (uniD2 (fun x y => x ||| y) d a b))

/-- `gxor.d d, a, b` (R135). -/
def execGxorD (g : BitVec 3) (d a b : Reg) (s : State) : Host.Outcome State Fault Refusal :=
  .next (uniExec 2 g (pairRegs a ++ pairRegs b) s (uniD2 (fun x y => x ^^^ y) d a b))

/-- `gmov.d d, a` (R135). -/
def execGmovD (g : BitVec 3) (d a : Reg) (s : State) : Host.Outcome State Fault Refusal :=
  .next (uniExec 2 g (pairRegs a) s (uniD1 (fun x => x) d a))

/-- `glea.d d, a, b, s` (R135). -/
def execGleaD (g : BitVec 3) (d a b : Reg) (sh : BitVec 2) (s : State) : Host.Outcome State Fault Refusal :=
  .next (uniExec 2 g (pairRegs a ++ pairRegs b) s (uniD2 (fun x y => x + (y <<< sh.toNat)) d a b))

/-- `gsel.d d, a, b, cx` (R135). -/
def execGselD (g : BitVec 3) (d a b : Reg) (px : BitVec 3) (s : State) : Host.Outcome State Fault Refusal :=
  .next (uniExec 2 g (pairRegs a ++ pairRegs b) s fun gr =>
    gr.setUD d (if gr.cpred px then gr.usrcD a else gr.usrcD b))

/-- Write a compare's result to two uniform predicates, pd before pe (R136). -/
def Group.gcompare (gr : Group) (pd pe : BitVec 3) (ct : CType) (t : Bool) : Group :=
  let r := combine ct true t
  (gr.setCWhere pd r.1).setCWhere pe r.2

/-- `gcmp.cond pd, pe, a, b` (R136): with the guard false it has no effect. -/
def execGcmp (g pd pe : BitVec 3) (a b : Reg) (op : CmpOp) (ct : CType) (s : State) : Host.Outcome State Fault Refusal :=
  .next (uniExec 2 g [a, b] s fun gr =>
    gr.gcompare pd pe ct (cmpTest op (gr.usrc a) (gr.usrc b)))

/-- `gcmp.cond pd, pe, a, imm` (R136). -/
def execGcmpImm (g pd pe : BitVec 3) (a : Reg) (i : BitVec 7) (op : CmpOp) (ct : CType) (s : State) : Host.Outcome State Fault Refusal :=
  .next (uniExec 2 g [a] s fun gr =>
    gr.gcompare pd pe ct (cmpTest op (gr.usrc a) (imm7 i)))

end Sys2Proof.Machine
end

