-- ==== Sys2Proof/Machine/Weights.lean ====
section
/-!
DEFINITION. The cluster's weight-stream loader (R248 to R251).
-/

namespace Sys2Proof.Machine

/-- A record's header (R249). -/
structure RecHead where
  kind : Nat
  cfg : TileCfg
  fmtCode : Nat
  /-- the referenced record of a back-reference -/
  ref : Nat
  /-- plane lengths in 16-byte units -/
  lens : List Nat
  reserved : Bool
  deriving DecidableEq, Repr

/-- Read a header from its 16 bytes. -/
def RecHead.ofNat (x : Nat) : RecHead :=
  { kind := bitsN x 1 0, fmtCode := bitsN x 5 2
    cfg := ⟨Fmt.ofCode (BitVec.ofNat 4 (bitsN x 5 2)), bitsN x 11 6, bitsN x 21 12⟩
    ref := bitsN x 37 22, lens := (List.range 8).map fun j => bitsN x (33 + 12 * j) (22 + 12 * j)
    reserved := decide (bitsN x 127 118 ≠ 0) }

/-- A data record is bit-sliced: i8, n8 or i4. -/
def RecHead.sliced (h : RecHead) : Bool := decide (h.fmtCode ≤ 2)

/-- The 16-byte units of each plane of a data record, in order: one raw plane for t2 and f8. -/
def RecHead.planes (h : RecHead) : List Nat := if h.sliced then h.lens.take h.cfg.fmt.width else h.lens.take 1

/-- The units of the record's body. -/
def RecHead.bodyUnits (h : RecHead) : Nat := h.planes.sum

/-- The units of a plane that is not all zeros. -/
def RecHead.planeUnits (h : RecHead) : Nat := ((h.cfg.rows * h.cfg.cols + 7) / 8 + 15) / 16

/-- A data record that does not end the command with BADARG (R249). -/
def RecHead.dataOk (h : RecHead) : Bool :=
  decide (h.kind = 0) && decide (h.fmtCode ≤ 4) && h.cfg.ok && !h.reserved &&
  (if h.sliced then h.planes.all fun n => n == 0 || n == h.planeUnits
   else decide (h.lens.headD 0 * 16 = h.cfg.rows * h.cfg.pitch))

/-- Read a header at an address of the stream. -/
def State.recHead (s : State) (b : CmdBase) (va : Nat) : Except Fate RecHead :=
  match s.engineRead (some .m) b false (intPieces va 16) with
  | .ok bs => .ok (RecHead.ofNat (leNat bs))
  | .error f => .error f

/-- The bytes of some planes from an address, each with its bytes or none for a plane of zeros. -/
def State.readPlanes (s : State) (b : CmdBase) (va : Nat) : List Nat → Except Fate (List Nat)
  | [] => .ok []
  | n :: r =>
    match s.engineRead (some .m) b false (intPieces va (16 * n)) with
    | .error f => .error f
    | .ok bs =>
      match s.readPlanes b (va + 16 * n) r with
      | .ok xs => .ok (leNat bs :: xs)
      | .error f => .error f

/-- The code of element (r, k) from the planes read. -/
def RecHead.code (h : RecHead) (planes : List Nat) (r k : Nat) : Nat :=
  if h.sliced then
    let w := h.cfg.fmt.width
    let e := r * h.cfg.cols + k
    (List.range planes.length).foldl (fun c j => c + planes.getD j 0 / 2 ^ e % 2 * 2 ^ (w - 1 - j)) 0
  else
    let w := h.cfg.fmt.width
    planes.headD 0 / 2 ^ (8 * r * h.cfg.pitch + k * w) % 2 ^ w

/-- The tile that a data record at an address gives at a precision (R249): its configuration and data. -/
def State.recTile (s : State) (c : WloadCmd) (h : RecHead) (va : Nat) : Except Fate (TileCfg × List Byte) :=
  let planes := if h.sliced then h.planes.take (c.prec.toNat + 1) else h.planes
  match s.readPlanes c.base (va + 16) planes with
  | .error f => .error f
  | .ok xs => .ok (h.cfg, packTile h.cfg (h.code xs))

/-- The IAs of the paged bytes of a run of the stream. -/
def State.runIAs (s : State) (b : CmdBase) (va n : Nat) : List Nat :=
  (s.placesOf b false va n true false).flatMap fun p => if p.1 then [] else (List.range p.2.2).map fun i => p.2.1 + i

/-- The key of a data record in the cluster's tile cache (R250): its IA and the command's precision; none outside paged memory. -/
def State.recKey (s : State) (c : WloadCmd) (va : Nat) : Option SnapKind :=
  ((s.runIAs c.base va 1).head?).map fun ia => .record (c.core / 4) c.base.part ia c.prec

/-- A record that has been read: its tile, where the next one begins, and the data record that was decoded for it, if any. -/
structure Rec where
  cfg : Word
  bytes : List Byte
  units : Nat
  next : Nat
  decoded : Option (RecHead × Nat)

/-- A data record is decoded (R249). -/
def State.decodeRecord (s : State) (c : WloadCmd) (h : RecHead) (va next : Nat) : Except (Option Fate) Rec :=
  if !h.dataOk then .error none
  else
    match s.recTile c h va with
    | .error f => .error (some f)
    | .ok t => .ok ⟨t.1.toWord, t.2, t.1.rows * t.1.pitch, next, some (h, va)⟩

/-- The cluster's cached tile of a data record, which may serve a back-reference (R212, R250). -/
def State.cachedRecord (s : State) (c : WloadCmd) (va : Nat) : Option Snap :=
  if !s.serve then none
  else (s.recKey c va).bind fun k => s.snaps.find? fun x => decide (x.kind = k) && s.snapLive x 0 0 []

/-- The next record of a command is read (R249, R250). -/
def State.readRecord (s : State) (c : WloadCmd) : Except (Option Fate) Rec :=
  let va := c.recs.getLast?.getD 0
  match s.recHead c.base va with
  | .error f => .error (some f)
  | .ok h =>
    if h.kind = 0 then s.decodeRecord c h va (va + 16 + 16 * h.bodyUnits)
    else if h.kind = 1 then
      if c.base.chunk ≤ h.ref ∨ h.reserved then .error none
      else
        let rva := c.recs.getD h.ref 0
        match s.cachedRecord c rva with
        | some x =>
          let t := TileCfg.ofWord x.cfg
          .ok ⟨x.cfg, (List.range 4096).map fun i => SMap.get 0 x.cells i, t.rows * t.pitch, va + 16, none⟩
        | none =>
          match s.recHead c.base rva with
          | .error f => .error (some f)
          | .ok hr => s.decodeRecord c hr rva (va + 16)
    else .error none

/-- The bytes of a data record that are read at a precision (R249). -/
def RecHead.readBytes (h : RecHead) (prec : BitVec 3) : Nat :=
  16 + 16 * (if h.sliced then (h.planes.take (prec.toNat + 1)).sum else h.bodyUnits)

/-- The tile of a data record is cached (R250): at most 64 a cluster, and the oldest goes. -/
def State.cacheRecord (s : State) (c : WloadCmd) (x : Rec) : State :=
  match x.decoded with
  | none => s
  | some (h, va) =>
    match s.recKey c va with
    | none => s
    | some k =>
      let cells := (List.range x.bytes.length).foldl (fun m i => SMap.set 0 m i (x.bytes.getD i 0)) []
      let new := s.snapOf s.serve c.base.since k (s.runIAs c.base va (h.readBytes c.prec)) cells x.cfg
      let here := fun y : Snap => match y.kind with | .record cl _ _ _ => decide (cl = c.core / 4) | _ => false
      let kept := s.snaps.filter fun y => decide (y.kind ≠ k)
      let full := decide (64 ≤ (kept.filter here).length)
      { s with nextKey := s.nextKey + 1, snaps := (if full then kept.eraseIdx (kept.findIdx here) else kept) ++ [new] }

/-- The bytes of a data record have been read (R171). -/
def State.touchRecord (s : State) (c : WloadCmd) (x : Rec) : State :=
  match x.decoded with
  | none => s
  | some (h, va) => s.touchRun .m c.base false (intPieces va (h.readBytes c.prec))

/-- A tile that an earlier load of the command's group has still to write (R251): it has its tiles in the order of their issue (log 31,
DEDUCED). -/
def State.tileBehind (s : State) (c : WloadCmd) (t : Nat) : Bool :=
  s.wloadSlots.any fun e =>
    match e.2.cmd with
    | some o => o.base.grp == c.base.grp && decide (o.base.seq < c.base.seq) && o.willWrite t
    | none => false

/-- Put a weight-stream command back into its slot. -/
def State.putWload (s : State) (i : Nat) (c : WloadCmd) : State :=
  let x := SMap.get EngSlot.idle s.wloadSlots i
  { s with wloadSlots := SMap.set EngSlot.idle s.wloadSlots i { x with cmd := some c } }

/-- A weight-stream command ends with a status. -/
def State.endWload (s : State) (i : Nat) (c : WloadCmd) (code : Nat) : State :=
  s.putWload i { c with base := { c.base with result := some (statusWord code c.base.done) } }

/-- The next record of a command is decoded into its tile (R249 to R251). -/
def State.nextRecord (s : State) (i : Nat) (c : WloadCmd) : State :=
  match s.readRecord c with
  | .error none => s.endWload i c 7
  | .error (some (.replay ia)) => (s.reportFault c.base.part ia).putWload i { c with base := { c.base with paused := true } }
  | .error (some (.trap cause)) => s.endWload i c (engineStatusOf cause)
  | .error (some _) => s
  | .ok x =>
    let t := c.nextTile
    let s0 := (s.touchRecord c x).cacheRecord c x
    let s1 := if s0.holders.any fun gr => gr.key == c.base.grp then s0.setTile t x.cfg x.bytes else s0
    let n := x.units
    let c1 := { c with
      recs := c.recs ++ [x.next]
      base := { c.base with done := c.base.done + n, chunk := c.base.chunk + 1, paused := false } }
    let s2 := s1.addCredit c.base.clave n (Vector.replicate 6 0)
    if c1.base.chunk = (c.regs.getD 3 0).toNat then s2.endWload i c1 0 else s2.putWload i c1

/-- The check a weight-stream command fails at issue (R188, R248): its status code. -/
def Group.wloadCheck (gr : Group) (regs : List Word) (clave : Option Nat) : Option Nat :=
  let va := (pair (regs.getD 0 0) (regs.getD 1 0)).toNat
  let out := match clave with
    | none => false
    | some k => match shareByte gr.stgFirst gr.stgLines k 16 with | .ok _ => false | _ => true
  if gr.tileCount < (regs.getD 2 0).toNat + (regs.getD 3 0).toNat then some 7
  else if va % 16 ≠ 0 then some 5
  else if out then some 4
  else if (clave.getD 0) % 16 ≠ 0 then some 5
  else none

/-- A command with its generation and its place in the order of issue. -/
def WloadCmd.numbered (c : WloadCmd) (gen : Word) (n : Nat) : WloadCmd := { c with base := { c.base with gen := gen, seq := n } }

/-- `wload.pN gh, ga [, gk]` (R248): it is held while the cluster's loader has 32 commands. -/
def execWload (g : BitVec 3) (d a b : Reg) (obs : BitVec 6) (order : Order) (prec : BitVec 3) (s : State) :
    Host.Outcome State Fault Refusal :=
  .next (uniDo 2 g (blockRegs a 4 ++ [b]) s fun s =>
    let gr := s.cur
    match s.chooseSlot (.wload (gr.core / 4)) 32 with
    | none => s.hold .engineFull
    | some e =>
      let regs := (blockRegs a 4).map gr.greg
      let off := if b = 0 then none else some (gr.greg b).toNat
      let gen := nextGen (s.slotOf e).1
      let c : WloadCmd :=
        { base := gr.cmdBase obs order (off.map fun k => gr.stgFirst * 128 + k), core := gr.core, tileBase := gr.tileBase
          tileCount := gr.tileCount, regs := regs, prec := prec, recs := [(pair (regs.getD 0 0) (regs.getD 1 0)).toNat] }
      let s1 : State := { s with
        cur := gr.setHandle d (handleOf e gr.core gen), freeCtr := s.freeCtr + 1
        wloadSlots := SMap.set EngSlot.idle s.wloadSlots (engIndex e) ⟨gen, some (c.numbered gen s.freeCtr), (s.slotOf e).2.2⟩ }
      let s2 :=
        match gr.wloadCheck regs off with
        | some code => s1.finishCommand e gr.core (statusWord code 0)
        | none =>
          if (regs.getD 3 0) = 0 then
            (s1.addCredit c.base.clave 0 (Vector.replicate 6 0)).finishCommand e gr.core (statusWord 0 0)
          else s1
      s2.retire 2)

/-- A record of a weight-stream load ends (R251). -/
def execWloadRecord (cluster slot : Nat) (s : State) : Host.Outcome State Fault Refusal :=
  .next (
    let i := engIndex (.wload cluster slot)
    match (SMap.get EngSlot.idle s.wloadSlots i).cmd with
    | none => s
    | some c =>
      if c.base.result.isSome || s.partHalted c.base.part || decide (s.now < c.base.notBefore) then s
      else if c.base.cancel then s.endWload i c 1
      else if s.tileBehind c c.nextTile then s
      else s.nextRecord i c)

end Sys2Proof.Machine
end

