-- ==== Sys2Proof/Machine/Dispatch.lean ====
section
/-!
DEFINITION. One arm for each constructor of Instr: a direct call of its meaning, or a refusal by name.
-/

namespace Sys2Proof.Machine

/-- What the device does for one instruction or event. -/
def exec (i : Instr) (s : State) : Host.Outcome State Fault Refusal :=
  match i with
  | .add g d a b => Sys2Proof.Machine.execAdd g d a b s
  | .addImm g d a im => Sys2Proof.Machine.execAddImm g d a im s
  | .addImmLong g d a w => Sys2Proof.Machine.execAddImmLong g d a w s
  | .sub g d a b => Sys2Proof.Machine.execSub g d a b s
  | .mullo g d a b => Sys2Proof.Machine.execMullo g d a b s
  | .and g d a b => Sys2Proof.Machine.execAnd g d a b s
  | .andImm g d a im => Sys2Proof.Machine.execAndImm g d a im s
  | .andImmLong g d a w => Sys2Proof.Machine.execAndImmLong g d a w s
  | .or g d a b => Sys2Proof.Machine.execOr g d a b s
  | .orImm g d a im => Sys2Proof.Machine.execOrImm g d a im s
  | .orImmLong g d a w => Sys2Proof.Machine.execOrImmLong g d a w s
  | .xor g d a b => Sys2Proof.Machine.execXor g d a b s
  | .shlImm g d a im => Sys2Proof.Machine.execShlImm g d a im s
  | .shlImmLong g d a w => Sys2Proof.Machine.execShlImmLong g d a w s
  | .shrImm g d a im => Sys2Proof.Machine.execShrImm g d a im s
  | .shrImmLong g d a w => Sys2Proof.Machine.execShrImmLong g d a w s
  | .sarImm g d a im => Sys2Proof.Machine.execSarImm g d a im s
  | .sarImmLong g d a w => Sys2Proof.Machine.execSarImmLong g d a w s
  | .movi g d im => Sys2Proof.Machine.execMovi g d im s
  | .moviLong g d w => Sys2Proof.Machine.execMoviLong g d w s
  | .mov g d a => Sys2Proof.Machine.execMov g d a s
  | .movPopPort g d q => Sys2Proof.Machine.execMovPopPort g d q s
  | .movPushPort g a q => Sys2Proof.Machine.execMovPushPort g a q s
  | .addX g d a b sat => Sys2Proof.Machine.execAddX g d a b sat s
  | .addN32 g d a b sat => Sys2Proof.Machine.execAddN32 g d a b sat s
  | .subX g d a b sat => Sys2Proof.Machine.execSubX g d a b sat s
  | .subN32 g d a b sat => Sys2Proof.Machine.execSubN32 g d a b sat s
  | .addc g d a b pi po => Sys2Proof.Machine.execAddc g d a b pi po s
  | .subb g d a b pi po => Sys2Proof.Machine.execSubb g d a b pi po s
  | .neg g d a sat => Sys2Proof.Machine.execNeg g d a sat s
  | .abs g d a sat => Sys2Proof.Machine.execAbs g d a sat s
  | .min g d a b => Sys2Proof.Machine.execMin g d a b s
  | .minN32 g d a b => Sys2Proof.Machine.execMinN32 g d a b s
  | .max g d a b => Sys2Proof.Machine.execMax g d a b s
  | .maxN32 g d a b => Sys2Proof.Machine.execMaxN32 g d a b s
  | .mulloX g d a b => Sys2Proof.Machine.execMulloX g d a b s
  | .mulhi g d a b => Sys2Proof.Machine.execMulhi g d a b s
  | .mulhiN32 g d a b => Sys2Proof.Machine.execMulhiN32 g d a b s
  | .mad g d a b c sat => Sys2Proof.Machine.execMad g d a b c sat s
  | .madN32 g d a b c sat => Sys2Proof.Machine.execMadN32 g d a b c sat s
  | .sad g d a b c => Sys2Proof.Machine.execSad g d a b c s
  | .sadN32 g d a b c => Sys2Proof.Machine.execSadN32 g d a b c s
  | .shl g d a b => Sys2Proof.Machine.execShl g d a b s
  | .shr g d a b => Sys2Proof.Machine.execShr g d a b s
  | .sar g d a b => Sys2Proof.Machine.execSar g d a b s
  | .rot g d a b => Sys2Proof.Machine.execRot g d a b s
  | .andX g d a b => Sys2Proof.Machine.execAndX g d a b s
  | .orX g d a b => Sys2Proof.Machine.execOrX g d a b s
  | .xorX g d a b => Sys2Proof.Machine.execXorX g d a b s
  | .andn g d a b => Sys2Proof.Machine.execAndn g d a b s
  | .not g d a => Sys2Proof.Machine.execNot g d a s
  | .bfx g d a b c => Sys2Proof.Machine.execBfx g d a b c s
  | .bfi g d a b c len => Sys2Proof.Machine.execBfi g d a b c len s
  | .popc g d a => Sys2Proof.Machine.execPopc g d a s
  | .clz g d a => Sys2Proof.Machine.execClz g d a s
  | .brev g d a => Sys2Proof.Machine.execBrev g d a s
  | .lea g d a b sc => Sys2Proof.Machine.execLea g d a b sc s
  | .fadd g d a b => Sys2Proof.Machine.execFadd g d a b s
  | .fsub g d a b => Sys2Proof.Machine.execFsub g d a b s
  | .fmul g d a b => Sys2Proof.Machine.execFmul g d a b s
  | .ffma g d a b => Sys2Proof.Machine.execFfma g d a b s
  | .fmin g d a b => Sys2Proof.Machine.execFmin g d a b s
  | .fmax g d a b => Sys2Proof.Machine.execFmax g d a b s
  | .faddX g d a b ff rnd => Sys2Proof.Machine.execFaddX g d a b ff rnd s
  | .fsubX g d a b ff rnd => Sys2Proof.Machine.execFsubX g d a b ff rnd s
  | .fmulX g d a b ff rnd => Sys2Proof.Machine.execFmulX g d a b ff rnd s
  | .ffmaX g d a b c ff rnd => Sys2Proof.Machine.execFfmaX g d a b c ff rnd s
  | .fminX g d a b ff => Sys2Proof.Machine.execFminX g d a b ff s
  | .fmaxX g d a b ff => Sys2Proof.Machine.execFmaxX g d a b ff s
  | .frcp g d a => Sys2Proof.Machine.execFrcp g d a s
  | .frsq g d a => Sys2Proof.Machine.execFrsq g d a s
  | .fsqrt g d a ff rnd => Sys2Proof.Machine.execFsqrt g d a ff rnd s
  | .fexp2 g d a => Sys2Proof.Machine.execFexp2 g d a s
  | .flog2 g d a => Sys2Proof.Machine.execFlog2 g d a s
  | .fsin g d a => Sys2Proof.Machine.execFsin g d a s
  | .fcos g d a => Sys2Proof.Machine.execFcos g d a s
  | .fclass g d a ff => Sys2Proof.Machine.execFclass g d a ff s
  | .cmp g pd pe a b op ct => Sys2Proof.Machine.execCmp g pd pe a b op ct s
  | .cmpImm g pd pe a im op ct => Sys2Proof.Machine.execCmpImm g pd pe a im op ct s
  | .fcmp g pd pe a b fop ct ff => Sys2Proof.Machine.execFcmp g pd pe a b fop ct ff s
  | .tst g pd pe a b ct => Sys2Proof.Machine.execTst g pd pe a b ct s
  | .pand g pd pa pb => Sys2Proof.Machine.execPand g pd pa pb s
  | .por g pd pa pb => Sys2Proof.Machine.execPor g pd pa pb s
  | .pxor g pd pa pb => Sys2Proof.Machine.execPxor g pd pa pb s
  | .pmov g pd pa => Sys2Proof.Machine.execPmov g pd pa s
  | .sel g d a b px => Sys2Proof.Machine.execSel g d a b px s
  | .vperm g d a b => Sys2Proof.Machine.execVperm g d a b s
  | .vshfl g d a b sh => Sys2Proof.Machine.execVshfl g d a b sh s
  | .vbcast g d a k => Sys2Proof.Machine.execVbcast g d a k s
  | .vscan g d a px rop => Sys2Proof.Machine.execVscan g d a px rop s
  | .vred g d a rop => Sys2Proof.Machine.execVred g d a rop s
  | .vvoteAny g pd pa => Sys2Proof.Machine.execVvoteAny g pd pa s
  | .vvoteAll g pd pa => Sys2Proof.Machine.execVvoteAll g pd pa s
  | .vvoteMask g d pa => Sys2Proof.Machine.execVvoteMask g d pa s
  | .vfirst g d pa => Sys2Proof.Machine.execVfirst g d pa s
  | .cvt g d a dst src rnd => Sys2Proof.Machine.execCvt g d a dst src rnd s
  | .cvtEsc g d a dst src rnd => Sys2Proof.Machine.execCvtEsc g d a dst src rnd s
  | .vdecGap g d a b wd => Sys2Proof.Machine.execVdecGap g d a b wd s
  | .vdecVarint g d a b wd => Sys2Proof.Machine.execVdecVarint g d a b wd s
  | .vdecBitplane g d a b wd => Sys2Proof.Machine.execVdecBitplane g d a b wd s
  | .ld g d mem obs order stage size off => Sys2Proof.Machine.execLd g d mem obs order stage size off s
  | .st g d mem obs order stage size off => Sys2Proof.Machine.execSt g d mem obs order stage size off s
  | .atom g d mem obs order stage dbl aop off16 => Sys2Proof.Machine.execAtom g d mem obs order stage dbl aop off16 s
  | .pref g mem off => Sys2Proof.Machine.execPref g mem off s
  | .xld g d a im => Sys2Proof.Machine.execXld g d a im s
  | .xldLong g d a w => Sys2Proof.Machine.execXldLong g d a w s
  | .xst g d a im => Sys2Proof.Machine.execXst g d a im s
  | .xstLong g d a w => Sys2Proof.Machine.execXstLong g d a w s
  | .cins g d a b c obs => Sys2Proof.Machine.execCins g d a b c obs s
  | .crem g pd a b c => Sys2Proof.Machine.execCrem g pd a b c s
  | .cnext g d ita b px => Sys2Proof.Machine.execCnext g d ita b px s
  | .wlpush g a c => Sys2Proof.Machine.execWlpush g a c s
  | .wlpop g d c px => Sys2Proof.Machine.execWlpop g d c px s
  | .wlins g a c px => Sys2Proof.Machine.execWlins g a c px s
  | .qcall g a typ unit sp => Sys2Proof.Machine.execQcall g a typ unit sp s
  | .qret g d unit => Sys2Proof.Machine.execQret g d unit s
  | .qretTrap g d unit => Sys2Proof.Machine.execQretTrap g d unit s
  | .gadd g d a b => Sys2Proof.Machine.execGadd g d a b s
  | .gaddImm g d a im => Sys2Proof.Machine.execGaddImm g d a im s
  | .gaddImmLong g d a w => Sys2Proof.Machine.execGaddImmLong g d a w s
  | .gsub g d a b => Sys2Proof.Machine.execGsub g d a b s
  | .gmul g d a b => Sys2Proof.Machine.execGmul g d a b s
  | .gand g d a b => Sys2Proof.Machine.execGand g d a b s
  | .gandImm g d a im => Sys2Proof.Machine.execGandImm g d a im s
  | .gandImmLong g d a w => Sys2Proof.Machine.execGandImmLong g d a w s
  | .gor g d a b => Sys2Proof.Machine.execGor g d a b s
  | .gorImm g d a im => Sys2Proof.Machine.execGorImm g d a im s
  | .gorImmLong g d a w => Sys2Proof.Machine.execGorImmLong g d a w s
  | .gxor g d a b => Sys2Proof.Machine.execGxor g d a b s
  | .gshlImm g d a im => Sys2Proof.Machine.execGshlImm g d a im s
  | .gshlImmLong g d a w => Sys2Proof.Machine.execGshlImmLong g d a w s
  | .gshrImm g d a im => Sys2Proof.Machine.execGshrImm g d a im s
  | .gshrImmLong g d a w => Sys2Proof.Machine.execGshrImmLong g d a w s
  | .gsarImm g d a im => Sys2Proof.Machine.execGsarImm g d a im s
  | .gsarImmLong g d a w => Sys2Proof.Machine.execGsarImmLong g d a w s
  | .gmovi g d im => Sys2Proof.Machine.execGmovi g d im s
  | .gmoviLong g d w => Sys2Proof.Machine.execGmoviLong g d w s
  | .gmov g d a => Sys2Proof.Machine.execGmov g d a s
  | .gaddX g d a b => Sys2Proof.Machine.execGaddX g d a b s
  | .gsubX g d a b => Sys2Proof.Machine.execGsubX g d a b s
  | .gmulX g d a b => Sys2Proof.Machine.execGmulX g d a b s
  | .gshl g d a b => Sys2Proof.Machine.execGshl g d a b s
  | .gshr g d a b => Sys2Proof.Machine.execGshr g d a b s
  | .gsar g d a b => Sys2Proof.Machine.execGsar g d a b s
  | .gandX g d a b => Sys2Proof.Machine.execGandX g d a b s
  | .gorX g d a b => Sys2Proof.Machine.execGorX g d a b s
  | .gxorX g d a b => Sys2Proof.Machine.execGxorX g d a b s
  | .gmovX g d a => Sys2Proof.Machine.execGmovX g d a s
  | .glea g d a b sc => Sys2Proof.Machine.execGlea g d a b sc s
  | .gsel g d a b px => Sys2Proof.Machine.execGsel g d a b px s
  | .gaddD g d a b => Sys2Proof.Machine.execGaddD g d a b s
  | .gsubD g d a b => Sys2Proof.Machine.execGsubD g d a b s
  | .gmulD g d a b => Sys2Proof.Machine.execGmulD g d a b s
  | .gshlD g d a b => Sys2Proof.Machine.execGshlD g d a b s
  | .gshrD g d a b => Sys2Proof.Machine.execGshrD g d a b s
  | .gsarD g d a b => Sys2Proof.Machine.execGsarD g d a b s
  | .gandD g d a b => Sys2Proof.Machine.execGandD g d a b s
  | .gorD g d a b => Sys2Proof.Machine.execGorD g d a b s
  | .gxorD g d a b => Sys2Proof.Machine.execGxorD g d a b s
  | .gmovD g d a => Sys2Proof.Machine.execGmovD g d a s
  | .gleaD g d a b sc => Sys2Proof.Machine.execGleaD g d a b sc s
  | .gselD g d a b px => Sys2Proof.Machine.execGselD g d a b px s
  | .gcmp g pd pe a b op ct => Sys2Proof.Machine.execGcmp g pd pe a b op ct s
  | .gcmpImm g pd pe a im op ct => Sys2Proof.Machine.execGcmpImm g pd pe a im op ct s
  | .bra g cq off18 => Sys2Proof.Machine.execBra g cq off18 s
  | .jmp g off21 => Sys2Proof.Machine.execJmp g off21 s
  | .jmpAbs g pc => Sys2Proof.Machine.execJmpAbs g pc s
  | .braV g pq off18 join hint => Sys2Proof.Machine.execBraV g pq off18 join hint s
  | .brx g a => Sys2Proof.Machine.execBrx g a s
  | .call g d w => Sys2Proof.Machine.execCall g d w s
  | .ret g a => Sys2Proof.Machine.execRet g a s
  | .rvpop g => Sys2Proof.Machine.execRvpop g s
  | .rvpush g a b => Sys2Proof.Machine.execRvpush g a b s
  | .yield g => Sys2Proof.Machine.execYield g s
  | .sleep g im => Sys2Proof.Machine.execSleep g im s
  | .sleepLong g w => Sys2Proof.Machine.execSleepLong g w s
  | .bar g => Sys2Proof.Machine.execBar g s
  | .spawn g cq a w => Sys2Proof.Machine.execSpawn g cq a w s
  | .role g cq n => Sys2Proof.Machine.execRole g cq n s
  | .exit g => Sys2Proof.Machine.execExit g s
  | .mfc g d ctl => Sys2Proof.Machine.execMfc g d ctl s
  | .mtc g ctl a => Sys2Proof.Machine.execMtc g ctl a s
  | .mtcRvsp g a => Sys2Proof.Machine.execMtcRvsp g a s
  | .xmset g pa => Sys2Proof.Machine.execXmset g pa s
  | .trap g n7 => Sys2Proof.Machine.execTrap g n7 s
  | .sys g n7 => Sys2Proof.Machine.execSys g n7 s
  | .brk g n7 => Sys2Proof.Machine.execBrk g n7 s
  | .nop g d a b hx => Sys2Proof.Machine.execNop g d a b hx s
  | .prefc g d a hx => Sys2Proof.Machine.execPrefc g d a hx s
  | .tcfg g t b => Sys2Proof.Machine.execTcfg g t b s
  | .tcfgImm g t w => Sys2Proof.Machine.execTcfgImm g t w s
  | .tzero g t => Sys2Proof.Machine.execTzero g t s
  | .tld g t k b obs order stage off => Sys2Proof.Machine.execTld g t k b obs order stage off s
  | .tsv g t k b obs order stage off => Sys2Proof.Machine.execTsv g t k b obs order stage off s
  | .tcvt g t ta dst rnd => Sys2Proof.Machine.execTcvt g t ta dst rnd s
  | .tmvV g d ta b => Sys2Proof.Machine.execTmvV g d ta b s
  | .tmvT g t a b => Sys2Proof.Machine.execTmvT g t a b s
  | .mma g t ta tb c rnd z => Sys2Proof.Machine.execMma g t ta tb c rnd z s
  | .mmat g t ta tb c rnd z => Sys2Proof.Machine.execMmat g t ta tb c rnd z s
  | .mmag g t ta tb c gx rnd z => Sys2Proof.Machine.execMmag g t ta tb c gx rnd z s
  | .mmx g t ta tb c rnd z => Sys2Proof.Machine.execMmx g t ta tb c rnd z s
  | .quant g t ta c rnd => Sys2Proof.Machine.execQuant g t ta c rnd s
  | .ctld g n a => Sys2Proof.Machine.execCtld g n a s
  | .acp g d a b obs order ds fs => Sys2Proof.Machine.execAcp g d a b obs order ds fs s
  | .acp2 g d a b obs order ds fs => Sys2Proof.Machine.execAcp2 g d a b obs order ds fs s
  | .acpg g d a b obs order ds fs => Sys2Proof.Machine.execAcpg g d a b obs order ds fs s
  | .afill g d a b obs order ds => Sys2Proof.Machine.execAfill g d a b obs order ds s
  | .wload g d a b obs order prec => Sys2Proof.Machine.execWload g d a b obs order prec s
  | .clvInit g a b => Sys2Proof.Machine.execClvInit g a b s
  | .clvArm g a b => Sys2Proof.Machine.execClvArm g a b s
  | .clvWait g a b => Sys2Proof.Machine.execClvWait g a b s
  | .hwait g d a => Sys2Proof.Machine.execHwait g d a s
  | .htst g cq a => Sys2Proof.Machine.execHtst g cq a s
  | .hcan g a => Sys2Proof.Machine.execHcan g a s
  | .hmov g d a => Sys2Proof.Machine.execHmov g d a s
  | .apGo g a => Sys2Proof.Machine.execApGo g a s
  | .apStop g => Sys2Proof.Machine.execApStop g s
  | .qtst g cq qa => Sys2Proof.Machine.execQtst g cq qa s
  | .gld g d mem obs order stage size off => Sys2Proof.Machine.execGld g d mem obs order stage size off s
  | .gst g d mem obs order stage size off => Sys2Proof.Machine.execGst g d mem obs order stage size off s
  | .gatom g d mem obs order stage dbl aop off16 => Sys2Proof.Machine.execGatom g d mem obs order stage dbl aop off16 s
  | .fence g obs => Sys2Proof.Machine.execFence g obs s
  | .copen g it a b c => Sys2Proof.Machine.execCopen g it a b c s
  | .cclose g ita => Sys2Proof.Machine.execCclose g ita s
  | .ccount g d a b c => Sys2Proof.Machine.execCcount g d a b c s
  | .wlclr g c => Sys2Proof.Machine.execWlclr g c s
  | .wlcnt g d c => Sys2Proof.Machine.execWlcnt g d c s
  | .qtok g d a => Sys2Proof.Machine.execQtok g d a s
  | .tsecEnter g a b => Sys2Proof.Machine.execTsecEnter g a b s
  | .tsecExit g a b => Sys2Proof.Machine.execTsecExit g a b s
  | .glaunch g cq a => Sys2Proof.Machine.execGlaunch g cq a s
  | .illegalPattern w0 w1 => Sys2Proof.Machine.execIllegalPattern w0 w1 s
  | .fetchFault grp fatal second addr => Sys2Proof.Machine.execFetchFault grp fatal second addr s
  | .pathJoin grp sl => Sys2Proof.Machine.execPathJoin grp sl s
  | .pathSwitch grp => Sys2Proof.Machine.execPathSwitch grp s
  | .slotIssueCycle core slot => Sys2Proof.Machine.execSlotIssueCycle core slot s
  | .groupAged grp => Sys2Proof.Machine.execGroupAged grp s
  | .trapEntry grp => Sys2Proof.Machine.execTrapEntry grp s
  | .faultRecord n => Sys2Proof.Machine.execFaultRecord n s
  | .parkedReplay grp => Sys2Proof.Machine.execParkedReplay grp s
  | .pageFaultResolve part ia entries => Sys2Proof.Machine.execPageFaultResolve part ia entries s
  | .pageMigrationStart part ia => Sys2Proof.Machine.execPageMigrationStart part ia s
  | .pageMigrationEnd part ia pfn tier home => Sys2Proof.Machine.execPageMigrationEnd part ia pfn tier home s
  | .hotUpdate n => Sys2Proof.Machine.execHotUpdate n s
  | .lineMigrate line slice => Sys2Proof.Machine.execLineMigrate line slice s
  | .lineEvict line => Sys2Proof.Machine.execLineEvict line s
  | .leaseExpiry n => Sys2Proof.Machine.execLeaseExpiry n s
  | .eccCorrectable die => Sys2Proof.Machine.execEccCorrectable die s
  | .eccUncorrectable place line => Sys2Proof.Machine.execEccUncorrectable place line s
  | .engineChunkComplete core slot => Sys2Proof.Machine.execEngineChunkComplete core slot s
  | .claveCredit n => Sys2Proof.Machine.execClaveCredit n s
  | .engineCommandComplete eng => Sys2Proof.Machine.execEngineCommandComplete eng s
  | .cinsApply core slot => Sys2Proof.Machine.execCinsApply core slot s
  | .wloadRecord cluster slot => Sys2Proof.Machine.execWloadRecord cluster slot s
  | .streamLoadElement grp port => Sys2Proof.Machine.execStreamLoadElement grp port s
  | .streamStoreElement grp port => Sys2Proof.Machine.execStreamStoreElement grp port s
  | .queueSpillRefill q => Sys2Proof.Machine.execQueueSpillRefill q s
  | .coprocRecord cluster unit => Sys2Proof.Machine.execCoprocRecord cluster unit s
  | .fragmentTurn cluster n => Sys2Proof.Machine.execFragmentTurn cluster n s
  | .consumerWaitExpiry part consumer => Sys2Proof.Machine.execConsumerWaitExpiry part consumer s
  | .sectionTimeout grp => Sys2Proof.Machine.execSectionTimeout grp s
  | .barrierPhaseComplete cohort => Sys2Proof.Machine.execBarrierPhaseComplete cohort s
  | .sleepDeadline grp => Sys2Proof.Machine.execSleepDeadline grp s
  | .sysReply grp => Sys2Proof.Machine.execSysReply grp s
  | .launchDispatch part => Sys2Proof.Machine.execLaunchDispatch part s
  | .launchRefused part launch => Sys2Proof.Machine.execLaunchRefused part launch s
  | .preconditionRead part launch => Sys2Proof.Machine.execPreconditionRead part launch s
  | .cohortReserved part launch => Sys2Proof.Machine.execCohortReserved part launch s
  | .preempt part => Sys2Proof.Machine.execPreempt part s
  | .restore part => Sys2Proof.Machine.execRestore part s
  | .islandFrequencyChange island setting => Sys2Proof.Machine.execIslandFrequencyChange island setting s
  | .debugHalt grp => Sys2Proof.Machine.execDebugHalt grp s
  | .debugResume grp => Sys2Proof.Machine.execDebugResume grp s
  | .debugStep grp => Sys2Proof.Machine.execDebugStep grp s
  | .debugRead grp item => Sys2Proof.Machine.execDebugRead grp item s
  | .debugWrite grp item value => Sys2Proof.Machine.execDebugWrite grp item value s
  | .debugDrain grp timeout => Sys2Proof.Machine.execDebugDrain grp timeout s
  | .debugDrainTimeout grp => Sys2Proof.Machine.execDebugDrainTimeout grp s
  | .debugWatch core idx watch => Sys2Proof.Machine.execDebugWatch core idx watch s
  | .debugTrapmode onWatch halt => Sys2Proof.Machine.execDebugTrapmode onWatch halt s
  | .gong => Sys2Proof.Machine.execGong s
  | .deviceReset => Sys2Proof.Machine.execDeviceReset s
  | .powerUpBoot => Sys2Proof.Machine.execPowerUpBoot s
  | .ping r => Sys2Proof.Machine.execPing r s
  | .launch r => Sys2Proof.Machine.execLaunch r s
  | .status r => Sys2Proof.Machine.execStatus r s
  | .quote r => Sys2Proof.Machine.execQuote r s
  | .hot r => Sys2Proof.Machine.execHot r s
  | .reload r => Sys2Proof.Machine.execReload r s
  | .monitor r => Sys2Proof.Machine.execMonitor r s
  | .migrate r => Sys2Proof.Machine.execMigrate r s
  | .quota r => Sys2Proof.Machine.execQuota r s
  | .partitionCreate r => Sys2Proof.Machine.execPartitionCreate r s
  | .partitionResize r => Sys2Proof.Machine.execPartitionResize r s
  | .partitionDestroy r => Sys2Proof.Machine.execPartitionDestroy r s
  | .partitionHalt r => Sys2Proof.Machine.execPartitionHalt r s
  | .partitionResume r => Sys2Proof.Machine.execPartitionResume r s
  | .partitionQuery r => Sys2Proof.Machine.execPartitionQuery r s
  | .consumers r => Sys2Proof.Machine.execConsumers r s
  | .debug r => Sys2Proof.Machine.execDebug r s
  | .fwupd r => Sys2Proof.Machine.execFwupd r s
  | .peers r => Sys2Proof.Machine.execPeers r s
  | .exportList r => Sys2Proof.Machine.execExportList r s
  | .hostLinkTrain up => Sys2Proof.Machine.execHostLinkTrain up s
  | .hostAccess bar off kind => Sys2Proof.Machine.execHostAccess bar off kind s
  | .peerAccess part ia kind => Sys2Proof.Machine.execPeerAccess part ia kind s
  | .partFence kind n => Sys2Proof.Machine.execPartFence kind n s
  | .partFailure kind n => Sys2Proof.Machine.execPartFailure kind n s
  | .powerLoss => Sys2Proof.Machine.execPowerLoss s
  | .peerTransportFailure part peer => Sys2Proof.Machine.execPeerTransportFailure part peer s
  | .monitorWindowEnd point => Sys2Proof.Machine.execMonitorWindowEnd point s

end Sys2Proof.Machine
end

