-- ==== Sys2Proof/Machine/RunEvent.lean ====
section
/-!
DEFINITION. Running an event of the agenda: the meaning of its row, one arm for each.
-/

namespace Sys2Proof.Machine

/-- The outcome of an event: that of its instruction of the opcode table. -/
def runEvent (e : Event) (s : State) : Host.Outcome State Fault Refusal :=
  match e with
  | .fetchFault grp fatal second addr => Sys2Proof.Machine.execFetchFault grp fatal second addr s
  | .pathJoin grp sl => Sys2Proof.Machine.execPathJoin grp sl s
  | .pathSwitch grp => Sys2Proof.Machine.execPathSwitch grp s
  | .slotIssueCycle core slot => Sys2Proof.Machine.execSlotIssueCycle core slot s
  | .groupAged grp => Sys2Proof.Machine.execGroupAged grp s
  | .trapEntry grp => Sys2Proof.Machine.execTrapEntry grp s
  | .faultRecord n => Sys2Proof.Machine.execFaultRecord n s
  | .parkedReplay grp => Sys2Proof.Machine.execParkedReplay grp s
  | .pageFaultResolve part ia entries => Sys2Proof.Machine.execPageFaultResolve part ia entries s
  | .pageMigrationStart part ia => Sys2Proof.Machine.execPageMigrationStart part ia s
  | .pageMigrationEnd part ia pfn tier home => Sys2Proof.Machine.execPageMigrationEnd part ia pfn tier home s
  | .hotUpdate n => Sys2Proof.Machine.execHotUpdate n s
  | .lineMigrate line slice => Sys2Proof.Machine.execLineMigrate line slice s
  | .lineEvict line => Sys2Proof.Machine.execLineEvict line s
  | .leaseExpiry n => Sys2Proof.Machine.execLeaseExpiry n s
  | .eccCorrectable die => Sys2Proof.Machine.execEccCorrectable die s
  | .eccUncorrectable place line => Sys2Proof.Machine.execEccUncorrectable place line s
  | .engineChunkComplete core slot => Sys2Proof.Machine.execEngineChunkComplete core slot s
  | .claveCredit n => Sys2Proof.Machine.execClaveCredit n s
  | .engineCommandComplete eng => Sys2Proof.Machine.execEngineCommandComplete eng s
  | .cinsApply core slot => Sys2Proof.Machine.execCinsApply core slot s
  | .wloadRecord cluster slot => Sys2Proof.Machine.execWloadRecord cluster slot s
  | .streamLoadElement grp port => Sys2Proof.Machine.execStreamLoadElement grp port s
  | .streamStoreElement grp port => Sys2Proof.Machine.execStreamStoreElement grp port s
  | .queueSpillRefill q => Sys2Proof.Machine.execQueueSpillRefill q s
  | .coprocRecord cluster unit => Sys2Proof.Machine.execCoprocRecord cluster unit s
  | .fragmentTurn cluster n => Sys2Proof.Machine.execFragmentTurn cluster n s
  | .consumerWaitExpiry part consumer => Sys2Proof.Machine.execConsumerWaitExpiry part consumer s
  | .sectionTimeout grp => Sys2Proof.Machine.execSectionTimeout grp s
  | .barrierPhaseComplete cohort => Sys2Proof.Machine.execBarrierPhaseComplete cohort s
  | .sleepDeadline grp => Sys2Proof.Machine.execSleepDeadline grp s
  | .sysReply grp => Sys2Proof.Machine.execSysReply grp s
  | .launchDispatch part => Sys2Proof.Machine.execLaunchDispatch part s
  | .launchRefused part launch => Sys2Proof.Machine.execLaunchRefused part launch s
  | .preconditionRead part launch => Sys2Proof.Machine.execPreconditionRead part launch s
  | .cohortReserved part launch => Sys2Proof.Machine.execCohortReserved part launch s
  | .preempt part => Sys2Proof.Machine.execPreempt part s
  | .restore part => Sys2Proof.Machine.execRestore part s
  | .islandFrequencyChange island setting => Sys2Proof.Machine.execIslandFrequencyChange island setting s
  | .debugHalt grp => Sys2Proof.Machine.execDebugHalt grp s
  | .debugResume grp => Sys2Proof.Machine.execDebugResume grp s
  | .debugStep grp => Sys2Proof.Machine.execDebugStep grp s
  | .debugRead grp item => Sys2Proof.Machine.execDebugRead grp item s
  | .debugWrite grp item value => Sys2Proof.Machine.execDebugWrite grp item value s
  | .debugDrain grp timeout => Sys2Proof.Machine.execDebugDrain grp timeout s
  | .debugDrainTimeout grp => Sys2Proof.Machine.execDebugDrainTimeout grp s
  | .debugWatch core idx watch => Sys2Proof.Machine.execDebugWatch core idx watch s
  | .debugTrapmode onWatch halt => Sys2Proof.Machine.execDebugTrapmode onWatch halt s
  | .gong => Sys2Proof.Machine.execGong s
  | .deviceReset => Sys2Proof.Machine.execDeviceReset s
  | .powerUpBoot => Sys2Proof.Machine.execPowerUpBoot s
  | .ping r => Sys2Proof.Machine.execPing r s
  | .launch r => Sys2Proof.Machine.execLaunch r s
  | .status r => Sys2Proof.Machine.execStatus r s
  | .quote r => Sys2Proof.Machine.execQuote r s
  | .hot r => Sys2Proof.Machine.execHot r s
  | .reload r => Sys2Proof.Machine.execReload r s
  | .monitor r => Sys2Proof.Machine.execMonitor r s
  | .migrate r => Sys2Proof.Machine.execMigrate r s
  | .quota r => Sys2Proof.Machine.execQuota r s
  | .partitionCreate r => Sys2Proof.Machine.execPartitionCreate r s
  | .partitionResize r => Sys2Proof.Machine.execPartitionResize r s
  | .partitionDestroy r => Sys2Proof.Machine.execPartitionDestroy r s
  | .partitionHalt r => Sys2Proof.Machine.execPartitionHalt r s
  | .partitionResume r => Sys2Proof.Machine.execPartitionResume r s
  | .partitionQuery r => Sys2Proof.Machine.execPartitionQuery r s
  | .consumers r => Sys2Proof.Machine.execConsumers r s
  | .debug r => Sys2Proof.Machine.execDebug r s
  | .fwupd r => Sys2Proof.Machine.execFwupd r s
  | .peers r => Sys2Proof.Machine.execPeers r s
  | .exportList r => Sys2Proof.Machine.execExportList r s
  | .hostLinkTrain up => Sys2Proof.Machine.execHostLinkTrain up s
  | .hostAccess bar off kind => Sys2Proof.Machine.execHostAccess bar off kind s
  | .peerAccess part ia kind => Sys2Proof.Machine.execPeerAccess part ia kind s
  | .partFence kind n => Sys2Proof.Machine.execPartFence kind n s
  | .partFailure kind n => Sys2Proof.Machine.execPartFailure kind n s
  | .powerLoss => Sys2Proof.Machine.execPowerLoss s
  | .peerTransportFailure part peer => Sys2Proof.Machine.execPeerTransportFailure part peer s
  | .monitorWindowEnd point => Sys2Proof.Machine.execMonitorWindowEnd point s

end Sys2Proof.Machine
end

