-- ==== Sys2Proof/Machine/Running.lean ====
section
/-!
DEFINITION. How one item of the agenda is run (log 1, DESIGN CHOICE): an issue opportunity fetches the instruction at the issuing
path's PC and executes it; an empty agenda is filled with the default round. And where a test's instruction is placed so that a step runs it.
-/

namespace Sys2Proof.Machine

/-- Late accesses of groups to Stage lines that have become absent are performed: they passed their presence check before (R162, R173). -/
def State.settleAbsent (s : State) : State :=
  if s.absent.isEmpty then s
  else
    let gone := fun x : Late => match x.dest with | .stage b => !s.present (b / 128) | _ => false
    ((s.groups.filter fun gr => gr.late.any gone).map (·.key)).foldl State.performGroup s

/-- A group's own copies serve one instruction alone (R201): they go once it has issued, but not while it waits. -/
def State.dropOwn (s : State) (key : Nat) : State :=
  let waits := (s.group? key).any fun gr => match gr.wait with | .again _ => true | .parked _ => true | _ => false
  if waits then s else { s with replicas := s.replicas.filter fun r => r.holder != .own key }

/-- What is left to do once an instruction of a group has been executed. -/
def State.endIssue (s : State) (key : Nat) : State := (s.dropOwn key).settleAbsent

/-- The outcome of an issue opportunity from that of its instruction. -/
def afterIssue (key : Nat) (o : Host.Outcome State Fault Refusal) : Host.Outcome State Fault Refusal :=
  match o with
  | .next t => .next (t.endIssue key)
  | o => o

/-- What a fetched instruction does after the pushes before it (R183), or what stops the fetch (R100, R175); s is the state at the fetch. The
group fetches no word ahead of its issue (R100, R185; log 36, DESIGN CHOICE). -/
def runFetched (key : Nat) (f : Fetched) (s : State) : Host.Outcome State Fault Refusal :=
  match f with
  | .ok i bs => afterIssue key (exec i (s.fetched bs).afterPushes)
  | .fault fatal second a => runEvent (.fetchFault key fatal second a) s
  | .replay ia => .next { s.reportFault s.cur.part ia with cur := { s.cur with wait := .parked [ia] } }
  | .absent => .next (s.hold .presence)

/-- A group waits: its instruction, or the pop at its join, is not ready (R306). -/
def State.waits (s : State) (key : Nat) : Bool :=
  (s.group? key).any fun gr => match gr.wait with | .again _ => !gr.ready | _ => false

/-- The pop of a path at its join waits for presence, so that the issue opportunity is over (R37, R162). -/
def State.joinWaits (s : State) (key : Nat) (sl : Bool) : Bool := ((s.focus key).pathJoin sl).waits key

/-- An issue opportunity of a group (R35, R37, R306); `kept` is the state with the opportunity still on the agenda. -/
def issueStep (s kept : State) (key : Nat) (other replica : Bool) : Host.Outcome State Fault Refusal :=
  match s.group? key with
  | none => .next s
  | some gr =>
    if !gr.issuable then .next s
    else
      match gr.atJoin with
      | some sl => afterIssue key (runEvent (.pathJoin key sl) (if s.joinWaits key sl then s else kept))
      | none =>
        if gr.switchDue other then runEvent (.pathSwitch key) { s with agenda := .issue key false replica :: s.agenda }
        else
          let s1 := s.prepare key other replica
          runFetched key s1.fetchNext s1

/-- The outcome of a try of a group's next instruction (R306): where it waits, the group waits as the try leaves it; else nothing has
happened, and a group that waited is ready. -/
def settleTry (s : State) (key : Nat) (o : Host.Outcome State Fault Refusal) : Host.Outcome State Fault Refusal :=
  match o with
  | .next t => .next (if t.waits key then t else if s.waits key then s.modGroup key fun gr => { gr with wait := .again .ready } else s)
  | o => o

/-- A group's readiness is settled (R306): the joins and the switch before its next instruction take place (R35, R37), and that instruction
is tried. -/
def retryStep (s0 : State) (key : Nat) : Host.Outcome State Fault Refusal :=
  match s0.group? key with
  | none => .next s0
  | some gr =>
    if !gr.issuable then .next s0
    else
      let s := State.settle (gr.rvdepth.toNat + 4) { s0.focus key with serve := false }
      if !s.cur.issuable || s.cur.key != key || s.cur.atJoin.isSome then .next s
      else
        let s1 := s.prepare key false false
        settleTry s key (runFetched key s1.fetchNext s1)

/-- The readiness of some groups is settled, one after another. -/
def retryAll : List Nat → State → Host.Outcome State Fault Refusal
  | [], s => .next s
  | k :: ks, s =>
    match retryStep s k with
    | .next t => retryAll ks t
    | o => o

/-- The groups whose readiness an event looks at (R306 to R308): the residents of a slot in an issue cycle of it, or a group that ages. -/
def State.readied (s : State) (e : Event) : List Nat :=
  match e with
  | .slotIssueCycle core slot => (s.residents core slot).map (·.key)
  | .groupAged grp => [grp]
  | _ => []

/-- The group whose own copies an event uses up (R201). -/
def popperOf (e : Event) : Option Nat := match e with | .pathJoin grp _ => some grp | _ => none

/-- An event of the agenda happens, once the readiness that it looks at is settled. -/
def eventStep (e : Event) (served : Bool) (s : State) : Host.Outcome State Fault Refusal :=
  match retryAll (s.readied e) s with
  | .next t =>
    let o := runEvent e { t with serve := served }
    match popperOf e with
    | some key => afterIssue key o
    | none => o
  | o => o

/-! ### Accesses that are performed later (R182, R183, R201, R327, R328) -/

/-- The late loads of lanes: lanes that read one place read one value (R177). -/
def lateLoads (z : Size) (d : Reg) (ds : List (Nat × Dest)) : List Late :=
  ((ds.map (·.2)).dedup).map fun x => ⟨x, .load z d ((ds.filter fun e => e.2 == x).map (·.1))⟩

/-- A plain load, store or atomic that only issues: its accesses are still to be performed, each on its own; none for any other
instruction (R176 to R180, R201, R237). -/
def lateForm (i : Instr) (s : State) : Option State :=
  match i with
  | .ld g d mem obs .plain stage z off => some (ldExec g mem obs .plain stage z off (fun _ ds s => s.addLate (lateLoads z d ds)) s)
  | .st g d mem obs .plain stage z off =>
    some (stExec g d mem obs .plain stage z off (fun bytes ds s => s.addLate (ds.map fun x => ⟨x.2, .store (bytes x.1)⟩)) s)
  | .atom g d mem obs .plain stage dbl op off => some (atomExec g d mem obs .plain stage dbl op off (fun ds s =>
      s.addLate (ds.map fun x => let v := s.cur.atomArgs op dbl d x.1; ⟨x.2, .atom op dbl d v.1 v.2 (some x.1)⟩)) s)
  | .gld g d mem obs .plain stage z off => some (gldExec g mem obs .plain stage z off (fun x s => s.addLate [⟨x, .uload z d⟩]) s)
  | .gst g d mem obs .plain stage z off => some (gstExec g d mem obs .plain stage z off (fun bs x s => s.addLate [⟨x, .store bs⟩]) s)
  | .gatom g d mem obs .plain stage dbl op off => some (gatomExec g d mem obs .plain stage dbl op off (fun v x s =>
      s.addLate [⟨x, .atom op dbl d v.1 v.2 none⟩]) s)
  | .tsv g t k b obs .plain stage off =>
    some (tileMem i g t k b obs .plain stage off true s fun _ us ds s => s.addLate ((us.zip ds).map fun u =>
      ⟨u.2, .store (s.tileBytes (s.cur.tile t.toNat) u.1.1 u.1.2.2)⟩))
  | _ => none

/-- An instruction that all the group's earlier accesses come before, whatever bytes it touches: the releases, and what follows earlier
loads or writes by a row of R328 (R155, R156, R183, R184, R190, R196, R205, R245, R264, R265, R268, R271, R293, R295). -/
def drainsFirst : Instr → Bool
  | .fence _ _ | .sys _ _ | .glaunch _ _ _ | .tsecExit _ _ _ | .qcall _ _ _ _ _ | .apGo _ _ | .mmx _ _ _ _ _ _ _ => true
  | .hwait _ _ _ | .htst _ _ _ | .hcan _ _ | .hmov _ _ _ => true
  | .mfc _ _ ctl => ctl == 4
  | .st _ _ _ _ o _ _ _ | .gst _ _ _ _ o _ _ _ | .atom _ _ _ _ o _ _ _ _ | .gatom _ _ _ _ o _ _ _ _ | .tsv _ _ _ _ _ o _ _ => o.releases
  | .cins _ _ _ _ _ _ | .crem _ _ _ _ _ | .ccount _ _ _ _ _ | .cnext _ _ _ _ _ => true
  | .wlpush _ _ _ | .wlpop _ _ _ _ | .wlins _ _ _ _ | .wlclr _ _ | .wlcnt _ _ _ => true
  | .acp _ _ _ _ _ o _ _ | .acp2 _ _ _ _ _ o _ _ | .acpg _ _ _ _ _ o _ _ | .afill _ _ _ _ _ o _ | .wload _ _ _ _ _ o _ => o != .plain
  | _ => false

/-- An instruction that reads the Stage in program order with the group's own accesses to it, or to the bytes it reads (R128, R235). -/
def readsStage : Instr → Bool
  | .vdecGap _ _ _ _ _ | .vdecVarint _ _ _ _ _ | .vdecBitplane _ _ _ _ _ => true
  | .mma _ _ _ _ _ _ _ | .mmat _ _ _ _ _ _ _ | .mmag _ _ _ _ _ _ _ _ | .quant _ _ _ _ _ => true
  | _ => false

/-- The bytes that a group's late accesses reach, each by where it is stored: memory, the Stage, a peer or the host. -/
def State.lateBytes (s : State) : List (Nat × Nat) :=
  (s.cur.late.flatMap fun x =>
    let run := fun k a => (List.range x.size).map fun i => (k, a + i)
    match x.dest with
    | .paged ia => match s.walk s.cur.part ia with | .resident pa _ _ _ _ => run 0 pa | _ => []
    | .stage b => run 1 b
    | .peer q ia => (List.range x.size).map fun i => (2, s.peerIndex s.cur.part q (ia + i))
    | .host a => run 3 a
    | .aperture _ _ _ _ => []).dedup

/-- A group with every register that a late access will write changed. -/
def Group.otherBusy (gr : Group) : Group :=
  let lanes := fun r : Nat => gr.late.foldl (fun m x => if x.act.regs.contains (BitVec.ofNat 7 r) then m ||| x.act.mask else m) (0 : Mask)
  { gr with
    v := Vector.ofFn fun r => lanesFrom fun l => if (lanes r.val).getLsbD l then ~~~lane gr.v[r] l else lane gr.v[r] l
    g := Vector.ofFn fun r => if lanes (96 + r.val) ≠ 0 then ~~~gr.g[r] else gr.g[r] }

/-- The state with every byte and every register of the group in focus that its late accesses reach changed: what an instruction comes to
must not depend on them for it to go before they are performed. -/
def State.otherLate (s : State) : State :=
  s.lateBytes.foldl (fun (t : State) e =>
    match e.1 with
    | 0 => { t with mem := SMap.set 0 t.mem e.2 (~~~SMap.get 0 t.mem e.2) }
    | 1 => { t with stage := SMap.set 0 t.stage e.2 (~~~SMap.get 0 t.stage e.2) }
    | 2 => { t with peerBytes := SMap.set none t.peerBytes e.2 ((SMap.get none t.peerBytes e.2).map fun b => ~~~b) }
    | _ => { t with hostBytes := SMap.set none t.hostBytes e.2 ((SMap.get none t.hostBytes e.2).map fun b => ~~~b) })
    { s with cur := s.cur.otherBusy }

/-- An instruction of the group in focus has gone on to t: it waits for nothing, has touched no stack entry and left the late accesses. -/
def State.wentOn (s t : State) : Bool :=
  t.cur.live && t.cur.key == s.cur.key && t.cur.wait == Wait.none && t.cur.pendingTrap.isNone && t.cur.rvdepth == s.cur.rvdepth

/-- The instruction after late accesses may go before they are performed (R183, R327): what it does is the same whatever stands in the bytes
and registers that they reach, and it writes none of them, so that it meets none of them; else it follows them. -/
def State.passLate (s : State) (i : Instr) : Host.Outcome State Fault Refusal :=
  match exec i s, exec i s.otherLate with
  | .next t, .next u =>
    if s.wentOn t && t.cur.late == s.cur.late && t.otherLate == u then .next t else exec i s.flushLate
  | _, _ => exec i s.flushLate

/-- Some registers that an access of an instruction writes are free of earlier late loads, and it matches no watchpoint, so that it may be
late. -/
def mayBeLate (i : Instr) (s : State) : Bool :=
  let free := fun stage rs => !s.watching stage && !s.cur.pendingOn rs
  let sees := fun fs : List (Nat × Fate) => fs.all fun e => match e.2 with | .go (.aperture _ _ _ _) => false | _ => true
  match i with
  | .ld g d mem _ .plain stage z off =>
    free stage (memRegs mem ++ blockRegs d (sizeRegs z)) && decide (d.toNat + sizeRegs z ≤ 96) &&
      sees (s.laneFates (s.cur.todo g) stage (s.cur.addrOf mem off.toInt stage) z.bytes true false none)
  | .gld _ d mem _ .plain stage z off =>
    free stage (memRegs mem ++ blockRegs d (sizeRegs z)) &&
      sees [(0, s.accessFate stage (s.cur.addrOf mem off.toInt stage s.cur.leader) z.bytes true false none)]
  | .st _ d mem _ _ stage z _ | .gst _ d mem _ _ stage z _ => free stage (memRegs mem ++ blockRegs d (sizeRegs z))
  | .atom _ d mem _ _ stage dbl op _ | .gatom _ d mem _ _ stage dbl op _ => free stage (memRegs mem ++ atomRegs op dbl d)
  | _ => true

/-- The group in focus at its instruction, which issues while earlier accesses may still be late. -/
def lateIssue (i : Instr) (s : State) : Host.Outcome State Fault Refusal :=
  match (if mayBeLate i s then lateForm i s else none) with
  | some t => if s.wentOn t then .next t else exec i s.flushLate
  | none =>
    if drainsFirst i || (readsStage i && s.cur.late.any fun x => match x.dest with | .stage _ => true | _ => false) then exec i s.flushLate
    else s.passLate i

/-- An issue opportunity at which a plain load, store or atomic only issues: its accesses are performed later; any other instruction leaves the
late accesses before it waiting where it may. -/
def lateStep (s kept : State) (key : Nat) : Host.Outcome State Fault Refusal :=
  match s.group? key with
  | none => .next s
  | some gr =>
    if !gr.issuable || gr.atJoin.isSome || gr.switchDue false then issueStep s kept key false false
    else
      let s1 := s.prepare key false false
      match s1.fetchNext with
      | .ok i bs => afterIssue key (lateIssue i (s1.fetched bs).writePushed)
      | f => runFetched key f s1

/-- A late access of a group is performed, if it still passes its checks. -/
def State.performOne (s : State) (key n : Nat) (served : Bool) : State :=
  match s.group? key with
  | none => s
  | some gr =>
    match gr.late[n]? with
    | none => s
    | some x =>
      if (s.fate gr.part x.dest false x.size).goes then
        let r := s.performLate gr n served
        r.1.modGroup key fun _ => r.2
      else s

/-! ### Accesses of one instruction at several instants (R177, R201) -/

/-- The lane accesses of an instruction: guard, size, whether by Stage offset, and each lane's fate under a mask. -/
structure LaneRun where
  g : BitVec 3
  n : Nat
  stage : Bool
  fates : Mask → List (Nat × Fate)

/-- The lane accesses of a load, store or atomic on v-registers. -/
def laneRunOf (i : Instr) (s : State) : Option LaneRun :=
  match i with
  | .ld g d mem _ _ stage size off =>
    if 96 ≤ d.toNat then none
    else some ⟨g, size.bytes, stage, fun m => s.laneFates m stage (s.cur.addrOf mem off.toInt stage) size.bytes true false none⟩
  | .st g _ mem _ _ stage size off =>
    some ⟨g, size.bytes, stage, fun m => s.laneFates m stage (s.cur.addrOf mem off.toInt stage) size.bytes false true none⟩
  | .atom g d mem _ _ stage dbl op off =>
    let n := if dbl then 8 else 4
    if 96 ≤ d.toNat then none
    else some ⟨g, n, stage, fun m => s.laneFates m stage (s.cur.addrOf mem off.toInt stage) n true true (some op)⟩
  | _ => none

/-- The lanes of some that may act now and those that follow: accesses that go now, and meet none of a later lane, so that lanes of one
byte stay together (R177, R179). -/
def LaneRun.split (r : LaneRun) (s : State) (lanes : Mask) : Option (Mask × Mask) :=
  let todo := s.cur.todo r.g
  let now := todo &&& lanes
  let rest := todo &&& ~~~lanes
  let ds := (r.fates now).map fun e => e.2.dest
  let later := (r.fates rest).map fun e => e.2.dest
  if now = 0 ∨ rest = 0 ∨ s.watching r.stage ∨ (r.fates now).any (fun e => !e.2.goes) ∨
      ds.any (fun d => later.any fun e => d.meets r.n e r.n) then none
  else some (now, rest)

/-- Some lanes of an instruction have acted, as far as t, and the others follow: it has not retired. -/
def State.partDone (s t : State) (rest : Mask) (bs : List Byte) : State :=
  { t with
    cycles := s.cycles, charged := s.charged
    cur := { s.cur with v := t.cur.v, horizon := t.cur.horizon, wait := .again .ready, unfinished := some rest, held := bs } }

/-- An issue opportunity at which only some lanes of a load, store or atomic act; any other instruction is executed whole. -/
def partStep (s kept : State) (key : Nat) (lanes : Mask) : Host.Outcome State Fault Refusal :=
  match s.group? key with
  | none => .next s
  | some gr =>
    if !gr.issuable || gr.atJoin.isSome || gr.switchDue false then issueStep s kept key false false
    else
      let s1 := s.prepare key false false
      match s1.fetchNext with
      | .ok i bs =>
        let s2 := (s1.fetched bs).afterPushes
        afterIssue key (
          match (laneRunOf i s2).bind fun r => r.split s2 lanes with
          | none => exec i s2
          | some (now, rest) =>
            match exec i (s2.setCur { s2.cur with unfinished := some now }) with
            | .next t => if t.cur.key == key && t.cur.wait == Wait.none then .next (s2.partDone t rest bs) else exec i s2
            | o => o)
      | f => runFetched key f s1

/-- One item of the agenda. -/
def runSched (x : Sched) (s kept : State) : Host.Outcome State Fault Refusal :=
  match x with
  | .event e => eventStep e false s
  | .pending n => .next (s.retryArrival n)
  | .served e => eventStep e true s
  | .retry key => retryStep s key
  | .issue key other replica => issueStep s kept key other replica
  | .tick ns => .next (s.tick ns)
  | .lease part line h ns => .next (s.takeLease part line h ns)
  | .drop n => .next (s.dropReplica n)
  | .snapshot part q base desc off replica => .next (s.takeSnapshot part q base desc off replica)
  | .forget n => .next (s.forget n)
  | .request e c p t r args => .next (s.arrive e c p t r args)
  | .unknown r => .next (s.answerUnknown r)
  | .external host addr bs => .next (s.externalBytes host addr bs)
  | .link part peer up => .next (s.setLink part peer up)
  | .sample point v => .next (s.observe point v)
  | .flash b image => .next (s.setFlash b image)
  | .fill part line => .next (s.fillLine part line)
  | .evict part line => .next (s.evictLine part line)
  | .cool part ia v => .next (s.coolPage part ia v)
  | .late key => lateStep s kept key
  | .perform key n replica => .next (s.performOne key n replica)
  | .part key lanes => partStep s kept key lanes
  | .scatter core slot place n => .next (s.scatter core slot place n)
  | .power => .next { s with powered := true }

/-- The oldest item of the agenda happens; an empty agenda is filled. -/
def runNext (s : State) : Host.Outcome State Fault Refusal :=
  match s.agenda with
  | [] =>
    if s.frozen then .fault .frozen
    else if !s.powered then .fault .unpowered
    else .next { s with agenda := s.defaultRound }
  | x :: rest =>
    let s1 := { s with agenda := rest }
    if (s.frozen || !s.powered) && !x.survives then .next s1 else runSched x s1 s

/-- A group that fetches from Stage line 0 at PC 0, for `State.withFetchWord`: 64 lanes, all on, in partition 0. -/
def Group.fetcher (key : Nat) : Group :=
  { Group.idle with
    key := key, live := true, width := 64, xm := BitVec.allOnes 64
    s0 := ⟨true, 0, BitVec.allOnes 64, 0x3FFFFFFF⟩
    ranges := [⟨true, 3, false, false, true, 1, 0, stageWindow, 0⟩] }

/-- s with an opcode-table word of nbits bits as the next instruction a step fetches (log 18, DESIGN CHOICE): it lies at the start of the
Stage, which a range of kind Stage window gives the code of a group in focus; the agenda holds that group's issue. -/
def State.placeWord (s : State) (nbits w : Nat) : State :=
  { s with
    cur := Group.fetcher s.nextKey, nextKey := s.nextKey + 1
    parts := [⟨0, 1, 1, 0, [], 0, false, [], [], [], Shadow.empty⟩]
    stage := writeBytes s.stage 0 (tableBytes (w % 2 ^ nbits))
    absent := [], poison := [], frozen := false, powered := true
    agenda := [.issue s.nextKey false false] }

end Sys2Proof.Machine
end

