-- ==== Sys2Proof/Certificates/Slice0/Obligations.lean ====
section
/-!
DEFINITION. What is stated about the model, one definition a statement, with the few shared forms that the statements are written
in. Each docstring names the rules of spec/ that its statement formalises.
-/

namespace Sys2Proof.Claims
open Machine

/-- The outcome of an instruction. -/
abbrev Out := Host.Outcome State Fault Refusal

/-- The next state of a lane instruction of `len` words that writes v-register d in its acting lanes and retires. -/
def laneTo (s : State) (len : Nat) (g : BitVec 3) (d : Reg) (val : Nat → Word) : Out :=
  .next ((s.setCur (s.cur.setV d (s.cur.acting g) (lanesFrom val))).retire len)

/-- The next state of a lane instruction of `len` words that writes lane predicate n in its acting lanes and retires. -/
def predTo (s : State) (len : Nat) (g n : BitVec 3) (val : Mask) : Out :=
  .next ((s.setCur (s.cur.setPred n (s.cur.acting g) val)).retire len)

/-- The next state of a uniform instruction of `len` words that writes a 32-bit destination where its guard is true, and retires. -/
def uniTo (s : State) (len : Nat) (g : BitVec 3) (d : Reg) (w : Word) : Out :=
  .next ((if s.cur.cpred g then s.setCur (s.cur.setU d w) else s).retire len)

/-- The next state of a uniform instruction of `len` words that writes a 64-bit destination where its guard is true, and retires. -/
def uniDTo (s : State) (len : Nat) (g : BitVec 3) (d : Reg) (x : DWord) : Out :=
  .next ((if s.cur.cpred g then s.setCur (s.cur.setUD d x) else s).retire len)

/-- The source value of register r in lane l. -/
abbrev val (s : State) (r : Reg) (l : Nat) : Word := lane (s.cur.src r) l

/-- None of some source registers is pending (R192). -/
abbrev Ready (s : State) (rs : List Reg) : Prop := s.cur.pendingOn rs = false

/-- R107: the exact signed result clamped into 32 bits, or wrapped. -/
def signedResult (sat : Bool) (x : Int) : Word :=
  BitVec.ofInt 32 (if sat then min (max x (-2 ^ 31)) (2 ^ 31 - 1) else x)
/-- R107: the exact unsigned result clamped into 32 bits, or wrapped. -/
def unsignedResult (sat : Bool) (x : Int) : Word := BitVec.ofInt 32 (if sat then min (max x 0) (2 ^ 32 - 1) else x)


/-- The code of a float source in lane l. -/
abbrev fval (s : State) (ff : FFmt) (r : Reg) (l : Nat) : Nat := s.cur.fsrc ff r l

/-- The flags that some lanes raise together. -/
def raised {α : Type} (m : Mask) (r : Nat → α × FFlags) : FFlags := (lanesOf m).foldl (fun f l => f ||| (r l).2) 0

/-- The next state of a lane float instruction none of whose flags is enabled: results and flags of the acting lanes. -/
def floatTo (s : State) (len : Nat) (g : BitVec 3) (ff : FFmt) (d : Reg) (r : Nat → Nat × FFlags) : Out :=
  let m := s.cur.todo g
  .next ((s.setCur ((s.cur.setF ff d m fun l => (r l).1).addFlags (raised m r))).retire len)

/-- The outcome of a lane float instruction some of whose lanes raise an enabled flag (R60): those lanes trap FP with the flags they
raised and write nothing; the other lanes write, add theirs and are done. -/
def TrapsTo (s : State) (len : Nat) (g : BitVec 3) (r : Nat → FFlags) (write : Mask → Group) (o : Out) : Prop :=
  ∀ bad good : Mask, bad ≠ 0 → bad ||| good = s.cur.todo g → bad &&& good = 0 →
    (∀ l < 64, bad.getLsbD l → r l &&& s.cur.fpEnables ≠ 0) → (∀ l < 64, good.getLsbD l → r l &&& s.cur.fpEnables = 0) →
    let all := fun m : Mask => raised m fun l => ((), r l)
    o = .next ((s.setCur ((write good).addFlags (all good))).takeTrap ⟨15, (all bad).toNat, 0, bad, len, false⟩)

/-- The trap of a lane float instruction that writes float codes (R60). -/
def floatTraps (s : State) (len : Nat) (g : BitVec 3) (ff : FFmt) (d : Reg) (r : Nat → Nat × FFlags) (o : Out) : Prop :=
  TrapsTo s len g (fun l => (r l).2) (fun good => s.cur.setF ff d good fun l => (r l).1) o

/-- The exact rational value of a finite number. -/
def FNum.rat (x : FNum) : ℚ := (x.toQ.num : ℚ) / x.toQ.den
/-- The exact rational value of an f32 word. -/
def ratOf (w : Word) : ℚ := FNum.rat (f32Num w)

/-- R116: the value of pd after a compare, from its guard, its test and its old value. -/
def newPd (ct : CType) (g c old : Bool) : Bool :=
  match ct with
  | .nrm => if g then c else old | .unc => g && c | .and => old && !(g && !c) | .or => old || (g && c)
  | .orAndcm => old || (g && c) | .andOrcm => old && !(g && !c) | .andcm => old && !(g && c) | .orcm => old || (g && !c)
/-- R116: the value of pe after a compare. -/
def newPe (ct : CType) (g c old : Bool) : Bool :=
  match ct with
  | .nrm => if g then !c else old | .unc => g && !c | .and => old && !(g && !c) | .or => old || (g && c)
  | .orAndcm => old && !(g && c) | .andOrcm => old || (g && !c) | .andcm => old && !(g && c) | .orcm => old || (g && !c)

/-- The lane predicates p are what a compare that names pd and pe leaves in some lanes by its test (R116): both senses in each of those
lanes, pe after pd, p7 discarded. -/
def ComparedIn (s : State) (g pd pe : BitVec 3) (ct : CType) (lanes : Mask) (test : Nat → Bool) (gr : Group) : Prop :=
  ∀ n : BitVec 3, n ≠ 7 → ∀ l < 64,
    let old := (s.cur.pred n).getLsbD l
    let gd := (s.cur.pred g).getLsbD l
    let mid := if n = pd then newPd ct gd (test l) old else old
    (gr.pred n).getLsbD l = if lanes.getLsbD l then (if n = pe then newPe ct gd (test l) mid else mid) else old

/-- A compare of two words that names pd and pe has the outcome R116 gives for its test, raising some flags: only the two named
predicates and the flags change, in every lane of the effective mask. -/
def ComparesTo (s : State) (g pd pe : BitVec 3) (ct : CType) (flags : FFlags) (test : Nat → Bool) (o : Out) : Prop :=
  ∃ p, o = .next ((s.setCur ({ s.cur with p := p }.addFlags flags)).retire 2) ∧
    ComparedIn s g pd pe ct s.cur.emask test { s.cur with p := p }

/-- R117: the signed and unsigned tests of `cmp`. -/
def intTest (o : CmpOp) (a b : Word) : Prop :=
  match o with
  | .eq => a = b | .ne => a ≠ b | .lt => a.toInt < b.toInt | .le => a.toInt ≤ b.toInt | .gt => b.toInt < a.toInt
  | .ge => b.toInt ≤ a.toInt | .ltN => a.toNat < b.toNat | .leN => a.toNat ≤ b.toNat | .gtN => b.toNat < a.toNat
  | .geN => b.toNat ≤ a.toNat

/-- R122: the result of a scan's or a reduction's operation. -/
def redMeans (o : RedOp) (x y : Word) : Word :=
  match o with
  | .add => BitVec.ofNat 32 (x.toNat + y.toNat)
  | .min => BitVec.ofInt 32 (min x.toInt y.toInt)
  | .max => BitVec.ofInt 32 (max x.toInt y.toInt)
  | .minN => BitVec.ofNat 32 (min x.toNat y.toNat)
  | .maxN => BitVec.ofNat 32 (max x.toNat y.toNat)

/-- Lane k is the acting lane next below lane l. -/
def Below (m : Mask) (k l : Nat) : Prop := k < l ∧ m.getLsbD k = true ∧ ∀ j, k < j → j < l → m.getLsbD j = false

/-- The next state of a conversion none of whose flags is enabled. -/
def cvtTo (s : State) (g : BitVec 3) (dst : Fmt) (d : Reg) (r : Nat → DWord × FFlags) : Out :=
  let m := s.cur.todo g
  .next ((s.setCur ((s.cur.setCvt dst d m fun l => (r l).1).addFlags (raised m r))).retire 2)

/-- The trap of a conversion (R60). -/
def cvtTraps (s : State) (g : BitVec 3) (dst : Fmt) (d : Reg) (r : Nat → DWord × FFlags) (o : Out) : Prop :=
  TrapsTo s 2 g (fun l => (r l).2) (fun good => s.cur.setCvt dst d good fun l => (r l).1) o

/-- The integer that the low bits of a value are in an integer or ternary format with escapes disabled (R49, R51). -/
def intOf (f : Fmt) (x : DWord) : Int :=
  match f with
  | .i8 => (x.setWidth 8).toInt | .i4 => (x.setWidth 4).toInt | .i16 => (x.setWidth 16).toInt | .i32 => (x.setWidth 32).toInt
  | .n8 => (x.setWidth 8).toNat | .n16 => (x.setWidth 16).toNat
  | .t2 => if x.setWidth 2 = 1#2 then 1 else if x.setWidth 2 = 3#2 then -1 else 0
  | _ => 0

/-- The least and greatest integers of an integer or ternary format (R49, R51). -/
def intEnds (f : Fmt) : Int × Int :=
  match f with
  | .i8 => (-128, 127) | .n8 => (0, 255) | .i4 => (-8, 7) | .t2 => (-1, 1) | .i16 => (-32768, 32767) | .n16 => (0, 65535)
  | _ => (-2147483648, 2147483647)

/-- The integer and ternary formats (R49). -/
def intFormats : List Fmt := [.i8, .n8, .i4, .t2, .i32, .i16, .n16]

/-- The next state of a `vdec` in the acting lanes: the element of each lane's rank added to b, and the bits consumed (R127). -/
def vdecTo (s : State) (g : BitVec 3) (d b : Reg) (elem used : Nat → Nat) : Out :=
  let m := s.cur.acting g
  let j := laneRank m
  .next ((s.setCur ((s.cur.setV d m (lanesFrom fun l => val s b l + BitVec.ofNat 32 (elem (j l)))).setV (d + 1) m
    (lanesFrom fun l => BitVec.ofNat 32 (used (j l))))).retire 2)

/-- The bytes that bits addr to addr + total - 1 of the share occupy lie in the share, and their lines are present (R128). -/
def StreamReadable (s : State) (addr total : Nat) : Prop :=
  addr < 2 ^ 35 ∧ (addr + total - 1) / 8 + 1 ≤ s.cur.stgLines * 128 ∧
    s.shareRun (addr / 8) ((addr + total - 1) / 8 + 1 - addr / 8) = none

/-- One varint element of a stream from bit pos: k chunks of w bits, the flag set in all but the last, or k the most there can be;
its value gathers their data (R127). -/
def VarintAt (w x pos v k : Nat) : Prop :=
  let chunk := fun c => x / 2 ^ (pos + c * w) % 2 ^ w
  let most := (32 + w - 2) / (w - 1)
  0 < k ∧ k ≤ most ∧ (∀ c, c + 1 < k → 2 ^ (w - 1) ≤ chunk c) ∧ (k < most → chunk (k - 1) < 2 ^ (w - 1)) ∧
    v = ((List.range k).map fun c => chunk c % 2 ^ (w - 1) * 2 ^ (c * (w - 1))).sum

/-- The value of a uniform instruction's source: a v-register gives the leader's lane (R133). -/
abbrev uval (s : State) (r : Reg) : Word := s.cur.usrc r
/-- The value of a uniform instruction's 64-bit source, low word first (R133). -/
abbrev uvalD (s : State) (r : Reg) : DWord := s.cur.usrc (r + 1) ++ s.cur.usrc r

/-- R136: the new value of a uniform predicate that a compare names, if it is written. -/
def setsC (s : State) (g pd pe : BitVec 3) (ct : CType) (test : Bool) (o : Out) : Prop :=
  ∃ c, o = .next ((s.setCur { s.cur with c := c }).retire 2) ∧ ∀ n : BitVec 3, n ≠ 7 →
    let old := s.cur.cpred n
    let mid := if n = pd then newPd ct true test old else old
    ({ s.cur with c := c }.cpred n) = if s.cur.cpred g then (if n = pe then newPe ct true test mid else mid) else old

/-- An uniform instruction's guard is true and none of its sources is pending: it has its effect (R81, R192). -/
abbrev Enabled (s : State) (g : BitVec 3) (rs : List Reg) : Prop := s.cur.cpred g = true ∧ s.cur.pendingOn rs = false

/-- The group's PC-relative target: PC + offset modulo 2^30 (R137). -/
abbrev relative (s : State) (off : BitVec 30) : PC := s.cur.path.pc + off

/-- The group in focus is in no middle of an instruction, and no replica, no snapshot and no watchpoint enters into its accesses. -/
def Plain (s : State) : Prop :=
  s.replicas = [] ∧ s.snaps = [] ∧ s.watches = [] ∧ s.cur.watched = [] ∧ s.cur.unfinished = none

/-- Everything but the group in focus and the issue cycles charged to its regions is kept. -/
def DeviceKept (s t : State) : Prop := { t with cur := s.cur, charged := s.charged, cycles := s.cycles } = s

/-- Two states are equal but for what reads at the owning points leave there (R15, R171): the lines in the L2, the forwarding entries of
those that make room, and the counts they add to `hot`. -/
abbrev SameButL2 (t u : State) : Prop := { t with l2 := u.l2, hotPending := u.hotPending, moved := u.moved } = u

/-- The outcome is a next state that equals u but for the L2: the instruction reads memory. -/
abbrev ReadsTo (o : Out) (u : State) : Prop := ∃ t, o = .next t ∧ SameButL2 t u

/-- A group with the bookkeeping of issue of another: its PCs, its wait and the counts and notes an issue changes (R35, R303, R306). -/
def rebook (a b : Group) : Group :=
  { a with s0 := { a.s0 with pc := b.s0.pc }, s1 := { a.s1 with pc := b.s1.pc }, wait := b.wait, count := b.count
           unfinished := b.unfinished, held := b.held, watched := b.watched, agedAt := b.agedAt, halted := b.halted
           stepping := b.stepping, yielded := b.yielded, lastIssue := b.lastIssue }

/-- What a trap leaves (R216 to R222): its two entries pushed where the stack of the group stands, the trap registers, and the handler's
path; `wct` does not change (R224). -/
def Trapped (s : State) (cause info : Nat) (addr : DWord) (lanes : Mask) (len : Nat) (replay : Bool) (t : State) : Prop :=
  let p := s.cur.path
  let next := p.pc + BitVec.ofNat 30 len
  let whole := lanes == p.mask
  let es := [stackEntry .join p.join next (if whole then 0 else p.mask),
    stackEntry .trap (if whole then p.join else next) (if replay then p.pc else next) lanes]
  t.cur.path = ⟨true, s.cur.trapv, lanes, 0x3FFFFFFF⟩ ∧ t.cur.otherPath = s.cur.otherPath ∧
  t.cur.trapa = addr ∧ t.cur.trapm = lanes ∧
  t.cur.trapc.extractLsb' 0 8 = BitVec.ofNat 8 cause ∧ t.cur.trapc.extractLsb' 8 8 = BitVec.ofNat 8 info ∧
  t.cur.trapc.getLsbD 16 = replay ∧ t.cur.trapc.getLsbD 17 = decide (len = 2) ∧
  t.cur.trapc.extractLsb' 28 4 = s.cur.trapc.extractLsb' 28 4 + 1 ∧
  t.cur.rvdepth = s.cur.rvdepth + 2 ∧ t.cur.rvcap = s.cur.rvcap ∧ t.cur.wait = .none ∧
  t.cur.current = s.cur.issuing ∧ t.cur.count = 0 ∧ t.cur.pendingTrap = none ∧
  t.cur.v = s.cur.v ∧ t.cur.g = s.cur.g ∧ t.cur.p = s.cur.p ∧ t.cur.c = s.cur.c ∧ t.cur.xm = s.cur.xm ∧
  t.cur.horizon = s.cur.horizon ∧ t.mem = (s.push es).mem ∧ t.stage = (s.push es).stage ∧
  t.cur.reserve = (s.push es).cur.reserve

/-- The group's stack takes a trap's two entries (R221): within the nesting limit, in memory or in the reserve, on resident pages. -/
def TrapRoom (s : State) : Prop :=
  s.cur.trapc.extractLsb' 28 4 ≠ 15 ∧ s.cur.rvdepth.toNat + 1 < s.cur.rvcap.toNat + 2 ∧ s.cur.rvdepth.toNat + 2 < 2 ^ 16 ∧
  ∀ e e', s.pushFate s.cur.rvdepth.toNat [e, e'] = none

/-- The word j of a loaded value x of a size (R176). -/
def loadedWord (z : Size) (x j : Nat) : Word :=
  match z with
  | .b => BitVec.ofNat 32 (x % 2 ^ 8) | .sb => (BitVec.ofNat 8 x).signExtend 32 | .h => BitVec.ofNat 32 (x % 2 ^ 16)
  | .sh => (BitVec.ofNat 16 x).signExtend 32 | .w => BitVec.ofNat 32 x | _ => BitVec.ofNat 32 (x / 2 ^ (32 * j))

/-- The bytes a store of a size takes from the words of its registers (R176). -/
def storedBytes (z : Size) (w : Nat → Word) : List Byte :=
  (List.range z.bytes).map fun i => BitVec.ofNat 8 ((w (i / 4)).toNat / 2 ^ (8 * (i % 4)))

/-- Every acting lane's access goes, to the destination dst names, and none must wait for its order (R173, R183). -/
def LanesGo (s : State) (m : Mask) (stage : Bool) (addr : Nat → Int) (n : Nat) (rd wr : Bool) (atom : Option AtomOp)
    (order : Order) (obs : BitVec 6) (dst : Nat → Dest) : Prop :=
  m ≠ 0 ∧ (∀ l < 64, m.getLsbD l = true → s.accessFate stage (addr l) n rd wr atom = .go (dst l)) ∧
    s.orderWaits order obs ((lanesOf m).map fun l => (dst l, n)) = false

/-- What an atomic leaves at its location: the value read x, the operand v and the new value y, in a width (R179). -/
def atomMeans (op : AtomOp) (bits x v y : Nat) : Nat :=
  let sg := fun k : Nat => (BitVec.ofNat bits k).toInt
  match op with
  | .add => (x + v) % 2 ^ bits | .min => if sg x ≤ sg v then x else v | .max => if sg v ≤ sg x then x else v
  | .minN => min x v | .maxN => max x v | .and => x &&& v | .or => x ||| v | .xor => x ^^^ v | .xchg => v
  | .cas => if x = v then y else x | .incwrap => if v ≤ x then 0 else x + 1 | .fadd => (ieeeF32.addOp .rne x v).1

/-- The location and the registers after one atomic of the group: the value read is `old`, the operands come from w, and put writes
word j of the value read into register j. -/
def atomStep (op : AtomOp) (dbl : Bool) (x : Dest) (w : Nat → Word) (put : Group → Nat → Word → Group) (t : State) : State :=
  let n := if dbl then 8 else 4
  let k := if dbl then 2 else 1
  let old := leNat (t.readOwned t.cur.part x n)
  let num := fun i => if dbl then (w i).toNat + (w (i + 1)).toNat * 2 ^ 32 else (w i).toNat
  let t1 := t.groupWrite x (leBytes n (atomMeans op (8 * n) old (num 0) (num k)))
  t1.setCur ((List.range k).foldl (fun gr j => put gr j (BitVec.ofNat 32 (old / 2 ^ (32 * j)))) t1.cur)

/-- A tile instruction may have its effect: its guard is true, no source is pending, and its tiles lie in the allotment and await no
weight-stream load (R98, R192, R231, R251). -/
def TilesReady (s : State) (g : BitVec 3) (tiles : List Nat) (rs : List Reg) : Prop :=
  Enabled s g rs ∧ ∀ t ∈ tiles, t < s.cur.tileCount ∧ s.tileAwaited (s.cur.tile t) = false

/-- A valid tile configuration word (R231, R232): a format code to 10, at most 32 rows and 512 columns, and rows of a pitch that is
the data bytes of a row rounded up to 16, within 4 KiB. -/
def ValidCfg (w : Word) : Prop :=
  let f := Fmt.ofCode (w.extractLsb' 0 4)
  let rows := w.toNat / 2 ^ 4 % 2 ^ 6
  let cols := w.toNat / 2 ^ 10 % 2 ^ 10
  w.toNat % 16 ≤ 10 ∧ rows ≤ 32 ∧ cols ≤ 512 ∧ rows * (((cols * f.width + 7) / 8 + 15) / 16 * 16) ≤ 4096

/-- The tile k is the only one that differs, in its configuration or its data. -/
def OtherTilesKept (s t : State) (k : Nat) : Prop :=
  ∀ j, j ≠ k → SMap.get 0 t.tileCfg j = SMap.get 0 s.tileCfg j ∧
    ∀ o < 4096, SMap.get 0 t.tiles (j * 4096 + o) = SMap.get 0 s.tiles (j * 4096 + o)

/-- Everything but tiles, the group in focus and the issue cycles charged is kept. -/
def TilesOnly (s t : State) : Prop :=
  { t with cur := s.cur, charged := s.charged, cycles := s.cycles, tileCfg := s.tileCfg, tiles := s.tiles } = s

/-- The 16-byte units of the rows of a tile: row and unit (R237). -/
def unitsOf (c : TileCfg) : List (Nat × Nat) :=
  (List.range c.rows).flatMap fun r => (List.range ((c.rowBytes + 15) / 16)).map fun q => (r, q)

/-- The address of a unit (R237). -/
def unitAddr (start stride : Int) (stage : Bool) (u : Nat × Nat) : Int :=
  let a := start + u.1 * stride + 16 * u.2
  if stage then a else a % 2 ^ 64

/-- What an integer product leaves in an i32 element: its chunks of 32 or 128 products in ascending order, each added and clamped (R71). -/
def clampSum (l : Nat) (x y : Nat → Int) (kk : Nat) (c0 : Int) : Int :=
  (List.range ((kk + l - 1) / l)).foldl (fun c j =>
    max (-2147483648) (min 2147483647
      (c + ((List.range (min l (kk - j * l))).map fun i => x (j * l + i) * y (j * l + i)).sum))) c0

/-- The command that a copy instruction of n block registers hands to its engine (R186, R187), and its Clave's offset in the share. -/
def copyOf (s : State) (form : CopyForm) (n : Nat) (a b : Reg) (obs : BitVec 6) (order : Order) (ds fs : Bool) :
    CopyCmd × Option Nat :=
  let off := if b = 0 then none else some (s.cur.greg b).toNat
  (⟨s.cur.cmdBase obs order (off.map fun k => s.cur.stgFirst * 128 + k), form,
    (List.range n).map fun i => s.cur.greg (a + BitVec.ofNat 7 i), ds, fs⟩, off)

/-- The pair d holds a value, pending or not (R192). -/
def PairHolds (gr : Group) (d : Reg) (x : DWord) (pending : Bool) : Prop :=
  gr.greg (d + 1) ++ gr.greg d = x ∧ gr.pend.getLsbD ((d.toNat - 96) / 2) = pending

/-- What issuing a copy command does (R186, R188, R191, R192): its handle and a pending pair where it runs; a status word at once where it
fails a check or moves nothing. -/
def IssuesCopy (s : State) (d : Reg) (c : CopyCmd × Option Nat) (o : Out) : Prop :=
  ∀ e, s.chooseSlot (.copy s.cur.core) 64 = some e → ∃ t, o = .next t ∧ t.mem = s.mem ∧ t.stage = s.stage ∧
    t.cur.path.pc = s.cur.path.pc + 2 ∧
    let gen := nextGen (s.slotOf e).1
    let slot := SMap.get EngSlot.idle t.copySlots (engIndex e)
    slot.gen = gen ∧
    (s.copyCheck c.1 c.2 = none → c.1.total ≠ 0 →
      slot.cmd = some (c.1.numbered gen s.freeCtr) ∧ PairHolds t.cur d (handleOf e s.cur.core gen) true) ∧
    (s.copyCheck c.1 c.2 = none → c.1.total = 0 →
      slot.cmd = none ∧ slot.status = statusWord 0 0 ∧ PairHolds t.cur d (statusWord 0 0) false) ∧
    (∀ code, s.copyCheck c.1 c.2 = some code →
      slot.cmd = none ∧ slot.status = statusWord code 0 ∧ PairHolds t.cur d (statusWord code 0) false)

/-- A uniform operand's key in a collection of k-bit keys (R262). -/
abbrev ukey (s : State) (k : Nat) (r : Reg) : Nat := if k ≤ 32 then (uval s r).toNat else (uvalD s r).toNat
/-- A lane operand's key in a collection of k-bit keys (R262). -/
abbrev lkey (s : State) (k : Nat) (r : Reg) (l : Nat) : Nat :=
  if k ≤ 32 then (val s r l).toNat else (val s r l).toNat + (val s (r + 1) l).toNat * 2 ^ 32

/-- Key operands suit a collection of k-bit keys: even where a key has more than 32 bits (R262). -/
abbrev KeysSuit (k : Nat) (rs : List Reg) : Prop := 32 < k → ∀ r ∈ rs, r.toNat % 2 = 0

/-- The elements of a collection keep R258 to R260: blocks of disjoint ranges in ascending order, each with its own elements, and every
element in its order. -/
def SoundColl (x : Coll) : Prop :=
  (∀ b ∈ x.blocks, b.elems ≠ [] ∧ ∀ e ∈ b.elems, b.base ≤ e.1 ∧ e.1 < b.base + 2 ^ b.lvl) ∧
    (x.blocks.Pairwise fun a b => a.base + 2 ^ a.lvl ≤ b.base) ∧ x.elems.Pairwise fun a b => a.1 ≤ b.1

/-- The lanes of a mask whose rank is below a number. -/
def firstLanes (m : Mask) (n : Nat) : Mask := maskOf fun l => m.getLsbD l && decide (laneRank m l < n)

/-- What `cnext` gives the acting lanes (R268): the j-th of them the j-th of the elements, while there are any. -/
def takesTo (s : State) (m : Mask) (d b : Reg) (px : BitVec 3) (wide : Bool) (xs : List (Nat × Nat)) : Group :=
  let got := firstLanes m xs.length
  let at_ := fun l => xs.getD (laneRank m l) (0, 0)
  let g1 := s.cur.setV d got (lanesFrom fun l => BitVec.ofNat 32 (at_ l).1)
  let g2 := if wide then g1.setV (d + 1) got (lanesFrom fun l => BitVec.ofNat 32 ((at_ l).1 / 2 ^ 32)) else g1
  (g2.setV b got (lanesFrom fun l => BitVec.ofNat 32 (at_ l).2)).setPred px m got

/-- The elements of some pairs that come first in a list, one for each pair at most: how often a value leaves it. -/
def timesIn (e : Nat × Nat) (es : List (Nat × Nat)) : Nat := (es.filter fun x => decide (x = e)).length

/-- The values of a work list in their order (R272): the on-chip queue, then the ring. -/
abbrev queued (l : WorkList) : List DWord := l.chip ++ l.ring

/-- A list's change is stored and the instruction retires with an effect on the group. -/
def StoredTo (s : State) (va : DWord) (l n : WorkList) (f : Group → Group) (o : Out) : Prop :=
  ∀ s2, s.storeList s.cur.syncBase va.toNat l n = .ok s2 → o = .next ((s2.setCur (f s2.cur)).retire 2)

/-- The status of a return record (R279). -/
abbrev returnStatus (r : Return) : Nat := (r.words.headD 0).toNat / 2 ^ 24

/-- The group in focus is live and the event names it. -/
abbrev Focused (s : State) (grp : Nat) : Prop := s.cur.live = true ∧ s.cur.key = grp

/-- A request of a number waits, of a code that its source may ask, with its reserved bits zero, in a partition that exists, or in recovery,
when none need exist, and the group it comes from, if any, has not ended (both log 43, DESIGN CHOICE): Carillon serves it
for that partition (R311 to R313, R320). -/
def Asked (s : State) (id code : Nat) (q : Request) (p : Partition) : Prop :=
  s.requests.find? (fun x => x.id == id) = some q ∧ q.reply = none ∧ q.code = code ∧ s.booted = true ∧
  s.orphan q = false ∧ (s.recovery = true → code ∈ [0, 2, 3, 19]) ∧ (16 ≤ code → q.grp = none ∧ q.listed = true) ∧ q.reservedOk = true ∧
  s.reqPart q = some p

/-- A PARTITION request of an operation waits to be served (R314). -/
def AskedPart (s : State) (id op : Nat) (q : Request) : Prop :=
  s.requests.find? (fun x => x.id == id) = some q ∧ q.reply = none ∧ q.code = 16 ∧ q.arg 0 = op ∧ s.booted = true ∧
  s.recovery = false ∧ q.grp = none ∧ q.listed = true ∧ q.reservedOk = true ∧ q.part = 0

/-- The words of a 64-bit value, low word first. -/
abbrev twoWords (x : DWord) : List Word := [x.setWidth 32, (x >>> 32).setWidth 32]

/-- A request that meets a check is answered by a code alone (R312). -/
abbrev Refuses (s : State) (q : Request) (code : Nat) (o : Out) : Prop := o = .next (s.reply q code [] 0)

/-- The byte arrays of a state have their canonical form. -/
def Canonical (s : State) : Prop :=
  Memory.wf s.mem = true ∧ Memory.wf s.stage = true ∧ Memory.wf s.tiles = true

end Sys2Proof.Claims

open Sys2Proof Sys2Proof.Machine Sys2Proof.Claims

/-- R105, R111: each short integer form whose sources are not pending writes its wrapped 32-bit result in the acting lanes and goes
on at the next word. -/
def Sys2Proof.Claims.LaneShortForms : Prop :=
  ∀ (s : State) (g : BitVec 3) (d a b : Reg), Ready s [a, b] →
    exec (.add g d a b) s = laneTo s 1 g d (fun l => BitVec.ofInt 32 ((val s a l).toInt + (val s b l).toInt)) ∧
    exec (.sub g d a b) s = laneTo s 1 g d (fun l => BitVec.ofInt 32 ((val s a l).toInt - (val s b l).toInt)) ∧
    exec (.mullo g d a b) s = laneTo s 1 g d (fun l => BitVec.ofInt 32 ((val s a l).toInt * (val s b l).toInt)) ∧
    exec (.and g d a b) s = laneTo s 1 g d (fun l => val s a l &&& val s b l) ∧
    exec (.or g d a b) s = laneTo s 1 g d (fun l => val s a l ||| val s b l) ∧
    exec (.xor g d a b) s = laneTo s 1 g d (fun l => val s a l ^^^ val s b l) ∧
    exec (.mov g d a) s = laneTo s 1 g d (val s a)

/-- R86, R105: each immediate integer form whose source is not pending writes its result in the acting lanes: a short immediate is
sign-extended from 7 bits, an E1 immediate is the whole second word, and a shift immediate is 0 to 31. -/
def Sys2Proof.Claims.LaneImmediateForms : Prop :=
  ∀ (s : State) (g : BitVec 3) (d a : Reg) (i : BitVec 7) (w : BitVec 32), Ready s [a] →
    exec (.addImm g d a i) s = laneTo s 1 g d (fun l => BitVec.ofInt 32 ((val s a l).toInt + i.toInt)) ∧
    exec (.addImmLong g d a w) s = laneTo s 2 g d (fun l => BitVec.ofInt 32 ((val s a l).toInt + w.toInt)) ∧
    exec (.andImm g d a i) s = laneTo s 1 g d (fun l => val s a l &&& i.signExtend 32) ∧
    exec (.andImmLong g d a w) s = laneTo s 2 g d (fun l => val s a l &&& w) ∧
    exec (.orImm g d a i) s = laneTo s 1 g d (fun l => val s a l ||| i.signExtend 32) ∧
    exec (.orImmLong g d a w) s = laneTo s 2 g d (fun l => val s a l ||| w) ∧
    exec (.movi g d i) s = laneTo s 1 g d (fun _ => i.signExtend 32) ∧
    exec (.moviLong g d w) s = laneTo s 2 g d (fun _ => w) ∧
    exec (.shlImm g d a i) s = laneTo s 1 g d (fun l => BitVec.ofNat 32 ((val s a l).toNat * 2 ^ i.toNat)) ∧
    exec (.shrImm g d a i) s = laneTo s 1 g d (fun l => BitVec.ofNat 32 ((val s a l).toNat / 2 ^ i.toNat)) ∧
    exec (.sarImm g d a i) s = laneTo s 1 g d (fun l => BitVec.ofInt 32 ((val s a l).toInt / 2 ^ i.toNat)) ∧
    (w.toNat < 32 →
      exec (.shlImmLong g d a w) s = laneTo s 2 g d (fun l => BitVec.ofNat 32 ((val s a l).toNat * 2 ^ w.toNat)) ∧
      exec (.shrImmLong g d a w) s = laneTo s 2 g d (fun l => BitVec.ofNat 32 ((val s a l).toNat / 2 ^ w.toNat)) ∧
      exec (.sarImmLong g d a w) s = laneTo s 2 g d (fun l => BitVec.ofInt 32 ((val s a l).toInt / 2 ^ w.toNat)))

/-- R106, R107: the extended integer arithmetic, exact on sign- or zero-extended operands, then wrapped or clamped. -/
def Sys2Proof.Claims.LaneExactArithmetic : Prop :=
  ∀ (s : State) (g : BitVec 3) (d a b c : Reg) (sat : Bool), Ready s [a, b, c] →
    exec (.addX g d a b sat) s =
      laneTo s 2 g d (fun l => signedResult sat ((val s a l).toInt + (val s b l).toInt)) ∧
    exec (.addN32 g d a b sat) s =
      laneTo s 2 g d (fun l => unsignedResult sat ((val s a l).toNat + (val s b l).toNat : Int)) ∧
    exec (.subX g d a b sat) s =
      laneTo s 2 g d (fun l => signedResult sat ((val s a l).toInt - (val s b l).toInt)) ∧
    exec (.subN32 g d a b sat) s =
      laneTo s 2 g d (fun l => unsignedResult sat ((val s a l).toNat - (val s b l).toNat : Int)) ∧
    exec (.neg g d a sat) s = laneTo s 2 g d (fun l => signedResult sat (-(val s a l).toInt)) ∧
    exec (.abs g d a sat) s = laneTo s 2 g d (fun l => signedResult sat |(val s a l).toInt|) ∧
    exec (.mad g d a b c sat) s =
      laneTo s 2 g d (fun l => signedResult sat ((val s a l).toInt * (val s b l).toInt + (val s c l).toInt)) ∧
    exec (.madN32 g d a b c sat) s =
      laneTo s 2 g d (fun l => unsignedResult sat ((val s a l).toNat * (val s b l).toNat + (val s c l).toNat : Int)) ∧
    exec (.sad g d a b c) s =
      laneTo s 2 g d (fun l => BitVec.ofInt 32 (|(val s a l).toInt - (val s b l).toInt| + (val s c l).toInt)) ∧
    exec (.sadN32 g d a b c) s =
      laneTo s 2 g d (fun l => BitVec.ofInt 32 (|((val s a l).toNat : Int) - (val s b l).toNat| + (val s c l).toNat)) ∧
    exec (.mulloX g d a b) s = laneTo s 2 g d (fun l => BitVec.ofInt 32 ((val s a l).toInt * (val s b l).toInt)) ∧
    exec (.mulhi g d a b) s = laneTo s 2 g d (fun l => BitVec.ofInt 32 ((val s a l).toInt * (val s b l).toInt / 2 ^ 32)) ∧
    exec (.mulhiN32 g d a b) s = laneTo s 2 g d (fun l => BitVec.ofNat 32 ((val s a l).toNat * (val s b l).toNat / 2 ^ 32)) ∧
    exec (.min g d a b) s = laneTo s 2 g d (fun l => BitVec.ofInt 32 (min (val s a l).toInt (val s b l).toInt)) ∧
    exec (.minN32 g d a b) s = laneTo s 2 g d (fun l => BitVec.ofNat 32 (min (val s a l).toNat (val s b l).toNat)) ∧
    exec (.max g d a b) s = laneTo s 2 g d (fun l => BitVec.ofInt 32 (max (val s a l).toInt (val s b l).toInt)) ∧
    exec (.maxN32 g d a b) s = laneTo s 2 g d (fun l => BitVec.ofNat 32 (max (val s a l).toNat (val s b l).toNat))

/-- R106, R109, R110: the extended logic, shifts by a register amount, bitfields and counts. A shift by 32 or more gives 0, or for
`sar` the sign in every bit. -/
def Sys2Proof.Claims.LaneBitForms : Prop :=
  ∀ (s : State) (g : BitVec 3) (d a b c : Reg) (len : BitVec 6) (sc : BitVec 2), Ready s [a, b, c] → len.toNat ≤ 32 →
    exec (.andX g d a b) s = laneTo s 2 g d (fun l => val s a l &&& val s b l) ∧
    exec (.orX g d a b) s = laneTo s 2 g d (fun l => val s a l ||| val s b l) ∧
    exec (.xorX g d a b) s = laneTo s 2 g d (fun l => val s a l ^^^ val s b l) ∧
    exec (.andn g d a b) s = laneTo s 2 g d (fun l => val s a l &&& ~~~val s b l) ∧
    exec (.not g d a) s = laneTo s 2 g d (fun l => ~~~val s a l) ∧
    exec (.shl g d a b) s = laneTo s 2 g d (fun l => BitVec.ofNat 32 ((val s a l).toNat * 2 ^ (val s b l).toNat)) ∧
    exec (.shr g d a b) s = laneTo s 2 g d (fun l => BitVec.ofNat 32 ((val s a l).toNat / 2 ^ (val s b l).toNat)) ∧
    exec (.sar g d a b) s = laneTo s 2 g d (fun l => BitVec.ofInt 32 ((val s a l).toInt / 2 ^ (val s b l).toNat)) ∧
    exec (.rot g d a b) s = laneTo s 2 g d (fun l => (val s a l).rotateLeft ((val s b l).toNat % 32)) ∧
    exec (.bfx g d a b c) s = laneTo s 2 g d (fun l =>
      let pos := (val s b l).toNat
      let n := if 32 ≤ pos then 0 else min (val s c l).toNat (32 - pos)
      BitVec.ofNat 32 ((val s a l).toNat / 2 ^ pos % 2 ^ n)) ∧
    (∃ r : Nat → Word, exec (.bfi g d a b c len) s = laneTo s 2 g d r ∧ ∀ l < 64, ∀ k < 32,
      let pos := (val s c l).toNat
      (r l).getLsbD k = if pos ≤ k ∧ k < pos + len.toNat then (val s b l).getLsbD (k - pos) else (val s a l).getLsbD k) ∧
    exec (.popc g d a) s = laneTo s 2 g d (fun l =>
      BitVec.ofNat 32 (((List.range 32).map fun k => ((val s a l).getLsbD k).toNat).sum)) ∧
    (∃ r : Nat → Nat, exec (.clz g d a) s = laneTo s 2 g d (fun l => BitVec.ofNat 32 (r l)) ∧ ∀ l < 64,
      r l ≤ 32 ∧ (val s a l).toNat < 2 ^ (32 - r l) ∧ (r l < 32 → 2 ^ (31 - r l) ≤ (val s a l).toNat)) ∧
    (∃ r : Nat → Word, exec (.brev g d a) s = laneTo s 2 g d r ∧ ∀ l < 64, ∀ k < 32,
      (r l).getLsbD k = (val s a l).getLsbD (31 - k)) ∧
    exec (.lea g d a b sc) s =
      laneTo s 2 g d (fun l => BitVec.ofNat 32 ((val s a l).toNat + (val s b l).toNat * 2 ^ sc.toNat))

/-- R108: `addc` and `subb` write the low word and, in the acting lanes of po, the carry or the borrow. -/
def Sys2Proof.Claims.CarryForms : Prop :=
  ∀ (s : State) (g : BitVec 3) (d a b : Reg) (pi po : BitVec 3), Ready s [a, b] →
    let c := fun l => ((s.cur.pred pi).getLsbD l).toNat
    let m := s.cur.acting g
    exec (.addc g d a b pi po) s =
      .next ((s.setCur ((s.cur.setV d m (lanesFrom fun l =>
        BitVec.ofNat 32 ((val s a l).toNat + (val s b l).toNat + c l))).setPred po m
          (maskOf fun l => decide (2 ^ 32 ≤ (val s a l).toNat + (val s b l).toNat + c l)))).retire 2) ∧
    decode 0x4EE04083 0x00001104 = .ok (.addc 7 1 1 3 1 2) ∧
    exec (.subb g d a b pi po) s =
      .next ((s.setCur ((s.cur.setV d m (lanesFrom fun l =>
        BitVec.ofInt 32 ((val s a l).toNat - (val s b l).toNat - c l : Int))).setPred po m
          (maskOf fun l => decide ((val s a l).toNat < (val s b l).toNat + c l)))).retire 2)

/-- R112 to R114: with no enable bit of `fsr` set, each short float form and each f32 approximation writes its acting lanes' results
and adds the flags they raise. The value of an approximation is the device's own inside the bound of R114 (log 6, DESIGN CHOICE). -/
def Sys2Proof.Claims.FloatShortForms : Prop :=
  ∀ (s : State) (g : BitVec 3) (d a b : Reg), Ready s [a, b, d] → s.cur.fpEnables = 0 →
    let x := fun l => fval s .f32 a l
    let y := fun l => fval s .f32 b l
    exec (.fadd g d a b) s = floatTo s 1 g .f32 d (fun l => ieeeF32.addOp .rne (x l) (y l)) ∧
    exec (.fsub g d a b) s = floatTo s 1 g .f32 d (fun l => ieeeF32.subOp .rne (x l) (y l)) ∧
    exec (.fmul g d a b) s = floatTo s 1 g .f32 d (fun l => ieeeF32.mulOp .rne (x l) (y l)) ∧
    exec (.ffma g d a b) s = floatTo s 1 g .f32 d (fun l => ieeeF32.fmaOp .rne (x l) (y l) (fval s .f32 d l)) ∧
    exec (.fmin g d a b) s = floatTo s 1 g .f32 d (fun l => ieeeF32.minMax false (x l) (y l)) ∧
    exec (.fmax g d a b) s = floatTo s 1 g .f32 d (fun l => ieeeF32.minMax true (x l) (y l)) ∧
    exec (.frcp g d a) s = floatTo s 2 g .f32 d (fun l => frcpOp (val s a l)) ∧
    exec (.frsq g d a) s = floatTo s 2 g .f32 d (fun l => frsqOp (val s a l)) ∧
    exec (.fexp2 g d a) s = floatTo s 2 g .f32 d (fun l => fexp2Op (val s a l)) ∧
    exec (.flog2 g d a) s = floatTo s 2 g .f32 d (fun l => flog2Op (val s a l)) ∧
    exec (.fsin g d a) s = floatTo s 2 g .f32 d (fun l => fsinOp (val s a l)) ∧
    exec (.fcos g d a) s = floatTo s 2 g .f32 d (fun l => fcosOp (val s a l))

/-- R112 to R115: with no enable bit of `fsr` set, each extended float form of a format and a rounding mode writes its acting lanes'
results, an even register pair under f64, and adds the flags they raise; `fclass` writes one register and raises none. -/
def Sys2Proof.Claims.FloatWideForms : Prop :=
  ∀ (s : State) (g : BitVec 3) (d a b c : Reg) (ff : FFmt) (rnd : Rnd), Ready s (fregs ff a ++ fregs ff b ++ fregs ff c) →
    s.cur.fpEnables = 0 →
    let p := ieeeOf ff
    let x := fun l => fval s ff a l
    let y := fun l => fval s ff b l
    exec (.faddX g d a b ff rnd) s = floatTo s 2 g ff d (fun l => p.addOp rnd (x l) (y l)) ∧
    exec (.fsubX g d a b ff rnd) s = floatTo s 2 g ff d (fun l => p.subOp rnd (x l) (y l)) ∧
    exec (.fmulX g d a b ff rnd) s = floatTo s 2 g ff d (fun l => p.mulOp rnd (x l) (y l)) ∧
    exec (.ffmaX g d a b c ff rnd) s = floatTo s 2 g ff d (fun l => p.fmaOp rnd (x l) (y l) (fval s ff c l)) ∧
    exec (.fminX g d a b ff) s = floatTo s 2 g ff d (fun l => p.minMax false (x l) (y l)) ∧
    exec (.fmaxX g d a b ff) s = floatTo s 2 g ff d (fun l => p.minMax true (x l) (y l)) ∧
    exec (.fsqrt g d a ff rnd) s = floatTo s 2 g ff d (fun l => p.sqrtOp rnd (x l)) ∧
    exec (.fclass g d a ff) s = floatTo s 2 g .f32 d (fun l => (·, 0) <|
      let e := x l / 2 ^ p.mbits % 2 ^ p.ebits
      let m := x l % 2 ^ p.mbits
      let neg := x l / 2 ^ (p.ebits + p.mbits) % 2 = 1
      if e = 2 ^ p.ebits - 1 then
        (if m = 0 then (if neg then 4 else 512) else if m < 2 ^ (p.mbits - 1) then 1 else 2)
      else if e = 0 then
        (if m = 0 then (if neg then 32 else 64) else if neg then 16 else 128)
      else if neg then 8 else 256)

/-- R55, R112: an operation on finite numbers rounds the one exact result once, with the sign IEEE gives an exact zero sum; with an infinity
and a number it can be combined with the result is that infinity; a NaN operand, ∞ − ∞ and 0 × ∞ give the canonical NaN, with invalid for a
signalling NaN and for the two latter, 0 × ∞ whatever the addend. -/
def Sys2Proof.Claims.FloatExactThenRounded : Prop :=
  ∀ (p : IEEE) (mode : Rnd) (a b c : Nat), p = ieeeF32 ∨ p = ieeeF64 →
    let x := p.decode a
    let y := p.decode b
    let z := p.decode c
    let fin := fun n : FNum => n.isNan = false ∧ n.isInf = false
    let infOf := fun neg : Bool => (p.infCode + if neg then p.signBit else 0, (0 : FFlags))
    let invalid := (p.nanCode, fNV)
    let sig := fun ns : List FNum => if ns.any FNum.isSnan then fNV else 0
    let grows := fun u v : FNum => u.isInf = true ∧ v.isNan = false ∧ v.isZero = false
    let neg := xor x.sign y.sign
    (fin x → fin y → ∃ r, p.addOp mode a b = p.round mode r ∧ fin r ∧ FNum.rat r = FNum.rat x + FNum.rat y ∧
      (FNum.rat r = 0 → r.sign = if x.sign = y.sign then x.sign else decide (mode = .rdn))) ∧
    (fin x → fin y → ∃ r, p.subOp mode a b = p.round mode r ∧ fin r ∧ FNum.rat r = FNum.rat x - FNum.rat y ∧
      (FNum.rat r = 0 → r.sign = if x.sign = !y.sign then x.sign else decide (mode = .rdn))) ∧
    (fin x → fin y → ∃ r, p.mulOp mode a b = p.round mode r ∧ fin r ∧ FNum.rat r = FNum.rat x * FNum.rat y ∧
      r.sign = xor x.sign y.sign) ∧
    (fin x → fin y → fin z → ∃ r, p.fmaOp mode a b c = p.round mode r ∧ fin r ∧
      FNum.rat r = FNum.rat x * FNum.rat y + FNum.rat z ∧
      (FNum.rat r = 0 → r.sign = if neg = z.sign then z.sign else decide (mode = .rdn))) ∧
    (x.isNan ∨ y.isNan → p.addOp mode a b = (p.nanCode, sig [x, y]) ∧ p.subOp mode a b = (p.nanCode, sig [x, y]) ∧
      p.mulOp mode a b = (p.nanCode, sig [x, y])) ∧
    (x.isInf → y.isInf → (x.sign ≠ y.sign → p.addOp mode a b = invalid ∧ p.subOp mode a b = infOf x.sign) ∧
      (x.sign = y.sign → p.addOp mode a b = infOf x.sign ∧ p.subOp mode a b = invalid)) ∧
    (x.isInf → fin y → p.addOp mode a b = infOf x.sign ∧ p.subOp mode a b = infOf x.sign) ∧
    (fin x → y.isInf → p.addOp mode a b = infOf y.sign ∧ p.subOp mode a b = infOf !y.sign) ∧
    (grows x y ∨ grows y x → p.mulOp mode a b = infOf neg) ∧
    (x.isInf ∧ y.isZero ∨ x.isZero ∧ y.isInf → p.mulOp mode a b = invalid ∧ p.fmaOp mode a b c = invalid) ∧
    (¬(x.isInf ∧ y.isZero ∨ x.isZero ∧ y.isInf) → x.isNan ∨ y.isNan ∨ z.isNan →
      p.fmaOp mode a b c = (p.nanCode, sig [x, y, z])) ∧
    (grows x y ∨ grows y x → (z.isInf → z.sign ≠ neg → p.fmaOp mode a b c = invalid) ∧
      (fin z ∨ z.isInf ∧ z.sign = neg → p.fmaOp mode a b c = infOf neg)) ∧
    (fin x → fin y → z.isInf → p.fmaOp mode a b c = infOf z.sign)

/-- R56: the five rounding modes on a magnitude of n / d units: the nearest integer with ties to even or away from zero, toward
zero, and toward either infinity for the sign; the second part tells an inexact result. -/
def Sys2Proof.Claims.RoundingModes : Prop :=
  ∀ (neg : Bool) (n d : Nat), 0 < d →
    (∀ mode, n / d ≤ (roundNat mode neg n d).1 ∧ (roundNat mode neg n d).1 ≤ n / d + 1 ∧
      ((roundNat mode neg n d).2 = true ↔ ¬ d ∣ n) ∧ (d ∣ n → (roundNat mode neg n d).1 * d = n)) ∧
    (let r := (roundNat .rne neg n d).1
     2 * r * d ≤ 2 * n + d ∧ 2 * n ≤ 2 * r * d + d ∧ (2 * r * d = 2 * n + d ∨ 2 * n = 2 * r * d + d → r % 2 = 0)) ∧
    (let r := (roundNat .rna neg n d).1
     2 * r * d ≤ 2 * n + d ∧ 2 * n < 2 * r * d + d) ∧
    (roundNat .rtz neg n d).1 = n / d ∧
    (roundNat .rdn neg n d).1 = (if neg then (n + d - 1) / d else n / d) ∧
    (roundNat .rup neg n d).1 = (if neg then n / d else (n + d - 1) / d)

/-- R54, R56, R57: what rounding to a format is. A positive magnitude v between 2^e and 2^(e+1) is rounded as a whole number of units of the
last place of its exponent, no lower than that of the subnormals; past the largest finite number the mode gives infinity or that number;
inexact, underflow (tiny after rounding) and overflow are flagged. -/
def Sys2Proof.Claims.RoundToFormat : Prop :=
  ∀ (p : IEEE) (mode : Rnd) (neg : Bool) (m : Q) (e : Int), p = ieeeF32 ∨ p = ieeeF64 →
    let sign := if neg then p.signBit else 0
    let r := p.round mode (.fin neg m)
    (m.num = 0 → r = (sign, 0)) ∧ p.round mode (.inf neg) = (sign + p.infCode, 0) ∧ (p.round mode (.nan neg)).1 = p.nanCode ∧
    (0 < m.num → 0 < m.den →
      let v : ℚ := m.num / m.den
      (2 : ℚ) ^ e ≤ v → v < (2 : ℚ) ^ (e + 1) →
      let unit := fun x : Int => (2 : ℚ) ^ (x - p.mbits)
      ∀ n d n1 d1 : Nat, 0 < d → 0 < d1 → (n : ℚ) / d = v / unit (max e p.emin) → (n1 : ℚ) / d1 = v / unit e →
        let k := roundNat mode neg n d
        let top := (2 : ℚ) ^ (p.bias + 1)
        let tiny := e < p.emin ∧ ((roundNat mode neg n1 d1).1 : ℚ) * unit e < (2 : ℚ) ^ p.emin
        let x := p.decode r.1
        ((k.1 : ℚ) * unit (max e p.emin) < top → x.isNan = false ∧ x.isInf = false ∧ x.sign = neg ∧
          |FNum.rat x| = (k.1 : ℚ) * unit (max e p.emin) ∧
          r.2 = (if k.2 = true then fNX else 0) ||| (if k.2 = true ∧ tiny then fUF else 0)) ∧
        (top ≤ (k.1 : ℚ) * unit (max e p.emin) → r.2 = fOF ||| fNX ∧
          r.1 = sign + if mode = .rne ∨ mode = .rna ∨ (mode = .rdn ∧ neg = true) ∨ (mode = .rup ∧ neg = false) then p.infCode
            else p.infCode - 1))

/-- R113: the lesser or the greater of two numbers, −0 below +0; a NaN yields to a number, and two give the canonical NaN; a signalling NaN
raises invalid. -/
def Sys2Proof.Claims.MinimumAndMaximum : Prop :=
  ∀ (p : IEEE) (isMax : Bool) (a b : Nat), p = ieeeF32 ∨ p = ieeeF64 →
    let x := p.decode a
    let y := p.decode b
    let r := p.minMax isMax a b
    let below := fun u v : FNum => (u.isInf = true ∧ u.sign = true) ∨ (v.isInf = true ∧ v.sign = false) ∨
      (u.isInf = false ∧ v.isInf = false ∧ FNum.rat u ≤ FNum.rat v)
    r.2 = (if x.isSnan || y.isSnan then fNV else 0) ∧
    (x.isNan = true → y.isNan = true → r.1 = p.nanCode) ∧ (x.isNan = true → y.isNan = false → r.1 = b) ∧
    (x.isNan = false → y.isNan = true → r.1 = a) ∧
    (x.isNan = false → y.isNan = false → (r.1 = a ∨ r.1 = b) ∧
      (isMax = false → below (p.decode r.1) x ∧ below (p.decode r.1) y) ∧
      (isMax = true → below x (p.decode r.1) ∧ below y (p.decode r.1)) ∧
      (x.isZero = true → y.isZero = true → x.sign ≠ y.sign → (p.decode r.1).sign = !isMax))

/-- R114: `fsqrt` is the exact root correctly rounded: for the modes toward zero and down the greatest number whose square does not pass the
operand, up the least one that reaches it, and to nearest one that none is nearer to the root than; it is inexact unless exact. -/
def Sys2Proof.Claims.SquareRoots : Prop :=
  ∀ (p : IEEE) (mode : Rnd) (a : Nat), p = ieeeF32 ∨ p = ieeeF64 →
    let x := p.decode a
    let r := p.sqrtOp mode a
    let num := fun c : Nat => FNum.rat (p.decode c)
    let z := num r.1
    let v := FNum.rat x
    (x.isNan = true → r = (p.nanCode, if x.isSnan then fNV else 0)) ∧
    (x.isInf = true → r = if x.sign then (p.nanCode, fNV) else (p.infCode, 0)) ∧
    (x.isNan = false → x.isInf = false → v < 0 → r = (p.nanCode, fNV)) ∧
    (x.isZero = true → r = (if x.sign then p.signBit else 0, 0)) ∧
    (x.isNan = false → x.isInf = false → 0 < v →
      r.1 < p.infCode ∧ r.2 = (if z * z = v then 0 else fNX) ∧
      (mode = .rtz ∨ mode = .rdn → z * z ≤ v ∧ ∀ c < p.infCode, num c * num c ≤ v → num c ≤ z) ∧
      (mode = .rup → v ≤ z * z ∧ ∀ c < p.infCode, v ≤ num c * num c → z ≤ num c) ∧
      (mode = .rne ∨ mode = .rna → ∀ c < p.infCode, |(z : ℝ) - √(v : ℝ)| ≤ |(num c : ℝ) - √(v : ℝ)|))

/-- R114: the bound of each approximation. Where the exact result y is not zero and lies between 2^e and 2^(e+1) in magnitude, the device's
value, which is its own choice (log 6, DESIGN CHOICE), is finite and off y by at most 1 unit of the last place there for `frcp` and `frsq`,
and 2 units for `fexp2`, `flog2`, `fsin` and `fcos`; inexact is raised where it differs from y, underflow where it is then subnormal. A
`frcp` whose exact result is 2^128 or more in magnitude overflows. -/
def Sys2Proof.Claims.ApproximationBounds : Prop :=
  ∀ a : Word,
    let x := f32Num a
    let v := FNum.rat x
    let near := fun (bound : ℝ) (y : ℝ) (r : Nat × FFlags) => ∀ e : Int, (2 : ℝ) ^ e ≤ |y| → |y| < (2 : ℝ) ^ (e + 1) →
      let z : ℝ := FNum.rat (ieeeF32.decode r.1)
      r.1 % 2 ^ 31 < 0x7F800000 ∧ |z - y| ≤ bound * (2 : ℝ) ^ (max e (-126) - 23) ∧
        (z ≠ y → r.2 = fNX ||| (if r.1 % 2 ^ 31 < 0x00800000 then fUF else 0))
    x.isNan = false → x.isInf = false →
    (v ≠ 0 → |1 / v| < (2 : ℚ) ^ 128 → near 1 (1 / v) (frcpOp a)) ∧
    ((2 : ℚ) ^ 128 ≤ |1 / v| → frcpOp a = ((if x.sign then 0x80000000 else 0) + 0x7F800000, fOF ||| fNX)) ∧
    (0 < v → near 1 (1 / √(v : ℝ)) (frsqOp a)) ∧
    (-150 ≤ v → v < 128 → near 2 ((2 : ℝ) ^ (v : ℝ)) (fexp2Op a)) ∧
    (0 < v → near 2 (Real.logb 2 v) (flog2Op a)) ∧
    near 2 (Real.sin (Real.pi * v)) (fsinOp a) ∧
    near 2 (Real.cos (Real.pi * v)) (fcosOp a)

/-- R114: the special values of the approximations and the results they must give exactly; and what the choice of a value is: for an exact
positive result that lies in a narrow interval, the device's value (log 6, DESIGN CHOICE) is off any number of the interval by no more
than the bound in units of the last place there; `frsq` takes an interval that holds its exact result. -/
def Sys2Proof.Claims.Approximations : Prop :=
  (∀ a : Word,
    let x := f32Num a
    let v := FNum.rat x
    let fin := x.isNan = false ∧ x.isInf = false
    let signed := fun c : Nat => c + if x.sign then 0x80000000 else 0
    let nan := ieeeF32.nanCode
    let value := fun r : Nat × FFlags => FNum.rat (ieeeF32.decode r.1)
    (x.isNan = true → ∀ f ∈ [frcpOp, frsqOp, fexp2Op, flog2Op, fsinOp, fcosOp], f a = (nan, if x.isSnan then fNV else 0)) ∧
    (x.isZero = true → frcpOp a = (signed 0x7F800000, fDZ) ∧ frsqOp a = (signed 0x7F800000, fDZ) ∧ fexp2Op a = (0x3F800000, 0) ∧
      flog2Op a = (0xFF800000, fDZ) ∧ fsinOp a = (signed 0, 0) ∧ fcosOp a = (0x3F800000, 0)) ∧
    (x.isInf = true → frcpOp a = (signed 0, 0) ∧ frsqOp a = (if x.sign then (nan, fNV) else (0, 0)) ∧
      fexp2Op a = (if x.sign then (0, 0) else (0x7F800000, 0)) ∧ flog2Op a = (if x.sign then (nan, fNV) else (0x7F800000, 0)) ∧
      fsinOp a = (nan, fNV) ∧ fcosOp a = (nan, fNV)) ∧
    (fin → v < 0 → frsqOp a = (nan, fNV) ∧ flog2Op a = (nan, fNV)) ∧
    (fin → 128 ≤ v → fexp2Op a = (0x7F800000, fOF ||| fNX)) ∧ (fin → v < -150 → fexp2Op a = (0, fUF ||| fNX)) ∧
    (fin → ∀ n : Int, v = n → fsinOp a = (signed 0, 0)) ∧ (fin → ∀ n : Int, v = n + 1 / 2 → fcosOp a = (0, 0)) ∧
    (fin → ∀ n : Int, v = n + 1 / 2 → fsinOp a = (if n % 2 = 0 then 0x3F800000 else 0xBF800000, 0)) ∧
    (fin → ∀ n : Int, v = n → fcosOp a = (if n % 2 = 0 then 0x3F800000 else 0xBF800000, 0)) ∧
    (fin → ∀ n : Int, -149 ≤ n → n ≤ 127 → v = n → value (fexp2Op a) = (2 : ℚ) ^ n ∧ (fexp2Op a).2 = 0) ∧
    (fin → ∀ n : Int, v = (2 : ℚ) ^ n → value (flog2Op a) = n ∧ (flog2Op a).2 = 0) ∧
    (fin → ∀ c : Word, (f32Num c).isNan = false → (f32Num c).isInf = false →
      (v * ratOf c = 1 → value (frcpOp a) = ratOf c ∧ (frcpOp a).2 = 0) ∧
      (0 < ratOf c → v * ratOf c * ratOf c = 1 → value (frsqOp a) = ratOf c ∧ (frsqOp a).2 = 0))) ∧
  (∀ (op : Nat) (arg : Word) (bound : Nat) (i : Q × Q) (e : Int), 0 < bound →
    let lo : ℚ := i.1.num / i.1.den
    let hi : ℚ := i.2.num / i.2.den
    let off : ℚ := bound * (2 : ℚ) ^ (max e (-126) - 23)
    0 < i.1.num → 0 < i.1.den → 0 < i.2.den → lo ≤ hi → hi - lo ≤ off → (2 : ℚ) ^ e ≤ lo → lo < (2 : ℚ) ^ (e + 1) →
    hi ≤ FNum.rat (ieeeF32.decode 0x7F7FFFFF) →
      let r := approxPos op arg bound i
      let y := FNum.rat (ieeeF32.decode r.1)
      r.1 < 0x7F800000 ∧ hi - off ≤ y ∧ y ≤ lo + off ∧ r.2 = fNX ||| (if r.1 < 0x00800000 then fUF else 0)) ∧
  (∀ m : Q, 0 < m.num → 0 < m.den →
    let v : ℚ := m.num / m.den
    let lo : ℚ := (rsqrtInterval m).1.num / (rsqrtInterval m).1.den
    let hi : ℚ := (rsqrtInterval m).2.num / (rsqrtInterval m).2.den
    0 < lo ∧ lo * lo * v ≤ 1 ∧ 1 < hi * hi * v)

/-- R60: when some acting lanes raise an enabled flag, they trap FP with the flags they raised and write nothing, and the other
acting lanes complete with theirs: the extended forms. -/
def Sys2Proof.Claims.FloatWideTrap : Prop :=
  ∀ (s : State) (g : BitVec 3) (d a b c : Reg) (ff : FFmt) (rnd : Rnd), Ready s (fregs ff a ++ fregs ff b ++ fregs ff c) →
    let traps := floatTraps s 2 g ff d
    let p := ieeeOf ff
    let x := fun l => fval s ff a l
    let y := fun l => fval s ff b l
    traps (fun l => p.addOp rnd (x l) (y l)) (exec (.faddX g d a b ff rnd) s) ∧
    traps (fun l => p.subOp rnd (x l) (y l)) (exec (.fsubX g d a b ff rnd) s) ∧
    traps (fun l => p.mulOp rnd (x l) (y l)) (exec (.fmulX g d a b ff rnd) s) ∧
    traps (fun l => p.fmaOp rnd (x l) (y l) (fval s ff c l)) (exec (.ffmaX g d a b c ff rnd) s) ∧
    traps (fun l => p.minMax false (x l) (y l)) (exec (.fminX g d a b ff) s) ∧
    traps (fun l => p.minMax true (x l) (y l)) (exec (.fmaxX g d a b ff) s) ∧
    traps (fun l => p.sqrtOp rnd (x l)) (exec (.fsqrt g d a ff rnd) s)

/-- R60: the FP trap of the short forms and of the approximations. -/
def Sys2Proof.Claims.FloatShortTrap : Prop :=
  ∀ (s : State) (g : BitVec 3) (d a b : Reg), Ready s [a, b, d] →
    let traps := fun len => floatTraps s len g .f32 d
    let x := fun l => fval s .f32 a l
    let y := fun l => fval s .f32 b l
    traps 1 (fun l => ieeeF32.addOp .rne (x l) (y l)) (exec (.fadd g d a b) s) ∧
    traps 1 (fun l => ieeeF32.subOp .rne (x l) (y l)) (exec (.fsub g d a b) s) ∧
    traps 1 (fun l => ieeeF32.mulOp .rne (x l) (y l)) (exec (.fmul g d a b) s) ∧
    traps 1 (fun l => ieeeF32.fmaOp .rne (x l) (y l) (fval s .f32 d l)) (exec (.ffma g d a b) s) ∧
    traps 1 (fun l => ieeeF32.minMax false (x l) (y l)) (exec (.fmin g d a b) s) ∧
    traps 1 (fun l => ieeeF32.minMax true (x l) (y l)) (exec (.fmax g d a b) s) ∧
    traps 2 (fun l => frcpOp (val s a l)) (exec (.frcp g d a) s) ∧ traps 2 (fun l => frsqOp (val s a l)) (exec (.frsq g d a) s) ∧
    traps 2 (fun l => fexp2Op (val s a l)) (exec (.fexp2 g d a) s) ∧ traps 2 (fun l => flog2Op (val s a l)) (exec (.flog2 g d a) s) ∧
    traps 2 (fun l => fsinOp (val s a l)) (exec (.fsin g d a) s) ∧ traps 2 (fun l => fcosOp (val s a l)) (exec (.fcos g d a) s)

/-- R116, R117: `cmp` and `tst` test in every lane of the effective mask and write the two predicates by their combining type;
with the guard true in no lane they have no effect. -/
def Sys2Proof.Claims.IntegerCompares : Prop :=
  ∀ (s : State) (g pd pe : BitVec 3) (a b : Reg) (i : BitVec 7) (op : CmpOp) (ct : CType), Ready s [a, b] →
    decode 0x60E8C17B 0x15 = .ok (.cmpImm 7 3 4 2 (-5) .ge .nrm) ∧ decode 0x62E441E4 0x00400000 = .ok (.tst 7 1 2 3 100 .unc) ∧
    (s.cur.acting g = 0 → exec (.cmp g pd pe a b op ct) s = .next (s.retire 2) ∧
      exec (.cmpImm g pd pe a i op ct) s = .next (s.retire 2) ∧ exec (.tst g pd pe a b ct) s = .next (s.retire 2)) ∧
    (s.cur.acting g ≠ 0 → ∀ test : Nat → Bool,
      ((∀ l < 64, test l = true ↔ intTest op (val s a l) (val s b l)) →
        ComparesTo s g pd pe ct 0 test (exec (.cmp g pd pe a b op ct) s)) ∧
      ((∀ l < 64, test l = true ↔ intTest op (val s a l) (i.signExtend 32)) →
        ComparesTo s g pd pe ct 0 test (exec (.cmpImm g pd pe a i op ct) s)) ∧
      ((∀ l < 64, test l = true ↔ val s a l &&& val s b l ≠ 0) → ComparesTo s g pd pe ct 0 test (exec (.tst g pd pe a b ct) s)))

/-- R118: what `fcmp` tests, on numbers with the infinities beyond all others and on NaNs, and the one flag it raises. -/
def Sys2Proof.Claims.fcmpMeans (p : IEEE) (o : FcmpOp) (a b : Nat) (c : Bool) (f : FFlags) : Prop :=
  let x := p.decode a
  let y := p.decode b
  let sig : FFlags := if x.isSnan || y.isSnan then fNV else 0
  let fin := x.isInf = false ∧ y.isInf = false
  let lt := x ≠ y ∧ (x = .inf true ∨ y = .inf false) ∨ fin ∧ FNum.rat x < FNum.rat y
  let eq := x.isInf = true ∧ x = y ∨ fin ∧ FNum.rat x = FNum.rat y
  if x.isNan ∨ y.isNan then
    match o with
    | .eq => c = false ∧ f = sig
    | .ne => c = true ∧ f = sig
    | .ord => c = false ∧ f = sig
    | .unord => c = true ∧ f = sig
    | _ => c = false ∧ f = fNV
  else f = 0 ∧
    match o with
    | .eq => c = true ↔ eq
    | .ne => c = true ↔ ¬eq
    | .lt => c = true ↔ lt
    | .le => c = true ↔ lt ∨ eq
    | .gt => c = true ↔ ¬(lt ∨ eq)
    | .ge => c = true ↔ ¬lt
    | .ord => c = true
    | .unord => c = false

/-- R60, R116, R118: with no enable bit of `fsr` set, an `fcmp` that begins writes the two predicates by its combining type and adds nv
where an acting lane raises it; with the enable bit of nv set, the acting lanes that raise it trap FP, keep both predicates and add no
flag, and every other lane of the effective mask compares. -/
def Obligations.FloatCompares : Prop :=
  ∀ (s : State) (g pd pe : BitVec 3) (a b : Reg) (op : FcmpOp) (ct : CType) (ff : FFmt), Ready s (fregs ff a ++ fregs ff b) →
    s.cur.unfinished = none →
    let m := s.cur.acting g
    let out := exec (.fcmp g pd pe a b op ct ff) s
    (m = 0 → out = .next (s.retire 2)) ∧
    (m ≠ 0 → ∃ (test : Nat → Bool) (fl : Nat → FFlags),
      (∀ l < 64, fcmpMeans (ieeeOf ff) op (fval s ff a l) (fval s ff b l) (test l) (fl l)) ∧
      let all := fun k : Mask => raised k fun l => ((), fl l)
      (s.cur.fpEnables = 0 → ComparesTo s g pd pe ct (all m) test out) ∧
      ∀ bad : Mask, bad ≠ 0 → (∀ l < 64, bad.getLsbD l = true ↔ m.getLsbD l = true ∧ fl l &&& s.cur.fpEnables ≠ 0) →
        ∃ p, out = .next ((s.setCur ({ s.cur with p := p }.addFlags (all (m &&& ~~~bad)))).takeTrap
            ⟨15, (all bad).toNat, 0, bad, 2, false⟩) ∧
          ComparedIn s g pd pe ct (s.cur.emask &&& ~~~bad) test { s.cur with p := p })

/-- R119: the predicate forms and `sel`, in the acting lanes. -/
def Sys2Proof.Claims.PredicateForms : Prop :=
  ∀ (s : State) (g pd pa pb px : BitVec 3) (d a b : Reg), Ready s [a, b] →
    exec (.pand g pd pa pb) s = predTo s 1 g pd (s.cur.pred pa &&& s.cur.pred pb) ∧
    exec (.por g pd pa pb) s = predTo s 1 g pd (s.cur.pred pa ||| s.cur.pred pb) ∧
    exec (.pxor g pd pa pb) s = predTo s 1 g pd (s.cur.pred pa ^^^ s.cur.pred pb) ∧
    exec (.pmov g pd pa) s = predTo s 1 g pd (s.cur.pred pa) ∧
    exec (.sel g d a b px) s = laneTo s 2 g d (fun l => if (s.cur.pred px).getLsbD l then val s a l else val s b l)

/-- R120 to R122: the shuffles, and the scan: each acting lane combines with the acting lane next below it, or starts a segment. -/
def Sys2Proof.Claims.CrossLaneForms : Prop :=
  ∀ (s : State) (g px : BitVec 3) (d a b : Reg) (k : BitVec 6) (rop : RedOp), Ready s [a, b] →
    let w := s.cur.width
    exec (.vperm g d a b) s = laneTo s 1 g d (fun l =>
      if (val s b l).toNat % 64 < w then val s a ((val s b l).toNat % 64) else 0) ∧
    decode 0x28E2858C 0 = .ok (.vperm 7 10 11 12) ∧ decode 0x2AE08085 0 = .ok (.vbcast 7 2 1 5) ∧
    decode 0x69E0C0E6 2 = .ok (.vshfl 7 3 1 102 .xor) ∧ decode 0x6BE10180 0x100 = .ok (.vscan 7 4 3 1 .add) ∧
    exec (.vbcast g d a k) s = laneTo s 1 g d (fun _ => if k.toNat < w then val s a k.toNat else 0) ∧
    exec (.vshfl g d a b .up) s = laneTo s 2 g d (fun l =>
      if (val s b l).toNat ≤ l ∧ l - (val s b l).toNat < w then val s a (l - (val s b l).toNat) else val s a l) ∧
    exec (.vshfl g d a b .down) s = laneTo s 2 g d (fun l =>
      if l + (val s b l).toNat < w then val s a (l + (val s b l).toNat) else val s a l) ∧
    exec (.vshfl g d a b .xor) s = laneTo s 2 g d (fun l =>
      if l ^^^ ((val s b l).toNat % 64) < w then val s a (l ^^^ ((val s b l).toNat % 64)) else val s a l) ∧
    ∃ r, exec (.vscan g d a px rop) s = laneTo s 2 g d r ∧ ∀ l < 64, (s.cur.acting g).getLsbD l = true →
      ((s.cur.pred px).getLsbD l = true → r l = val s a l) ∧
      ((∀ k < l, (s.cur.acting g).getLsbD k = false) → r l = val s a l) ∧
      ((s.cur.pred px).getLsbD l = false → ∀ k, Below (s.cur.acting g) k l → r l = redMeans rop (r k) (val s a l))

/-- R123, R124: reductions and votes over the acting lanes; with none, no effect. -/
def Sys2Proof.Claims.ReductionsAndVotes : Prop :=
  ∀ (s : State) (g pd pa : BitVec 3) (d a : Reg) (rop : RedOp), Ready s [a] →
    let m := s.cur.acting g
    let x := s.cur.pred pa &&& m
    decode 0x6CF94100 2 = .ok (.vred 7 101 2 .max) ∧ decode 0x6DFA0180 2 = .ok (.vvoteMask 7 104 3) ∧
    decode 0x2EFA4100 0 = .ok (.vfirst 7 105 2) ∧ (isV d = true → (Instr.vred g d a rop).wellFormed = false) ∧
    (isV d = true ∨ d.toNat % 2 = 1 → (Instr.vvoteMask g d pa).wellFormed = false) ∧
    exec (.vvoteAny g pd pa) s = predTo s 2 g pd (if x = 0 then 0 else m) ∧
    exec (.vvoteAll g pd pa) s = predTo s 2 g pd (if x = m then m else 0) ∧
    (m = 0 → exec (.vred g d a rop) s = .next (s.retire 2) ∧ exec (.vvoteMask g d pa) s = .next (s.retire 2) ∧
      exec (.vfirst g d pa) s = .next (s.retire 1)) ∧
    (m ≠ 0 →
      (∃ r : Nat → Word, (∀ l < 64, m.getLsbD l = true → ((∀ k < l, m.getLsbD k = false) → r l = val s a l) ∧
          ∀ k, Below m k l → r l = redMeans rop (r k) (val s a l)) ∧
        ∀ l < 64, m.getLsbD l = true → (∀ k, l < k → m.getLsbD k = false) →
          exec (.vred g d a rop) s = .next ((s.setCur (s.cur.setG d (r l))).retire 2)) ∧
      exec (.vvoteMask g d pa) s = .next ((s.setCur ((s.cur.setG d (x.setWidth 32)).setG (d + 1) ((x >>> 32).setWidth 32))).retire 2) ∧
      (x = 0 → exec (.vfirst g d pa) s = .next ((s.setCur (s.cur.setG d 0xFFFFFFFF)).retire 1)) ∧
      (∀ l < 64, x.getLsbD l = true → (∀ k < l, x.getLsbD k = false) →
        exec (.vfirst g d pa) s = .next ((s.setCur (s.cur.setG d (BitVec.ofNat 32 l))).retire 1)))

/-- R58, R60, R125, R126: with no enable bit of `fsr` set, `cvt` and `cvt.esc` write the converted value in the destination's lane form, and
with an enabled flag raised the lanes that raise it trap FP. Between integer formats the value is clamped and no flag is raised; a float or an
integer is rounded into an IEEE format as R57 says and into f8 as R58 does, with no value beyond 480; a float becomes the integer its rounding
mode gives, clamped with nv, and a NaN becomes 0 with nv. -/
def Sys2Proof.Claims.Conversions : Prop :=
  ∀ (s : State) (g : BitVec 3) (d a : Reg) (dst src : Fmt) (rnd : Rnd), Ready s (cvtRegs src a) →
    let conv := fun (esc : Bool) (l : Nat) => cvtOp dst src rnd esc (s.cur.cvtSrc src a l)
    (s.cur.fpEnables = 0 → exec (.cvt g d a dst src rnd) s = cvtTo s g dst d (conv false) ∧
      exec (.cvtEsc g d a dst src rnd) s = cvtTo s g dst d (conv true)) ∧
    cvtTraps s g dst d (conv false) (exec (.cvt g d a dst src rnd) s) ∧
    cvtTraps s g dst d (conv true) (exec (.cvtEsc g d a dst src rnd) s) ∧
    (∀ x, dst ∈ intFormats → src ∈ intFormats →
      loWord (cvtOp dst src rnd false x).1 = BitVec.ofInt 32 (max (intEnds dst).1 (min (intEnds dst).2 (intOf src x))) ∧
      (cvtOp dst src rnd false x).2 = 0) ∧
    (∀ x, src.isFloat = true ∨ src ∈ intFormats →
      let v := if src.isFloat then src.value (x.toNat % 2 ^ src.width) else FNum.ofQ (Q.ofInt (intOf src x))
      let r := cvtOp dst src rnd false x
      let fin := v.isNan = false ∧ v.isInf = false
      (∀ p, (dst, p) ∈ [(Fmt.bf16, ieeeBf16), (.h16, ieeeH16), (.f32, ieeeF32), (.f64, ieeeF64)] →
        r = (BitVec.ofNat 64 (p.round rnd v).1, (p.round rnd v).2)) ∧
      (dst = .f8 →
        let num := fun c : Nat => FNum.rat (f8Decode c)
        let code := r.1.toNat
        let q := FNum.rat v
        let most : Nat := if v.sign then 0xFF else 0x7F
        let down := num code ≤ q ∧ ∀ c < 256, c ≠ 0x80 → num c ≤ q → num c ≤ num code
        let up := q ≤ num code ∧ ∀ c < 256, c ≠ 0x80 → q ≤ num c → num code ≤ num c
        code < 256 ∧ (v.isNan = true → r = (0x80, fNV)) ∧
        (v.isInf = true ∨ (fin ∧ 512 ≤ |q|) → r = (BitVec.ofNat 64 most, fOF ||| fNX)) ∧
        (fin → |q| ≤ 480 → code ≠ 0x80 ∧ (r.2 = 0 ↔ num code = q) ∧
          (rnd = .rne ∨ rnd = .rna → ∀ c < 256, c ≠ 0x80 → |num code - q| ≤ |num c - q|) ∧
          (rnd = .rdn ∨ (rnd = .rtz ∧ 0 ≤ q) → down) ∧ (rnd = .rup ∨ (rnd = .rtz ∧ q ≤ 0) → up))) ∧
      (dst ∈ intFormats → src.isFloat = true →
        let lo := (intEnds dst).1
        let hi := (intEnds dst).2
        (v.isNan = true → r = (0, fNV)) ∧
        (v.isInf = true → loWord r.1 = BitVec.ofInt 32 (if v.sign then lo else hi) ∧ r.2 = fNV) ∧
        (fin → ∀ n d : Nat, 0 < d → (n : ℚ) / d = |FNum.rat v| →
          let k := roundNat rnd v.sign n d
          let z : Int := if v.sign then -(k.1 : Int) else k.1
          loWord r.1 = BitVec.ofInt 32 (max lo (min hi z)) ∧
            r.2 = if z < lo ∨ hi < z then fNV else if k.2 then fNX else 0)))

/-- R127, R128: the three stream decoders on a stream whose bytes lie in the share and are present. The stream is X, bit i of it
being bit (A + i) mod 8 of Stage byte ⌊(A + i) / 8⌋ of the share. Where a byte of the stream lies outside the share, or A is 2^35 or more, they
trap STAGE-RANGE for all acting lanes. -/
def Sys2Proof.Claims.StreamDecode : Prop :=
  ∀ (s : State) (g : BitVec 3) (d a b : Reg) (wd : BitVec 7), Ready s (pairRegs a ++ [b]) → s.cur.unfinished = none →
    s.cur.acting g ≠ 0 → 0 < wd.toNat → wd.toNat ≤ 32 →
    let A := (pair (s.cur.greg a) (s.cur.greg (a + 1))).toNat
    let w := wd.toNat
    let n := laneCount (s.cur.acting g)
    let X := s.stageBits A (n * w)
    (∀ i < n * w, X.testBit i =
      (SMap.get 0 s.stage (s.cur.stgFirst * 128 + (A + i) / 8)).getLsbD ((A + i) % 8)) ∧
    let outside := fun total : Nat => 2 ^ 35 ≤ A ∨ s.cur.stgLines * 128 < (A + total - 1) / 8 + 1
    let trap := Host.Outcome.next (φ := Fault) (ρ := Refusal) (s.takeTrap ⟨6, 0, BitVec.ofNat 64 A, s.cur.acting g, 2, false⟩)
    (outside (n * w) → exec (.vdecGap g d a b wd) s = trap ∧ exec (.vdecBitplane g d a b wd) s = trap ∧
      exec (.vdecVarint g d a b wd) s = trap) ∧
    (StreamReadable s A (n * w) → exec (.vdecGap g d a b wd) s = vdecTo s g d b
      (fun j => ((List.range (j + 1)).map fun i => X / 2 ^ (i * w) % 2 ^ w).sum) (fun j => (j + 1) * w)) ∧
    (StreamReadable s A (n * w) → exec (.vdecBitplane g d a b wd) s = vdecTo s g d b
      (fun j => ((List.range w).map fun p => (X.testBit (p * n + j)).toNat * 2 ^ (w - 1 - p)).sum) (fun _ => w * n)) ∧
    (2 ≤ w → ∀ v k : Nat → Nat,
      let pos := fun j => ((List.range j).map fun i => k i * w).sum
      (∀ j < n, VarintAt w (s.stageBits A (n * ((32 + w - 2) / (w - 1)) * w)) (pos j) (v j) (k j)) →
      (StreamReadable s A (pos n) → exec (.vdecVarint g d a b wd) s = vdecTo s g d b v (fun j => pos (j + 1))) ∧
      (outside (pos n) → s.shareRun (A / 8) (s.cur.stgLines * 128 - A / 8) = none → exec (.vdecVarint g d a b wd) s = trap))

/-- R129: `xld` and `xst` move one word between a register and the lane's own register array at the index a + imm, when every
acting lane's index lies in the allotment. -/
def Sys2Proof.Claims.RegisterArray : Prop :=
  ∀ (s : State) (g : BitVec 3) (d a : Reg) (i : BitVec 7) (w : BitVec 32), Ready s [a] → SMap.wf 0 s.cur.xregs = true →
    let idx := fun (im : BitVec 32) (l : Nat) => ((val s a l).toNat : Int) + im.toInt
    let inside := fun im : BitVec 32 => ∀ l < 64, (s.cur.todo g).getLsbD l = true → 0 ≤ idx im l ∧ idx im l < s.cur.xwords
    let readTo := fun (len : Nat) (im : BitVec 32) => Host.Outcome.next (φ := Fault) (ρ := Refusal)
      ((s.setCur (s.cur.setV d (s.cur.todo g) (lanesFrom fun l => SMap.get 0 s.cur.xregs (xkey l (idx im l).toNat)))).retire len)
    let writeTo := fun (len : Nat) (im : BitVec 32) (o : Out) =>
      ∃ x, o = .next ((s.setCur { s.cur with xregs := x }).retire len) ∧ SMap.wf 0 x = true ∧ ∀ l < 64, ∀ k : Nat,
        SMap.get 0 x (xkey l k) =
          if (s.cur.todo g).getLsbD l = true ∧ idx im l = k then val s d l else SMap.get 0 s.cur.xregs (xkey l k)
    (inside (i.signExtend 32) → exec (.xld g d a i) s = readTo 1 (i.signExtend 32)) ∧
    (inside w → exec (.xldLong g d a w) s = readTo 2 w) ∧
    (inside (i.signExtend 32) → writeTo 1 (i.signExtend 32) (exec (.xst g d a i) s)) ∧
    (inside w → writeTo 2 w (exec (.xstLong g d a w) s))

/-- R130: lanes whose index lies outside the allotment trap PERM with that index in `trapa`, and read and write nothing; the others complete:
the two loads and the two stores. -/
def Sys2Proof.Claims.RegisterArrayTrap : Prop :=
  ∀ (s : State) (g : BitVec 3) (d a : Reg) (i : BitVec 7) (w : BitVec 32) (bad : Mask), Ready s [a] → SMap.wf 0 s.cur.xregs = true →
    bad ≠ 0 →
    let good := s.cur.todo g &&& ~~~bad
    let idx := fun (im : BitVec 32) (l : Nat) => ((val s a l).toNat : Int) + im.toInt
    let fails := fun im : BitVec 32 => ∀ l < 64, bad.getLsbD l = true ↔
      (s.cur.todo g).getLsbD l = true ∧ (idx im l < 0 ∨ (s.cur.xwords : Int) ≤ idx im l)
    let traps := fun (len : Nat) (im : BitVec 32) (gr : Group) => Host.Outcome.next (φ := Fault) (ρ := Refusal)
      ((s.setCur gr).takeTrap ⟨4, 0, BitVec.ofInt 64 (idx im (lowestLane bad)), bad, len, false⟩)
    let reads := fun im : BitVec 32 => s.cur.setV d good (lanesFrom fun l => SMap.get 0 s.cur.xregs (xkey l (idx im l).toNat))
    let writes := fun (len : Nat) (im : BitVec 32) (o : Out) => ∃ x, o = traps len im { s.cur with xregs := x } ∧
      SMap.wf 0 x = true ∧ ∀ l < 64, ∀ k : Nat, SMap.get 0 x (xkey l k) =
        if good.getLsbD l = true ∧ idx im l = k then val s d l else SMap.get 0 s.cur.xregs (xkey l k)
    (fails (i.signExtend 32) → exec (.xld g d a i) s = traps 1 (i.signExtend 32) (reads (i.signExtend 32)) ∧
      writes 1 (i.signExtend 32) (exec (.xst g d a i) s)) ∧
    (fails w → exec (.xldLong g d a w) s = traps 2 w (reads w) ∧ writes 2 w (exec (.xstLong g d a w) s))

/-- R133, R134: the short and E1 uniform forms on 32 bits, wrapping: where the guard is true the result goes into d, in every lane of a
v-register; where it is false nothing is written. -/
def Sys2Proof.Claims.UniformShortForms : Prop :=
  ∀ (s : State) (g : BitVec 3) (d a b : Reg) (i : BitVec 7) (w : BitVec 32), Ready s [a, b] →
    let x := uval s a
    let y := uval s b
    exec (.gadd g d a b) s = uniTo s 1 g d (BitVec.ofNat 32 (x.toNat + y.toNat)) ∧
    exec (.gsub g d a b) s = uniTo s 1 g d (BitVec.ofInt 32 (x.toNat - y.toNat)) ∧
    exec (.gmul g d a b) s = uniTo s 1 g d (BitVec.ofNat 32 (x.toNat * y.toNat)) ∧
    exec (.gand g d a b) s = uniTo s 1 g d (x &&& y) ∧
    exec (.gor g d a b) s = uniTo s 1 g d (x ||| y) ∧
    exec (.gxor g d a b) s = uniTo s 1 g d (x ^^^ y) ∧
    exec (.gmov g d a) s = uniTo s 1 g d x ∧
    exec (.gaddImm g d a i) s = uniTo s 1 g d (BitVec.ofInt 32 (x.toInt + i.toInt)) ∧
    exec (.gaddImmLong g d a w) s = uniTo s 2 g d (BitVec.ofNat 32 (x.toNat + w.toNat)) ∧
    exec (.gandImm g d a i) s = uniTo s 1 g d (x &&& i.signExtend 32) ∧
    exec (.gandImmLong g d a w) s = uniTo s 2 g d (x &&& w) ∧
    exec (.gorImm g d a i) s = uniTo s 1 g d (x ||| i.signExtend 32) ∧
    exec (.gorImmLong g d a w) s = uniTo s 2 g d (x ||| w) ∧
    exec (.gmovi g d i) s = uniTo s 1 g d (i.signExtend 32) ∧
    exec (.gmoviLong g d w) s = uniTo s 2 g d w ∧
    exec (.gshlImm g d a i) s = uniTo s 1 g d (BitVec.ofNat 32 (x.toNat * 2 ^ i.toNat)) ∧
    exec (.gshrImm g d a i) s = uniTo s 1 g d (BitVec.ofNat 32 (x.toNat / 2 ^ i.toNat)) ∧
    exec (.gsarImm g d a i) s = uniTo s 1 g d (BitVec.ofInt 32 (x.toInt / 2 ^ i.toNat)) ∧
    (w.toNat < 32 →
      exec (.gshlImmLong g d a w) s = uniTo s 2 g d (BitVec.ofNat 32 (x.toNat * 2 ^ w.toNat)) ∧
      exec (.gshrImmLong g d a w) s = uniTo s 2 g d (BitVec.ofNat 32 (x.toNat / 2 ^ w.toNat)) ∧
      exec (.gsarImmLong g d a w) s = uniTo s 2 g d (BitVec.ofInt 32 (x.toInt / 2 ^ w.toNat)))

/-- R135: the extended uniform forms on 32 bits. A shift by 32 or more gives 0, or the sign in every bit. -/
def Sys2Proof.Claims.UniformWideForms : Prop :=
  ∀ (s : State) (g px : BitVec 3) (d a b : Reg) (sh : BitVec 2), Ready s [a, b] →
    let x := uval s a
    let y := uval s b
    exec (.gaddX g d a b) s = uniTo s 2 g d (BitVec.ofNat 32 (x.toNat + y.toNat)) ∧
    exec (.gsubX g d a b) s = uniTo s 2 g d (BitVec.ofInt 32 (x.toNat - y.toNat)) ∧
    exec (.gmulX g d a b) s = uniTo s 2 g d (BitVec.ofNat 32 (x.toNat * y.toNat)) ∧
    exec (.gshl g d a b) s = uniTo s 2 g d (BitVec.ofNat 32 (x.toNat * 2 ^ y.toNat)) ∧
    exec (.gshr g d a b) s = uniTo s 2 g d (BitVec.ofNat 32 (x.toNat / 2 ^ y.toNat)) ∧
    exec (.gsar g d a b) s = uniTo s 2 g d (BitVec.ofInt 32 (x.toInt / 2 ^ y.toNat)) ∧
    exec (.gandX g d a b) s = uniTo s 2 g d (x &&& y) ∧
    exec (.gorX g d a b) s = uniTo s 2 g d (x ||| y) ∧
    exec (.gxorX g d a b) s = uniTo s 2 g d (x ^^^ y) ∧
    exec (.gmovX g d a) s = uniTo s 2 g d x ∧
    exec (.glea g d a b sh) s = uniTo s 2 g d (BitVec.ofNat 32 (x.toNat + y.toNat * 2 ^ sh.toNat)) ∧
    exec (.gsel g d a b px) s = uniTo s 2 g d (if s.cur.cpred px then x else y)

/-- R135: the `.d` forms work on 64-bit pairs, low word first. A shift by 64 or more gives 0, or the sign in every bit. -/
def Sys2Proof.Claims.UniformDoubleForms : Prop :=
  ∀ (s : State) (g px : BitVec 3) (d a b : Reg) (sh : BitVec 2), Ready s [a, a + 1, b, b + 1] →
    let x := uvalD s a
    let y := uvalD s b
    exec (.gaddD g d a b) s = uniDTo s 2 g d (BitVec.ofNat 64 (x.toNat + y.toNat)) ∧
    exec (.gsubD g d a b) s = uniDTo s 2 g d (BitVec.ofInt 64 (x.toNat - y.toNat)) ∧
    exec (.gmulD g d a b) s = uniDTo s 2 g d (BitVec.ofNat 64 (x.toNat * y.toNat)) ∧
    exec (.gshlD g d a b) s = uniDTo s 2 g d (BitVec.ofNat 64 (x.toNat * 2 ^ y.toNat)) ∧
    exec (.gshrD g d a b) s = uniDTo s 2 g d (BitVec.ofNat 64 (x.toNat / 2 ^ y.toNat)) ∧
    exec (.gsarD g d a b) s = uniDTo s 2 g d (BitVec.ofInt 64 (x.toInt / 2 ^ y.toNat)) ∧
    exec (.gandD g d a b) s = uniDTo s 2 g d (x &&& y) ∧
    exec (.gorD g d a b) s = uniDTo s 2 g d (x ||| y) ∧
    exec (.gxorD g d a b) s = uniDTo s 2 g d (x ^^^ y) ∧
    exec (.gmovD g d a) s = uniDTo s 2 g d x ∧
    exec (.gleaD g d a b sh) s = uniDTo s 2 g d (BitVec.ofNat 64 (x.toNat + y.toNat * 2 ^ sh.toNat)) ∧
    exec (.gselD g d a b px) s = uniDTo s 2 g d (if s.cur.cpred px then x else y)

/-- R136: `gcmp` writes two uniform predicates by its combining type, pe after pd, c7 discarded; with its guard false it writes
neither. -/
def Sys2Proof.Claims.UniformCompares : Prop :=
  ∀ (s : State) (g pd pe : BitVec 3) (a b : Reg) (i : BitVec 7) (op : CmpOp) (ct : CType) (test : Bool), Ready s [a, b] →
    ((test = true ↔ intTest op (uval s a) (uval s b)) → setsC s g pd pe ct test (exec (.gcmp g pd pe a b op ct) s)) ∧
    ((test = true ↔ intTest op (uval s a) (i.signExtend 32)) → setsC s g pd pe ct test (exec (.gcmpImm g pd pe a i op ct) s))

/-- R35, R303, R306, R307: retirement moves the issuing path to its next PC, ends every wait and every note of the instruction that it
kept, counts the issue for the current path, makes the group's age start anew, ends a single step of the debug port (R228), and charges
one issue cycle to each region of the group's chain; everything else stays. -/
def Obligations.Retirement : Prop :=
  ∀ (s : State) (pc : PC),
    let t := s.retireTo pc
    DeviceKept s t ∧ rebook t.cur s.cur = s.cur ∧ t.cur.path = { s.cur.path with pc := pc } ∧
    t.cur.otherPath = s.cur.otherPath ∧ t.cur.wait = .none ∧ t.cur.unfinished = none ∧ t.cur.lastIssue = some s.cycle ∧
    t.cur.count = (if s.cur.issuing = s.cur.current then s.cur.count + 1 else s.cur.count) ∧
    t.cur.held = [] ∧ t.cur.watched = [] ∧ t.cur.agedAt = none ∧ t.cur.yielded = false ∧ t.cur.stepping = false ∧
    t.cur.halted = (s.cur.halted || s.cur.stepping) ∧
    (SMap.wf 0 s.charged = true → SMap.wf 0 s.cycles = true → ∀ k,
      (k ∈ s.cur.regions → SMap.get 0 t.charged k = s.cycle + 1 ∧ SMap.get 0 t.cycles k =
        if SMap.get 0 s.charged k = s.cycle + 1 then SMap.get 0 s.cycles k else SMap.get 0 s.cycles k + 1) ∧
      (k ∉ s.cur.regions → SMap.get 0 t.charged k = SMap.get 0 s.charged k ∧ SMap.get 0 t.cycles k = SMap.get 0 s.cycles k))

/-- R137 to R140: where a uniform branch goes on: at its target under true guards, else past its words; `call` links. -/
def Sys2Proof.Claims.UniformBranches : Prop :=
  ∀ (s : State) (g cq : BitVec 3) (a d : Reg) (o18 : BitVec 18) (o21 : BitVec 21) (pc : BitVec 30) (w : BitVec 32), Ready s [a] →
    let on := s.cur.cpred g
    exec (.bra g cq o18) s = .next (if on && s.cur.cpred cq then s.retireTo (relative s (o18.signExtend 30)) else s.retire 1) ∧
    exec (.jmp g o21) s = .next (if on then s.retireTo (relative s (o21.signExtend 30)) else s.retire 1) ∧
    exec (.jmpAbs g pc) s = .next (if on then s.retireTo pc else s.retire 2) ∧
    exec (.brx g a) s = .next (if on then s.retireTo ((uval s a).extractLsb' 0 30) else s.retire 1) ∧
    exec (.ret g a) s = .next (if on then s.retireTo ((uval s a).extractLsb' 0 30) else s.retire 1) ∧
    exec (.call g d w) s = .next (if on then
      (s.setCur (s.cur.setG d (0#2 ++ (s.cur.path.pc + 2)))).retireTo (relative s (w.extractLsb' 0 30)) else s.retire 2)

/-- R36, R141: with an empty effective mask the branch falls through (log 36, DESIGN CHOICE); a vote that all effective lanes, or none, take moves the path; a divided one pushes the other live path and the join,
and splits the path between the two slots; an issuing path that was not current becomes current. -/
def Sys2Proof.Claims.DivergentBranch : Prop :=
  ∀ (s : State) (g pq : BitVec 3) (o18 : BitVec 18) (jo : BitVec 20) (h : Hint), Enabled s g [] →
    let e := s.cur.emask
    let t := e &&& s.cur.pred pq
    let dest := relative s (o18.signExtend 30)
    let join := relative s (jo.signExtend 30)
    let p := s.cur.path
    let o := s.cur.otherPath
    let es := (if o.live then [stackEntry .path o.join o.pc o.mask] else []) ++ [stackEntry .join p.join join p.mask]
    (e = 0 → exec (.braV g pq o18 jo h) s = .next (s.retire 2)) ∧
    (e ≠ 0 → t = e → exec (.braV g pq o18 jo h) s = .next (s.retireTo dest)) ∧
    (e ≠ 0 → t = 0 → exec (.braV g pq o18 jo h) s = .next (s.retire 2)) ∧
    (t ≠ 0 → t ≠ e → s.cur.rvdepth.toNat + es.length ≤ s.cur.rvcap.toNat → s.pushFate s.cur.rvdepth.toNat es = none →
      ∃ n, exec (.braV g pq o18 jo h) s = .next n ∧ n.cur.rvdepth = s.cur.rvdepth + BitVec.ofNat 16 es.length ∧
        n.cur.path = ⟨true, p.pc + 2, p.mask &&& ~~~t, join⟩ ∧ n.cur.otherPath = ⟨true, dest, t, join⟩ ∧
        n.cur.current = s.cur.issuing ∧ n.cur.count = (if s.cur.issuing = s.cur.current then s.cur.count + 1 else 0) ∧
        n.mem = (s.push es).mem ∧ n.stage = (s.push es).stage) ∧
    (t ≠ 0 → t ≠ e → s.cur.rvcap.toNat < s.cur.rvdepth.toNat + es.length → exec (.braV g pq o18 jo h) s =
      .next (s.takeTrap ⟨14, 0, s.cur.rvsp, p.mask, 2, true⟩))

/-- R38, R142, R143, R220: the layout and the place of an entry, where a push puts it and what the pop rule makes of the entry on top;
`rvpop` installs the entry the pop rule finds into the issuing path's slot, which becomes current, and a TRAP entry ends a level of trap
handling; it traps RVSTACK-OVF where there is none; `rvpush` pushes a MARK entry. That a stack read which does not go traps `rvpop` as a
uniform instruction, with the cause and the address of the read (R157, R178, R218), is the model's reading (log 21, DEDUCED). -/
def Sys2Proof.Claims.StackInstructions : Prop :=
  ∀ (s : State) (g : BitVec 3) (a b : Reg),
    let cap := s.cur.rvcap.toNat
    let depth := s.cur.rvdepth.toNat
    let addr := fun k : Nat => (s.cur.rvsb.toNat / 16 * 16 + 16 * k) % 2 ^ 64
    let lanes := fun e : BitVec 128 => e.extractLsb' 0 64 &&& widthMask s.cur.width
    (∀ k join pc mask, (stackEntry k join pc mask).extractLsb' 124 4 = k.code ∧ (stackEntry k join pc mask).extractLsb' 94 30 = join ∧
      (stackEntry k join pc mask).extractLsb' 64 30 = pc ∧ (stackEntry k join pc mask).extractLsb' 0 64 = mask) ∧
    (∀ e : BitVec 128, depth + 1 < 2 ^ 16 → (s.push [e]).cur.rvdepth.toNat = depth + 1 ∧
      (depth < cap → ∀ d, s.curFate (addr depth) false true false none 16 = .go d →
        (s.push [e]).mem = (s.groupWrite d (leBytes 16 e.toNat)).mem ∧
        (s.push [e]).stage = (s.groupWrite d (leBytes 16 e.toNat)).stage ∧ (s.push [e]).cur.reserve = s.cur.reserve) ∧
      (cap ≤ depth → (s.push [e]).mem = s.mem ∧ (s.push [e]).stage = s.stage ∧
        (SMap.wf 0 s.cur.reserve = true → SMap.get 0 (s.push [e]).cur.reserve depth = e))) ∧
    (∀ (other : Mask) (k : Nat) (e : BitVec 128), s.serve = false →
      (k < cap → ∃ d, s.curFate (addr k) true false false none 16 = .go d ∧
        e = BitVec.ofNat 128 (leNat (s.readOwned s.cur.part d 16))) →
      (cap ≤ k → e = SMap.get 0 s.cur.reserve k) →
      let kind := (e.extractLsb' 124 4).toNat
      let m := lanes e &&& ~~~other
      s.popFind other 0 = .overflow ∧ (4 ≤ kind → s.popFind other (k + 1) = .overflow) ∧
      (kind < 4 → m = 0 → s.popFind other (k + 1) = s.popFind other k) ∧
      (kind < 4 → kind ≠ 2 → m ≠ 0 → s.popFind other (k + 1) = .found e m k) ∧
      (kind = 2 → m ≠ 0 → (k = 0 → s.popFind other (k + 1) = .found e m 0) ∧
        ∀ j b, k = j + 1 → s.stackRead j = .ok b → s.popFind other (k + 1) = .found e m (if lanes b = 0 then j else k))) ∧
    (Enabled s g [] → ∀ e m k, s.popFind (s.cur.otherMask s.cur.issuing) depth = .found e m k →
      ∃ t, exec (.rvpop g) s = .next t ∧ t.cur.path = ⟨true, e.extractLsb' 64 30, m, e.extractLsb' 94 30⟩ ∧
        t.cur.otherPath = s.cur.otherPath ∧ t.cur.current = s.cur.issuing ∧ t.cur.count = 0 ∧ t.mem = s.mem ∧ t.stage = s.stage ∧
        t.cur.rvdepth = BitVec.ofNat 16 k ∧ t.cur.rvcap = s.cur.rvcap ∧
        let nest := s.cur.trapc.extractLsb' 28 4
        (e.extractLsb' 124 4 ≠ 2#4 → t.cur.trapc = s.cur.trapc) ∧
        (e.extractLsb' 124 4 = 2#4 → t.cur.trapc.extractLsb' 0 28 = s.cur.trapc.extractLsb' 0 28 ∧
          t.cur.trapc.extractLsb' 28 4 = if nest = 0 then 0 else nest - 1)) ∧
    (Enabled s g [] → s.popFind (s.cur.otherMask s.cur.issuing) depth = .overflow →
      exec (.rvpop g) s = .next ((s.markFailedPop (s.cur.otherMask s.cur.issuing)).takeTrap ⟨14, 0, s.cur.rvsp, s.cur.path.mask, 1, true⟩)) ∧
    (Enabled s g [] → ∀ c x, s.popFind (s.cur.otherMask s.cur.issuing) depth = .stuck (.trap c) x →
      exec (.rvpop g) s = .next ((s.markFailedPop (s.cur.otherMask s.cur.issuing)).takeTrap
        ⟨c, 0, BitVec.ofNat 64 x, s.cur.path.mask, 1, false⟩)) ∧
    (Enabled s g [a, a + 1, b, b + 1] → depth + 1 ≤ cap →
      let e := stackEntry .mark ((uvalD s a).extractLsb' 32 30) ((uvalD s a).extractLsb' 0 30) (uvalD s b)
      s.pushFate depth [e] = none → exec (.rvpush g a b) s = .next ((s.push [e]).retire 1))

/-- R37: a path at its join beside a live path of the same join ends, and the other path is current; else its slot takes the entry that
the pop rule finds, which follows the group's stores. Where both paths stand at their joins, that of slot 0 ends first. -/
def Sys2Proof.Claims.PathJoin : Prop :=
  ∀ (s : State) (sl : Bool),
    let gr := s.cur
    let p := gr.slotAt sl
    let o := gr.slotAt (!sl)
    let first := sl = false ∨ o.live = false ∨ o.pc ≠ o.join
    gr.live = true → gr.issuable = true → p.live = true → p.pc = p.join →
    (¬first → exec (.pathJoin gr.key sl) s = .next s) ∧
    (first → o.live = true → o.join = p.join → ∃ t, exec (.pathJoin gr.key sl) s = .next t ∧
      t.cur.slotAt sl = PathSlot.empty ∧ t.cur.slotAt (!sl) = o ∧ t.cur.current = (!sl) ∧
      t.cur.count = (if gr.current = sl then 0 else gr.count) ∧ t.cur.rvdepth = gr.rvdepth) ∧
    (first → ¬(o.live = true ∧ o.join = p.join) → ∀ e m k,
      (s.flushLate.setCur { s.flushLate.cur with issuing := sl }).popFind (gr.otherMask sl) gr.rvdepth.toNat = .found e m k →
      ∃ t, exec (.pathJoin gr.key sl) s = .next t ∧ t.cur.slotAt sl = ⟨true, e.extractLsb' 64 30, m, e.extractLsb' 94 30⟩ ∧
        t.cur.slotAt (!sl) = o ∧ t.cur.current = sl ∧ t.cur.count = 0)

/-- R35, R144, R145: the switch of the current path, once its quantum is used up, or with a quantum of 0 where the path stalls, for which
the event itself stands; `yield`, which makes the group the youngest; and `sleep` until now + imm. -/
def Sys2Proof.Claims.TurnsAndSleep : Prop :=
  ∀ (s : State) (g : BitVec 3) (i : BitVec 7) (w : BitVec 32),
    let gr := s.cur
    (gr.live = true → gr.issuable = true → gr.wait = .none → (gr.slotAt (!gr.current)).live = true →
      gr.quantum = 0 ∨ gr.quantum ≤ gr.count →
      exec (.pathSwitch gr.key) s = .next { s with cur := { gr with
        current := !gr.current, count := 0, quantum := (gr.pathq.extractLsb' 0 8).toNat } }) ∧
    (Enabled s g [] →
      (∃ age, (∀ x ∈ s.holders, x.age < age) ∧ exec (.yield g) s =
        .next { s.retire 1 with cur := { (s.retire 1).cur with age := age, yielded := true } }) ∧
      exec (.sleep g i) s = .next { s.retire 1 with cur := { (s.retire 1).cur with
        wait := if i.toNat = 0 then .none else .sleep (s.now + i.toNat) } } ∧
      exec (.sleepLong g w) s = .next { s.retire 2 with cur := { (s.retire 2).cur with
        wait := if w.toNat = 0 then .none else .sleep (s.now + w.toNat) } })

/-- R146: a group that is not the last of its phase to arrive waits; with the last one the phase completes, and every counted group
that waits goes on. -/
def Sys2Proof.Claims.CohortBarrier : Prop :=
  ∀ (s : State) (g : BitVec 3) (c : Cohort), Enabled s g [] → s.cur.live = true →
    s.cohorts.find? (fun x => x.key == s.cur.cohort) = some c → s.cur.key ∉ c.arrived →
    ((∃ m ∈ c.members, m ≠ s.cur.key ∧ m ∉ c.arrived) →
      exec (.bar g) s = .next { s.retire 1 with
        cur := { (s.retire 1).cur with wait := .bar }
        cohorts := s.cohorts.map fun x => if x.key = c.key then { x with arrived := x.arrived ++ [s.cur.key] } else x }) ∧
    (s.cur.key ∈ c.members → (∀ m ∈ c.members, m = s.cur.key ∨ m ∈ c.arrived) →
      ∃ t, exec (.bar g) s = .next t ∧ t.cur = (s.retire 1).cur ∧ t.mem = s.mem ∧
        ∀ x ∈ s.others, x.cohort = c.key → x.wait = .bar → x.key ∈ c.members → { x with wait := Wait.none } ∈ t.others)

/-- R41, R147: where the cohort has a free gid, the core a context, lanes and tiles, and the regions a context in their budgets, `spawn`
creates a child at the entry with eight words of the parent and sets cq; else it clears cq and creates nothing. -/
def Sys2Proof.Claims.Spawning : Prop :=
  ∀ (s : State) (g cq : BitVec 3) (a : Reg) (w : BitVec 32), Enabled s g (blockRegs a 8) → 96 ≤ a.toNat → a.toNat ≤ 120 →
    let gr := s.cur
    let room := (placeGroup s.groups gr.core gr.width gr.xwords).isSome && (freeTiles s.groups gr.core gr.tileCount).isSome &&
      s.spawnAllowed gr
    (s.freeGid gr.cohort = none ∨ room = false → exec (.spawn g cq a w) s = .next ((s.setCur (gr.setC cq false)).retire 2)) ∧
    (∀ gid, s.freeGid gr.cohort = some gid → room = true → ∃ t child, exec (.spawn g cq a w) s = .next t ∧
      t.others = s.others ++ [child] ∧ rebook t.cur gr = gr.setC cq true ∧ t.mem = s.mem ∧
      gid < 16 ∧ child.gid = BitVec.ofNat 4 gid ∧ (∀ x ∈ s.holders, x.cohort = gr.cohort → x.gid.toNat ≠ gid) ∧
      (∀ n < gid, ∃ x ∈ s.holders, x.cohort = gr.cohort ∧ x.gid.toNat = n) ∧
      child.live = true ∧ child.key = s.nextKey ∧ child.cohort = gr.cohort ∧ child.part = gr.part ∧ child.width = gr.width ∧
      child.cid = gr.cid ∧ child.prio = gr.prio ∧ child.xwords = gr.xwords ∧ child.wait = .none ∧
      child.path = ⟨true, relative s (w.extractLsb' 0 30), widthMask gr.width, 0x3FFFFFFF⟩ ∧ child.otherPath.live = false ∧
      ∀ i < 32, child.greg (BitVec.ofNat 7 (96 + i)) = if i < 8 then gr.greg (a + BitVec.ofNat 7 i) else 0)

/-- R42, R148: `role` reads the entry as it executes; a valid one that fits is applied and sets cq, one that does not fit clears cq, and
an index at or above rolecnt traps PRIV. -/
def Sys2Proof.Claims.RoleSwitch : Prop :=
  ∀ (s : State) (g cq : BitVec 3) (n : BitVec 4), Enabled s g [] → Plain s →
    let gr := s.cur
    let ia := gr.roletab + 16 * n.toNat
    (gr.rolecnt ≤ n.toNat → exec (.role g cq n) s = .next (s.takeTrap ⟨2, n.toNat, 0, gr.path.mask, 1, false⟩)) ∧
    (n.toNat < gr.rolecnt → ia % 16 = 0 → ∀ d, s.classify gr.part ia = .ok d → s.fate gr.part d false 16 = .go d →
      let e := leNat (s.readOwned gr.part d 16)
      let new := e / 2 ^ 32 % 1024
      new ≤ 928 →
      (gr.xwords < new → s.roleFits gr new = false → ReadsTo (exec (.role g cq n) s) ((s.setCur (gr.setC cq false)).retire 1)) ∧
      (new ≤ gr.xwords ∨ s.roleFits gr new = true → ∃ t, exec (.role g cq n) s = .next t ∧
        DeviceKept s { t with l2 := s.l2, hotPending := s.hotPending, moved := s.moved } ∧
        rebook t.cur gr = { (gr.setC cq true) with
          roleNone := false, roleIdx := n, prio := BitVec.ofNat 2 (e / 2 ^ 42), prioCap := BitVec.ofNat 2 (e / 2 ^ 42)
          trapv := BitVec.ofNat 30 e, xwords := new, xregs := t.cur.xregs } ∧
        ∀ l < 64, ∀ k, SMap.get 0 t.cur.xregs (xkey l k) = if k < new then SMap.get 0 gr.xregs (xkey l k) else 0))

/-- R44, R149: `exit` ends the group once its stores are performed, and frees its context; a cohort that loses its last group is gone, another counts the group no
more. -/
def Sys2Proof.Claims.GroupExit : Prop :=
  ∀ (s : State) (g : BitVec 3) (c : Cohort), Enabled s g [] → s.cur.live = true → s.cur.pushes = [] → s.cur.sections = [] →
    s.cohorts.find? (fun x => x.key == s.cur.cohort) = some c →
    ∃ t, exec (.exit g) s = .next t ∧ t.cur = Group.idle ∧ t.others.map (·.key) = s.others.map (·.key) ∧
      t.mem = s.flushLate.mem ∧ t.stage = s.flushLate.stage ∧
      ((∀ x ∈ s.others ++ s.saved, x.cohort ≠ c.key) → t.cohorts = s.cohorts.filter fun x => x.key != c.key) ∧
      ((∃ x ∈ s.others ++ s.saved, x.cohort = c.key) → s.cur.key ∉ (s.others ++ s.saved).map (·.key) →
        ∀ x ∈ t.cohorts, x.key = c.key → s.cur.key ∉ x.members ∧ s.cur.key ∉ x.arrived)

/-- R82, R150, R152: `mfc` writes a control register's value, 64 bits of a wide one; `lid` gives each lane of a v-register its own number. -/
def Sys2Proof.Claims.ControlRegisterReads : Prop :=
  ∀ (s : State) (g : BitVec 3) (d : Reg) (ctl : BitVec 7),
    (ctl ≠ 6 ∨ isV d = false → exec (.mfc g d ctl) s =
      if ctlWide ctl then uniDTo s 2 g d (s.readCtl ctl.toNat) else uniTo s 2 g d (loWord (s.readCtl ctl.toNat))) ∧
    (isV d = true → exec (.mfc g d 6) s = .next ((if s.cur.cpred g then
      s.setCur (s.cur.setV d (widthMask s.cur.width) (lanesFrom fun l => BitVec.ofNat 32 l)) else s).retire 2)) ∧
    s.readCtl 0 = s.cur.xm ∧ s.readCtl 1 = s.cur.pathq.setWidth 64 ∧ s.readCtl 2 = s.cur.rvsb ∧
    (s.readCtl 3).toNat = s.cur.rvcap.toNat * 65536 + s.cur.rvdepth.toNat ∧ s.readCtl 5 = BitVec.ofNat 64 s.now ∧
    s.readCtl 7 = s.cur.gid.setWidth 64 ∧ s.readCtl 8 = s.cur.cid.setWidth 64 ∧ s.readCtl 9 = s.cur.fsr.setWidth 64 ∧
    s.readCtl 10 = s.cur.mxc.setWidth 64 ∧ s.readCtl 11 = s.cur.prio.setWidth 64 ∧ s.readCtl 13 = s.cur.trapv.setWidth 64 ∧
    s.readCtl 14 = s.cur.trapc.setWidth 64 ∧ s.readCtl 15 = s.cur.trapa ∧ s.readCtl 16 = s.cur.trapm ∧
    s.readCtl 17 = s.cur.path.mask ∧ s.readCtl 18 = s.cur.sect.setWidth 64 ∧ s.readCtl 19 = BitVec.ofNat 64 s.cur.stgFirst ∧
    (s.readCtl 12).toNat = s.cur.roleIdx.toNat + (if s.cur.roleNone then 16 else 0) ∧
    ∃ h, s.readCtl 4 = BitVec.ofNat 64 h ∧ h ∈ s.cur.horizon.toList ∧ ∀ x ∈ s.cur.horizon.toList, x ≤ h

/-- R82, R151: `mtc` writes the bits a control register has, and reading it back gives them; reserved bits stay 0, a class above the
group's own is written as that class, and no other control register of the list changes. -/
def Sys2Proof.Claims.ControlRegisterWrites : Prop :=
  ∀ (s : State) (g : BitVec 3) (a : Reg) (ctl : BitVec 7), Enabled s g (if ctlWide ctl then [a, a + 1] else [a]) →
    ∀ m, (ctl.toNat, m) ∈ [(0, widthMask s.cur.width), (1, 0xFF#64), (2, 0xFFFFFFFFFFFFFFF0#64), (9, 0x1F1F#64), (10, 0xFFFFFFFF#64),
        (13, 0x3FFFFFFF#64), (14, 0xF003FFFF#64), (15, 0xFFFFFFFFFFFFFFFF#64), (16, widthMask s.cur.width), (18, 0xFFFFF#64)] →
      let x : DWord := if ctlWide ctl then uvalD s a else (uval s a).setWidth 64
      ∃ gr, exec (.mtc g ctl a) s = .next ((s.setCur gr).retire 2) ∧ (s.setCur gr).readCtl ctl.toNat = x &&& m ∧
        (∀ n ∈ [0, 1, 2, 3, 9, 10, 11, 12, 13, 14, 15, 16, 17, 18], n ≠ ctl.toNat → (s.setCur gr).readCtl n = s.readCtl n) ∧
        gr.v = s.cur.v ∧ gr.g = s.cur.g ∧ gr.p = s.cur.p ∧ gr.c = s.cur.c ∧ gr.s0 = s.cur.s0 ∧ gr.s1 = s.cur.s1

/-- R39, R40, R151, R153: `mtc prio` is held to the group's class; `mtc rvsp` writes cap and depth while nothing is held above cap, and
traps RVSTACK-OVF on a depth above cap; `xmset` rewrites `xm` for the issuing path's lanes. -/
def Sys2Proof.Claims.StackAndMaskRegisters : Prop :=
  ∀ (s : State) (g pa : BitVec 3) (a : Reg),
    (Enabled s g [a] → exec (.mtc g 11 a) s = .next ((s.setCur { s.cur with
      prio := if (uval s a).toNat % 4 ≤ s.cur.prioCap.toNat then BitVec.ofNat 2 (uval s a).toNat else s.cur.prioCap }).retire 2)) ∧
    (Enabled s g [a, a + 1] →
      let cap := (uvalD s a).toNat / 65536 % 65536
      let depth := (uvalD s a).toNat % 65536
      (depth ≤ cap → s.cur.rvdepth.toNat ≤ s.cur.rvcap.toNat → ∃ r, exec (.mtcRvsp g a) s = .next ((s.setCur { s.cur with
        rvcap := BitVec.ofNat 16 cap, rvdepth := BitVec.ofNat 16 depth, reserve := r }).retire 2)) ∧
      (cap < depth → depth ≠ s.cur.rvdepth.toNat ∨ cap < s.cur.rvcap.toNat →
        exec (.mtcRvsp g a) s = .next (s.takeTrap ⟨14, 0, s.cur.rvsp, s.cur.path.mask, 2, true⟩))) ∧
    (Enabled s g [] → ∃ xm, exec (.xmset g pa) s = .next ((s.setCur { s.cur with xm := xm }).retire 2) ∧ ∀ l < 64,
      xm.getLsbD l = if s.cur.path.mask.getLsbD l then (s.cur.pred pa).getLsbD l else s.cur.xm.getLsbD l)

/-- R216 to R221: taking a trap pushes the companion JOIN and the TRAP entry, records cause, info, len, replay, address and lanes, raises
the nesting count, and the trapping lanes go on at `trapv`. -/
def Sys2Proof.Claims.TrapEntry : Prop :=
  ∀ (s : State) (cause info len : Nat) (addr : DWord) (lanes : Mask) (replay : Bool), TrapRoom s → len = 1 ∨ len = 2 →
    Trapped s cause info addr lanes len replay (s.takeTrap ⟨cause, info, addr, lanes, len, replay⟩)

/-- R222: a group that can take no trap dies: a DEATH record with the trap's cause is queued, and its context is free. -/
def Sys2Proof.Claims.TrapDeath : Prop :=
  ∀ (s : State) (t : TrapInfo), s.cur.trapc.extractLsb' 28 4 = 15 ∨ s.cur.rvcap.toNat + 2 ≤ s.cur.rvdepth.toNat + 1 →
    s.cur.sections = [] → s.cur.pushes = [] →
    let u := s.takeTrap t
    u.cur = Group.idle ∧ u.mem = s.flushLate.mem ∧ u.stage = s.flushLate.stage ∧
      ∃ bits, u.faults = s.faults ++ [⟨s.cur.part, s.cur.faultdom, bits, none⟩] ∧
        bits.extractLsb' 0 8 = 1#8 ∧ bits.extractLsb' 8 8 = BitVec.ofNat 8 t.cause

/-- R98, R154, R218: `trap`, `brk` and an illegal pattern take their traps at the instruction: causes 17, 16 and 1, n in info, the words of
an illegal pattern in `trapa`; a lane-set pattern traps the effective lanes and has no effect where there are none. -/
def Sys2Proof.Claims.TrapInstructions : Prop :=
  ∀ (s : State) (g : BitVec 3) (n : BitVec 7) (w0 w1 : BitVec 32), TrapRoom s →
    let len := if w0.getLsbD 30 then 2 else 1
    let words : DWord := (if w0.getLsbD 30 then w1 else 0#32) ++ w0
    (s.cur.cpred g = true → ∃ t, exec (.trap g n) s = .next t ∧ Trapped s 17 n.toNat 0 s.cur.path.mask 2 false t) ∧
    (s.cur.cpred g = true → s.debugOn = false ∨ s.haltBrk = false →
      ∃ t, exec (.brk g n) s = .next t ∧ Trapped s 16 n.toNat 0 s.cur.path.mask 2 false t) ∧
    (w0.getLsbD 31 = true →
      ∃ t, exec (.illegalPattern w0 w1) s = .next t ∧ Trapped s 1 0 words s.cur.path.mask len false t) ∧
    (w0.getLsbD 31 = false → s.cur.emask ≠ 0 →
      ∃ t, exec (.illegalPattern w0 w1) s = .next t ∧ Trapped s 1 0 words s.cur.emask len false t) ∧
    (w0.getLsbD 31 = false → s.cur.emask = 0 → exec (.illegalPattern w0 w1) s = .next (s.retire len))

/-- R100, R175, R219: a fetch fault traps the whole path, to replay, without issuing; a trap that waited for its stack page is entered. -/
def Sys2Proof.Claims.TrapEvents : Prop :=
  ∀ (s : State) (fatal second : Bool) (addr : DWord), TrapRoom s → s.cur.live = true →
    (s.cur.issuable = true → ∃ t, exec (.fetchFault s.cur.key fatal second addr) s = .next t ∧
      Trapped s (if fatal then 5 else 4) 0 addr s.cur.path.mask (if second then 2 else 1) true t) ∧
    (∀ i : TrapInfo, s.cur.pendingTrap = some i → i.len = 1 ∨ i.len = 2 → ∃ t, exec (.trapEntry s.cur.key) s = .next t ∧
      Trapped s i.cause i.info i.addr i.lanes i.len i.replay t)

/-- R155: `sys` sends g8 to g15 to Carillon once every observer sees the group's writes, whatever its store streams have still to write, which
is the model's choice (R155 beside R157; log 36, DESIGN CHOICE), and the group waits; the reply's words go into g8 to g15 and the group goes on. -/
def Sys2Proof.Claims.ServiceRequests : Prop :=
  ∀ (s : State) (g : BitVec 3) (n : BitVec 7),
    (Enabled s g sysRegs → s.reached s.cur.horizon allObs = true →
      ∃ args : Vector Word 16, (∀ i < 16, args.toList.getD i 0 = if i < 8 then s.cur.greg (BitVec.ofNat 7 (104 + i)) else 0) ∧
        exec (.sys g n) s = .next { s.retire 2 with
          cur := { (s.retire 2).cur with wait := .sys s.nextKey }, nextKey := s.nextKey + 1
          requests := s.requests ++ [⟨s.nextKey, .sys s.cur.key, n.toNat, s.cur.part, 0, true, false, args, none⟩] }) ∧
    (∀ id r ws time, s.cur.live = true → s.cur.wait = .sys id → s.requests.find? (fun x => x.id == id) = some r →
      r.reply = some (ws, time) → time ≤ s.now → ∃ t, exec (.sysReply s.cur.key) s = .next t ∧ t.cur.wait = .none ∧
        t.requests = s.requests.filter (fun x => x.id != id) ∧ t.cur.path = s.cur.path ∧ t.mem = s.mem ∧
        (∀ i < 8, t.cur.greg (BitVec.ofNat 7 (104 + i)) = ws.toList.getD i 0) ∧
        ∀ r : Reg, 96 ≤ r.toNat → r.toNat < 104 ∨ 112 ≤ r.toNat → t.cur.greg r = s.cur.greg r)

/-- R99, R181: every pattern of the hint space decodes, and no more happens than that the instruction retires, by its length and
whatever its fields: `nop`, `prefc` and the hints with no meaning alike; a prefetch only retires too. -/
def Obligations.Hints : Prop :=
  ∀ (s : State) (g : BitVec 3) (w0 w1 : Word) (mem : MemAddr) (off : BitVec 20) (x y z : BitVec 7),
    (exec (.nop g x y z none) s = .next (s.retire 1) ∧ exec (.nop g x y z (some w1)) s = .next (s.retire 2) ∧
      exec (.prefc g x y none) s = .next (s.retire 1) ∧ exec (.prefc g x y (some w1)) s = .next (s.retire 2)) ∧
    (w0.getLsbD 31 = true → w0.extractLsb' 24 6 = 0x1F → ∃ i, decode w0 w1 = .ok i ∧
      exec i s = .next (s.retire (if w0.getLsbD 30 then 2 else 1)) ∧
      ((∃ g d a b x, i = .nop g d a b x) ∨ ∃ g d a x, i = .prefc g d a x)) ∧
    decode 0x9FE00000 0 = .ok (.nop 7 0 0 0 none) ∧ decode 0x7BE01102 0 = .ok (.pref 7 (.idx 2 2 2) 0) ∧
    (Ready s (memRegs mem) → exec (.pref g mem off) s = .next (s.retire 2))

/-- R156, R299: `glaunch` reads the 128-byte entry at its address and queues it, setting cq; a full queue clears cq. -/
def Sys2Proof.Claims.LaunchSubmission : Prop :=
  ∀ (s : State) (g cq : BitVec 3) (a : Reg) (d : Dest), Enabled s g [a, a + 1] → Plain s →
    let va := (uvalD s a).toNat
    va % 128 = 0 → s.curFate va true false false none 128 = .go d →
    (64 ≤ s.queueLength s.cur.part → ReadsTo (exec (.glaunch g cq a) s) ((s.setCur (s.cur.setC cq false)).retire 1)) ∧
    (s.queueLength s.cur.part < 64 → ∃ t l, exec (.glaunch g cq a) s = .next t ∧ t.launches = s.launches ++ [l] ∧
      rebook t.cur s.cur = s.cur.setC cq true ∧ t.mem = s.mem ∧ l.key = s.nextKey ∧ l.part = s.cur.part ∧ l.queued = true ∧
      l.addr = BitVec.ofNat 64 (iaAt s.cur.ranges va) ∧ l.eligible = true ∧ l.nextCid = 0 ∧ l.entry = BitVec.ofNat 1024 (leNat (s.readOwned s.cur.part d 128)))

/-- R201, R202: a byte of memory or of the Stage that a store of bytes writes reads back, every other byte stays, and the canonical form
is kept. -/
def Obligations.MemoryBytes : Prop :=
  ∀ (s : State) (part b writer : Nat) (bs : List Byte), Memory.wf s.mem = true → Memory.wf s.stage = true →
    (let t := s.writeDest part (.stage b) bs writer
     Memory.wf t.stage = true ∧ t.mem = s.mem ∧ t.readOwned part (.stage b) bs.length = bs ∧
      ∀ a, SMap.get 0 t.stage a = if b ≤ a ∧ a < b + bs.length then bs.getD (a - b) 0 else SMap.get 0 s.stage a) ∧
    (∀ pa wp home size leaf, s.walk part b = .resident pa wp home size leaf →
      let t := s.writeDest part (.paged b) bs writer
      Memory.wf t.mem = true ∧ t.stage = s.stage ∧
        ∀ a, SMap.get 0 t.mem a = if pa ≤ a ∧ a < pa + bs.length then bs.getD (a - pa) 0 else SMap.get 0 s.mem a)

/-- R83, R161: the address a memory operand forms: a virtual address modulo 2^64, or the exact offset in the Stage share, where a base
is its low register alone. -/
def Sys2Proof.Claims.OperandAddresses : Prop :=
  ∀ (gr : Group) (sc : BitVec 2) (k : BitVec 4) (r : Reg) (off : Int) (l : Nat),
    let lo := (gr.greg (BitVec.ofNat 7 (96 + 2 * k.toNat))).toNat
    let hi := (gr.greg (BitVec.ofNat 7 (97 + 2 * k.toNat))).toNat
    let idx := (lane (gr.src r) l).toNat * 2 ^ sc.toNat
    gr.addrOf (.idx sc k r) off false l = ((lo + hi * 2 ^ 32 + idx : Nat) + off) % 2 ^ 64 ∧
    gr.addrOf (.base k) off false l = ((lo + hi * 2 ^ 32 : Nat) + off) % 2 ^ 64 ∧
    gr.addrOf (.lanes r) off false l =
      (((lane (gr.src r) l).toNat + (lane (gr.src (r + 1)) l).toNat * 2 ^ 32 : Nat) + off) % 2 ^ 64 ∧
    gr.addrOf (.idx sc k r) off true l = (lo + idx : Nat) + off ∧ gr.addrOf (.base k) off true l = lo + off

/-- R176, R177, R183: a lane load whose lanes go reads each acting lane's bytes and extends them into its registers; nothing else
changes but what the L2 holds. -/
def Sys2Proof.Claims.LaneLoads : Prop :=
  ∀ (s : State) (g : BitVec 3) (d : Reg) (mem : MemAddr) (obs : BitVec 6) (order : Order) (stage : Bool) (z : Size) (off : BitVec 20)
    (dst : Nat → Dest), Ready s (memRegs mem) → Plain s → d.toNat + sizeRegs z ≤ 96 →
    let m := s.cur.acting g
    LanesGo s m stage (s.cur.addrOf mem off.toInt stage) z.bytes true false none order obs dst →
    ∃ v, ReadsTo (exec (.ld g d mem obs order stage z off) s) ((s.setCur { s.cur with v := v }).retire 2) ∧ ∀ r : Reg, ∀ l < 64,
      lane ({ s.cur with v := v }.vreg r) l =
        if m.getLsbD l = true ∧ d.toNat ≤ r.toNat ∧ r.toNat < d.toNat + sizeRegs z then
          loadedWord z (leNat (s.readOwned s.cur.part (dst l) z.bytes)) (r.toNat - d.toNat)
        else lane (s.cur.vreg r) l

/-- R176, R177: a lane store whose lanes go writes each acting lane's bytes, in ascending lane order, and changes nothing but memory, its
completion times and the group's horizons. -/
def Sys2Proof.Claims.LaneStores : Prop :=
  ∀ (s : State) (g : BitVec 3) (d : Reg) (mem : MemAddr) (obs : BitVec 6) (order : Order) (stage : Bool) (z : Size) (off : BitVec 20)
    (dst : Nat → Dest), Ready s (memRegs mem ++ blockRegs d (sizeRegs z)) → Plain s →
    let m := s.cur.acting g
    LanesGo s m stage (s.cur.addrOf mem off.toInt stage) z.bytes false true none order obs dst →
    exec (.st g d mem obs order stage z off) s = .next (((lanesOf m).foldl (fun t l =>
      t.groupWrite (dst l) (storedBytes z fun j => val s (d + BitVec.ofNat 7 j) l)) s).retire 2)

/-- R176, R178: uniform loads and stores whose access goes: one access at the leader's address; a load's words go into every lane of
a v-register. -/
def Sys2Proof.Claims.UniformLoadsAndStores : Prop :=
  ∀ (s : State) (g : BitVec 3) (d : Reg) (mem : MemAddr) (obs : BitVec 6) (order : Order) (stage : Bool) (z : Size) (off : BitVec 20)
    (x : Dest), Enabled s g (memRegs mem ++ blockRegs d (sizeRegs z)) → Plain s →
    let a := s.cur.addrOf mem off.toInt stage s.cur.leader
    s.orderWaits order obs [(x, z.bytes)] = false →
    (s.accessFate stage a z.bytes true false none = .go x → ReadsTo (exec (.gld g d mem obs order stage z off) s)
      ((s.setCur ((List.range (sizeRegs z)).foldl (fun gr j => gr.setU (d + BitVec.ofNat 7 j)
        (loadedWord z (leNat (s.readOwned s.cur.part x z.bytes)) j)) s.cur)).retire 2)) ∧
    (s.accessFate stage a z.bytes false true none = .go x → exec (.gst g d mem obs order stage z off) s =
      .next ((s.groupWrite x (storedBytes z fun j => uval s (d + BitVec.ofNat 7 j))).retire 2))

/-- R179, R180: an atomic reads its location, leaves the operation's result there and puts the value read into d: `atom` for each acting
lane in ascending order, `gatom` once for the group. -/
def Obligations.Atomics : Prop :=
  ∀ (s : State) (g : BitVec 3) (d : Reg) (mem : MemAddr) (obs : BitVec 6) (order : Order) (stage dbl : Bool) (op : AtomOp)
    (off : BitVec 16) (dst : Nat → Dest) (x : Dest), Plain s →
    let n := if dbl then 8 else 4
    let m := s.cur.acting g
    let reg := fun j : Nat => d + BitVec.ofNat 7 j
    (Ready s (memRegs mem) → LanesGo s m stage (s.cur.addrOf mem off.toInt stage) n true true (some op) order obs dst →
      exec (.atom g d mem obs order stage dbl op off) s = .next (((lanesOf m).foldl (fun t l =>
        atomStep op dbl (dst l) (fun j => val t (reg j) l)
          (fun gr j w => gr.setV (reg j) (1#64 <<< l) (lanesFrom fun _ => w)) t) s).retire 2)) ∧
    (Enabled s g (memRegs mem ++ atomRegs op dbl d) → s.orderWaits order obs [(x, n)] = false →
      s.accessFate stage (s.cur.addrOf mem off.toInt stage s.cur.leader) n true true (some op) = .go x →
      exec (.gatom g d mem obs order stage dbl op off) s =
        .next ((atomStep op dbl x (fun j => uval s (reg j)) (fun gr j w => gr.setU (reg j) w) s).retire 2))

/-- How a uniform access that does not go ends (R173, R178): it traps, waits for presence, or parks the group with its page reported. -/
def Sys2Proof.Claims.UniformStops (s : State) (a : Int) (f : Fate) (o : Out) : Prop :=
  (∀ c, f = .trap c → o = .next (s.takeTrap ⟨c, 0, BitVec.ofInt 64 a, s.cur.path.mask, 2, false⟩)) ∧
  (f = .absent → o = .next { s with cur := { s.cur with wait := .again .presence } }) ∧
  (∀ ia, f = .replay ia → ∃ t, o = .next t ∧ t.cur.wait = .parked [ia] ∧ t.cur.unfinished = some s.cur.path.mask ∧ t.mem = s.mem ∧
    t.stage = s.stage ∧ t.cur.path = s.cur.path ∧
    (s.walk s.cur.part ia ≠ .moving → OutMsg.pageFault s.cur.part ia ∈ t.out))

/-- How a lane access ends whose lanes do not all go (R173): u is the state once the lanes that go have acted; while a lane waits for a
page the group parks with every lane that has not acted unfinished, and else the lanes that fail trap together with the cause and the
address of the lowest. -/
def Sys2Proof.Claims.LanesEnd (s u : State) (m : Mask) (addr : Nat → Int) (fate : Nat → Fate) (o : Out) : Prop :=
  ∀ wait bad : Mask, (∀ l < 64, wait.getLsbD l = true ↔ m.getLsbD l = true ∧ ∃ ia, fate l = .replay ia) →
    (∀ l < 64, bad.getLsbD l = true ↔ m.getLsbD l = true ∧ ∃ c, fate l = .trap c) →
    (wait ≠ 0 → ∃ t pages, o = .next t ∧ t.cur.wait = .parked pages ∧
      (∀ ia, ia ∈ pages ↔ ∃ l < 64, m.getLsbD l = true ∧ fate l = .replay ia) ∧ t.cur.unfinished = some (wait ||| bad) ∧ t.mem = u.mem ∧
      t.stage = u.stage ∧ t.cur.v = u.cur.v ∧ t.cur.path = s.cur.path ∧
      ∀ l < 64, ∀ ia, m.getLsbD l = true → fate l = .replay ia → u.walk s.cur.part ia ≠ .moving →
        OutMsg.pageFault s.cur.part ia ∈ t.out) ∧
    (wait = 0 → bad ≠ 0 → ∀ c, fate (lowestLane bad) = .trap c →
      o = .next (u.takeTrap ⟨c, 0, BitVec.ofInt 64 (addr (lowestLane bad)), bad, 2, false⟩))

/-- R161, R167, R173, R176: the checks of one access, in order: a misaligned address traps ALIGN; an access beyond the share traps
STAGE-RANGE; a virtual address that no valid range entry holds, or whose first one lacks the kind's permission, traps PERM. -/
def Sys2Proof.Claims.AccessFates : Prop :=
  ∀ (s : State) (stage rd wr : Bool) (a : Int) (n : Nat) (atom : Option AtomOp),
    let fate := s.accessFate stage a n rd wr atom
    let holds := fun e : RangeEnt => e.valid = true ∧ e.vbase ≤ a.toNat ∧ a.toNat < e.vbase + e.len * 65536
    (a % n ≠ 0 → fate = .trap 3) ∧
    (a % n = 0 → stage = true → a < 0 ∨ 2 ^ 32 < a + n ∨ s.cur.stgLines * 128 < a + n → fate = .trap 6) ∧
    (a % n = 0 → stage = false → (∀ e ∈ s.cur.ranges, ¬holds e) → fate = .trap 4) ∧
    (a % n = 0 → stage = false → ∀ before e after, s.cur.ranges = before ++ e :: after → (∀ x ∈ before, ¬holds x) → holds e →
      (rd = true ∧ e.r = false) ∨ (wr = true ∧ e.w = false) → fate = .trap 4)

/-- R173, R177, R178, R180: uniform loads, stores and atomics whose access does not go stop the whole group; in the lane forms every acting
lane whose access goes acts, and the others park the group or trap. -/
def Sys2Proof.Claims.AccessChecks : Prop :=
  ∀ (s : State) (g : BitVec 3) (d : Reg) (mem : MemAddr) (obs : BitVec 6) (order : Order) (stage dbl : Bool) (z : Size) (op : AtomOp)
    (off : BitVec 20) (o16 : BitVec 16),
    let addr := s.cur.addrOf mem off.toInt stage
    let addr16 := s.cur.addrOf mem o16.toInt stage
    let k := if dbl then 8 else 4
    let m := s.cur.acting g
    let goes := fun fate : Nat → Fate => maskOf fun l => m.getLsbD l && (fate l).goes
    let settled := fun (fate : Nat → Fate) (n : Nat) => m ≠ 0 ∧ (∀ l < 64, m.getLsbD l = true → fate l ≠ .absent) ∧
      s.orderWaits order obs ((lanesOf (goes fate)).map fun l => ((fate l).dest, n)) = false
    let fld := fun l => s.accessFate stage (addr l) z.bytes true false none
    let fst := fun l => s.accessFate stage (addr l) z.bytes false true none
    let fat := fun l => s.accessFate stage (addr16 l) k true true (some op)
    let reg := fun j : Nat => d + BitVec.ofNat 7 j
    (Enabled s g (memRegs mem) →
      UniformStops s (addr s.cur.leader) (fld s.cur.leader) (exec (.gld g d mem obs order stage z off) s)) ∧
    (Enabled s g (memRegs mem ++ blockRegs d (sizeRegs z)) →
      UniformStops s (addr s.cur.leader) (fst s.cur.leader) (exec (.gst g d mem obs order stage z off) s)) ∧
    (Enabled s g (memRegs mem ++ atomRegs op dbl d) →
      UniformStops s (addr16 s.cur.leader) (fat s.cur.leader) (exec (.gatom g d mem obs order stage dbl op o16) s)) ∧
    (Plain s → Ready s (memRegs mem ++ blockRegs d (sizeRegs z)) →
      (d.toNat + sizeRegs z ≤ 96 → settled fld z.bytes → ∃ v u, SameButL2 u (s.setCur { s.cur with v := v }) ∧
        (∀ r : Reg, ∀ l < 64, lane ({ s.cur with v := v }.vreg r) l =
          if (goes fld).getLsbD l = true ∧ d.toNat ≤ r.toNat ∧ r.toNat < d.toNat + sizeRegs z then
            loadedWord z (leNat (s.readOwned s.cur.part (fld l).dest z.bytes)) (r.toNat - d.toNat)
          else lane (s.cur.vreg r) l) ∧
        LanesEnd s u m addr fld (exec (.ld g d mem obs order stage z off) s)) ∧
      (settled fst z.bytes → LanesEnd s ((lanesOf (goes fst)).foldl (fun t l =>
        t.groupWrite (fst l).dest (storedBytes z fun j => val s (reg j) l)) s) m addr fst
        (exec (.st g d mem obs order stage z off) s))) ∧
    (Plain s → Ready s (memRegs mem) → settled fat k → LanesEnd s ((lanesOf (goes fat)).foldl (fun t l =>
        atomStep op dbl (fat l).dest (fun j => val t (reg j) l)
          (fun gr j w => gr.setV (reg j) (1#64 <<< l) (lanesFrom fun _ => w)) t) s) m addr16 fat
      (exec (.atom g d mem obs order stage dbl op o16) s))

/-- R184: `fence` retires once the group's pushes are performed and now has reached the horizon of every named observer, and waits till then. -/
def Sys2Proof.Claims.Fence : Prop :=
  ∀ (s : State) (g : BitVec 3) (obs : BitVec 6), s.cur.cpred g = true →
    (s.cur.pushesLeft = false → (∀ o < 6, obs.getLsbD o = true → s.cur.horizon.toList.getD o 0 ≤ s.now) →
      exec (.fence g obs) s = .next (s.retire 2)) ∧
    (s.cur.pushesLeft = true ∨ (∃ o < 6, obs.getLsbD o = true ∧ s.now < s.cur.horizon.toList.getD o 0) →
      exec (.fence g obs) s = .next { s with cur := { s.cur with wait := .again .order } })

/-- R182, R201: a store of the group is performed at the owning point, and its completion times join the group's horizons: each is the
later of its value before and T(o) of the store, which is at least now. -/
def Sys2Proof.Claims.StoreHorizons : Prop :=
  ∀ (s : State) (d : Dest) (bs : List Byte) (o : Nat), o < 6 →
    let t := s.groupWrite d bs
    t.cur.horizon.toList.getD o 0 = max (s.cur.horizon.toList.getD o 0) ((s.writeTimes d).toList.getD o 0) ∧
    s.now ≤ (s.writeTimes d).toList.getD o 0 ∧ t.mem = (s.writeDest s.cur.part d bs s.cur.key).mem ∧
    (∀ r ∈ s.replicas, ∀ ia, d = .paged ia → r.line = ia / 128 → r.holder = holderOf (Obs.all.getD o .c) →
      r.expiry ≤ t.cur.horizon.toList.getD o 0) ∧
    { t.cur with horizon := s.cur.horizon } = s.cur

/-- R168 to R170: what a page walk makes of the entry at a level of its table. An entry in absent or poisoned memory is fatal. Kind 0 is
not resident; kind 1 is a table, followed below level 3; kind 2 is a leaf, at level 1 to 3 and aligned to its page, whose physical address
is its frame and the offset in the page, migrating in state 1 and fatal in states 2 and 3; kind 3 is fatal. An entry that names absent
memory or whose tier bit disagrees is fatal. That kind 0 replays and a table is followed whatever the state field holds is the model's
choice (log 36, DESIGN CHOICE). -/
def Obligations.PageWalk : Prop :=
  ∀ (s : State) (ia fuel level table : Nat),
    let index := if level = 0 then ia / 2 ^ 39 else if level = 1 then ia / 2 ^ 30 % 512 else if level = 2 then ia / 2 ^ 21 % 512
      else ia / 2 ^ 16 % 32
    let ea := table + 16 * index
    let e := leNat (readBytes s.mem ea 16)
    let frame := e / 2 ^ 48 % 2 ^ 29 * 65536
    let size := if level = 1 then 2 ^ 30 else if level = 2 then 2 ^ 21 else 2 ^ 16
    let named := physPresent frame = true ∧ (e / 2 ^ 5 % 2 = 1 ↔ physTier frame = true)
    let leafOk := level ≠ 0 ∧ frame % size = 0 ∧ named ∧ physPresent (frame + ia % size) = true
    let walks := fun w : Walk => s.walkFrom ia (fuel + 1) level table = w
    (∀ part p, s.part? part = some p → s.walk part ia = s.walkFrom ia 4 0 p.root) ∧
    (physPresent ea = false ∨ s.poisoned false (ea / 128) = true → walks .fatal) ∧
    (physPresent ea = true → s.poisoned false (ea / 128) = false →
      (e / 2 % 4 = 0 → walks .replay) ∧ (e / 2 % 4 = 3 → walks .fatal) ∧
      (e / 2 % 4 = 1 → level = 3 ∨ ¬named → walks .fatal) ∧
      (e / 2 % 4 = 1 → level ≠ 3 → named → walks (s.walkFrom ia fuel (level + 1) frame)) ∧
      (e / 2 % 4 = 2 → ¬leafOk ∨ 2 ≤ e / 2 ^ 6 % 4 → walks .fatal) ∧
      (e / 2 % 4 = 2 → leafOk → e / 2 ^ 6 % 4 = 1 → walks .moving) ∧
      (e / 2 % 4 = 2 → leafOk → e / 2 ^ 6 % 4 = 0 →
        walks (.resident (frame + ia % size) (decide (e / 2 ^ 4 % 2 = 1)) (e / 2 ^ 96 % 64) size ea)))

/-- R231, R232, R236: `tcfg` gives a tile a valid configuration and zeros its data, and traps MATRIX-BOUND on another; `tzero` zeros the data;
no other tile changes. -/
def Sys2Proof.Claims.TileConfiguration : Prop :=
  ∀ (s : State) (g : BitVec 3) (t : BitVec 6) (b : Reg) (w : BitVec 32), TilesReady s g [t.toNat] [b] → SMap.wf 0 s.tileCfg = true →
    let k := s.cur.tile t.toNat
    let leaves := fun (o : Out) (len : Nat) (cfg : Word) => ∃ u, o = .next u ∧ TilesOnly s u ∧ OtherTilesKept s u k ∧
      SMap.get 0 u.tileCfg k = cfg ∧ (∀ i < 4096, SMap.get 0 u.tiles (k * 4096 + i) = 0) ∧ u.cur = (s.retire len).cur
    (ValidCfg (uval s b) → leaves (exec (.tcfg g t b) s) 1 (uval s b &&& 0xFFFFF)) ∧
    (ValidCfg w → leaves (exec (.tcfgImm g t w) s) 2 (w &&& 0xFFFFF)) ∧
    (¬ValidCfg (uval s b) → exec (.tcfg g t b) s = .next (s.takeTrap ⟨7, 0, 0, s.cur.path.mask, 1, true⟩)) ∧
    (¬ValidCfg w → exec (.tcfgImm g t w) s = .next (s.takeTrap ⟨7, 0, 0, s.cur.path.mask, 2, true⟩)) ∧
    leaves (exec (.tzero g t) s) 1 (SMap.get 0 s.tileCfg k)

/-- R98, R231: a tile operand at or above the group's allotment is ILL whatever the guard, with the instruction's words in `trapa`: each tile that
an instruction names, which for the per-octet forms are those of every octet of the width. So is a C tile that is also an A or B tile of the
same product (R241). That an `mmx` names tiles b to b + 5 also in a group that does not supply B is the model's choice (log 36). -/
def Sys2Proof.Claims.TileAllotment : Prop :=
  ∀ (s : State) (g : BitVec 3) (t ta tb : BitVec 6) (d a b c gx : Reg) (w : BitVec 32) (k : BitVec 4) (obs : BitVec 6) (order : Order)
    (stage : Bool) (off : BitVec 20) (dst : Fmt) (rnd : Rnd) (z : Bool) (i : Instr),
    let n := s.cur.tileCount
    let q := s.cur.width / 8
    let beyond := fun (x : BitVec 6) (run : Nat) => 0 < run ∧ n < x.toNat + run
    let octets := match i with | .mmx _ _ _ _ _ _ _ => 24 | _ => q
    let meets := fun (x : BitVec 6) (run : Nat) => ∃ o < octets, ∃ j < run, t.toNat + o = x.toNat + j
    let ill := fun len : Nat => exec i s = .next (s.takeTrap ⟨1, 0, i.trapWords, s.cur.path.mask, len, false⟩)
    (n ≤ t.toNat → i ∈ [.tcfg g t b, .tzero g t] → ill 1) ∧
    (n ≤ t.toNat → i ∈ [.tcfgImm g t w, .tmvV g d t b, .tmvT g t a b, .tld g t k b obs order stage off,
      .tsv g t k b obs order stage off] → ill 2) ∧
    (n ≤ t.toNat ∨ n ≤ ta.toNat → i ∈ [.tcvt g t ta dst rnd, .quant g t ta c rnd] → ill 2) ∧
    (beyond t q ∨ beyond ta q ∨ n ≤ tb.toNat ∨ meets ta q ∨ meets tb 1 → i = .mma g t ta tb c rnd z → ill 2) ∧
    (beyond t q ∨ n ≤ ta.toNat ∨ beyond tb q ∨ meets ta 1 ∨ meets tb q → i = .mmat g t ta tb c rnd z → ill 2) ∧
    (beyond t q ∨ beyond ta q ∨ beyond tb q ∨ meets ta q ∨ meets tb q → i = .mmag g t ta tb c gx rnd z → ill 2) ∧
    (beyond t 24 ∨ beyond ta 4 ∨ beyond tb 6 ∨ meets ta 4 ∨ meets tb 6 → i = .mmx g t ta tb c rnd z → ill 2)

/-- R50, R232: writing one element of a tile of a valid configuration writes its code and leaves every other element of the tile. -/
def Sys2Proof.Claims.TileElements : Prop :=
  ∀ (s : State) (k r c code : Nat) (w : Word), ValidCfg w → Memory.wf s.tiles = true →
    let cfg := TileCfg.ofWord w
    r < cfg.rows → c < cfg.cols →
    let t := s.setTileElem k cfg r c code
    Memory.wf t.tiles = true ∧ OtherTilesKept s t k ∧ ∀ i < cfg.rows, ∀ j < cfg.cols,
      t.tileElem k cfg i j = if i = r ∧ j = c then code % 2 ^ cfg.fmt.width else s.tileElem k cfg i j

/-- R238, R239: `tmv.v` reads a run of a row into the effective lanes, zero past the last column; `tmv.t` writes the run from the
effective lanes; `tcvt` makes a tile of another format whose elements are the conversions. -/
def Sys2Proof.Claims.TileMoves : Prop :=
  ∀ (s : State) (g : BitVec 3) (t ta : BitVec 6) (d a b : Reg) (dst : Fmt) (rnd : Rnd), Memory.wf s.tiles = true →
    SMap.wf 0 s.tileCfg = true → TilesReady s g [t.toNat, ta.toNat] [a, b] →
    let ka := s.cur.tile ta.toNat
    let k := s.cur.tile t.toNat
    let ca := s.tileCfgOf ka
    let c := s.tileCfgOf k
    let r := (uval s b).toNat % 64
    let c0 := (uval s b).toNat / 65536 % 1024
    (uval s b &&& 0xFC00FFC0 = 0 → r < ca.rows → c0 < ca.cols → exec (.tmvV g d ta b) s =
      .next ((s.setCur (s.cur.setV d s.cur.emask (lanesFrom fun l =>
        if c0 + l < ca.cols then tileLane ca.fmt (s.tileElem ka ca r (c0 + l)) else 0))).retire 2)) ∧
    (uval s b &&& 0xFC00FFC0 = 0 → r < c.rows → c0 < c.cols → ValidCfg (SMap.get 0 s.tileCfg k) →
      ∃ u, exec (.tmvT g t a b) s = .next u ∧ TilesOnly s u ∧ OtherTilesKept s u k ∧ u.tileCfg = s.tileCfg ∧
        ∀ i < c.rows, ∀ j < c.cols, u.tileElem k c i j =
          if i = r ∧ c0 ≤ j ∧ s.cur.emask.getLsbD (j - c0) = true then (val s a (j - c0)).toNat % 2 ^ c.fmt.width
          else s.tileElem k c i j) ∧
    (let cd : TileCfg := ⟨dst, ca.rows, ca.cols⟩
     let conv := fun i j => cvtOp dst ca.fmt rnd false (ca.fmt.laneForm (s.tileElem ka ca i j))
     ValidCfg cd.toWord → dst.code.toNat ≤ 10 → ca.rows ≤ 32 → ca.cols ≤ 512 →
      ∃ u fl, exec (.tcvt g t ta dst rnd) s = .next u ∧ TilesOnly s u ∧ OtherTilesKept s u k ∧
        SMap.get 0 u.tileCfg k = cd.toWord ∧ u.cur = (s.setCur (s.cur.addFlags fl) |>.retire 2).cur ∧
        (∀ i < ca.rows, ∀ j < ca.cols, u.tileElem k cd i j = (conv i j).1.toNat % 2 ^ dst.width ∧ (conv i j).2 &&& fl = (conv i j).2))

/-- R237: `tld` fills a tile's rows from memory, 16 bytes a unit, with zeros in the padding of each row; `tsv` stores the data bytes of the
rows, unit by unit. Units whose accesses go, for the group as a whole. -/
def Sys2Proof.Claims.TileLoadsAndStores : Prop :=
  ∀ (s : State) (g : BitVec 3) (t : BitVec 6) (k : BitVec 4) (b : Reg) (obs : BitVec 6) (order : Order) (stage : Bool) (off : BitVec 20)
    (dst : Nat × Nat → Dest), TilesReady s g [t.toNat] (memRegs (.base k) ++ [b]) → Plain s → Memory.wf s.tiles = true →
    let tile := s.cur.tile t.toNat
    let c := s.tileCfgOf tile
    let base := s.cur.addrOf (.base k) 0 stage 0
    let start := s.cur.addrOf (.base k) off.toInt stage 0
    let stride := (uval s b).toInt
    let size := fun u : Nat × Nat => min 16 (c.rowBytes - 16 * u.2)
    let bytes := fun (u : Nat × Nat) => readBytes s.tiles (tile * 4096 + (u.1 * c.pitch + 16 * u.2)) (size u)
    ValidCfg (SMap.get 0 s.tileCfg tile) → c.rows ≠ 0 → c.cols ≠ 0 →
    base % 16 = 0 → off.toInt % 16 = 0 → stride % 16 = 0 → s.orderWaits order obs ((unitsOf c).map fun u => (dst u, size u)) = false →
    ((∀ u ∈ unitsOf c, s.unitFate stage (unitAddr start stride stage u) (size u) true false = .go (dst u)) →
      ∃ v, exec (.tld g t k b obs order stage off) s = .next v ∧ TilesOnly s { v with l2 := s.l2, hotPending := s.hotPending, moved := s.moved } ∧
        OtherTilesKept s v tile ∧ v.tileCfg = s.tileCfg ∧
        v.cur = (s.retire 2).cur ∧
        (∀ u ∈ unitsOf c, readBytes v.tiles (tile * 4096 + (u.1 * c.pitch + 16 * u.2)) (size u) =
          s.readOwned s.cur.part (dst u) (size u)) ∧
        (∀ r < c.rows, ∀ o, c.rowBytes ≤ o → o < c.pitch → SMap.get 0 v.tiles (tile * 4096 + (r * c.pitch + o)) = 0)) ∧
    ((∀ u ∈ unitsOf c, s.unitFate stage (unitAddr start stride stage u) (size u) false true = .go (dst u)) →
      exec (.tsv g t k b obs order stage off) s =
        .next (((unitsOf c).foldl (fun v u => v.groupWrite (dst u) (bytes u)) s).retire 2))

/-- R234, R241, R242, R244: a product whose format block names a pair and none of whose checks stops it carries out its products, one for
each active octet or each group, and adds their flags and counts; a grouped product of no active octet has no effect. That a group table's
entry is bounded by off + cnt, and that C tiles are checked for the entries performed alone, are the model's choices (log 36, DESIGN CHOICE). -/
def Sys2Proof.Claims.MatrixForms : Prop :=
  ∀ (s : State) (g : BitVec 3) (t ta tb : BitVec 6) (c gx : Reg) (rnd : Rnd) (z : Bool) (b chunk : Nat) (kind : PairKind),
    let q := s.cur.width / 8
    let from_ := fun (x : BitVec 6) (n : Nat) => (List.range n).map fun o => x.toNat + o
    let runs := fun (js : List Job1) => Host.Outcome.next (φ := Fault) (ρ := Refusal)
      (((s.runProds chunk kind js).1.addTotals (s.runProds chunk kind js).2).retire 2)
    s.readBlock c = .ok b → blockPair b = some (chunk, kind) →
    (let js := s.cur.activeOctets.map fun o => s.tileProd (t.toNat + o) (s.opA b (ta.toNat + o) o) (s.opB b tb.toNat 0) z
     TilesReady s g (from_ t q ++ from_ ta q ++ [tb.toNat]) (pairRegs c) →
      (∀ x ∈ from_ t q, x ∉ from_ ta q ∧ x ≠ tb.toNat) → s.prodStops kind b js none none = none →
      exec (.mma g t ta tb c rnd z) s = runs js) ∧
    (let js := s.cur.activeOctets.map fun o => s.tileProd (t.toNat + o) (s.opA b ta.toNat 0) (s.opB b (tb.toNat + o) o) z
     TilesReady s g (from_ t q ++ [ta.toNat] ++ from_ tb q) (pairRegs c) →
      (∀ x ∈ from_ t q, x ≠ ta.toNat ∧ x ∉ from_ tb q) → s.prodStops kind b js none none = none →
      exec (.mmat g t ta tb c rnd z) s = runs js) ∧
    (let off := (uval s gx).toNat
     let n := (uval s (gx + 1)).toNat
     let entry := fun j => s.groupEntry off j
     let on := (List.range n).filter fun j => s.cur.activeOctets.contains j && decide (0 < (entry j).2)
     let js := on.map fun j => s.groupProd b t.toNat ta.toNat tb.toNat z j (entry j).1 (entry j).2
     TilesReady s g (from_ t q ++ from_ ta q ++ from_ tb q) (pairRegs c ++ pairRegs gx) →
      (∀ x ∈ from_ t q, x ∉ from_ ta q ∧ x ∉ from_ tb q) →
      (s.cur.activeOctets = [] → exec (.mmag g t ta tb c gx rnd z) s = .next (s.retire 2)) ∧
      (s.cur.activeOctets ≠ [] → extentStop s.cur.share off (4 * n) 4 = none →
      s.readsStop s.cur.share ((List.range n).map fun k => (off + 4 * k, 4)) = none → n ≤ q →
      (∀ j < n, (entry j).2 ≤ 32) → ((List.range n).map fun j => (entry j).2).sum ≤ 32 * q →
      (∀ j ∈ on, (entry j).1 + (entry j).2 ≤ 32 * q) → (∀ p ∈ js, ∀ x ∈ p.p.as, x.r < x.o.cfg.rows) →
      s.prodStops kind b js none none = none → exec (.mmag g t ta tb c gx rnd z) s = runs js))

/-- R241: a product of tiles apart from its own writes every element of M × N with its accumulated value, and leaves every other tile. -/
def Sys2Proof.Claims.ProductElements : Prop :=
  ∀ (s : State) (chunk : Nat) (kind : PairKind) (p : Prod) (tot : Totals) (w : Word), ValidCfg w → p.ccfg = TileCfg.ofWord w →
    Memory.wf s.tiles = true → p.as.length ≤ p.ccfg.rows → p.bs.length ≤ p.ccfg.cols → p.ccfg.fmt.width = 32 →
    (∀ x ∈ p.as ++ p.bs, x.o.tile ≠ p.c ∧ x.o.cfg.rows * x.o.cfg.pitch ≤ 4096 ∧ x.r < x.o.cfg.rows ∧ x.o.cfg.cols = p.kk) →
    let t := (s.runProd chunk kind p tot).1
    OtherTilesKept s t p.c ∧ t.stage = s.stage ∧ t.mem = s.mem ∧
      ∀ (i n : Nat) (hi : i < p.as.length) (hn : n < p.bs.length), t.tileElem p.c p.ccfg i n =
        (s.prodElem chunk kind (decide (p.ccfg.fmt = .i32)) p.as[i] p.bs[n] p.kk
          (if p.z then 0 else s.tileElem p.c p.ccfg i n)).c % 2 ^ 32

/-- R67, R68, R71: an i32 element of an integer product without scale, curve or escape accumulates its exact products, chunk by chunk,
clamped after each. -/
def Sys2Proof.Claims.IntegerProduct : Prop :=
  ∀ (s : State) (chunk kk c0 : Nat) (a b : OpRow), 0 < chunk → c0 < 2 ^ 32 →
    a.o.sck = 0 → b.o.sck = 0 → a.o.esc = false → b.o.esc = false → a.o.cmp = false → b.o.cmp = false →
    a.o.fmt ∈ [Fmt.i8, .n8, .i4, .t2] → b.o.fmt ∈ [Fmt.i8, .n8, .i4, .t2] →
    let r := s.prodElem chunk .int true a b kk c0
    (BitVec.ofNat 32 r.c).toInt = clampSum chunk (fun k => a.o.fmt.intValue (s.opCode a.o a.r k))
      (fun k => b.o.fmt.intValue (s.opCode b.o b.r k)) kk (BitVec.ofNat 32 c0).toInt ∧ r.flags = 0

/-- R64, R245: an `mmx`, which reads its curves at its issue, of a core alone in its coop mask carries out its own 24 products; one whose partners
have not all issued joins and waits; and once all have met and no check stops one of them, none of them waits any more (how the meeting goes,
log 24, DEDUCED). -/
def Sys2Proof.Claims.CooperativeProduct : Prop :=
  ∀ (s : State) (g : BitVec 3) (t ta tb : BitVec 6) (c : Reg) (rnd : Rnd) (z : Bool) (b : Nat),
    let from_ := fun (x : BitVec 6) (n : Nat) => (List.range n).map fun o => x.toNat + o
    let m : Meet := ⟨s.cur.core, s.cur.key, BitVec.ofNat 256 b, s.curve s.cur.core (b / 2 ^ 20 % 2 ^ 3),
      s.curve s.cur.core (b / 2 ^ 23 % 2 ^ 3), t, ta, tb, z⟩
    let joined : State := { s with meets := s.meets ++ [m] }
    TilesReady s g (from_ t 24 ++ from_ ta 4 ++ from_ tb 6) (pairRegs c) → s.readBlock c = .ok b → s.cur.live = true →
    (∀ x ∈ from_ t 24, x ∉ from_ ta 4 ∧ x ∉ from_ tb 6) → (∀ x ∈ s.meets, x.grp ≠ s.cur.key) → s.soloStop m = none →
    (joined.meeting m = none →
      exec (.mmx g t ta tb c rnd z) s = .next { joined with cur := { s.cur with wait := .again .meeting } }) ∧
    (∀ chunk kind, joined.meeting m = some [m] → joined.meetStop m [m] = none → blockPair m.block.toNat = some (chunk, kind) →
      let r := joined.runProds chunk kind (joined.meetJobs m (some (m, s.cur)))
      ∃ u, exec (.mmx g t ta tb c rnd z) s = .next u ∧ u.meets = s.meets ∧ u.tiles = r.1.tiles ∧
        u.cur = ((r.1.addTotals r.2).retire 2).cur) ∧
    (∀ ps, joined.meeting m = some ps → (∀ x ∈ ps, (joined.focus x.grp).meetStop x ps = none) →
      ∃ u, exec (.mmx g t ta tb c rnd z) s = .next u ∧ ∀ x ∈ ps, ∀ y ∈ u.meets, y.grp ≠ x.grp)

/-- R246, R247: a `quant` whose checks pass makes the tile of codes and, with escapes, its outlier list, or traps OUTLIER-OVF where the
block asks for it; and the codes are those of the elements, the escape code for a kept outlier and the clamped code for one past the list. -/
def Sys2Proof.Claims.Quantising : Prop :=
  ∀ (s : State) (g : BitVec 3) (t ta : BitVec 6) (c : Reg) (rnd : Rnd) (b : Nat), TilesReady s g [t.toNat, ta.toNat] (pairRegs c) →
    s.readBlock c = .ok b → quantBad b = false →
    let o := s.opA b ta.toNat 0
    let d : TileCfg := ⟨o.fmt, o.cfg.rows, o.cfg.cols⟩
    let qs := s.quantAll o (ieeeF32.decode (b / 2 ^ 32 % 2 ^ 32)) rnd o.cfg.fmt
    let el := electedOf qs
    scaleStop o = none → listStop o = none → s.scalesRead o.allRows = none → o.cfg.fmt ∈ [Fmt.f32, .bf16, .h16] → d.ok = true →
    (o.esc = true → o.cap < el.length → b / 2 ^ 26 % 2 = 1 → exec (.quant g t ta c rnd) s =
      .next (s.takeTrap ⟨8, o.cap, BitVec.ofNat 64 el.length, s.cur.path.mask, 2, true⟩)) ∧
    (o.esc = false ∨ el.length ≤ o.cap ∨ b / 2 ^ 26 % 2 = 0 → s.listWrites o = none → ∃ u, exec (.quant g t ta c rnd) s = .next u ∧
      u.mem = s.mem ∧ (o.esc = false → u.stage = s.stage) ∧
      (SMap.wf 0 s.tileCfg = true → SMap.get 0 u.tileCfg (s.cur.tile t.toNat) = d.toWord) ∧
      (Memory.wf s.tiles = true → ∀ i < d.rows, ∀ k < d.cols,
        u.tileElem (s.cur.tile t.toNat) d i k % 2 ^ o.fmt.width =
          (match s.quantElem o (ieeeF32.decode (b / 2 ^ 32 % 2 ^ 32)) rnd o.cfg.fmt i k with
            | .code x _ => x
            | .elected x => if (i, k) ∈ (el.take o.cap).map fun e => (e.1, e.2.1) then escapeCode o.fmt
              else clampCode o.fmt x.sign) % 2 ^ o.fmt.width))

/-- R62, R64, R204, R240: `ctld` loads the 17 breakpoints of a table of the core, as a plain load of the group reads them; an image that
breaks R62 traps MATRIX-BOUND; no other table changes. -/
def Sys2Proof.Claims.CompandingTables : Prop :=
  ∀ (s : State) (g n : BitVec 3) (a : Reg) (bs : List Byte), Enabled s g (pairRegs a) → SMap.wf none s.compand = true →
    let va := (uvalD s a).toNat
    let word := fun k => leNat ((bs.drop (4 * k)).take 4)
    va % 8 = 0 → s.readRun (piecesOf va 72) = .ok bs →
    let s1 := s.markRun (piecesOf va 72)
    (compandOk ((List.range 18).map word) = false →
      exec (.ctld g n a) s = .next (s1.takeTrap ⟨7, 0, 0, s.cur.path.mask, 1, true⟩)) ∧
    (compandOk ((List.range 18).map word) = true → ∃ u, exec (.ctld g n a) s = .next u ∧
      { u with compand := s.compand } = s1.retire 1 ∧ ∀ core j k, j < 8 → k < 17 → u.breakCode core j k =
        if core = s.cur.core ∧ j = n.toNat then BitVec.ofNat 32 (word k) else s.breakCode core j k)

/-- R186 to R188, R191, R192: the four copy instructions take a free slot of their core's engine, give its next generation a handle, and
end at once what fails a check; with no free slot they wait. -/
def Sys2Proof.Claims.CopyCommands : Prop :=
  ∀ (s : State) (g : BitVec 3) (d a b : Reg) (obs : BitVec 6) (order : Order) (ds fs : Bool),
    Enabled s g (blockRegs a 8 ++ [b]) → s.cur.live = true → SMap.wf EngSlot.idle s.copySlots = true →
    96 ≤ d.toNat → d.toNat % 2 = 0 →
    IssuesCopy s d (copyOf s .acp 5 a b obs order ds fs) (exec (.acp g d a b obs order ds fs) s) ∧
    IssuesCopy s d (copyOf s .acp2 8 a b obs order ds fs) (exec (.acp2 g d a b obs order ds fs) s) ∧
    IssuesCopy s d (copyOf s .acpg 7 a b obs order ds fs) (exec (.acpg g d a b obs order ds fs) s) ∧
    IssuesCopy s d (copyOf s .afill 4 a b obs order ds false) (exec (.afill g d a b obs order ds) s) ∧
    (s.chooseSlot (.copy s.cur.core) 64 = none →
      exec (.acp g d a b obs order ds fs) s = .next { s with cur := { s.cur with wait := .again .engineFull } })

/-- R191: the layout of handles and status words; a handle of a core of the partition reads back as its slot and generation, and a
generation is never 0. -/
def Sys2Proof.Claims.HandleLayout : Prop :=
  ∀ (s : State) (e : EngineRef) (core : Nat) (gen : Word) (p : Partition) (code count : Nat),
    let h := handleOf e core gen
    (statusWord code count).extractLsb' 56 8 = BitVec.ofNat 8 code ∧ (statusWord code count).extractLsb' 48 8 = 0 ∧ (statusWord code count).toNat % 2 ^ 48 = count % 2 ^ 48 ∧
    h.getLsbD 63 = true ∧ h.getLsbD 62 = true ∧ h.extractLsb' 56 6 = BitVec.ofNat 6 (engCode e) ∧
    h.extractLsb' 48 8 = BitVec.ofNat 8 core ∧ h.extractLsb' 40 8 = BitVec.ofNat 8 (engSlot e) ∧ h.extractLsb' 0 32 = gen ∧
    nextGen gen ≠ 0 ∧
    (core < 192 → s.part? s.cur.part = some p → p.clusters.getLsbD (core / 4) = true →
      (match e with | .copy c k => c = core ∧ k < 64 | .wload c k => c = core / 4 ∧ k < 32 | .cins c k => c = core ∧ k < 32) →
      s.handleKind h = .handle e gen)

/-- R193: the handle instructions on a status word, on a handle whose command has ended, on one that runs, and on a value that is neither,
a status word with a reserved bit set included, which traps HANDLE. A group that waits on a handle receives the status its command ended
with, though the slot serve another command by then (log 19, DEDUCED). -/
def Sys2Proof.Claims.HandleInstructions : Prop :=
  ∀ (s : State) (g cq : BitVec 3) (d a : Reg), s.cur.cpred g = true →
    let x := uvalD s a
    let put := fun y : DWord => Host.Outcome.next (φ := Fault) (ρ := Refusal) ((s.setCur (s.cur.setUD d y)).retire 2)
    let flag := fun b : Bool => Host.Outcome.next (φ := Fault) (ρ := Refusal) ((s.setCur (s.cur.setC cq b)).retire 2)
    let bad := Host.Outcome.next (φ := Fault) (ρ := Refusal) (s.takeTrap ⟨11, 0, x, s.cur.path.mask, 2, false⟩)
    let fresh := ∀ st, s.cur.wait ≠ .again (.status st)
    (x.getLsbD 63 = false → x.extractLsb' 48 8 = 0 → exec (.hwait g d a) s = put x ∧ exec (.hmov g d a) s = put x ∧
      exec (.htst g cq a) s = flag true ∧ exec (.hcan g a) s = .next (s.retire 2)) ∧
    (x.getLsbD 63 = false → x.extractLsb' 48 8 ≠ 0 → s.handleKind x = .bad) ∧
    (s.handleKind x = .bad → exec (.hwait g d a) s = bad ∧ exec (.hmov g d a) s = bad ∧ exec (.htst g cq a) s = bad ∧
      exec (.hcan g a) s = bad) ∧
    (∀ e gen, s.handleKind x = .handle e gen →
      let slot := s.slotOf e
      exec (.hmov g d a) s = put x ∧ (∀ st, s.cur.wait = .again (.status st) → exec (.hwait g d a) s = put st) ∧
      (slot.2.1 ≠ some gen → gen = 0 ∨ slot.1 ≠ gen → (fresh → exec (.hwait g d a) s = put (statusWord 8 0)) ∧
        exec (.htst g cq a) s = flag true ∧ exec (.hcan g a) s = .next (s.retire 2)) ∧
      (slot.2.1 ≠ some gen → gen ≠ 0 → slot.1 = gen → (fresh → exec (.hwait g d a) s = put slot.2.2) ∧
        exec (.htst g cq a) s = flag true ∧ exec (.hcan g a) s = .next (s.retire 2)) ∧
      (slot.2.1 = some gen →
        (fresh → exec (.hwait g d a) s = .next { s with cur := { s.cur with wait := .again (.hwait x) } }) ∧
        exec (.htst g cq a) s = flag false ∧ exec (.hcan g a) s = .next ((s.cancel e).retire 2)))

/-- R194, R195: `clv.init`, `clv.arm` and `clv.wait` on a Clave in the share, and the completion step: each expected number of arrived bytes
flips the phase once, also where an ordinary store left it due. -/
def Sys2Proof.Claims.Claves : Prop :=
  ∀ (s : State) (g : BitVec 3) (a b : Reg) (x : Nat), Enabled s g [a, b] →
    (∀ e n p, claveStep e n p = if e ≠ 0 ∧ e ≤ n then claveStep e (n - e) (!p)
      else e + n * 2 ^ 32 + (if p then 2 ^ 64 else 0)) ∧
    (s.accessFate true (uval s a).toNat 16 true true none = .go (.stage x) →
      let c := leNat (readBytes s.stage x 16)
      let expected := c % 2 ^ 32
      let arrived := c / 2 ^ 32 % 2 ^ 32
      let phase := decide (c / 2 ^ 64 % 2 = 1)
      exec (.clvInit g a b) s = .next ((s.groupWrite (.stage x) (leBytes 16 (uval s b).toNat)).retire 2) ∧
      exec (.clvArm g a b) s =
        .next ((s.groupWrite (.stage x) (leBytes 16 (claveStep (uval s b).toNat arrived phase))).retire 2) ∧
      let holds := fun t : State => Host.Outcome.next (φ := Fault) (ρ := Refusal) { t with cur := { t.cur with wait := .again .clave } }
      (expected = 0 ∨ arrived < expected →
        (phase = (uval s b).getLsbD 0 → exec (.clvWait g a b) s = holds s) ∧
        (phase ≠ (uval s b).getLsbD 0 → exec (.clvWait g a b) s = .next (s.retire 2))) ∧
      (expected ≠ 0 → expected ≤ arrived →
        let n := claveStep expected arrived phase
        let s1 := s.groupWrite (.stage x) (leBytes 16 n)
        (decide (n / 2 ^ 64 % 2 = 1) = (uval s b).getLsbD 0 → exec (.clvWait g a b) s = holds s1) ∧
        (decide (n / 2 ^ 64 % 2 = 1) ≠ (uval s b).getLsbD 0 → exec (.clvWait g a b) s = .next (s1.retire 2))))

/-- R187, R189, R190, R192, R195: a chunk of a copy command moves its bytes, those of them that have not moved before, and counts them, and
the last one ends the command with success; a cancelled command ends with status 1 between two chunks and leaves memory and Stage as they
were, where R189 lets each byte of the chunk it stops in hold its old or its new value (log 41, DEDUCED); its status goes into every pair
pending on the handle; and its Clave is credited. -/
def Sys2Proof.Claims.EngineEvents : Prop :=
  ∀ (s : State) (core slot : Nat),
    let e := EngineRef.copy core slot
    let x := SMap.get EngSlot.idle s.copySlots (engIndex e)
    SMap.wf EngSlot.idle s.copySlots = true →
    (∀ c, x.cmd = some c → c.base.result = none → s.partHalted c.base.part = false → c.base.notBefore ≤ s.now →
      (c.base.cancel = true → c.base.early = [] → ∃ t, exec (.engineChunkComplete core slot) s = .next t ∧ t.mem = s.mem ∧ t.stage = s.stage ∧
        ∃ c1, (SMap.get EngSlot.idle t.copySlots (engIndex e)).cmd = some c1 ∧
          c1.base.result = some (statusWord 1 c.base.done)) ∧
      (c.base.cancel = false ∨ c.base.early ≠ [] → ∀ d r k n bs ds, c.nextChunk = (d, r, k, n) → s.chunkBytes c r k n = .ok bs →
        s.engineDests c.base c.ds (intPieces d n) = .ok ds →
        let left := unwritten c.base.early ds bs
        let u := (s.engineWrite c.base.part left.1 left.2 (Vector.replicate 6 0)).1
        (c.base.early = [] → left = (ds, bs)) ∧
        ∃ t, exec (.engineChunkComplete core slot) s = .next t ∧ t.mem = u.mem ∧ t.stage = u.stage ∧
          ∃ c1, (SMap.get EngSlot.idle t.copySlots (engIndex e)).cmd = some c1 ∧ c1.base.done = c.base.done + n ∧
            c1.base.result = if c.base.done + n = c.total then some (statusWord 0 c.total) else none)) ∧
    (∀ c st, x.cmd = some c → c.base.result = some st → c.base.order.releases = false ∨ s.reached c.base.times c.base.obs = true →
      ∃ t, exec (.engineCommandComplete e) s = .next t ∧ t.mem = s.mem ∧
        SMap.get EngSlot.idle t.copySlots (engIndex e) = ⟨x.gen, none, if x.gen = c.base.gen then st else x.status⟩ ∧
        (s.cur.live = true → ∀ i < 16, s.cur.pend.getLsbD i = true → s.cur.pairAt i = handleOf e core c.base.gen →
          t.cur.pairAt i = st ∧ t.cur.pend.getLsbD i = false)) ∧
    (∀ n c, s.credits[n]? = some c → c.ready ≤ s.now →
      exec (.claveCredit n) s = .next (State.creditClave { s with credits := s.credits.eraseIdx n } c.clave c.bytes))

/-- R248 to R251: `wload` takes a slot of its cluster's loader; each record of the stream gives one tile its configuration and its
elements, once no earlier load of its group has still to write that tile (log 31, DEDUCED), and the last one ends the command. -/
def Sys2Proof.Claims.WeightStreams : Prop :=
  ∀ (s : State) (g : BitVec 3) (d a b : Reg) (obs : BitVec 6) (order : Order) (prec : BitVec 3),
    (Enabled s g (blockRegs a 4 ++ [b]) → s.cur.live = true → SMap.wf EngSlot.idle s.wloadSlots = true → 96 ≤ d.toNat → d.toNat % 2 = 0 →
      let regs := (List.range 4).map fun i => s.cur.greg (a + BitVec.ofNat 7 i)
      let off := if b = 0 then none else some (s.cur.greg b).toNat
      ∀ e, s.chooseSlot (.wload (s.cur.core / 4)) 32 = some e → ∃ t, exec (.wload g d a b obs order prec) s = .next t ∧
        t.tiles = s.tiles ∧ t.cur.path.pc = s.cur.path.pc + 2 ∧
        let gen := nextGen (s.slotOf e).1
        (s.cur.wloadCheck regs off = none → regs.getD 3 0 ≠ 0 → PairHolds t.cur d (handleOf e s.cur.core gen) true ∧
          ∃ c, (SMap.get EngSlot.idle t.wloadSlots (engIndex e)).cmd = some c ∧ c.regs = regs ∧ c.prec = prec ∧
            c.recs = [(regs.getD 0 0).toNat + (regs.getD 1 0).toNat * 2 ^ 32] ∧ c.base.grp = s.cur.key) ∧
        (∀ code, s.cur.wloadCheck regs off = some code → PairHolds t.cur d (statusWord code 0) false)) ∧
    (∀ cluster slot c x,
      let i := engIndex (.wload cluster slot)
      (SMap.get EngSlot.idle s.wloadSlots i).cmd = some c → c.base.result = none → s.partHalted c.base.part = false →
      c.base.notBefore ≤ s.now → c.base.cancel = false → s.tileBehind c c.nextTile = false → s.readRecord c = .ok x →
      (∃ gr ∈ s.holders, gr.key = c.base.grp) → SMap.wf EngSlot.idle s.wloadSlots = true →
      let tile := c.core * 64 + c.tileBase + (c.regs.getD 2 0).toNat + c.base.chunk
      ∃ t, exec (.wloadRecord cluster slot) s = .next t ∧ t.tiles = (s.setTile tile x.cfg x.bytes).tiles ∧
        t.tileCfg = (s.setTile tile x.cfg x.bytes).tileCfg ∧ t.mem = s.mem ∧ t.stage = s.stage ∧
        ∃ c1, (SMap.get EngSlot.idle t.wloadSlots i).cmd = some c1 ∧ c1.base.chunk = c.base.chunk + 1 ∧
          c1.base.done = c.base.done + x.units ∧ c1.recs = c.recs ++ [x.next] ∧
          c1.base.result = if c.base.chunk + 1 = (c.regs.getD 3 0).toNat then some (statusWord 0 c1.base.done) else none)

/-- R196, R198, R204: `ap.go` binds the ports its list names, which it reads as plain loads of the group, or traps HANDLE, `ap.stop` ends every stream, `qtst` tells a port that holds an element or a stream
that runs, and the port forms of `mov` pop and push an element for each acting lane in lane order. -/
def Sys2Proof.Claims.StreamPorts : Prop :=
  ∀ (s : State) (g cq : BitVec 3) (a d : Reg) (q : BitVec 4),
    let p := s.cur.port q.toNat
    let m := s.cur.acting g
    let n := laneCount m
    (Enabled s g (pairRegs a) → ∀ ds, s.streamList 16 (uvalD s a).toNat [] = .ok ds →
      let s1 := s.markRun (piecesOf (uvalD s a).toNat (32 * ds.length))
      exec (.apGo g a) s = .next ((s1.setCur (ds.foldl (fun gr e => gr.setPort e.1 (streamPort e.2)) s1.cur)).retire 2)) ∧
    (Enabled s g (pairRegs a) → ∀ v k, s.streamList 16 (uvalD s a).toNat [] = .handle v k →
      exec (.apGo g a) s = .next ((s.markRun (piecesOf (uvalD s a).toNat (32 * k))).takeTrap
        ⟨11, 0, BitVec.ofNat 64 v, s.cur.path.mask, 2, false⟩)) ∧
    (s.cur.cpred g = true → s.cur.pushes = [] → s.cur.pushesLeft = false → ∃ t, exec (.apStop g) s = .next t ∧
      t.cur.ports = Vector.replicate 16 Port.unbound ∧ t.cur.path.pc = s.cur.path.pc + 2 ∧ t.mem = s.mem) ∧
    (s.cur.cpred g = true → exec (.qtst g cq q) s = .next ((s.setCur (s.cur.setC cq (decide (p.elems ≠ [] ∨
      (p.bound = true ∧ p.fault = none ∧ (p.kind = 2 ∨ p.pos < p.count)))))).retire 2)) ∧
    (s.cur.unfinished = none → m ≠ 0 → p.bound = true → p.kind ≠ 2 → n ≤ p.elems.length →
      ∃ t, exec (.movPopPort g d q) s = .next t ∧ t.cur.v = (s.cur.setV d m (lanesFrom fun l => p.elems.getD (laneRank m l) 0)).v ∧
        (t.cur.port q.toNat).elems = p.elems.drop n ∧ (∀ k < 16, k ≠ q.toNat → t.cur.port k = s.cur.port k) ∧
        t.cur.path.pc = s.cur.path.pc + 1) ∧
    (s.cur.unfinished = none → Ready s [a] → m ≠ 0 → p.bound = true → p.kind = 2 → p.fault = none → p.used + n ≤ p.count →
      p.ring = [] → p.elems.length + n ≤ 256 → ∃ t, exec (.movPushPort g a q) s = .next t ∧
        (t.cur.port q.toNat).elems = p.elems ++ (lanesOf m).map (fun l => val s a l) ∧ (t.cur.port q.toNat).used = p.used + n ∧
        t.cur.pushes = s.cur.pushes ++ List.replicate n q.toNat ∧ t.cur.path.pc = s.cur.path.pc + 1 ∧ t.mem = s.mem)

/-- R183, R196, R197, R204: a stream's next element: a load stream reads, as a plain load of its group does, the word at base + e × stride into
its port while it has room, and waits while an element pushed before is still to be written to its bytes; a store stream writes its oldest
pushed word; the group's late accesses to the same bytes are performed before either. -/
def Sys2Proof.Claims.StreamElements : Prop :=
  ∀ (s : State) (q : Nat), s.cur.live = true → q < 16 →
    let p := s.cur.port q
    let addr : Int := p.base.toNat + p.pos * p.stride
    let meets := fun d => s.cur.late.any fun x => x.meets d 4
    (p.bound = true → p.kind = 0 → p.fault = none → p.pos < p.count → p.elems.length < 256 → ∀ d,
      s.streamFate s.cur p addr true false = .go d →
      (meets d = true → exec (.streamLoadElement s.cur.key q) s = exec (.streamLoadElement s.cur.key q) (s.performGroup s.cur.key)) ∧
      (meets d = false → s.pushMeets s.cur s.cur.pushes.length d 4 = true → exec (.streamLoadElement s.cur.key q) s = .next s) ∧
      (meets d = false → s.pushMeets s.cur s.cur.pushes.length d 4 = false →
        let r := s.readAs s.cur.part d 4 .c s.cur.key s.serve
        exec (.streamLoadElement s.cur.key q) s = .next (r.2.setCur (s.cur.setPort q { p with
          elems := p.elems ++ [BitVec.ofNat 32 (leNat r.1)], pos := p.pos + 1, paused := false })))) ∧
    (p.bound = true → p.kind = 2 → p.fault = none → p.ring = [] → ∀ w ws d, p.elems = w :: ws → p.elems.length ≤ 256 →
      s.nextPush s.cur = some q → s.streamFate s.cur p addr false true = .go d →
      let u := if meets d then s.flushLate else s
      u.streamFate u.cur p addr false true = .go d →
      ∃ t, exec (.streamStoreElement s.cur.key q) s = .next t ∧ t.mem = (u.writeDest s.cur.part d (leBytes 4 w.toNat) s.cur.key).mem ∧
        t.stage = (u.writeDest s.cur.part d (leBytes 4 w.toNat) s.cur.key).stage ∧
        (p.pos + 1 < p.count → (t.cur.port q).elems = ws ∧ (t.cur.port q).pos = p.pos + 1))

/-- R259: the blocks of an ascending list of elements are in range order and hold all of it; each fits one block, its parent's
contents do not; and there are none exactly where the copies of one key do not fit one block. -/
def Obligations.CanonicalBlocks : Prop :=
  ∀ (w l base : Nat) (es : List (Nat × Nat)), base % 2 ^ l = 0 → (∀ e ∈ es, base ≤ e.1 ∧ e.1 < base + 2 ^ l) →
    es.Pairwise (fun a b => a.1 ≤ b.1) →
    let within := fun b n => es.filter fun e => decide (b ≤ e.1) && decide (e.1 < b + 2 ^ n)
    (canonical w l base es = none ↔ ∃ e ∈ es, fitsBlock w (es.filter fun x => decide (x.1 = e.1)) = false) ∧
    ∀ bs, canonical w l base es = some bs →
      bs.flatMap (fun b => b.2.2) = es ∧ (bs.Pairwise fun a b => a.1 + 2 ^ a.2.1 ≤ b.1) ∧
      ∀ b ∈ bs, b.2.1 ≤ l ∧ b.1 % 2 ^ b.2.1 = 0 ∧ b.2.2 = within b.1 b.2.1 ∧ b.2.2 ≠ [] ∧ fitsBlock w b.2.2 = true ∧
        (b.2.1 < l → fitsBlock w (within (b.1 / 2 ^ (b.2.1 + 1) * 2 ^ (b.2.1 + 1)) (b.2.1 + 1)) = false)

/-- R262, R265, R266: `ccount` counts the elements of a range of keys; `crem` removes one instance of each acting lane's pair while one
remains, the lower lane first, and tells which lanes found theirs; a key of more than 32 bits in an odd register raises HANDLE. -/
def Sys2Proof.Claims.CollectionCountsAndRemovals : Prop :=
  ∀ (s : State) (g pd : BitVec 3) (a b c d : Reg) (x : Coll),
    let va := uvalD s c
    let n := s.noteColl s.cur.syncBase va.toNat
    let s1 : State := { n with freeCtr := s.freeCtr + 1 }
    let handle := Host.Outcome.next (φ := Fault) (ρ := Refusal) (n.takeTrap ⟨11, 0, va, s.cur.path.mask, 2, false⟩)
    s.pastC = true → s.openColl s.cur.syncBase va.toNat = .ok x →
    (Enabled s g ([a, b] ++ pairRegs c) → KeysSuit x.k [a, b] → exec (.ccount g d a b c) s =
      .next ((s1.setCur (s.cur.setU d (BitVec.ofNat 32 ((x.elems.filter fun e =>
        decide (ukey s x.k a ≤ e.1) && decide (e.1 ≤ min (ukey s x.k b) (2 ^ x.k - 1))).length)))).retire 2)) ∧
    (Enabled s g ([a, b] ++ pairRegs c) → ¬KeysSuit x.k [a, b] → exec (.ccount g d a b c) s = handle) ∧
    (s.cur.unfinished = none → s.cur.acting g ≠ 0 → Ready s ([a, b] ++ pairRegs c) → ¬KeysSuit x.k [a] →
      exec (.crem g pd a b c) s = handle) ∧
    (s.cur.unfinished = none → s.cur.acting g ≠ 0 → Ready s ([a, b] ++ pairRegs c) → KeysSuit x.k [a] →
      let m := s.cur.acting g
      let pairOf := fun l => (lkey s x.k a l, (val s b l).toNat)
      ∃ (got : Mask) (left : List (Nat × Nat)), got &&& m = got ∧
        (∀ e, timesIn e left + timesIn e ((lanesOf got).map pairOf) = timesIn e x.elems) ∧
        (∀ e, timesIn e ((lanesOf got).map pairOf) = min (timesIn e ((lanesOf m).map pairOf)) (timesIn e x.elems)) ∧
        (∀ k < 64, ∀ l < 64, k < l → m.getLsbD k = true → got.getLsbD l = true → pairOf k = pairOf l → got.getLsbD k = true) ∧
        (got = 0 → exec (.crem g pd a b c) s = .next ((s1.setCur (s.cur.setPred pd m 0)).retire 2)) ∧
        (got ≠ 0 → ∀ s2 t, n.changeColl s.cur.syncBase va.toNat x left = .ok (s2, t) →
          exec (.crem g pd a b c) s = .next ((s2.setCur (s2.cur.setPred pd m got)).retire 2)))

/-- R264: `cins` takes a slot of its core's 32, with a pair for each acting lane, or completes at once without any; it is applied as a
whole: every pair enters the collection in its order, or its status tells why none does. -/
def Sys2Proof.Claims.CollectionInsertion : Prop :=
  (∀ (s : State) (g : BitVec 3) (d a b c : Reg) (obs : BitVec 6), (s.cur.acting g ≠ 0 → Ready s ([a, b] ++ pairRegs c)) →
    s.cur.live = true → SMap.wf EngSlot.idle s.cinsSlots = true → 96 ≤ d.toNat → d.toNat % 2 = 0 →
    (s.chooseSlot (.cins s.cur.core) 32 = none →
      (s.cur.acting g ≠ 0 → exec (.cins g d a b c obs) s = .next { s with cur := { s.cur with wait := .again .engineFull } }) ∧
      (s.cur.acting g = 0 → ∃ t, exec (.cins g d a b c obs) s = .next t ∧ DeviceKept s t ∧ t.cur.path.pc = s.cur.path.pc + 2 ∧
        PairHolds t.cur d (statusWord 0 0) false)) ∧
    ∀ e, s.chooseSlot (.cins s.cur.core) 32 = some e → ∃ t, exec (.cins g d a b c obs) s = .next t ∧ t.mem = s.mem ∧
      t.stage = s.stage ∧ t.cur.path.pc = s.cur.path.pc + 2 ∧
      let gen := nextGen (s.slotOf e).1
      let slot := SMap.get EngSlot.idle t.cinsSlots (engIndex e)
      slot.gen = gen ∧
      (s.cur.acting g = 0 → slot.cmd = none ∧ slot.status = statusWord 0 0 ∧ PairHolds t.cur d (statusWord 0 0) false) ∧
      (s.cur.acting g ≠ 0 → PairHolds t.cur d (handleOf e s.cur.core gen) true ∧ ∃ cmd, slot.cmd = some cmd ∧
        cmd.desc = uvalD s c ∧ cmd.base.result = none ∧ cmd.base.grp = s.cur.key ∧ (cmd.oddKey = true ↔ a.toNat % 2 = 1) ∧
        cmd.pairs = (lanesOf (s.cur.acting g)).map fun l =>
          (val s a l, val s b l, if a.toNat % 2 = 1 then none else some (val s (a + 1) l)))) ∧
  (∀ (s : State) (core slot : Nat) (c : CinsCmd) (x : Coll),
    let i := engIndex (.cins core slot)
    SMap.wf EngSlot.idle s.cinsSlots = true → (SMap.get EngSlot.idle s.cinsSlots i).cmd = some c → c.base.result = none →
    c.base.cancel = false → c.base.notBefore ≤ s.now → s.openColl c.base c.desc.toNat = .ok x →
    let EndsWith := fun (st : DWord) (t : State) => ∃ c1, (SMap.get EngSlot.idle t.cinsSlots i).cmd = some c1 ∧
      c1.base.result = some st
    ((32 < x.k ∧ c.oddKey = true) → ∃ t, exec (.cinsApply core slot) s = .next t ∧ t.mem = s.mem ∧ EndsWith (statusWord 18 0) t) ∧
    ((32 < x.k → c.oddKey = false) →
      let ps := c.pairs.map fun p =>
        (if x.k ≤ 32 then p.1.toNat else p.1.toNat + (p.2.2.getD 0).toNat * 2 ^ 32, p.2.1.toNat)
      ((∃ p ∈ ps, 2 ^ x.k ≤ p.1 ∨ 2 ^ x.w ≤ p.2) →
        ∃ t, exec (.cinsApply core slot) s = .next t ∧ t.mem = s.mem ∧ EndsWith (statusWord 18 0) t) ∧
      ((∀ p ∈ ps, p.1 < 2 ^ x.k ∧ p.2 < 2 ^ x.w) → ∃ es : List (Nat × Nat), es.Perm (ps ++ x.elems) ∧
        (x.elems.Pairwise (fun p q => elemLt q p = false) → es.Pairwise fun p q => elemLt q p = false) ∧
        (∀ s2 t2, s.changeColl c.base c.desc.toNat x es = .ok (s2, t2) → ∃ t, exec (.cinsApply core slot) s = .next t ∧
          t.mem = s2.mem ∧ t.stage = s2.stage ∧ EndsWith (statusWord 0 c.pairs.length) t) ∧
        (∀ e n, (e, n) ∈ [(CollStop.keyFull, 17), (CollStop.full, 16)] →
          s.changeColl c.base c.desc.toNat x es = .error e → ∃ t, exec (.cinsApply core slot) s = .next t ∧
          t.mem = s.mem ∧ t.stage = s.stage ∧ EndsWith (statusWord n 0) t))))

/-- R267 to R269, R274: `copen` opens an iterator before the least key, exhausted where lo > hi, under the descriptor that stands there where
the engine holds none of the collection; `cnext` gives the acting lanes, in lane order, what is left in the buffer and then the collection's
elements from the cursor to hi, and of one register for key and payload the payload stands (log 36, DESIGN CHOICE); `cclose` closes. -/
def Sys2Proof.Claims.CollectionIterators : Prop :=
  ∀ (s : State) (g px it : BitVec 3) (a b c d : Reg),
    let cur := s.cur.iters[it.toNat]?.getD Iter.closed
    let withIter := fun (gr : Group) (y : Iter) => { gr with iters := gr.iters.setIfInBounds it.toNat y }
    let m := s.cur.acting g
    (Enabled s g [] → exec (.cclose g it) s = .next ((s.setCur (withIter s.cur Iter.closed)).retire 2)) ∧
    (s.serve = false → s.heldColl (s.descKey s.cur.part s.cur.ranges (uvalD s c).toNat) = none →
      s.openDesc s.cur.syncBase (uvalD s c).toNat = s.descRead s.cur.syncBase (uvalD s c).toNat collOk) ∧
    (Enabled s g ([a, b] ++ pairRegs c) → ∀ desc, s.openDesc s.cur.syncBase (uvalD s c).toNat = .ok desc →
      let k := desc % 64
      let s1 := s.noteOpen s.cur.syncBase (uvalD s c).toNat
      KeysSuit k [a, b] → ∃ y : Iter, exec (.copen g it a b c) s =
          .next ((State.setCur { s1 with freeCtr := s.freeCtr + 1 } (withIter s.cur y)).retire 2) ∧
        y.opened = true ∧ y.desc = uvalD s c ∧ y.hi = min (ukey s k b) (2 ^ k - 1) ∧ y.buf = [] ∧
        (ukey s k a ≤ ukey s k b → y.cursor = ukey s k a) ∧ (ukey s k b < ukey s k a → y.hi < y.cursor)) ∧
    (s.cur.unfinished = none → m ≠ 0 →
      (cur.opened = false → exec (.cnext g d it b px) s =
        .next (s.takeTrap ⟨11, 0, BitVec.ofNat 64 it.toNat, s.cur.path.mask, 2, false⟩)) ∧
      (cur.opened = true → cur.wide = true → d.toNat % 2 = 1 → exec (.cnext g d it b px) s =
        .next (s.takeTrap ⟨11, 0, cur.desc, s.cur.path.mask, 2, false⟩)) ∧
      (cur.opened = true → (cur.wide = true → d.toNat % 2 = 0) → cur.buf.Pairwise (fun x y => x.1 ≤ y.1) →
        let rest := cur.buf.drop cur.pos
        (laneCount m ≤ rest.length ∨ cur.hi < cur.cursor ∨ (∃ e ∈ rest, cur.hi < e.1) →
          let xs := (rest.filter fun e => decide (e.1 ≤ cur.hi)).take (laneCount m)
          exec (.cnext g d it b px) s = .next ((s.setCur (withIter (takesTo s m d b px cur.wide xs)
            { cur with pos := cur.pos + xs.length })).retire 2)) ∧
        (rest.length < laneCount m → cur.cursor ≤ cur.hi → (∀ e ∈ rest, e.1 ≤ cur.hi) → s.pastC = true →
          ∀ x, s.openColl s.cur.syncBase cur.desc.toNat = .ok x → SoundColl x →
          let xs := (rest ++ x.elems.filter fun e => decide (cur.cursor ≤ e.1) && decide (e.1 ≤ cur.hi)).take (laneCount m)
          ∃ y, exec (.cnext g d it b px) s = .next ((State.setCur
            { s.noteColl s.cur.syncBase cur.desc.toNat with freeCtr := s.freeCtr + 1 }
            (withIter (takesTo s m d b px cur.wide xs) y)).retire 2))))

/-- A push that overflows traps QUOTA with its record (R218, R223, R273): the ring's IA in `trapa`, by the first valid entry of the range
table that holds the ring's address, whether or not the group may write there; 0 for a list that has no ring (log 36, DESIGN CHOICE); and
nothing of the list changes. -/
def Sys2Proof.Claims.QuotaTraps (s : State) (l : WorkList) (m : Mask) (o : Out) : Prop :=
  let holds := fun e : RangeEnt => e.valid = true ∧ e.vbase ≤ l.ringVa ∧ l.ringVa < e.vbase + e.len * 65536
  let traps := fun ia : Nat =>
    o = .next ((s.faultRecord 2 10 (BitVec.ofNat 64 ia) m s.cur.path.pc).takeTrap ⟨10, 0, BitVec.ofNat 64 ia, m, 2, true⟩)
  (l.ringcap = 0 → traps 0) ∧
  (l.ringcap ≠ 0 → ∀ before e after, s.cur.ranges = before ++ e :: after → (∀ x ∈ before, ¬holds x) → holds e →
    traps (e.iabase + (l.ringVa - e.vbase)))

/-- A list's new on-chip queue and ring fit: the ring does not grow, or its growth keeps to the quotas of the group's regions (R273). -/
abbrev Sys2Proof.Claims.ListFits (s : State) (va : DWord) (l n : WorkList) : Prop :=
  n.ring.length ≤ l.ring.length ∨ s.listQuotaOk va.toNat n = true

/-- R270 to R273: `wlpush` appends the acting lanes' values in lane order, or traps QUOTA; `wlpop` gives them the oldest values, of the
chip and then of the ring, whose head moves on; `wlcnt` counts and `wlclr` empties a list; values leave in the order they came; a 64-bit
value in an odd register traps HANDLE. -/
def Sys2Proof.Claims.WorkLists : Prop :=
  (∀ (l n : WorkList) (chain : List Nat) (vs : List DWord) (ks : List Nat),
    let room := (if l.ring = [] then l.qcap - l.chip.length else 0) + (l.ringcap - l.ring.length)
    let r := (l.popLanes ks).2
    (l.appendAll chain vs = none ↔ room < vs.length) ∧
    (l.appendAll chain vs = some n → queued n = queued l ++ vs ∧ n.desc = l.desc ∧ ∃ k ≤ vs.length, n.chip = l.chip ++ vs.take k ∧
      (l.ring ≠ [] → k = 0) ∧ (k < vs.length → l.ring = [] → l.qcap ≤ l.chip.length + k)) ∧
    (l.popLanes ks).1 = ks.zip (queued l) ∧ queued r = (queued l).drop ks.length ∧
    (∃ j ≤ l.ring.length, r.ring = l.ring.drop j ∧ r.owners = l.owners.drop j ∧
      (l.head < max 1 l.ringcap → r.head = (l.head + j) % max 1 l.ringcap)) ∧
    queued l.cleared = [] ∧ l.cleared.head = 0 ∧ l.cleared.ringVa = l.ringVa ∧ l.cleared.ringcap = l.ringcap ∧
    l.cleared.qcap = l.qcap ∧ l.cleared.memb = l.memb ∧ l.cleared.wide = l.wide) ∧
  ∀ (s : State) (g px : BitVec 3) (a c d : Reg) (l : WorkList),
    let va := uvalD s c
    let m := s.cur.acting g
    let u := s.noteList s.cur.syncBase va.toNat l
    let s1 : State := { u with freeCtr := s.freeCtr + 1 }
    let suits := fun r : Reg => l.wide = true → r.toNat % 2 = 0
    let handle := Host.Outcome.next (φ := Fault) (ρ := Refusal) (u.takeTrap ⟨11, 0, va, s.cur.path.mask, 2, false⟩)
    s.pastC = true → s.openList s.cur.syncBase va.toNat = .ok l →
    (Enabled s g (pairRegs c) →
      exec (.wlcnt g d c) s = .next ((s1.setCur (s.cur.setU d (BitVec.ofNat 32 (queued l).length))).retire 2) ∧
      (l.memb = 0 → StoredTo u va l l.cleared id (exec (.wlclr g c) s))) ∧
    (s.cur.unfinished = none → m ≠ 0 → Ready s (pairRegs c) → suits d → StoredTo u va l (l.popLanes (lanesOf m)).2 (fun gr =>
        let got := firstLanes m (queued l).length
        let at_ := fun k => (queued l).getD (laneRank m k) 0
        let g1 := gr.setV d got (lanesFrom fun k => (at_ k).setWidth 32)
        (if l.wide then g1.setV (d + 1) got (lanesFrom fun k => (at_ k >>> 32).setWidth 32) else g1).setPred px m got)
        (exec (.wlpop g d c px) s)) ∧
    (s.cur.unfinished = none → m ≠ 0 → Ready s (pairRegs c) → ¬suits d → exec (.wlpop g d c px) s = handle) ∧
    (s.cur.unfinished = none → m ≠ 0 → Ready s ([a] ++ pairRegs c) → ¬suits a → exec (.wlpush g a c) s = handle) ∧
    (s.cur.unfinished = none → m ≠ 0 → Ready s ([a] ++ pairRegs c) → suits a →
      let vs := (lanesOf m).map fun k => if l.wide then val s (a + 1) k ++ val s a k else (val s a k).setWidth 64
      (∀ n, l.appendAll s.cur.regions vs = some n → ListFits u va l n → StoredTo u va l n id (exec (.wlpush g a c) s)) ∧
      (∀ n, l.appendAll s.cur.regions vs = some n → ¬ListFits u va l n → QuotaTraps u l m (exec (.wlpush g a c) s)) ∧
      (l.appendAll s.cur.regions vs = none → QuotaTraps u l m (exec (.wlpush g a c) s)))

/-- R270, R272, R273: `wlins` appends the values of the lanes that are not yet members, the lower lane first, and makes them members,
list and membership together, or traps QUOTA, also where the membership pool has no room either (log 26, DEDUCED); `wlclr` empties
both. -/
def Sys2Proof.Claims.ListMembership : Prop :=
  ∀ (s : State) (g px : BitVec 3) (a c : Reg) (l : WorkList) (x : Coll),
    let va := uvalD s c
    let m := s.cur.acting g
    let u := s.noteList s.cur.syncBase va.toNat l
    let u1 := u.noteColl s.cur.syncBase l.memb
    s.pastC = true → s.openList s.cur.syncBase va.toNat = .ok l → l.memb ≠ 0 → u.openColl s.cur.syncBase l.memb = .ok x →
    x.k = 32 → x.w = 0 →
    (s.cur.unfinished = none → m ≠ 0 → Ready s ([a] ++ pairRegs c) → l.wide = false →
      ∃ got : Mask, (∀ k < 64, got.getLsbD k = true ↔ m.getLsbD k = true ∧ (∀ e ∈ x.elems, e.1 ≠ (val s a k).toNat) ∧
          ∀ j < k, m.getLsbD j = true → val s a j ≠ val s a k) ∧
        let new := l.appendAll s.cur.regions ((lanesOf got).map fun k => (val s a k).setWidth 64)
        (got = 0 → exec (.wlins g a c px) s =
          .next ((State.setCur { u1 with freeCtr := s.freeCtr + 1 } (s.cur.setPred px m 0)).retire 2)) ∧
        (new = none → QuotaTraps u1 l m (exec (.wlins g a c px) s)) ∧
        (∀ n, new = some n → ¬ListFits u1 va l n → QuotaTraps u1 l m (exec (.wlins g a c px) s)) ∧
        (got ≠ 0 → ∃ es : List (Nat × Nat), es.Perm (x.elems ++ (lanesOf got).map fun k => ((val s a k).toNat, 0)) ∧
          (x.elems.Pairwise (fun p q => elemLt q p = false) → es.Pairwise fun p q => elemLt q p = false) ∧
          ∀ n, new = some n → ListFits u1 va l n →
            ∀ ds s2 t, u1.collDests s.cur.syncBase (listWrites va.toNat l n) = .ok ds →
              u1.changeColl s.cur.syncBase l.memb x es = .ok (s2, t) → ListFits s2 va l n →
              StoredTo s2 va l n (fun gr => gr.setPred px m got) (exec (.wlins g a c px) s))) ∧
    (Enabled s g (pairRegs c) →
      ∀ ds s2 t, u1.collDests s.cur.syncBase (listWrites va.toNat l l.cleared) = .ok ds →
        u1.changeColl s.cur.syncBase l.memb x [] = .ok (s2, t) → StoredTo s2 va l l.cleared id (exec (.wlclr g c) s))

/-- R278, R280, R282: `qcall` puts a record for each acting lane into its cluster's queue of the unit, in lane order; it waits while a
lane has 16 calls to the unit that await return. -/
def Sys2Proof.Claims.CoprocessorCalls : Prop :=
  ∀ (s : State) (g : BitVec 3) (a : Reg) (typ : BitVec 7) (u : CUnit) (sp : Bool),
    let cl := s.cur.core / 4
    let m := s.cur.acting g
    let words := fun l => (List.range ((u.callRegs typ.toNat).getD 4)).map fun i => lane (s.cur.vreg (a + BitVec.ofNat 7 i)) l
    let toLane := fun l => ((words l).getD 1 0).toNat / 2 ^ 24 = 0
    s.cur.unfinished = none → m ≠ 0 → s.cur.core < 192 →
    ((∃ l < 64, m.getLsbD l = true ∧ toLane l ∧ 16 ≤ s.cur.owedTo u l) →
      exec (.qcall g a typ u sp) s = .next { s with cur := { s.cur with wait := .again .calls } }) ∧
    ((∀ l < 64, m.getLsbD l = true → toLane l → s.cur.owedTo u l < 16) → (s.cluster cl).ring u = [] →
      ((s.cluster cl).queue u).length + laneCount m ≤ 256 →
      ∃ t, exec (.qcall g a typ u sp) s = .next t ∧ t.mem = s.mem ∧ t.cur.path.pc = s.cur.path.pc + 2 ∧
        ((t.cluster cl).queue u).map (fun c => (c.grp, c.lane, c.typ, c.words)) =
          ((s.cluster cl).queue u).map (fun c => (c.grp, c.lane, c.typ, c.words)) ++
            (lanesOf m).map (fun l => (s.cur.key, l, typ.toNat, words l)) ∧
        ((∀ l < 64, m.getLsbD l = true → toLane l) → t.cur.owed.map (fun o => (o.unit, o.lane)) =
          s.cur.owed.map (fun o => (o.unit, o.lane)) ++ (lanesOf m).map fun l => (u, l)))

/-- R279 to R281: `qret` gives each acting lane the words of its oldest return record once every lane has one; `qret.trap` does so where
every status is 0, and else traps COPROC with the lowest failing lane's status; a lane with no call raises HANDLE. -/
def Sys2Proof.Claims.CoprocessorReturns : Prop :=
  ∀ (s : State) (g : BitVec 3) (d : Reg) (u : CUnit),
    let m := s.cur.acting g
    s.cur.unfinished = none → m ≠ 0 → (s.cur.owed.map (·.call)).Nodup → d.toNat + returnWords u ≤ 96 →
    ((∃ l < 64, m.getLsbD l = true ∧ s.oldest u l = none) →
      ∃ addr bad, exec (.qret g d u) s =
          .next (State.takeTrap { s with freeCtr := s.freeCtr + 1 } ⟨11, 0, addr, bad, 2, false⟩) ∧
        ∀ l < 64, bad.getLsbD l = true ↔ m.getLsbD l = true ∧ s.oldest u l = none) ∧
    ((∀ l < 64, m.getLsbD l = true → s.oldest u l ≠ none) →
      (∃ l < 64, m.getLsbD l = true ∧ ∀ o r, s.oldest u l = some (o, some r) → s.now < r.ready) →
      exec (.qret g d u) s = .next { s with cur := { s.cur with wait := .again .returns } }) ∧
    (∀ r : Nat → Return, (∀ l < 64, m.getLsbD l = true → (r l).ready ≤ s.now ∧ ∃ o, s.oldest u l = some (o, some (r l))) →
      (∃ t, exec (.qret g d u) s = .next t ∧ t.mem = s.mem ∧ t.cur.path.pc = s.cur.path.pc + 2 ∧
        ∀ l < 64, ∀ i < returnWords u, lane (t.cur.vreg (d + BitVec.ofNat 7 i)) l =
          if m.getLsbD l then (r l).words.getD i 0 else lane (s.cur.vreg (d + BitVec.ofNat 7 i)) l) ∧
      ((∀ l < 64, m.getLsbD l = true → returnStatus (r l) = 0) → exec (.qretTrap g d u) s = exec (.qret g d u) s) ∧
      (∀ bad : Mask, bad ≠ 0 → (∀ l < 64, bad.getLsbD l = true ↔ m.getLsbD l = true ∧ returnStatus (r l) ≠ 0) →
        ∃ gr, exec (.qretTrap g d u) s = .next ((s.setCur gr).takeTrap
            ⟨12, u.code.toNat, BitVec.ofNat 64 (returnStatus (r (lowestLane bad))), bad, 2, false⟩) ∧
          ∀ l < 64, bad.getLsbD l = true → (s.setCur gr).oldest u l = s.oldest u l))

/-- R283, R284: `qtok` gives the next run of a stream's tokens and waits while it would reach too far past the base; of two turns of one
stream and tile at most one may begin; a turn that begins makes its writes once. -/
def Sys2Proof.Claims.ChimeTokens : Prop :=
  (∀ (s : State) (g : BitVec 3) (d a : Reg), Enabled s g [a] → s.cur.core < 192 →
    let cl := s.cur.core / 4
    let w := uval s a
    let n := w.toNat % 16
    let k : Nat := w.toNat / 2 ^ 16 % 2 ^ 9
    let x := (s.cluster cl).chime n
    (w &&& 0xFE00FFF0 ≠ 0 ∨ 256 < k → exec (.qtok g d a) s =
      .next (s.takeTrap ⟨11, 0, w.setWidth 64, s.cur.path.mask, 2, false⟩)) ∧
    (w &&& 0xFE00FFF0 = 0 → k ≤ 256 →
      (2 ^ 31 < x.reserved + k → exec (.qtok g d a) s = .next { s with cur := { s.cur with wait := .again .token } }) ∧
      (x.reserved + k ≤ 2 ^ 31 → ∃ t, exec (.qtok g d a) s = .next t ∧ rebook t.cur s.cur = s.cur.setU d x.counter ∧
        t.mem = s.mem ∧ (t.cluster cl).chime n = { x with counter := x.counter + BitVec.ofNat 32 k } ∧
        ∀ j, j ≠ n → (t.cluster cl).chime j = (s.cluster cl).chime j))) ∧
  (∀ (c : Cluster) (i j : Nat) (t u : Turn), i ≠ j → c.turns[i]? = some t → c.turns[j]? = some u →
    t.stream = u.stream → t.tx = u.tx → t.ty = u.ty → ¬(c.mayBegin i t = true ∧ c.mayBegin j u = true)) ∧
  (∀ (s : State) (cl n : Nat) (tn : Turn) (j : Job), cl < 48 → (s.cluster cl).turns[n]? = some tn →
    tn.body.job = some j.call.key → (s.cluster cl).jobOf j.call.key = some j → s.partHalted j.call.part = false →
    (∀ x, tn.began = some x → s.now < x → exec (.fragmentTurn cl n) s = .next s) ∧
    (tn.began = none → (s.cluster cl).mayBegin n tn = false → exec (.fragmentTurn cl n) s = .next s) ∧
    (tn.began = none → (s.cluster cl).mayBegin n tn = true → 1 < j.left → ∀ w, s.turnStep j tn.body = .ok w →
      ∃ t, exec (.fragmentTurn cl n) s = .next t ∧ t.mem = (s.turnStore j.call.part w.writes).1.mem ∧
        ∃ j1, (t.cluster cl).jobOf j.call.key = some j1 ∧ j1.taken = j.taken + 1 ∧
          j1.passed = j.passed + (if w.passed then 1 else 0)))

/-- A unit of a cluster takes the record at the head of its queue now (R276, R282, R284, R293): the record is not stale and its token
within reach of its stream's base, its caller's accesses are performed, and it returns to a lane of the group in focus. -/
def Sys2Proof.Claims.TakesRecord (s : State) (n : Nat) (u : CUnit) (x : Call) (rest : List Call) : Prop :=
  n < 48 ∧ (s.cluster n).jobs.find? (fun j => j.call.unit == u && j.left == 0) = none ∧ (s.cluster n).queue u = x :: rest ∧
  s.partHalted x.part = false ∧ x.unit = u ∧ x.route = 0 ∧ x.stale = false ∧ (s.cluster n).diff x.stream x.token < 256 ∧
  x.notBefore ≤ s.now ∧ Focused s x.grp

/-- The unit ends the record with a status and some words (R279): its return stands in its lane, zero past its words, and memory is m. -/
def Sys2Proof.Claims.Ends (s : State) (n : Nat) (u : CUnit) (x : Call) (rest : List Call) (m : List Host.Cell) (status : Nat)
    (ws : List Word) : Prop :=
  ∃ t r, exec (.coprocRecord n u) s = .next t ∧ t.mem = m ∧ (t.cluster n).queue u = rest ∧
    t.cur.returns = s.cur.returns ++ [r] ∧ r.unit = u ∧ r.lane = x.lane ∧ r.call = x.key ∧
    r.words = (BitVec.ofNat 32 (status * 2 ^ 24 + u.code.toNat * 2 ^ 20 + x.tag) :: ws ++ List.replicate 8 0).take (returnWords u)

/-- The unit puts some turns of the record behind those of its cluster (R284, R286, R287). -/
def Sys2Proof.Claims.Queues (s : State) (n : Nat) (u : CUnit) (x : Call) (rest : List Call) (d : Nat) (ts : List Turn) : Prop :=
  ∃ t j, exec (.coprocRecord n u) s = .next t ∧ t.mem = s.mem ∧ t.cur = s.cur ∧ (t.cluster n).queue u = rest ∧
    (t.cluster n).turns = (s.cluster n).turns ++ ts ∧ (t.cluster n).jobs = (s.cluster n).jobs ++ [j] ∧ j.call = x ∧ j.pass = d ∧
    j.left = ts.length ∧ j.taken = 0 ∧ j.passed = 0

/-- R278, R284, R286, R287: a record whose header sets a reserved bit ends with BADDESC, a null record only returns, a rasteriser record
puts a turn for each of its fragments on its tile and settles its token, a direct record one for its pixel, or ends with RANGE. -/
def Sys2Proof.Claims.PixelRecords : Prop :=
  ∀ (s : State) (n : Nat) (u : CUnit) (x : Call) (rest : List Call), TakesRecord s n u x rest →
    let ends := fun (status : Nat) (ws : List Word) => Ends s n u x rest s.mem status ws
    let w := x.word
    let px := (w 4).toNat % 2 ^ 16
    let py := (w 4).toNat / 2 ^ 16
    let turn := fun (f : Frag) (b : TurnBody) => (⟨x.stream, f.x / 16, f.y / 16, x.token, b, none, x.key⟩ : Turn)
    ((w 1).extractLsb' 16 4 ≠ 0 → ends 8 []) ∧
    ((w 1).extractLsb' 16 4 = 0 →
      (x.typ = 0 → (w 2 = 0 ∧ w 3 = 0 → ends 0 []) ∧ (¬(w 2 = 0 ∧ w 3 = 0) → ends 8 [])) ∧
      (u = .rast → x.typ = 2 →
        w 14 ≠ 0 ∨ w 15 ≠ 0 ∨ (∃ i, 4 ≤ i ∧ i ≤ 13 ∧ f32Finite (w i) = false) ∨ ratOf (w 7) ≤ 0 ∨ ratOf (w 9) ≤ 0 ∨
          ratOf (w 7) * ratOf (w 9) ≤ ratOf (w 8) ^ 2 ∨ ratOf (w 13) < 0 ∨ 1 < ratOf (w 13) → ends 8 []) ∧
      (u = .rast → x.typ = 1 ∨ (x.typ = 2 ∧ rastBad x = false) → ∀ d, s.readPass x = .ok d →
        let fs := x.fragments (Pass.ofNat d)
        (fs = [] → ends 0 [0, 0]) ∧
        (fs ≠ [] → Queues s n u x rest d (fs.map fun f => turn f (.frag x.key f))) ∧
        ∀ t, exec (.coprocRecord n u) s = .next t →
          (t.cluster n).chime x.stream = ((s.cluster n).chime x.stream).settle x.token) ∧
      ((u = .depth ∧ x.zeros 6 7 = false) ∨ (u = .blend ∧ x.zeros 9 15 = false) → x.typ ≠ 0 → ends 8 []) ∧
      ((u = .depth ∧ x.zeros 6 7 = true) ∨ (u = .blend ∧ x.zeros 9 15 = true) → x.typ ≠ 0 → ∀ d, s.readPass x = .ok d →
        let p := Pass.ofNat d
        (p.width ≤ px ∨ p.height ≤ py → ends 9 []) ∧
        (px < p.width → py < p.height → u = .depth →
          let f : Frag := ⟨px, py, w 5, 0, 0, 0, 0⟩
          Queues s n u x rest d [turn f (.direct x.key f false)]) ∧
        (px < p.width → py < p.height → u = .blend →
          let f : Frag := ⟨px, py, 0, w 6, w 7, w 8, w 5⟩
          Queues s n u x rest d [turn f (.direct x.key f true)])))

/-- R200, R286: the pixels of the viewport that a triangle of finite coordinates covers, with its colour; what the depth step and the colour
step of a turn write, by what a party of class x reads there. -/
def Sys2Proof.Claims.Fragments : Prop :=
  (∀ (x : Call) (p : Pass) (px py : Nat), x.typ = 1 → (∀ i < 9, f32Finite (x.word (4 + i)) = true) →
    let X : ℚ := px + 1 / 2
    let Y : ℚ := py + 1 / 2
    let v := fun i j : Nat => ratOf (x.word (4 + 3 * (i % 3) + j))
    let E := fun (i : Nat) (a b : ℚ) => (a - v i 0) * (v (i + 1) 1 - v i 1) - (b - v i 1) * (v (i + 1) 0 - v i 0)
    let A := E 0 (v 2 0) (v 2 1)
    let dir := fun i j : Nat => if A < 0 then v i j - v (i + 1) j else v (i + 1) j - v i j
    let inside := fun i : Nat => 0 < E i X Y * A ∨ (E i X Y = 0 ∧ (dir i 1 < 0 ∨ (dir i 1 = 0 ∧ 0 < dir i 0)))
    ((∃ f ∈ x.fragments p, f.x = px ∧ f.y = py) ↔ px < p.width ∧ py < p.height ∧ A ≠ 0 ∧ ∀ i < 3, inside i) ∧
    ∀ f ∈ x.fragments p, f.r = x.word 13 ∧ f.g = x.word 14 ∧ f.b = x.word 15 ∧ f.alpha = 0x3F800000) ∧
  (∀ (s : State) (c : Call) (p : Pass) (f : Frag),
    let va := (p.depth + f.y * p.dpitch + 4 * f.x) % 2 ^ 64
    let cva := (p.colour + f.y * p.cpitch + p.size * f.x) % 2 ^ 64
    (p.depth = 0 → s.depthStep c p f = .ok ⟨[], true⟩) ∧
    (p.depth ≠ 0 → ∀ d, s.unitRead c va 4 4 = .ok d →
      let pass := depthTest p.dtest f.z (BitVec.ofNat 32 d)
      (pass = false → s.depthStep c p f = .ok ⟨[], false⟩ ∧ s.fragStep c p f = .ok ⟨[], false⟩) ∧
      (pass = true → p.dwrite = false → s.depthStep c p f = .ok ⟨[], true⟩) ∧
      (pass = true → p.dwrite = true → ∀ y, s.callFate c va 4 true = .go y →
        s.depthStep c p f = .ok ⟨[(y, leBytes 4 f.z.toNat)], true⟩)) ∧
    (∀ y, p.f32 = true → s.callFate c cva 16 p.blends = .go y →
      let old := fun k : Nat => BitVec.ofNat 32 (leNat (s.readParty c.part y 16 .x 0 c.issued) / 2 ^ (32 * k))
      let om := (ieeeF32.subOp .rne 0x3F800000 f.alpha.toNat).1
      let blended := fun (k : Nat) (src : Word) => BitVec.ofNat 32 (ieeeF32.addOp .rne (ieeeF32.mulOp .rne src.toNat f.alpha.toNat).1
        (ieeeF32.mulOp .rne (old k).toNat om).1).1
      let pixel := if p.blends then [blended 0 f.r, blended 1 f.g, blended 2 f.b, blended 3 0x3F800000] else [f.r, f.g, f.b, f.alpha]
      s.colourStep c p f = .ok ⟨[(y, pixel.flatMap fun w => leBytes 4 w.toNat)], true⟩) ∧
    (∀ a b, s.depthStep c p f = .ok ⟨a, true⟩ → s.colourStep c p f = .ok ⟨b, true⟩ → s.fragStep c p f = .ok ⟨a ++ b, true⟩))

/-- R288: the tessellator checks its record, its address before its room (log 42, DEDUCED), writes the vertices of the pattern and from the
next multiple of 16 bytes its primitives, and returns their numbers. -/
def Sys2Proof.Claims.TessellatorRecords : Prop :=
  ∀ (s : State) (n : Nat) (x : Call) (rest : List Call), TakesRecord s n .tess x rest → x.typ ≠ 0 → (x.word 1).extractLsb' 16 4 = 0 →
    let ends := Ends s n .tess x rest
    let out := (x.word 2).toNat + (x.word 3).toNat * 2 ^ 32
    let k := (x.word 4).toNat % 4
    let l := (x.word 4).toNat / 2 ^ 8 % 2 ^ 7
    let bad := x.word 6 ≠ 0 ∨ x.word 7 ≠ 0 ∨ x.word 4 &&& 0xFFFF80FC ≠ 0 ∨ k = 3 ∨ l = 0 ∨ 64 < l
    let vs := tessVertices k l
    let ps := tessPrims k l
    let start := (8 * vs.length + 15) / 16 * 16
    let coord := fun i : Nat => leBytes 4 (ieeeF32.round .rne (FNum.ofQ ⟨i, l⟩)).1
    let vb := vs.flatMap fun v => coord v.1 ++ coord v.2
    let ib := ps.flatMap fun p => p.flatMap fun i => leBytes 2 i
    (bad → ends s.mem 8 []) ∧ (¬bad → out % 16 ≠ 0 → ends s.mem 7 []) ∧
    (¬bad → out % 16 = 0 → (x.word 5).toNat < start + ib.length → ends s.mem 9 []) ∧
    (¬bad → out % 16 = 0 → start + ib.length ≤ (x.word 5).toNat →
      ∀ d1 d2, s.runDests x.base (intPieces (out : Nat) vb.length) = .ok d1 → s.runDests x.base (intPieces ((out + start : Nat) : Int) ib.length) = .ok d2 →
      ends (s.collStore x.part [(d1, vb), (d2, ib)]).1.mem 0 [BitVec.ofNat 32 vs.length, BitVec.ofNat 32 ps.length])

/-- R289, R290: the filter checks its record, its descriptor, its coordinates for a NaN and then for an infinity, and the alignment of its
base, in this order (log 42, DEDUCED); on one axis it returns the nearest texel, or
the weighted sum of the two taps, whose index is clamped, wrapped, or outside under border addressing. -/
def Sys2Proof.Claims.FilterRecords : Prop :=
  ∀ (s : State) (n : Nat) (x : Call) (rest : List Call), TakesRecord s n .filt x rest → x.typ ≠ 0 → (x.word 1).extractLsb' 16 4 = 0 →
    let ends := Ends s n .filt x rest s.mem
    (x.word 7 ≠ 0 → ends 8 []) ∧
    (x.word 7 = 0 → ∀ d, s.unitRead x ((x.word 2).toNat + (x.word 3).toNat * 2 ^ 32) 32 32 = .ok d →
      let t := Texture.ofNat d
      let bad := t.fmt = 3 ∨ t.dims = 0 ∨ ∃ a < 3, t.mode a = 3 ∨ t.size a = 0
      let c := fun a : Nat => f32Num (x.word (4 + a))
      let odd := fun p : FNum → Bool => ∃ a < t.dims, p (c a) = true
      (bad → ends 8 []) ∧
      (¬bad → odd FNum.isNan → ends 1 []) ∧ (¬bad → ¬odd FNum.isNan → odd FNum.isInf → ends 2 []) ∧
      (¬bad → ¬odd FNum.isNan → ¬odd FNum.isInf →
        (t.base % t.bytes ≠ 0 → ends 7 []) ∧
        (t.base % t.bytes = 0 → t.dims = 1 →
          let u : ℚ := ratOf (x.word 4) * t.size 0
          (t.linear = false → ∀ ch, s.texel x t (t.index 0 ⌊u⌋) (some 0) (some 0) = .ok ch →
            ends 0 ((List.range 4).map fun k => addF 0 (mulF 0x3F800000 (ch.getD k 0)))) ∧
          (t.linear = true → ∀ q f ch ch1, FNum.rat q = u - 1 / 2 - ⌊u - 1 / 2⌋ → q.isNan = false → q.isInf = false → q.sign = false →
            f = BitVec.ofNat 32 (ieeeF32.round .rne q).1 →
            s.texel x t (t.index 0 ⌊u - 1 / 2⌋) (some 0) (some 0) = .ok ch →
            s.texel x t (t.index 0 (⌊u - 1 / 2⌋ + 1)) (some 0) (some 0) = .ok ch1 →
            let w0 := BitVec.ofNat 32 (ieeeF32.subOp .rne 0x3F800000 f.toNat).1
            ends 0 ((List.range 4).map fun k => addF (addF 0 (mulF w0 (ch.getD k 0))) (mulF f (ch1.getD k 0))))))) ∧
    (∀ (t : Texture) (a : Nat) (i : Int), 0 < t.size a →
      (t.mode a = 0 → t.index a i = some (max 0 (min i (t.size a - 1))).toNat) ∧ (t.mode a = 1 → t.index a i = some (i % t.size a).toNat) ∧
      (t.mode a = 2 → t.index a i = if 0 ≤ i ∧ i < t.size a then some i.toNat else none))

/-- R291, R292: the traversal unit checks its record; a ray on a hierarchy of one leaf returns the nearest hit, of equal ones the triangle
of lower index, where a leaf of no triangle names no index and so passes no count (log 42, DEDUCED); a ray on a collection the element it enters first, of equal ones the first in order; a box the first element in it and
their number. -/
def Sys2Proof.Claims.TraversalRecords : Prop :=
  ∀ (s : State) (n : Nat) (x : Call) (rest : List Call), TakesRecord s n .trav x rest → (x.word 1).extractLsb' 16 4 = 0 →
    let ends := Ends s n .trav x rest s.mem
    let s1 : State := { s with freeCtr := s.freeCtr + 1 }
    let w := x.word
    let at_ := (w 2).toNat + (w 3).toNat * 2 ^ 32
    let num := fun i : Nat => f32Num (w i)
    let origin := fun p : FNum → Bool => ∃ a < 3, p (num (4 + a)) = true
    let badDir := (∃ a < 3, (num (8 + a)).isNan = true ∨ (num (8 + a)).isInf = true) ∨ ∀ a < 3, (num (8 + a)).isZero = true
    let badEnds := (num 7).isNan = true ∨ (num 11).isNan = true ∨ 0 < (num 7).cmp (num 11)
    let ray := x.typ = 1 ∨ x.typ = 2
    let good := ray ∧ x.zeros 12 15 = true ∧ ¬origin FNum.isNan ∧ ¬origin FNum.isInf ∧ ¬badDir ∧ ¬badEnds
    let found := fun (t : Word) (e : Nat × Nat) => [1, t, BitVec.ofNat 32 e.1, BitVec.ofNat 32 e.2, BitVec.ofNat 32 (e.1 / 2 ^ 32)]
    (ray → x.zeros 12 15 = false → ends 8 []) ∧
    (ray → x.zeros 12 15 = true →
      (origin FNum.isNan → ends 1 []) ∧ (¬origin FNum.isNan → origin FNum.isInf → ends 2 []) ∧
      (¬origin FNum.isNan → ¬origin FNum.isInf → badDir → ends 3 []) ∧
      (¬origin FNum.isNan → ¬origin FNum.isInf → ¬badDir → badEnds → ends 4 [])) ∧
    (good → x.typ = 1 → ∀ d, s.unitRead x at_ 32 1 = .ok d →
      let h := Hierarchy.ofNat d
      (h.nodes % 32 ≠ 0 ∨ h.tris % 16 ≠ 0 → ends 7 []) ∧
      (h.nodes % 32 = 0 → h.tris % 16 = 0 → 0 < h.nodeCount → ∀ nd, s.unitRead x (h.nodes % 2 ^ 64) 32 32 = .ok nd →
        nd / 2 ^ 223 % 2 = 1 →
        let first := nd / 2 ^ 192 % 2 ^ 31
        let cnt := nd / 2 ^ 224 % 2 ^ 32
        (cnt ≠ 0 → h.triCount < first + cnt → ends 9 []) ∧
        (cnt = 0 ∨ first + cnt ≤ h.triCount → (∀ i, first ≤ i → i < first + cnt → s.testTri x h i = .ok .miss) → ends 0 []) ∧
        (first + cnt ≤ h.triCount → ∀ i t u v id, first ≤ i → i < first + cnt → s.testTri x h i = .ok (.hit t u v i id) →
          (∀ j, first ≤ j → j < i → s.testTri x h j = .ok .miss ∨ ∃ t' u' v' id', s.testTri x h j = .ok (.hit t' u' v' j id') ∧
            t.lt t' = true) →
          (∀ j, i < j → j < first + cnt → s.testTri x h j = .ok .miss ∨ ∃ t' u' v' id', s.testTri x h j = .ok (.hit t' u' v' j id') ∧
            (t.lt t' = true ∨ t.eqv t' = true)) →
          ends 0 [1, roundF32 t, BitVec.ofNat 32 id, roundF32 u, roundF32 v]))) ∧
    (good → x.typ = 2 → ∀ c, s1.openColl x.base at_ = .ok c → c.k % 3 = 0 →
      let enters := fun e : Nat × Nat => x.ray.entersCell c.k e.1
      ((∀ e ∈ c.elems, enters e = none) → ends 0 []) ∧
      (∀ before e after t, c.elems = before ++ e :: after → enters e = some t →
        (∀ y ∈ before, ∀ t', enters y = some t' → t.cmp t' < 0) → (∀ y ∈ after, ∀ t', enters y = some t' → ¬t'.cmp t < 0) →
        ends 0 (found (BitVec.ofNat 32 (ieeeF32.round .rne t).1) e))) ∧
    (x.typ = 3 → x.zeros 7 15 = false → ends 8 []) ∧
    (x.typ = 3 → x.zeros 7 15 = true →
      let b := fun i : Nat => (w (4 + i / 2)).toNat / 2 ^ (16 * (i % 2)) % 2 ^ 16
      ((∃ a < 3, b (a + 3) < b a) → ends 4 []) ∧
      ((∀ a < 3, b a ≤ b (a + 3)) → ∀ c, s1.openColl x.base at_ = .ok c → c.k % 3 = 0 →
        let inBox := c.elems.filter fun e => (List.range 3).all fun a =>
          decide (b a ≤ cellCoord c.k e.1 a) && decide (cellCoord c.k e.1 a ≤ b (a + 3))
        (inBox = [] → ends 0 []) ∧
        (∀ e es, inBox = e :: es → ends 0 (found 0 e ++ [BitVec.ofNat 32 inBox.length]))))

/-- R276, R279, R284, R286, R288, R292: a record too far past its stream's base waits; a stale record comes back to its lane with status
10; the depth test's relations; the tessellator's patterns; a hit of the traversal unit lies on the ray and in the triangle. -/
def Sys2Proof.Claims.UnitLaws : Prop :=
  (∀ (s : State) (n : Nat) (u : CUnit) (x : Call) (rest : List Call), n < 48 →
    (s.cluster n).jobs.find? (fun j => j.call.unit == u && j.left == 0) = none → (s.cluster n).queue u = x :: rest →
    s.partHalted x.part = false → x.unit = u → x.route = 0 → Focused s x.grp →
    (x.stale = false → 256 ≤ (s.cluster n).diff x.stream x.token → exec (.coprocRecord n u) s = .next s) ∧
    (x.stale = true → x.notBefore ≤ s.now → ∃ t r, exec (.coprocRecord n u) s = .next t ∧ t.mem = s.mem ∧
      (t.cluster n).queue u = rest ∧ t.cur.returns = s.cur.returns ++ [r] ∧ r.unit = u ∧ r.lane = x.lane ∧ r.call = x.key ∧
      returnStatus r = 10 ∧ r.words.length = returnWords u ∧ (r.words.headD 0).toNat % 2 ^ 16 = x.tag)) ∧
  (∀ z d : Word, (f32Num z).isNan = false → (f32Num z).isInf = false → (f32Num d).isNan = false → (f32Num d).isInf = false →
    depthTest 0 z d = true ∧ (depthTest 1 z d = true ↔ FNum.rat (f32Num z) < FNum.rat (f32Num d)) ∧
    (depthTest 2 z d = true ↔ FNum.rat (f32Num z) ≤ FNum.rat (f32Num d)) ∧
    (depthTest 3 z d = true ↔ FNum.rat (f32Num d) < FNum.rat (f32Num z)) ∧
    (depthTest 4 z d = true ↔ FNum.rat (f32Num d) ≤ FNum.rat (f32Num z)) ∧ depthTest 5 z d = false) ∧
  (∀ l : Nat, (tessVertices 0 l).length * 2 = (l + 1) * (l + 2) ∧ (tessPrims 0 l).length = l * l ∧
    (∀ i j, i + j ≤ l → (tessVertices 0 l)[triVertex l i j]? = some (i, j)) ∧
    (tessVertices 1 l).length = (l + 1) * (l + 1) ∧ (tessPrims 1 l).length = 2 * l * l ∧
    (tessVertices 2 l).length = l + 1 ∧ (tessPrims 2 l).length = l ∧
    ∀ k < 3, ∀ p ∈ tessPrims k l, ∀ i ∈ p, i < (tessVertices k l).length) ∧
  (∀ (r : Ray) (v : Nat → Nat → Q) (t u w : Q),
    let rat := fun q : Q => (q.num : ℚ) / q.den
    (∀ a, 0 < (r.o a).den ∧ 0 < (r.d a).den ∧ ∀ i, 0 < (v i a).den) → r.triangle v = some (t, u, w) →
    0 ≤ rat u ∧ 0 ≤ rat w ∧ rat u + rat w ≤ 1 ∧ r.holds t = true ∧
    ∀ a < 3, rat (r.o a) + rat t * rat (r.d a) =
      (1 - rat u - rat w) * rat (v 0 a) + rat u * rat (v 1 a) + rat w * rat (v 2 a))

/-- R295, R296: `tsec.enter` takes its turn at once, or waits for it with its request in place; `tsec.exit` gives the turn up; four
sections are the most a group has; a wait past the group's limit traps SECTION-TIMEOUT. That HANDLE puts operand b in `trapa` is the model's
choice (log 16, DESIGN CHOICE), and that a wait counts from its first execution its reading (log 27, DEDUCED). -/
def Sys2Proof.Claims.TileSections : Prop :=
  ∀ (s : State) (g : BitVec 3) (a b : Reg), s.cur.core < 192 →
    let tok := uval s a
    let w := uval s b
    let cl := s.cur.core / 4
    let c := s.cluster cl
    let turn := sectTurn s.cur.key s.nextKey tok w
    let c1 := Cluster.settle { c with turns := c.turns ++ [turn] } turn.stream tok
    let handle := Host.Outcome.next (φ := Fault) (ρ := Refusal) (s.takeTrap ⟨11, 0, w.setWidth 64, s.cur.path.mask, 2, false⟩)
    (Enabled s g [a, b] →
      (w.extractLsb' 28 4 ≠ 0 → exec (.tsecEnter g a b) s = handle) ∧
      (w.extractLsb' 28 4 = 0 → s.cur.sections.find? (fun x => x.b == w) = none →
        (4 ≤ s.cur.sections.length → exec (.tsecEnter g a b) s = handle) ∧
        (s.cur.sections.length < 4 → c.findSect s.cur.key tok w = none →
          (c1.mayBegin c.turns.length turn = true → ∃ t, exec (.tsecEnter g a b) s = .next t ∧ t.mem = s.mem ∧
            t.cur.sections = s.cur.sections ++ [⟨tok, w, true, none⟩] ∧ t.cur.path.pc = s.cur.path.pc + 2) ∧
          (c1.mayBegin c.turns.length turn = false → ∃ t, exec (.tsecEnter g a b) s = .next t ∧ t.mem = s.mem ∧
            t.cur.sections = s.cur.sections ++ [⟨tok, w, false, some s.now⟩] ∧ t.cur.path.pc = s.cur.path.pc ∧
            t.cur.wait = .again .turn ∧ (t.cluster cl).turns = c.turns ++ [turn]))) ∧
      (s.cur.sections.find? (fun x => x.token == tok && x.b == w) = none → exec (.tsecExit g a b) s = handle) ∧
      (∀ x, s.cur.sections.find? (fun x => x.token == tok && x.b == w) = some x →
        (x.held = true → s.releasable allObs = false → exec (.tsecExit g a b) s =
          .next { s with cur := { s.cur with wait := .again .order } }) ∧
        (x.held = true → s.releasable allObs = true → ∃ t, exec (.tsecExit g a b) s = .next t ∧ t.mem = s.mem ∧
          t.cur.sections = s.cur.sections.filter (fun y => !(y.token == tok && y.b == w)) ∧
          t.cur.path.pc = s.cur.path.pc + 2))) ∧
    (Focused s s.cur.key → s.cur.wait = .again .turn → s.partHalted s.cur.part = false →
      let limit := s.cur.sect.toNat % 2 ^ 20 * 1000
      limit ≠ 0 → (∃ x ∈ s.cur.sections, x.held = false ∧ ∃ t, x.since = some t ∧ t + limit < s.now) →
      exec (.sectionTimeout s.cur.key) s = .next (State.takeTrap
        { s with cur := { s.cur with sections := s.cur.sections.map fun x => { x with since := none } } }
        ⟨13, 0, 0, s.cur.path.mask, 2, true⟩))

/-- R273, R277: what a ring holds comes back to its queue in its order while the queue has room; a consumer with a batch of records, or
whose oldest record has waited 10 µs, gets a launch of its template with the batch's place in its first arguments. -/
def Obligations.SpillAndConsumers : Prop :=
  (∀ (s : State) (grp q : Nat), Focused s grp → q < 16 → ∃ p, exec (.queueSpillRefill (.port grp q)) s =
      .next { s with cur := s.cur.setPort q p } ∧ p.elems ++ p.ring = (s.cur.port q).elems ++ (s.cur.port q).ring ∧
      ((s.cur.port q).elems.length ≤ 256 → p.elems.length = min 256 ((s.cur.port q).elems ++ (s.cur.port q).ring).length)) ∧
  (∀ (s : State) (cl : Nat) (u : CUnit), cl < 48 → ((s.cluster cl).queue u).length ≤ 256 →
    let all := fun c : Cluster => (c.queue u ++ c.ring u).map fun x => (x.grp, x.lane, x.typ, x.words)
    ∃ t, exec (.queueSpillRefill (.calls cl u)) s = .next t ∧ t.mem = s.mem ∧ all (t.cluster cl) = all (s.cluster cl) ∧
      ((t.cluster cl).queue u).length = min 256 (all (s.cluster cl)).length) ∧
  (∀ (s : State) (part n : Nat) (p : Partition) (c : Consumer) (bs : List Byte),
    s.part? part = some p → p.consumers.find? (fun c => c.n == n) = some c → s.readIA part c.tmpl 128 = .ok bs →
    let m := min c.batch c.held.length
    let due := c.batch ≤ c.held.length ∨ ∃ h, c.held.head? = some h ∧ h.1 + 10000 ≤ s.now
    (m = 0 ∨ ¬due → exec (.consumerWaitExpiry part n) s = .next s) ∧
    (m ≠ 0 → due → (∀ h ∈ c.held.take m, h.2 ≤ s.now) → c.ringcap < 2 ^ 32 → c.tail < c.ringcap → c.held.length ≤ c.ringcap →
      ∃ t l, exec (.consumerWaitExpiry part n) s = .next t ∧ t.mem = s.mem ∧ t.launches = s.launches ++ [l] ∧ l.part = part ∧
        l.eligible = true ∧ launchTotal l.entry = 1 ∧
        let first := (c.tail + c.ringcap - c.held.length % c.ringcap) % c.ringcap
        l.consumer = some (n, first, m) ∧ fieldN l.entry 575 512 = (c.ring + first * 2 ^ c.rsz) % 2 ^ 64 ∧
        fieldN l.entry 607 576 = m ∧ fieldN l.entry 639 608 = c.ringcap - first ∧ fieldN l.entry 703 640 = c.ring % 2 ^ 64 ∧
        fieldN l.entry 157 128 = leNat bs / 2 ^ 128 % 2 ^ 30))

/-- R300 to R302: a precondition's word makes its launch eligible where the relation holds; a launch with a wrong dimension is refused
with the lowest reason, its record names it, and its queue entry goes; a cohort skipped for 100 µs is reserved. -/
def Sys2Proof.Claims.LaunchQueue : Prop :=
  ∀ (s : State) (part key : Nat) (l : Launch), s.launch? part key = some l →
    (∀ x, l.eligible = false → l.read s = .value x →
      let rel := l.precond.toNat % 4
      let v := l.precond.toNat / 2 ^ 64 % 2 ^ 64
      let holds := rel = 0 ∨ (rel = 1 ∧ v ≤ x) ∨ (rel = 2 ∧ x = v) ∨ (rel = 3 ∧ x ≠ v)
      (holds → ∃ t, exec (.preconditionRead part key) s = .next t ∧ t.launch? part key =
          some { l with eligible := true, lastRead := s.now } ∧ { t with launches := s.launches } = s) ∧
      (¬holds → ∃ t, exec (.preconditionRead part key) s = .next t ∧ t.launch? part key = some { l with lastRead := s.now } ∧
        { t with launches := s.launches } = s)) ∧
    (∀ p r, s.part? part = some p → l.pending = true → s.refusal p l = some r →
      ∃ t, exec (.launchRefused part key) s = .next t ∧ t.cur = s.cur ∧ t.others = s.others ∧ t.mem = s.mem ∧
        (∀ x ∈ t.launches, x.key = key → x.queued = false ∧ x.pending = false) ∧
        ∀ c d, s.launchChain l = .ok c → effective c 6 371 320 = some d → ∃ f, t.faults = s.faults ++ [f] ∧ f.part = part ∧
          f.faultdom = d ∧ f.bits.extractLsb' 0 8 = 4 ∧ f.bits.extractLsb' 8 8 = 0 ∧ f.bits.extractLsb' 320 64 = BitVec.ofNat 64 r ∧
          f.bits.extractLsb' 384 64 = l.addr ∧ f.bits.extractLsb' 256 30 = l.entry.extractLsb' 128 30) ∧
    (∀ p, l.eligible = true → (∀ ia, s.launchChain l ≠ .error (.wait ia)) →
      let n := launchTotal l.entry
      (n = 0 ∨ 2 ^ 32 < n → s.refusal p l = some 1) ∧
      (0 < n → n ≤ 2 ^ 32 → 64 < fieldN l.entry 236 230 * (fieldN l.entry 229 226 + 1) → s.refusal p l = some 2)) ∧
    (∀ t0, l.skipped = some t0 →
      (t0 + 100000 ≤ s.now → ∃ t, exec (.cohortReserved part key) s = .next t ∧
        t.launch? part key = some { l with reserved := true } ∧ { t with launches := s.launches } = s) ∧
      (s.now < t0 + 100000 → exec (.cohortReserved part key) s = .next s))

/-- R32, R302, R305: the launches come by class, and within a class in the order of acceptance, which is that of the launches; head cohorts
that their budgets do not admit, or that fit no core, are passed over and counted as skipped, and the first that is admitted goes to the
lowest core it fits; a reserved one that does not go holds back all that come after it; the groups start at the entry with the arguments, every
other register clear. -/
def Sys2Proof.Claims.LaunchDispatch : Prop :=
  (∀ (s : State) (p : Partition), (s.candidates p).Pairwise fun a b => b.prio ≤ a.prio) ∧
  (∀ (s : State) (p : Partition) (k : Nat), List.Sublist (((s.candidates p).filter fun c => decide (c.prio = k)).map (·.launch)) s.launches) ∧
  (∀ (s : State) (p : Partition) (e : BitVec 1024) (core : Nat) (x : List (Nat × Nat) × Nat × Nat), s.fitAny p e = some (core, x) →
    s.fitCore p e core = some x ∧ x.1.length = fieldN e 229 226 + 1 ∧ core ∈ s.coresOf p ∧
      ∀ c ∈ s.coresOf p, c < core → s.fitCore p e c = none) ∧
  (∀ (s : State) (part : Nat) (p : Partition) (c : Candidate) (passed rest : List Candidate) (core tile line : Nat)
    (places : List (Nat × Nat)) (ranges : List RangeEnt),
    s.part? part = some p → p.halted = false →
    let s1 := s.readChains p
    let admitted := fun x : Candidate => ∃ chain, x.chain = some chain ∧
      s1.withinBudget part (fieldN x.launch.entry 229 226 + 1) (fieldN x.launch.entry 279 256) true chain = true ∧
      (s1.fitAny p x.launch.entry).isSome = true
    s1.candidates p = passed ++ c :: rest → (∀ x ∈ passed, x.chain ≠ none ∧ x.launch.reserved = false ∧ ¬admitted x) →
    (c.chain ≠ none → c.launch.reserved = true → ¬admitted c → ∃ t, exec (.launchDispatch part) s = .next t ∧ t.others = s.others ∧
      t.cohorts = s.cohorts ∧ ∀ y ∈ t.launches, y.key = c.launch.key → y.skipped ≠ none) ∧
    ∀ chain, c.chain = some chain →
    let e := c.launch.entry
    let n := fieldN e 229 226 + 1
    s1.withinBudget part n (fieldN e 279 256) true chain = true → s1.fitAny p e = some (core, places, tile, line) →
    s1.loadRanges part ((effective chain 8 499 448).getD 0) = .ok ranges →
    ∃ t gs, exec (.launchDispatch part) s = .next t ∧ t.others = s.others ++ gs ∧ t.cur = s.cur ∧ t.mem = s.mem ∧
      (∀ x ∈ passed, x.launch.key ≠ c.launch.key → ∀ y ∈ t.launches, y.key = x.launch.key → y.skipped ≠ none) ∧
      gs.length = n ∧ (∃ co, t.cohorts = s.cohorts ++ [co] ∧ co.members = gs.map (·.key) ∧ co.cid = c.launch.nextCid) ∧
      ∀ i < n, ∃ gr, gs[i]? = some gr ∧ gr.live = true ∧ gr.gid = BitVec.ofNat 4 i ∧ gr.cid = BitVec.ofNat 32 c.launch.nextCid ∧
        gr.core = core ∧ (gr.slot, gr.octet) = places.getD i (0, 0) ∧ gr.width = 8 * 2 ^ fieldN e 225 224 ∧
        gr.path = ⟨true, e.extractLsb' 128 30, widthMask gr.width, 0x3FFFFFFF⟩ ∧ gr.otherPath.live = false ∧
        gr.rvcap = e.extractLsb' 280 16 ∧ gr.rvdepth = 0 ∧ gr.stgFirst = line ∧ gr.stgLines = fieldN e 279 256 ∧
        gr.tileBase = tile + i * fieldN e 236 230 ∧ gr.tileCount = fieldN e 236 230 ∧ gr.wait = .none ∧
        (∀ k < 32, gr.greg (BitVec.ofNat 7 (96 + k)) = if k < 16 then e.extractLsb' (512 + 32 * k) 32 else 0) ∧
        gr.v = Vector.replicate 96 (Vector.replicate 64 0) ∧ gr.p = Vector.replicate 7 0 ∧ gr.c = 0 ∧ gr.xregs = [])

/-- R22, R225 to R227: pre-empting a partition takes its groups off their cores and keeps them, with what spills into rings in memory; restoring
it, then or later, brings every one back as it was: its cycles waited (R45, R48) and the waits of its section requests (R296) count on from
where they stood, load ports go back to their first unpopped element, a trap not yet entered is taken again by its instruction, in the lanes
that it had left to do (log 30, DEDUCED), and the block image of an iterator that buffers one is read back from the ring it was written to;
with the tiles, companding tables, copy commands and coprocessor queues of its cores and clusters. -/
def Obligations.PreemptionAndRestoration : Prop :=
  ∀ (s : State) (part : Nat) (p : Partition), s.part? part = some p → p.halted = false → s.settled p = true →
    (s.groups.map (·.key)).Nodup → (∀ gr ∈ s.saved, gr.part ≠ part) →
    (∀ gr ∈ s.groups, gr.part = part → gr.pushes = [] ∧ gr.pushesLeft = false ∧ gr.late = [] ∧ s.imagePages gr false = [] ∧
      p.hasCore gr.core = true ∧ (PartKind.core, gr.core) ∉ s.fenced ∧ p.hasShare gr.stgFirst gr.stgLines = true) →
    SMap.wf 0 s.tileCfg = true → Memory.wf s.tiles = true → SMap.wf none s.compand = true →
    SMap.wf EngSlot.idle s.copySlots = true → SMap.wf none s.shadowStore = true →
    ∃ t, exec (.preempt part) s = .next t ∧ (∀ gr ∈ t.groups, gr.part ≠ part) ∧ s.partHalted part = false ∧
      t.partHalted part = true ∧ t.mem = (s.spillPart p).mem ∧ t.stage = (s.spillPart p).stage ∧
      (∀ d < 4, (∃ k < 12, p.clusters.getLsbD (12 * d + k) = true) → SMap.get none t.shadowStore d = some part) ∧
      ((∀ gr ∈ s.groups, gr.part = part → gr.returns = [] ∧ ∀ it ∈ gr.iters.toList, it.opened = true → it.buf = []) →
        (∀ n < 48, p.clusters.getLsbD n = true → ∀ u, ∀ x ∈ (s.cluster n).queue u, x.part ≠ part) → t.mem = s.mem ∧ t.stage = s.stage) ∧
      ∀ now cycle : Nat,
        let later := { t with now := now, cycle := cycle }
        (∀ gr ∈ later.saved, gr.part = part → later.imagePages gr true = []) →
        let back := fun gr : Group =>
          let g1 := match gr.pendingTrap with
            | none => gr
            | some x => { gr with pendingTrap := none, wait := .again .presence, unfinished := gr.redo x }
          let on := fun c : Nat => cycle - (s.cycle - c)
          { g1 with
            since := on gr.since, lastIssue := gr.lastIssue.map on, agedAt := gr.agedAt.map on
            sections := gr.sections.map fun x => { x with since := x.since.map fun c => now - (s.now - c) }
            iters := (later.iterRestored (((s.spillPart p).withoutShadow p).iterSpilled gr)).iters
            ports := gr.ports.map fun q =>
              if q.bound = true ∧ q.kind ≠ 2 ∧ (q.elems ≠ [] ∨ q.ring ≠ []) then
                { q with elems := [], ring := [], pos := q.used, fault := none, paused := false }
              else q }
        ∃ u, exec (.restore part) later = .next u ∧ u.partHalted part = false ∧ u.mem = t.mem ∧ u.stage = t.stage ∧
          (∀ gr ∈ s.groups, (if gr.part = part then back gr else gr) ∈ u.groups) ∧
          (∀ gr ∈ s.groups, (∀ it ∈ gr.iters.toList, it.spilled = false ∧ (it.opened = true → it.buf = [])) →
            (back gr).iters = gr.iters) ∧
          (∀ k, SMap.get 0 u.tileCfg k = SMap.get 0 s.tileCfg k) ∧ (∀ k, SMap.get 0 u.tiles k = SMap.get 0 s.tiles k) ∧
          (∀ k, SMap.get none u.compand k = SMap.get none s.compand k) ∧
          (∀ k, SMap.get EngSlot.idle u.copySlots k = SMap.get EngSlot.idle s.copySlots k) ∧ u.clusters = s.clusters

/-- R175, R306 to R308: a slot's ranking holds its ready groups, and none whose instruction waits; in a cycle of the slot those that issue come
in that order, at most four with a lane instruction, on octets that none shares, and at most one with a uniform one, and a group is passed
over only for want of such a place; a ready group that has not issued long enough becomes aged. What an instruction waits for, and when that
is looked at again, is the model's (log 11, DESIGN CHOICE; log 19, DEDUCED); an aged group stays aged over a pre-emption (log 30, DEDUCED). -/
def Obligations.IssueCycle : Prop :=
  (∀ (s : State) (core slot : Nat), ∃ gs : List Group,
    exec (.slotIssueCycle core slot) s = .next { s with agenda := gs.map (fun gr => Sched.issue gr.key false false) ++ s.agenda } ∧
    gs.Sublist (s.ranking core slot) ∧
    let lanes := gs.filter fun gr => decide (s.nextIsLane gr.key = some true)
    lanes.length ≤ 4 ∧ (lanes.Pairwise fun a b => ∀ o ∈ a.octets, o ∉ b.octets) ∧
    (gs.filter fun gr => decide (s.nextIsLane gr.key = some false)).length ≤ 1 ∧
    ∀ gr ∈ s.ranking core slot, gr ∉ gs →
      (s.nextIsLane gr.key = some true ∧ (lanes.length = 4 ∨ ∃ a ∈ lanes, ∃ o ∈ gr.octets, o ∈ a.octets)) ∨
      (s.nextIsLane gr.key = some false ∧ ∃ a ∈ gs, s.nextIsLane a.key = some false)) ∧
  (∀ (s : State) (core slot : Nat),
    (∀ gr : Group, gr ∈ s.ranking core slot ↔ gr ∈ s.groups ∧ gr.ready = true ∧ gr.core = core ∧ gr.slot = slot) ∧
    (s.ranking core slot).Pairwise fun a b => keyLe (s.rankKey (slotLrr (s.residents core slot)) a)
      (s.rankKey (slotLrr (s.residents core slot)) b) = true) ∧
  (∀ (gr : Group) (h : Hold), gr.wait = .again h → h ≠ .ready → (∀ x, h ≠ .status x) → gr.ready = false) ∧
  (∀ (s : State) (grp : Nat), Focused s grp → s.cur.ready = true → s.cur.agedAt = none →
    let t0 := max (s.cur.lastIssue.getD 0) s.cur.since
    (t0 + s.ageLimit s.cur.core s.cur.slot ≤ s.cycle →
      exec (.groupAged grp) s = .next { s with cur := { s.cur with agedAt := some s.cycle } }) ∧
    (s.cycle < t0 + s.ageLimit s.cur.core s.cur.slot → exec (.groupAged grp) s = .next s)) ∧
  (∀ (s : State) (grp : Nat), Focused s grp → s.cur.ready = false → exec (.groupAged grp) s = .next s)

/-- R145, R146, R173, R223: the ends of waits: a sleeping group goes on at its deadline, a phase ends once every counted group has
arrived, a parked group replays once every page it waits for is resolved; and a fault record takes its place in its area before the count rises. -/
def Obligations.WaitsAndRecords : Prop :=
  (∀ (s : State) (grp d : Nat), Focused s grp → s.cur.wait = .sleep d →
    (d ≤ s.now → exec (.sleepDeadline grp) s = .next { s with cur := { s.cur with wait := .none } }) ∧
    (s.now < d → exec (.sleepDeadline grp) s = .next s)) ∧
  (∀ (s : State) (grp : Nat) (pages : List Nat), Focused s grp → s.cur.wait = .parked pages →
    let unresolved := ∃ ia ∈ pages, s.walk s.cur.part ia = .replay ∨ s.walk s.cur.part ia = .moving
    (¬unresolved → s.cur.pendingTrap = none →
      exec (.parkedReplay grp) s = .next { s with cur := { s.cur with wait := .again .presence } }) ∧
    (unresolved → exec (.parkedReplay grp) s = .next s)) ∧
  (∀ (s : State) (c : Cohort), s.cohorts.find? (fun x => x.key == c.key) = some c →
    ((∃ m ∈ c.members, m ∉ c.arrived) → exec (.barrierPhaseComplete c.key) s = .next s) ∧
    ((∀ m ∈ c.members, m ∈ c.arrived) → ∃ t, exec (.barrierPhaseComplete c.key) s = .next t ∧ t.mem = s.mem ∧
      ∀ x ∈ s.others, x.cohort = c.key → x.wait = .bar → x.key ∈ c.members → { x with wait := Wait.none } ∈ t.others)) ∧
  (∀ (s : State) (n : Nat) (r : FaultRec) (d0 d : Dest), s.faults[n]? = some r →
    (∀ x ∈ s.faults.take n, ¬(x.part = r.part ∧ x.faultdom = r.faultdom)) →
    let dropped := Host.Outcome.next (φ := Fault) (ρ := Refusal)
      { s with faults := s.faults.eraseIdx n, out := s.out ++ [.notice "fault record not written"] }
    (∀ cause, s.areaFate r 0 8 true = .trap cause → exec (.faultRecord n) s = dropped) ∧
    (s.areaFate r 0 8 true = .go d0 →
    let count := leNat (s.readOwned r.part d0 8)
    let s1 := s.writeDest r.part d (leBytes 64 r.bits.toNat) 0
    let count1 := fun (x : State) => leBytes 8 (leNat (x.readOwned r.part d0 8) + 1)
    (∀ cause, r.written = none → s.areaFate r (64 + 64 * (count % 63)) 64 false = .trap cause → exec (.faultRecord n) s = dropped) ∧
    (r.written = none → s.areaFate r (64 + 64 * (count % 63)) 64 false = .go d →
      let seen := (s.writeTimes d).toList.foldl Nat.max 0
      (s.now < seen → ∃ t, exec (.faultRecord n) s = .next t ∧ t.mem = s1.mem ∧ t.faults.length = s.faults.length) ∧
      (seen ≤ s.now → ∃ t, exec (.faultRecord n) s = .next t ∧ t.mem = (s1.writeDest r.part d0 (count1 s1) 0).mem ∧
        t.faults = s.faults.eraseIdx n)) ∧
    (∀ t0, r.written = some t0 →
      (s.now < t0 → exec (.faultRecord n) s = .next s) ∧
      (t0 ≤ s.now → ∃ t, exec (.faultRecord n) s = .next t ∧ t.mem = (s.writeDest r.part d0 (count1 s) 0).mem ∧
        t.faults = s.faults.eraseIdx n))))

/-- R22, R164, R165, R170 to R172, R203, R325: a reported fault is resolved by entries of the tables its walk visits, which take no memory that is
taken and no fenced part (log 28, DEDUCED, and log 37, DESIGN CHOICE); a page migrates, in every table that has it, once every lease on its lines has ended, with
all its bytes, once the accesses past translation are done, and every line of it that the L2 held is written back, which counts; the hot count;
cached lines that move between slices, each with room for them (log 7, DESIGN CHOICE); leases that end; soft errors, of which one in a shadow
store strikes the partition saved there (log 38, DESIGN CHOICE). -/
def Obligations.PagesAndLines : Prop :=
  (∀ (s : State) (part : Nat) (ia : BitVec 52) (p : Partition) (es : List (Nat × BitVec 128)), s.part? part = some p →
    let s1 := s.writeEntries es
    let inTables := ∀ e ∈ es, e.1 % 16 = 0 ∧ physPresent e.1 = true ∧ s1.onWalk ia.toNat e.1 4 0 p.root = true
    let keeps := (∀ u ∈ s.usesOf p, u ∈ s1.usesOf p) ∧ ∀ u ∈ s1.usesOf p, u ∉ s.usesOf p → s1.useOk part u = true
    let settles := s1.walk part ia.toNat ≠ .replay ∧ s1.walk part ia.toNat ≠ .moving
    let good := OutMsg.pageFault part ia.toNat ∈ s.out ∧ inTables ∧ keeps ∧ settles
    (good → exec (.pageFaultResolve part ia es) s = .next { s1 with out := s.out.erase (.pageFault part ia.toNat) }) ∧
    (¬good → exec (.pageFaultResolve part ia es) s = .next s)) ∧
  (∀ (s : State) (part : Nat) (ia : BitVec 52) (pa home size leaf : Nat) (wp : Bool), Memory.wf s.mem = true →
    s.walk part ia.toNat = .resident pa wp home size leaf →
    let s1 := s.finishChunks.flushAllLate
    let us := s1.leavesOf (pa / size * size) size
    (∃ u ∈ s.leavesOf (pa / size * size) size, u.slot = leaf ∧ u.entry = leNat (readBytes s.mem leaf 16)) ∧
    (s.alone (pa / size * size) size = false → exec (.pageMigrationStart part ia) s = .next s) ∧
    (s.alone (pa / size * size) size = true → Memory.wf s1.mem = true → ∃ t, exec (.pageMigrationStart part ia) s = .next t ∧
      { t with mem := s1.mem } = s1 ∧
      (∀ k, (∀ u ∈ us, k < u.slot ∨ u.slot + 16 ≤ k) → SMap.get 0 t.mem k = SMap.get 0 s1.mem k) ∧
      ∀ u ∈ us, (∀ v ∈ us, v.slot = u.slot ∨ v.slot + 16 ≤ u.slot ∨ u.slot + 16 ≤ v.slot) →
        let e := leNat (readBytes s1.mem u.slot 16)
        let e1 := leNat (readBytes t.mem u.slot 16)
        e1 / 2 ^ 6 % 4 = 1 ∧ e1 % 2 ^ 6 = e % 2 ^ 6 ∧ e1 / 2 ^ 8 = e / 2 ^ 8)) ∧
  (∀ (s : State) (part : Nat) (ia : BitVec 52) (pfn : BitVec 29) (tier : Bool) (home : BitVec 6) (p : Partition) (leaf size e : Nat),
    Memory.wf s.mem = true → s.part? part = some p → s.migratingFrom ia.toNat 4 0 p.root = some (leaf, size, e) →
    let frame := pfn.toNat * 65536
    let old := e / 2 ^ 48 % 2 ^ 29 * 65536
    let us := s.leavesOf old size
    let first := ia.toNat / size * size / 128
    let ofPage := fun line => first ≤ line ∧ line < first + size / 128
    let free := s.frameOk frame size tier = true ∧ s.frameFree old frame size = true ∧ (PartKind.slice, home.toNat) ∉ s.fenced
    (¬free ∨ (∃ r ∈ s.replicas, ofPage r.line ∧ s.now < r.expiry) → exec (.pageMigrationEnd part ia pfn tier home) s = .next s) ∧
    (free → (∀ r ∈ s.replicas, ofPage r.line → r.expiry ≤ s.now) → ∃ t, exec (.pageMigrationEnd part ia pfn tier home) s = .next t ∧
      (∀ r ∈ t.replicas, ¬ofPage r.line) ∧ (∀ k, ofPage k → SMap.get none t.l2 k = none ∧ SMap.get none t.moved k = none) ∧
      let back := s.l2.filter fun e => decide (first ≤ e.1 ∧ e.1 < first + size / 128)
      (∀ k < size, (∀ u ∈ us, frame + k < u.slot ∨ u.slot + 16 ≤ frame + k) →
        SMap.get 0 t.mem (frame + k) = SMap.get 0 s.mem (old + k)) ∧
      ∀ u ∈ us, (∀ v ∈ us, v.slot = u.slot ∨ v.slot + 16 ≤ u.slot ∨ u.slot + 16 ≤ v.slot) →
        let hot := leNat (readBytes s.mem u.slot 16) / 2 ^ 112 % 2 ^ 16
        let e1 := leNat (readBytes t.mem u.slot 16)
        e1 / 2 ^ 48 % 2 ^ 29 = pfn.toNat ∧ e1 / 2 ^ 5 % 2 = tier.toNat ∧ e1 / 2 ^ 96 % 2 ^ 6 = home.toNat ∧ e1 / 2 ^ 6 % 4 = 0 ∧
          e1 / 2 ^ 112 % 2 ^ 16 = min 0xFFFF (hot + back.length))) ∧
  (∀ (s : State) (n leaf t0 : Nat), s.hotPending[n]? = some (leaf, t0) → Memory.wf s.mem = true →
    ∃ t, exec (.hotUpdate n) s = .next t ∧ t.hotPending = s.hotPending.eraseIdx n ∧
      leNat (readBytes t.mem (leaf + 14) 2) = min 0xFFFF (leNat (readBytes s.mem (leaf + 14) 2) + 1) ∧
      ∀ k, k ≠ leaf + 14 → k ≠ leaf + 15 → SMap.get 0 t.mem k = SMap.get 0 s.mem k) ∧
  (∀ (s : State) (line slice part pa home size leaf : Nat) (wp : Bool), s.partOfLine line = some part →
    s.walk part (line * 128) = .resident pa wp home size leaf → SMap.wf none s.moved = true →
    let goes := slice < 64 ∧ (PartKind.slice, slice) ∉ s.fenced ∧ SMap.get none s.l2 line ≠ none ∧ s.ownerOf line ≠ some slice
    let s1 := s.makeRoom slice
    (¬goes → exec (.lineMigrate line slice) s = .next s) ∧
    (s.l2.length < 32768 → s1 = s) ∧
    (goes → SMap.wf none s1.moved = true → ∃ t, exec (.lineMigrate line slice) s = .next t ∧
      { t with moved := s1.moved } = s1 ∧ ∀ k, SMap.get none t.moved k =
        if k = line then (if slice = home then none else some slice) else SMap.get none s1.moved k) ∧
    (SMap.get none s.moved line ≠ none → SMap.wf none s.l2 = true → ∃ t, exec (.lineEvict line) s = .next t ∧
      SMap.get none t.moved line = none ∧ SMap.get none t.l2 line = none ∧
      t.hotPending = s.hotPending ++ [(leaf, s.now)] ∧ t.mem = s.mem)) ∧
  (∀ (s : State) (n : Nat) (r : Replica), s.replicas[n]? = some r →
    (r.expiry ≤ s.now → exec (.leaseExpiry n) s = .next { s with replicas := s.replicas.eraseIdx n }) ∧
    (s.now < r.expiry → exec (.leaseExpiry n) s = .next s)) ∧
  (∀ (s : State) (die line : Nat), SMap.wf none s.poison = true → (∀ gr ∈ s.groups, gr.late = []) →
    (die < 4 → exec (.eccCorrectable die) s = .next (s.sample (5 * 1024 + die) 1)) ∧
    (physPresent (line * 128) = true → ∃ t, exec (.eccUncorrectable .memory line) s = .next t ∧ t.mem = s.mem ∧
      t.poisoned false line = true ∧ ∀ k, k ≠ line → SMap.get none t.poison k = SMap.get none s.poison k) ∧
    (line < 2097152 → ∃ t, exec (.eccUncorrectable .stage line) s = .next t ∧ t.stage = s.stage ∧ t.poisoned true line = true) ∧
    (SMap.get none s.shadowStore die = none → exec (.eccUncorrectable (.shadow die) line) s = .next s) ∧
    (∀ n, SMap.get none s.shadowStore die = some n → line < 524288 → ∃ t, exec (.eccUncorrectable (.shadow die) line) s = .next t ∧
      { t with parts := s.parts } = s ∧ ∀ p ∈ t.parts, p.n = n → die ∈ p.shadow.lost))

/-- R228, R229: HALT, RESUME, STEP, READ, WRITE, DRAIN, WATCH and TRAPMODE of the debug port on the group in focus; a group inside an
instruction halts after it; a WRITE to a register of a pending handle or of an outstanding load is refused, and with the port not enabled
nothing happens. That the port has no effect then, and which waits leave a load outstanding, is the model's reading (log 31, DEDUCED), and that
a STEP of a group that is not halted does nothing its choice (log 36, DESIGN CHOICE). -/
def Obligations.DebugPort : Prop :=
  ∀ (s : State) (grp v core idx : Nat) (item : DebugItem) (w : Option Watch) (b h : Bool), Focused s grp →
    (∀ x ∈ s.saved, x.key ≠ grp) →
    let gr := s.cur
    let with_ := fun x : Group => Host.Outcome.next (φ := Fault) (ρ := Refusal) { s with cur := x }
    let answers := fun (t : State) (what : String) (n : Nat) =>
      Host.Outcome.next (φ := Fault) (ρ := Refusal) { t with out := t.out ++ [.debug grp what n] }
    let quiet := gr.pend = 0 ∧ gr.outstanding = []
    let lateRegs := gr.late.flatMap fun x => x.act.regs
    (gr.unfinished = none → (gr.wait = .none ∨ (∃ d, gr.wait = .sleep d) ∨ gr.wait = .bar ∨ ∃ r, gr.wait = .sys r) →
      gr.outstanding = lateRegs) ∧
    (∀ g d mem obs order stage z off, instrOf gr.held = .ld g d mem obs order stage z off →
      gr.unfinished ≠ none ∨ (∃ pages, gr.wait = .parked pages) → gr.outstanding = lateRegs ++ blockRegs d (sizeRegs z)) ∧
    (s.debugOn = false → exec (.debugHalt grp) s = .next s ∧ exec (.debugResume grp) s = .next s ∧
      exec (.debugStep grp) s = .next s ∧ exec (.debugRead grp item) s = .next s ∧ exec (.debugWrite grp item v) s = .next s ∧
      exec (.debugDrain grp v) s = .next s ∧ exec (.debugWatch core idx w) s = .next s ∧ exec (.debugTrapmode b h) s = .next s) ∧
    (s.debugOn = true →
      (gr.unfinished = none → exec (.debugHalt grp) s = with_ { gr with halted := true, stepping := false }) ∧
      (gr.unfinished ≠ none → exec (.debugHalt grp) s = with_ { gr with stepping := true }) ∧
      (gr.resume = none → exec (.debugResume grp) s = with_ { gr with halted := false, stepping := false } ∧
        (gr.halted = true → exec (.debugStep grp) s = with_ { gr with halted := false, stepping := true })) ∧
      (gr.halted = false → exec (.debugStep grp) s = .next s) ∧
      (∀ pc, gr.resume = some pc → ∃ x, exec (.debugResume grp) s = with_ x ∧ x.path = { gr.path with pc := pc } ∧
        x.halted = false ∧ x.stepping = false ∧ x.resume = none) ∧
      (∀ n, s.debugValue gr item = some n → exec (.debugRead grp item) s = answers s "READ" n) ∧
      exec (.debugRead grp .slot) s = answers s "READ" (gr.core * 4 + gr.slot) ∧
      (s.savedPart gr = none → ∀ k < 136,
        (∀ slot c y n, slot < 64 → (SMap.get EngSlot.idle s.copySlots (gr.core * 64 + slot)).cmd = some c → c.item y = some n →
          exec (.debugRead grp (.command slot y)) s = answers s "READ" n) ∧
        (∀ x : Word, SMap.get none s.compand (gr.core * 136 + k) = some x →
          exec (.debugRead grp (.curve k)) s = answers s "READ" x.toNat) ∧
        exec (.debugWrite grp (.curve k) v) s =
          answers { s with compand := SMap.set none s.compand (gr.core * 136 + k) (some (BitVec.ofNat 32 v)) } "WRITTEN" 0) ∧
      (∀ k, k < 32 →
        (gr.pend.getLsbD (k / 2) = true ∨ (∃ y ∈ gr.outstanding, y.toNat = 96 + k) →
          exec (.debugWrite grp (.greg k) v) s = answers s "PENDING" 0) ∧
        (gr.pend.getLsbD (k / 2) = false → (∀ y ∈ gr.outstanding, y.toNat ≠ 96 + k) → exec (.debugWrite grp (.greg k) v) s =
          answers { s with cur := gr.setG (BitVec.ofNat 7 (96 + k)) (BitVec.ofNat 32 v) } "WRITTEN" 0)) ∧
      (∀ k l, k < 96 → l < gr.width →
        ((∃ y ∈ gr.outstanding, y.toNat = k) → exec (.debugWrite grp (.vreg k l) v) s = answers s "PENDING" 0) ∧
        ((∀ y ∈ gr.outstanding, y.toNat ≠ k) → exec (.debugWrite grp (.vreg k l) v) s =
          answers { s with cur := { gr with v := vecMod gr.v k fun y => y.setIfInBounds l (BitVec.ofNat 32 v) } } "WRITTEN" 0)) ∧
      (quiet → exec (.debugDrain grp v) s = answers s "DONE" 0) ∧
      (¬quiet → exec (.debugDrain grp v) s = with_ { gr with drain := some (s.now + v) }) ∧
      (core < 192 → idx < 4 →
        exec (.debugWatch core idx w) s = .next { s with watches := SMap.set none s.watches (core * 4 + idx) w }) ∧
      exec (.debugTrapmode true h) s = .next { s with haltWatch := h } ∧
      exec (.debugTrapmode false h) s = .next { s with haltBrk := h }) ∧
    (∀ d, gr.drain = some d →
      (quiet → exec (.debugDrainTimeout grp) s = answers { s with cur := { gr with drain := none } } "DONE" 0) ∧
      (¬quiet → d ≤ s.now →
        exec (.debugDrainTimeout grp) s = answers { s with cur := { gr with drain := none } } "TIMEOUT" 0) ∧
      (¬quiet → s.now < d → exec (.debugDrainTimeout grp) s = .next s))

/-- R24, R25, R230, R320: the Gong stops every clock, and only reset or a loss of power goes on from there; both leave no group, no
partition and no Stage byte; boot runs the first image that verifies, slot A first, or serves in recovery; an island's frequency
is timing alone. What memory holds after a reset and after a loss of power is the model's choice (log 15, DESIGN CHOICE). -/
def Obligations.BootResetAndPower : Prop :=
  ∀ (s : State) (island n : Nat),
    exec .gong s = .next { s with frozen := true } ∧
    (∀ x rest, s.frozen = true → s.agenda = x :: rest → x ≠ .event .deviceReset → x ≠ .event .powerLoss → x ≠ .power →
      step s = .next { s with agenda := rest }) ∧
    (∃ t u, exec .deviceReset s = .next t ∧ exec .powerLoss s = .next u ∧ t.frozen = false ∧ t.powered = s.powered ∧
      u.powered = false ∧ u.mem = [] ∧ ∀ x ∈ [t, u], x.groups = [] ∧ x.saved = [] ∧ x.parts = [] ∧ x.stage = [] ∧ x.tiles = [] ∧
        x.booted = false ∧ x.flashA = s.flashA ∧ x.flashB = s.flashB) ∧
    exec (.islandFrequencyChange island n) s = .next { s with islands := s.islands.setIfInBounds island n } ∧
    (s.booted = true → exec .powerUpBoot s = .next s) ∧
    (s.booted = false →
      let image := if Config.falconVerify s.flashA then s.flashA else if Config.falconVerify s.flashB then s.flashB else s.flashA
      ∃ t, exec .powerUpBoot s = .next t ∧ t.booted = true ∧ t.mem = s.mem ∧ t.cur = s.cur ∧
        t.recovery = !(Config.falconVerify s.flashA || Config.falconVerify s.flashB) ∧
        t.mregs[0]? = some (Config.shake256 (digestBytes (s.mregs.toList.getD 0 0) ++ digestBytes (Config.shake256 image))))

/-- R311, R312, R317, R320, R322: the checks that a request meets before it is served, in their order, which is the model's (log 22, DEDUCED);
one whose group has ended is not served (log 43, DESIGN CHOICE); a code of no table is answered UNKNOWN, and no other; how a reply reaches a
group, a mailbox or the network; and the parts in service that DSTAT counts. -/
def Obligations.RequestsAndReplies : Prop :=
  (∀ (s : State) (r : Nat) (q : Request), s.requests.find? (fun x => x.id == r) = some q → q.reply = none →
    (s.booted = false ∨ s.orphan q = true → q.code = 0 → exec (.ping r) s = .next s) ∧
    (q.code ∈ List.range 9 ++ [17, 18, 19, 20, 21] ∨ (q.code = 16 ∧ q.arg 0 < 6) → s.answerUnknown r = s) ∧
    (s.booted = true → s.orphan q = false →
      (s.recovery = false → q.code ∉ List.range 9 ++ [16, 17, 18, 19, 20, 21] → s.answerUnknown r = s.reply q 1 [] 0) ∧
      (s.recovery = true → q.code = 1 → Refuses s q 5 (exec (.launch r) s)) ∧
      (s.recovery = false → q.grp ≠ none ∨ q.listed = false →
        (q.code = 17 → Refuses s q 2 (exec (.consumers r) s)) ∧ (q.code = 18 → Refuses s q 2 (exec (.debug r) s)) ∧
        (q.code = 19 → Refuses s q 2 (exec (.fwupd r) s)) ∧ (q.code = 20 → Refuses s q 2 (exec (.peers r) s)) ∧
        (q.code = 21 → Refuses s q 2 (exec (.exportList r) s)) ∧
        (q.code = 16 → q.arg 0 = 0 → Refuses s q 2 (exec (.partitionCreate r) s))) ∧
      (q.reservedOk = false ∨ (s.recovery = false ∧ s.part? q.part = none) → (q.code = 2 → Refuses s q 3 (exec (.status r) s))))) ∧
  (∀ (s : State) (q : Request) (code time : Nat) (ws : List Word), code < 256 → ws.length ≤ 15 →
    let x := s.replyWords code ws
    (x.toList.getD 0 0).toNat % 2 ^ 8 = code ∧ (x.toList.getD 0 0).getLsbD 31 = !s.fenced.isEmpty ∧
    (x.toList.getD 0 0).getLsbD 30 = s.debugOn ∧ (∀ i, 0 < i → i < 16 → x.toList.getD i 0 = if code = 0 then ws.getD (i - 1) 0 else 0) ∧
    let rest := s.requests.filter fun y => y.id != q.id
    (∀ e, q.source = .net e → s.reply q code ws time = { s with requests := rest, out := s.out ++ [.reply e q.tag x] }) ∧
    (∀ g, q.source = .sys g → s.reply q code ws time = { s with requests := s.requests.map fun y =>
      if y.id = q.id then { y with reply := some (x, max s.now time) } else y }) ∧
    (∀ part slot, q.source = .mailbox part slot → Memory.wf s.mailbox = true →
      let t := s.reply q code ws time
      let a := part * 0x1000 + slot * 128
      t.requests = rest ∧ (∀ i < 16, BitVec.ofNat 32 (leNat (readBytes t.mailbox (a + 64 + 4 * i) 4)) = x.toList.getD i 0) ∧
      (SMap.get 0 t.mailbox (a + 6)).getLsbD 0 = true ∧ (s.hostUp = true → t.out = s.out ++ [.msix part]))) ∧
  (∀ s : State, let alive := fun (k : PartKind) (all : Nat) => ((List.range all).filter fun n => decide ((k, n) ∉ s.fenced)).length
    (s.dstat.extractLsb' 0 8).toNat = alive .core 192 ∧ (s.dstat.extractLsb' 8 8).toNat = alive .slice 64 ∧
    (s.dstat.extractLsb' 16 4).toNat = alive .stack 8 ∧ (s.dstat.extractLsb' 20 6).toNat = alive .channel 32 ∧
    (s.dstat.extractLsb' 26 4).toNat = alive .port 8 ∧ s.dstat.getLsbD 60 = s.recovery ∧ s.dstat.getLsbD 61 = s.hostUp ∧
    s.dstat.getLsbD 62 = s.debugOn ∧ s.dstat.getLsbD 63 = !s.fenced.isEmpty)

/-- R166, R273, R299, R313, R321, R324: what the requests that a program may make are answered; RELOAD waits for the region's groups to drain;
MONITOR ends a window of its point that has reached its length first, and returns the last one ended. What Carillon grants and places, and the digests
and signatures it makes, are unknown functions, and a QUOTA that no group asks is answered with 0 units (log 10, DESIGN CHOICE); corners of
the answers (log 32, DEDUCED). -/
def Obligations.ProgramRequests : Prop :=
  ∀ (s : State) (r : Nat) (q : Request) (p : Partition),
    (Asked s r 0 q p → exec (.ping r) s = .next (s.reply q 0 (s.fwVersion :: twoWords s.dstat) 0)) ∧
    (Asked s r 2 q p → exec (.status r) s = .next (s.reply q 0 (twoWords s.dstat) 0)) ∧
    (Asked s r 1 q p → q.argD 0 % 128 = 0 → q.argD 2 = 0 → ∀ ds, s.reqBuffer q p false (q.argD 0) 128 = .ok ds →
      (64 ≤ s.queueLength q.part → exec (.launch r) s = .next (s.reply q 0 [0] 0)) ∧
      (s.queueLength q.part < 64 → ∃ (l : Launch) (s1 : State), exec (.launch r) s = .next (s1.reply q 0 [1] 0) ∧ s1.launches = s.launches ++ [l] ∧
        { s1 with launches := s.launches, nextKey := s.nextKey } = s ∧ l.part = q.part ∧ l.queued = true ∧ l.eligible = true ∧
        l.nextCid = 0 ∧ l.entry = BitVec.ofNat 1024 (leNat (s.readPlaces q.part ds)))) ∧
    (Asked s r 3 q p → s.recovery = true → q.argD 0 % 8 = 0 → s.physRange (q.argD 0) 2048 = true →
      let nonce := (List.range 4).flatMap fun i => leBytes 4 (q.arg (4 + i))
      exec (.quote r) s = .next (State.reply { s with mem := writeBytes s.mem (q.argD 0) (s.quoteBytes nonce) } q 0 [2048] 0)) ∧
    (Asked s r 3 q p → s.recovery = false → q.argD 0 % 8 = 0 → ∀ ds, s.reqBuffer q p true (q.argD 0) 2048 = .ok ds →
      let nonce := (List.range 4).flatMap fun i => leBytes 4 (q.arg (4 + i))
      let w := s.writePlaces q.part ds (s.quoteBytes nonce) 0
      exec (.quote r) s = .next (w.1.reply q 0 [2048] w.2) ∧ (s.quoteBytes nonce).length = 2048) ∧
    (Asked s r 4 q p → ∀ ia pa wp home size leaf, s.reqPage q p (q.argD 0) = .ok (some ia) →
      s.walk q.part ia = .resident pa wp home size leaf →
      let e := leNat (readBytes s.mem leaf 16)
      exec (.hot r) s = .next (s.reply q 0
        ([e / 2 ^ 112 % 2 ^ 16, e / 2 ^ 5 % 2, home, Nat.log2 size].map (BitVec.ofNat 32)) 0)) ∧
    (Asked s r 4 q p → s.reqPage q p (q.argD 0) = .ok none → Refuses s q 3 (exec (.hot r) s)) ∧
    (Asked s r 7 q p →
      (s.reqPage q p (q.argD 0) = .ok none → exec (.migrate r) s = .next (s.reply q 0 [] 0)) ∧
      ∀ ia pa wp home size leaf, s.reqPage q p (q.argD 0) = .ok (some ia) →
        s.walk q.part ia = .resident pa wp home size leaf → exec (.migrate r) s = .next (s.reply q 0 [] 0)) ∧
    (Asked s r 5 q p → q.grp = none → covers p.ranges (q.argD 0) 128 = true → ∀ chain ranges,
      s.rcbChain q.part (q.argD 0) = .ok chain → s.loadRanges q.part ((effective chain 8 499 448).getD 0) = .ok ranges →
      (s.groups.map (·.key)).Nodup →
      (∀ x ∈ s.groups, x.part = q.part → x.chain.getD 0 0 = q.argD 0 → x.late = [] ∧ x.pushes = [] ∧ x.pushesLeft = false) →
      let inside := ∃ x ∈ s.groups, x.part = q.part ∧ x.chain.getD 0 0 = q.argD 0 ∧ x.unfinished ≠ none ∧ ∀ pages, x.wait ≠ .parked pages
      (inside → exec (.reload r) s = .next s) ∧
      (¬inside → ∃ (s1 : State) (n : Nat), exec (.reload r) s = .next (s1.reply q 0 [BitVec.ofNat 32 n] 0) ∧ s1.mem = s.mem ∧ s1.others.length = s.others.length ∧
        (∀ (i : Nat) (x y : Group), s.others[i]? = some x → s1.others[i]? = some y →
          y = if x.part = q.part ∧ x.chain.getD 0 0 = q.argD 0 then { x with ranges := ranges } else x) ∧
        n = (s.holders.filter fun x => decide (x.part = q.part ∧ x.chain.getD 0 0 = q.argD 0)).length)) ∧
    (Asked s r 6 q p → pointExists (q.arg 0) = true → p.ownsPoint (q.arg 0) = true → 0 < q.arg 1 → q.arg 1 ≤ 1000000 →
      ∀ ds, s.reqBuffer q p true (q.argD 2) 128 = .ok ds →
      let s0 := s.closeWindow (q.arg 0)
      let w := s0.writePlaces q.part ds ((s0.lastWindow (q.arg 0)).bytes (q.arg 0)) 0
      ∃ s1 : State, exec (.monitor r) s = .next (s1.reply q 0 [128] w.2) ∧ s1.mem = w.1.mem ∧
        ∃ m ∈ s1.monitors, m.point = q.arg 0 ∧ ∃ o, m.cur = some o ∧ o.start = s.now ∧ o.stop = s.now + 1000 * q.arg 1 ∧ o.samples = 0) ∧
    (Asked s r 8 q p → ∀ gr, q.grp.bind s.holder? = some gr → SMap.wf 0 s.granted = true →
      let rcb := regionKey gr.part (gr.chain.getD 0 0)
      if Config.quotaDenied rcb (q.arg 0) then Refuses s q 2 (exec (.quota r) s)
      else ∃ (s1 : State) (n : Nat), exec (.quota r) s = .next (s1.reply q 0 [BitVec.ofNat 32 n] 0) ∧
        n ≤ q.arg 0 ∧ SMap.get 0 s1.granted rcb = SMap.get 0 s.granted rcb + n ∧ { s1 with granted := s.granted } = s) ∧
    (Asked s r 8 q p → q.grp = none → exec (.quota r) s = .next (s.reply q 0 [0] 0))

/-- R21, R228, R277, R314, R315, R320: what the requests that only the host and the network may make do. Where CREATE and QUERY find the range
list, and when a cluster is busy, is the model's reading (log 32, DEDUCED); what a cluster and Stage lines that change hands hold, and how the
four codes of recovery reach memory (log 43, DESIGN CHOICE), are the model's; what becomes of a replaced consumer's
records (log 39, DESIGN CHOICE); that an unlock which does not verify is DENIED (log 10, DESIGN CHOICE). -/
def Obligations.AdministrativeRequests : Prop :=
  ∀ (s : State) (r : Nat) (q : Request) (p : Partition),
    (AskedPart s r 0 q →
      let d := PartDesc.of q
      (d.ok q = false ∨ s.part? d.n ≠ none ∨ s.overlaps d = true → Refuses s q 3 (exec (.partitionCreate r) s)) ∧
      (d.ok q = true → s.part? d.n = none → s.overlaps d = false →
        (s.anyBusy d.clusters = true → Refuses s q 5 (exec (.partitionCreate r) s)) ∧
        (s.anyBusy d.clusters = false → ∀ ranges, State.rangeList { s with parts := s.parts ++ [d.fresh []] } d = .ok ranges →
          (covers ranges d.list (16 * d.count) = false → Refuses s q 3 (exec (.partitionCreate r) s)) ∧
          (covers ranges d.list (16 * d.count) = true → ∃ s1 : State, exec (.partitionCreate r) s = .next (s1.reply q 0 [1] 0) ∧ s1.parts = s.parts ++ [d.fresh ranges] ∧
            s1.mem = s.mem ∧ (∀ a, SMap.get 0 s1.stage a = if d.stageMiB.getLsbD (a / 2 ^ 20) then 0 else SMap.get 0 s.stage a) ∧
            ∀ n < 48, s1.cluster n = if d.clusters.getLsbD n then Cluster.idle else s.cluster n)))) ∧
    (AskedPart s r 1 q → s.part? (PartDesc.of q).n = some p →
      let d := PartDesc.of q
      let bad := d.ok q = false ∨ s.overlaps d = true ∨ covers p.ranges d.list (16 * d.count) = false
      (bad → Refuses s q 3 (exec (.partitionResize r) s)) ∧
      let changed := p.clusters ^^^ d.clusters
      let busy := s.anyBusy changed = true ∨ (p.halted = false ∧ s.sharesIn d.n (p.stageMiB &&& ~~~d.stageMiB) = true)
      (¬bad → busy → Refuses s q 5 (exec (.partitionResize r) s)) ∧
      (¬bad → ¬busy → ∀ ranges, s.rangeList d = .ok ranges → ∃ s1 : State, exec (.partitionResize r) s = .next (s1.reply q 0 [1] 0) ∧
        s1.part? d.n = some { p with
          clusters := d.clusters, stageMiB := d.stageMiB, rangeIA := d.list, ranges := ranges
          shadow := p.shadow.without (p.clusters &&& ~~~d.clusters) } ∧
        (∀ n < 48, s1.cluster n = if changed.getLsbD n then Cluster.idle else s.cluster n) ∧
        (∀ core k, k < 136 → SMap.get none s1.compand (core * 136 + k) =
          if changed.getLsbD (core / 4) then none else SMap.get none s.compand (core * 136 + k)) ∧
        ∀ a, SMap.get 0 s1.stage a = if (p.stageMiB ^^^ d.stageMiB).getLsbD (a / 2 ^ 20) then 0 else SMap.get 0 s.stage a)) ∧
    (AskedPart s r 2 q → s.namedPart q = some p →
      (s.anyBusy p.clusters = true → Refuses s q 5 (exec (.partitionDestroy r) s)) ∧
      (s.anyBusy p.clusters = false → ∃ s1 : State, exec (.partitionDestroy r) s = .next (s1.reply q 0 [1] 0) ∧
        s1.parts = s.parts.filter (fun x => x.n != p.n) ∧ s1.launches = s.launches.filter (fun l => l.part != p.n) ∧
        s1.mem = s.mem)) ∧
    (AskedPart s r 3 q → s.namedPart q = some p →
      let t := s.preempt p.n
      exec (.partitionHalt r) s = .next (if t.partHalted p.n then t.reply q 0 [1] 0 else t)) ∧
    (AskedPart s r 4 q → s.namedPart q = some p →
      (p.halted = false → Refuses s q 3 (exec (.partitionResume r) s)) ∧
      (p.halted = true → let t := s.restore p.n
        exec (.partitionResume r) s = .next (if t.partHalted p.n then t else t.reply q 0 [1] 0))) ∧
    (AskedPart s r 5 q → s.namedPart q = some p →
      ∀ ds, s.reqBuffer { q with part := p.n } p true p.rangeIA p.listBytes.length = .ok ds →
      exec (.partitionQuery r) s = .next ((s.writePlaces p.n ds p.listBytes 0).1.reply q 0 p.words 0) ∧ p.words.length = 15 ∧
        p.listBytes.length = 16 * p.ranges.length) ∧
    (Asked s r 17 q p → ∀ bs, s.reqRead q p (q.argD 0) 16256 = .ok bs →
      ∃ s1 : State, exec (.consumers r) s = .next (s1.reply q 0 [] 0) ∧ s1.mem = s.mem ∧ ∃ p1, s1.part? p.n = some p1 ∧
        { p1 with consumers := p.consumers } = p ∧
        ∀ c ∈ p1.consumers, 1 ≤ c.batch ∧ c.batch ≤ c.ringcap ∧ (c.rsz = 4 ∨ c.rsz = 5) ∧ c.ring % 4096 = 0 ∧
          match p.consumers.find? fun o => o.n == c.n with
          | none => c.tail = 0 ∧ c.held = [] ∧ c.batches = []
          | some o =>
            if o.ring = c.ring ∧ o.ringcap = c.ringcap ∧ o.rsz = c.rsz then
              c.tail = o.tail ∧ c.held = o.held ∧ c.batches = o.batches
            else c.tail = 0 ∧ c.held = [] ∧ c.batches = []) ∧
    (Asked s r 18 q p →
      if Config.unlockVerify q.args.toList then ∃ s1 : State, exec (.debug r) s = .next (s1.reply q 0 [] 0) ∧ s1.debugOn = true ∧
        s1.mem = s.mem ∧ s1.cur = s.cur ∧ s1.out = (if s.debugOn = false ∧ s.hostUp = true then s.out ++ [.msix 16] else s.out)
      else Refuses s q 2 (exec (.debug r) s)) ∧
    (Asked s r 19 q p → ∀ bs, (s.recovery = false ∧ s.reqRead q p (q.argD 0) (q.arg 2) = .ok bs) ∨
        (s.recovery = true ∧ s.physRange (q.argD 0) (q.arg 2) = true ∧ bs = readBytes s.mem (q.argD 0) (q.arg 2)) →
      ∃ (s1 : State) (b : Bool), exec (.fwupd r) s = .next (s1.reply q 0 [BitVec.ofNat 32 (Bool.toNat b)] 0) ∧
        s1.flashA = (if b then s.flashA else bs) ∧ s1.flashB = (if b then bs else s.flashB)) ∧
    (Asked s r 20 q p → q.argD 0 % 8 = 0 → q.arg 2 ≤ 65536 → ∀ bs ps, s.reqRead q p (q.argD 0) (32 * q.arg 2) = .ok bs →
      allSome peerOf (listEntries 32 (q.arg 2) bs) = some ps → (ps.map (·.1)).Nodup →
      ∃ s1 : State, exec (.peers r) s = .next (s1.reply q 0 [BitVec.ofNat 32 (q.arg 2)] 0) ∧ s1.part? p.n = some { p with peers := ps } ∧
        s1.mregs[3]? = some (Config.shake256 (digestBytes (s.mregs.toList.getD 3 0) ++ digestBytes (Config.shake256 bs)))) ∧
    (Asked s r 21 q p → q.argD 0 % 16 = 0 → q.arg 2 ≤ 64 → ∀ bs es, s.reqRead q p (q.argD 0) (16 * q.arg 2) = .ok bs →
      allSome exportOf (listEntries 16 (q.arg 2) bs) = some es → (∀ e ∈ es, covers p.ranges e.1 e.2.1 = true) →
      ∃ s1 : State, exec (.exportList r) s = .next (s1.reply q 0 [BitVec.ofNat 32 (q.arg 2)] 0) ∧
        s1.part? p.n = some { p with exports := es })

/-- R18, R172, R214, R311, R316, R317: the host link's state; an access of the host while the link is down has no effect; one behind an earlier one
that waits for a page waits too; the status page is read only; a mailbox byte is written; a doorbell starts the request of its slot; the
launch BAR reaches the partition's launch area, or waits for its page; what the host's side held of a line it has written serves it no more. -/
def Sys2Proof.Claims.HostLink : Prop :=
  ∀ (s : State) (up : Bool) (off : Nat) (b : Byte) (bs : List Byte),
    (∃ out, exec (.hostLinkTrain up) s = .next { s with hostUp := up, out := out } ∧
      out = if up = s.hostUp ∨ up = false then s.out else s.out ++ [.msix 16]) ∧
    (s.hostUp = false → ∀ bar kind, exec (.hostAccess bar off kind) s = .next s) ∧
    (s.hostUp = true → (∃ e ∈ s.arrivals, requesterOf e = some 0) → ∀ bar kind,
      exec (.hostAccess bar off kind) s = .next { s with arrivals := s.arrivals ++ [.hostAccess bar off kind] }) ∧
    (s.hostUp = true → (∀ e ∈ s.arrivals, requesterOf e ≠ some 0) →
      (∃ c, exec (.hostAccess .control 0x40 (.read 16)) s = .next { s with
        out := s.out ++ [.hostRead (leBytes 8 s.fwVersion.toNat ++ leBytes 8 s.dstat.toNat)], freeCtr := c }) ∧
      (off + bs.length ≤ 0x10000 → exec (.hostAccess .control off (.write bs)) s = .next s) ∧
      (0x10000 ≤ off → off < 0x20000 → off % 0x1000 < 0x800 → off % 128 ≠ 6 → exec (.hostAccess .control off (.write [b])) s =
        .next { s with mailbox := SMap.set 0 s.mailbox (off - 0x10000) b }) ∧
      (∀ part slot, part < 16 → slot < 16 → (∀ r ∈ s.requests, r.source ≠ .mailbox part slot) →
        let a := part * 0x1000 + slot * 128
        ∃ q : Request, exec (.hostAccess .control (0x10000 + part * 0x1000 + 0x800) (.write (leBytes 4 slot))) s = .next { s with
          mailbox := SMap.set 0 s.mailbox (a + 6) (SMap.get 0 s.mailbox (a + 6) &&& 0xFE), nextKey := s.nextKey + 1
          requests := s.requests ++ [q] } ∧ q.id = s.nextKey ∧ q.source = .mailbox part slot ∧ q.reply = none ∧
          q.code = (SMap.get 0 s.mailbox a).toNat) ∧
      (∀ part p x n, part < 16 → s.part? part = some p → x < 0x100000 → s.replicas = [] → 0 < n →
        let at_ := Config.launchArea part + x
        let access := fun kind => Event.hostAccess .launch (part * 0x100000 + x) kind
        let turned := fun (f : Fate) (kind : ExtKind) =>
          match f with | .replay ia => { s.reportFault part ia with arrivals := s.arrivals ++ [access kind] } | _ => s
        (∃ c l2 hot moved, exec (.hostAccess .launch (part * 0x100000 + x) (.read n)) s = .next
          (match s.outerPlaces part false (piecesOf at_ n) with
          | .ok ps => { s with
              out := s.out ++ [.hostRead (ps.flatMap fun y => s.readOwned part (.paged y.1) y.2)]
              freeCtr := c, l2 := l2, hotPending := hot, moved := moved }
          | .error f => turned f (.read n))) ∧
        exec (.hostAccess .launch (part * 0x100000 + x) (.write bs)) s = .next
          (match s.outerPlaces part true (piecesOf at_ bs.length) with
          | .ok ps => (s.writePlaces part (ps.map fun y => (.paged y.1, y.2)) bs 0).1.outerWritten .h ps
          | .error f => turned f (.write bs))))

/-- R172, R200, R214, R315, R319: a peer's access is performed where the partition exports its bytes for it, waits for a page that is not
resident and behind an earlier one that waits, and is otherwise turned away with a transport error; a connection whose transport has given up.
The peers of a partition stand for one connection (log 40, DESIGN CHOICE). -/
def Sys2Proof.Claims.PeerLinks : Prop :=
  ∀ (s : State) (part peer n : Nat) (ia : BitVec 52) (bs : List Byte),
    let exported := fun (k : Nat) (rd wr : Bool) => ∃ p, s.part? part = some p ∧ ∃ e ∈ p.exports,
      e.1 ≤ ia.toNat ∧ ia.toNat + k ≤ e.1 + e.2.1 ∧ (rd = true → e.2.2.1 = true) ∧ (wr = true → e.2.2.2 = true)
    let turned := Host.Outcome.next (φ := Fault) (ρ := Refusal) { s with out := s.out ++ [.notice "transport error"] }
    let waits := fun (page : Nat) (kind : ExtKind) => Host.Outcome.next (φ := Fault) (ρ := Refusal)
      { s.reportFault part page with arrivals := s.arrivals ++ [.peerAccess part ia kind] }
    ((∃ e ∈ s.arrivals, requesterOf e = some (part + 1)) → ∀ kind,
      exec (.peerAccess part ia kind) s = .next { s with arrivals := s.arrivals ++ [.peerAccess part ia kind] }) ∧
    ((∀ e ∈ s.arrivals, requesterOf e ≠ some (part + 1)) →
      (¬exported n true false → exec (.peerAccess part ia (.read n)) s = turned) ∧
      (¬exported bs.length false true → exec (.peerAccess part ia (.write bs)) s = turned) ∧
      (exported n true false → 0 < n → s.replicas = [] →
        (∀ ps, s.outerPlaces part false (piecesOf ia.toNat n) = .ok ps → ∃ c l2 hot moved, exec (.peerAccess part ia (.read n)) s = .next { s with
          out := s.out ++ [.peerRead part (ps.flatMap fun y => s.readOwned part (.paged y.1) y.2)]
          freeCtr := c, l2 := l2, hotPending := hot, moved := moved }) ∧
        (∀ page, s.outerPlaces part false (piecesOf ia.toNat n) = .error (.replay page) →
          exec (.peerAccess part ia (.read n)) s = waits page (.read n))) ∧
      (exported bs.length false true →
        (∀ ps, s.outerPlaces part true (piecesOf ia.toNat bs.length) = .ok ps →
          exec (.peerAccess part ia (.write bs)) s =
            .next ((s.writePlaces part (ps.map fun y => (.paged y.1, y.2)) bs 0).1.outerWritten .n ps)) ∧
        (∀ page, s.outerPlaces part true (piecesOf ia.toNat bs.length) = .error (.replay page) →
          exec (.peerAccess part ia (.write bs)) s = waits page (.write bs)))) ∧
    (∃ l, exec (.peerTransportFailure part peer) s = .next { s with peerLink := l } ∧ (part, peer, true) ∈ l ∧
      (part, peer, false) ∉ l ∧ ∀ x : Nat × Nat × Bool, (x.1, x.2.1) ≠ (part, peer) → (x ∈ l ↔ x ∈ s.peerLink))

/-- R324 to R326: fencing a part, whose lines leave it; a part that fails is fenced, and a core's groups, engine commands and queued records end
(what ends, log 33, DEDUCED); a stack's, a channel's or a slice's failure ends the engine commands that depend on it (which these are, log 44,
DESIGN CHOICE); a slice's changed lines that have no other copy, and a stack's lines that neither the L2 nor a replica has, read as poisoned;
what had moved to a fenced slice is written back; a monitor window ends at its time. -/
def Obligations.PartsAndWindows : Prop :=
  ∀ (s : State) (kind : PartKind) (n point : Nat), n < partCount kind →
    let fenced := if (kind, n) ∈ s.fenced then s.fenced else s.fenced ++ [(kind, n)]
    let out := if (kind, n) ∉ s.fenced ∧ s.hostUp = true then s.out ++ [.msix 16] else s.out
    (kind ≠ .slice → exec (.partFence kind n) s = .next { s with fenced := fenced, out := out }) ∧
    (kind = .slice → SMap.wf none s.moved = true → SMap.wf none s.l2 = true → ∃ t, exec (.partFence kind n) s = .next t ∧
      { t with l2 := s.l2, hotPending := s.hotPending, moved := s.moved } = { s with fenced := fenced, out := out } ∧
      (∀ line, let leaves := SMap.get none s.moved line = some n ∧ s.partOfLine line ≠ none
        (leaves → SMap.get none t.moved line = none ∧ SMap.get none t.l2 line = none) ∧
        (¬leaves → SMap.get none t.moved line = SMap.get none s.moved line ∧ SMap.get none t.l2 line = SMap.get none s.l2 line)) ∧
      t.hotPending = s.hotPending ++ (s.moved.filter fun e => e.2 == some n).filterMap fun e =>
        (s.partOfLine e.1).bind fun p => (s.homeLeaf p e.1).map fun h => (h.2, s.now)) ∧
    let u := s.flushAllLate
    let idle := (∀ k < 48, (u.cluster k).turns = [] ∧ ∀ x, (u.cluster k).queue x = [] ∧ (u.cluster k).ring x = []) ∧
      ∀ p ∈ u.parts, p.shadow.clusters = []
    (kind = .port → exec (.partFailure kind n) s = .next (u.fence kind n)) ∧
    (∃ t, exec (.partFailure kind n) s = .next t ∧ (kind, n) ∈ t.fenced ∧
      (kind ≠ .core → idle →
        t.mem = u.mem ∧ t.stage = u.stage ∧ t.groups = u.groups ∧ t.clusters = u.clusters ∧ t.parts = u.parts) ∧
      (kind = .stack ∨ kind = .channel ∨ kind = .slice →
        let s1 := u.fence kind n
        let copy := fun c : CopyCmd => if s1.copyOn kind n c then { c with base := c.base.failed } else c
        let load := fun c : WloadCmd =>
          if s1.vaOn kind n c.base (c.recs.getLast?.getD 0) then { c with base := c.base.failed } else c
        let insert := fun c : CinsCmd =>
          if c.applied = false ∧ s1.vaOn kind n c.base c.desc.toNat = true then { c with base := c.base.failed } else c
        t.copySlots = u.copySlots.map (fun e => (e.1, { e.2 with cmd := e.2.cmd.map copy })) ∧
        t.wloadSlots = u.wloadSlots.map (fun e => (e.1, { e.2 with cmd := e.2.cmd.map load })) ∧
        t.cinsSlots = u.cinsSlots.map (fun e => (e.1, { e.2 with cmd := e.2.cmd.map insert }))) ∧
      (∀ b : CmdBase, b.result = none → b.failed.result = some (statusWord 3 b.done)) ∧
      (kind = .stack → idle → t.poison = u.poison ∧ ∀ line, line * 128 < 0x8000000000 → line * 128 / 0x1000000000 = n →
        SMap.get none u.poison line = none →
        let kept := ∃ k, u.physLine k = some line ∧
          (k ∈ u.l2.map (·.1) ∨ (k ∈ u.replicas.map (·.line) ∧ u.copied k = true))
        (t.poisoned false line = true ↔ u.failedLine line = true ∨ ¬kept)) ∧
      (kind = .slice → idle → SMap.wf none u.poison = true → SMap.wf none u.l2 = true →
        (∀ line, u.ownerOf line = some n → SMap.get none t.l2 line = none) ∧
        (∀ line, u.ownerOf line ≠ some n → SMap.get none t.l2 line = SMap.get none u.l2 line) ∧
        ∀ k, let lost := ∃ line, u.ownerOf line = some n ∧ SMap.get none u.l2 line = some true ∧ u.copied line = false ∧
            u.physLine line = some k
          (lost → SMap.get none t.poison k = some (BitVec.allOnes 128)) ∧
          (¬lost → SMap.get none t.poison k = SMap.get none u.poison k)) ∧
      (kind = .core → (u.groups.map (·.key)).Nodup → (∀ gr ∈ t.groups, gr.core ≠ n) ∧
        (∀ gr ∈ u.groups, gr.core ≠ n → ∃ x ∈ t.groups, x.key = gr.key) ∧
        (∀ u, ∀ x ∈ (t.cluster (n / 4)).queue u ++ (t.cluster (n / 4)).ring u, x.core ≠ n) ∧
        (∀ e ∈ t.copySlots, e.1 / 64 = n → ∀ c, e.2.cmd = some c → c.base.result ≠ none))) ∧
    (∃ ms, exec (.monitorWindowEnd point) s = .next { s with monitors := ms } ∧ ms.length = s.monitors.length ∧
      ∀ (i : Nat) (m x : MonPoint), s.monitors[i]? = some m → ms[i]? = some x →
        (∀ w, m.point = point → m.cur = some w → w.stop ≤ s.now → x = { m with cur := none, last := some w }) ∧
        (m.point ≠ point ∨ m.cur = none ∨ (∃ w, m.cur = some w ∧ s.now < w.stop) → x = m))

/-- R79, R101, R102: a lane instruction with a result in v-registers changes, whenever it goes on without a trap, its destinations alone, in its
acting lanes alone, the bookkeeping of issue and, of a float form, `fsr`; an integer form, `sel` or a scan goes on so always. -/
def Sys2Proof.Claims.LaneFrame : Prop :=
  ∀ (s t : State) (g px : BitVec 3) (d a b c : Reg) (k : BitVec 7) (w : BitVec 32) (n : BitVec 6) (sc : BitVec 2) (sh : Shfl) (sat : Bool)
    (rop : RedOp) (ff : FFmt) (rnd : Rnd) (dst src : Fmt) (i : Instr), exec i s = .next t →
    let only := fun (ds : List Reg) (fsr : Word) =>
      DeviceKept s t ∧ rebook { t.cur with v := s.cur.v, fsr := fsr } s.cur = s.cur ∧
        ∀ (r : Reg), ∀ l < 64, r ∉ ds ∨ (s.cur.acting g).getLsbD l = false → lane (t.cur.vreg r) l = lane (s.cur.vreg r) l
    let runs := t.cur.live = true ∧ t.cur.trapc = s.cur.trapc ∧ t.cur.pendingTrap = none
    let wide := if ff = .f64 then [d, d + 1] else [d]
    (i ∈ [.add g d a b, .sub g d a b, .mullo g d a b, .and g d a b, .or g d a b, .xor g d a b, .mov g d a] ∨
      i ∈ [.addImm g d a k, .addImmLong g d a w, .andImm g d a k, .andImmLong g d a w, .orImm g d a k, .orImmLong g d a w, .movi g d k,
        .moviLong g d w] ∨
      i ∈ [.shlImm g d a k, .shrImm g d a k, .sarImm g d a k, .shlImmLong g d a w, .shrImmLong g d a w, .sarImmLong g d a w] ∨
      i ∈ [.addX g d a b sat, .addN32 g d a b sat, .subX g d a b sat, .subN32 g d a b sat, .neg g d a sat, .abs g d a sat,
        .mad g d a b c sat, .madN32 g d a b c sat, .sad g d a b c, .sadN32 g d a b c] ∨
      i ∈ [.mulloX g d a b, .mulhi g d a b, .mulhiN32 g d a b, .min g d a b, .minN32 g d a b, .max g d a b, .maxN32 g d a b] ∨
      i ∈ [.andX g d a b, .orX g d a b, .xorX g d a b, .andn g d a b, .not g d a, .shl g d a b, .shr g d a b, .sar g d a b,
        .rot g d a b, .bfx g d a b c, .bfi g d a b c n, .popc g d a, .clz g d a, .brev g d a, .lea g d a b sc] ∨
      i ∈ [.vperm g d a b, .vbcast g d a n, .vshfl g d a b sh, .sel g d a b px, .vscan g d a px rop] → only [d] t.cur.fsr) ∧
    (runs →
      (i ∈ [.fadd g d a b, .fsub g d a b, .fmul g d a b, .ffma g d a b, .fmin g d a b, .fmax g d a b, .frcp g d a, .frsq g d a,
        .fexp2 g d a, .flog2 g d a, .fsin g d a, .fcos g d a, .fclass g d a ff] → only [d] s.cur.fsr) ∧
      (i ∈ [.faddX g d a b ff rnd, .fsubX g d a b ff rnd, .fmulX g d a b ff rnd, .ffmaX g d a b c ff rnd, .fminX g d a b ff,
        .fmaxX g d a b ff, .fsqrt g d a ff rnd] → only wide s.cur.fsr) ∧
      (i ∈ [.cvt g d a dst src rnd, .cvtEsc g d a dst src rnd] → only (if dst = .f64 then [d, d + 1] else [d]) s.cur.fsr) ∧
      (i ∈ [.vdecGap g d a b k, .vdecVarint g d a b k, .vdecBitplane g d a b k] → only [d, d + 1] t.cur.fsr) ∧
      (i ∈ [.xld g d a k, .xldLong g d a w] → only [d] t.cur.fsr))

/-- R79, R133, R192: a uniform instruction with a result changes, whenever it goes on, its destination alone, a g-register or an even pair of
them, whose pending bit it clears, or v-registers in the lanes of the group, and the bookkeeping of issue; with its guard false it changes
the bookkeeping alone. -/
def Sys2Proof.Claims.UniformFrame : Prop :=
  ∀ (s t : State) (g px : BitVec 3) (d a b : Reg) (k ctl : BitVec 7) (w : BitVec 32) (sc : BitVec 2) (i : Instr), exec i s = .next t →
    let only := fun ds : List Reg =>
      DeviceKept s t ∧ rebook { t.cur with v := s.cur.v, g := s.cur.g, pend := s.cur.pend } s.cur = s.cur ∧
      (∀ r : Reg, r ∉ ds → t.cur.vreg r = s.cur.vreg r) ∧ (∀ r : Reg, isG r = true → r ∉ ds → t.cur.greg r = s.cur.greg r) ∧
      (∀ j < 16, j ≠ gPair d ∨ isV d = true → t.cur.pend.getLsbD j = s.cur.pend.getLsbD j) ∧
      (∀ r ∈ ds, ∀ l < 64, s.cur.width ≤ l → lane (t.cur.vreg r) l = lane (s.cur.vreg r) l) ∧
      (s.cur.cpred g = false → t.cur.v = s.cur.v ∧ t.cur.g = s.cur.g ∧ t.cur.pend = s.cur.pend)
    (i ∈ [.gadd g d a b, .gaddImm g d a k, .gaddImmLong g d a w, .gsub g d a b, .gmul g d a b, .gmov g d a, .gmovi g d k,
        .gmoviLong g d w] ∨
      i ∈ [.gand g d a b, .gandImm g d a k, .gandImmLong g d a w, .gor g d a b, .gorImm g d a k, .gorImmLong g d a w, .gxor g d a b] ∨
      i ∈ [.gshlImm g d a k, .gshlImmLong g d a w, .gshrImm g d a k, .gshrImmLong g d a w, .gsarImm g d a k, .gsarImmLong g d a w] ∨
      i ∈ [.gaddX g d a b, .gsubX g d a b, .gmulX g d a b, .gshl g d a b, .gshr g d a b, .gsar g d a b, .gandX g d a b, .gorX g d a b,
        .gxorX g d a b, .gmovX g d a, .glea g d a b sc, .gsel g d a b px] ∨
      (i = .mfc g d ctl ∧ ctlWide ctl = false) → only [d]) ∧
    (d.getLsbD 0 = false →
      i ∈ [.gaddD g d a b, .gsubD g d a b, .gmulD g d a b, .gshlD g d a b, .gshrD g d a b, .gsarD g d a b, .gandD g d a b,
        .gorD g d a b, .gxorD g d a b, .gmovD g d a, .gleaD g d a b sc, .gselD g d a b px] ∨
      (i = .mfc g d ctl ∧ ctlWide ctl = true) → only [d, d + 1])

/-- R173, R176 to R180, R202: what an access leaves in memory, whenever it goes on and takes no trap: a load changes no byte; a uniform store
or atomic no byte but those of the place its access goes to; a lane store or atomic makes the stores of some acting lanes. -/
def Obligations.AccessFrame : Prop :=
  ∀ (s t : State) (g : BitVec 3) (d : Reg) (mem : MemAddr) (obs : BitVec 6) (order : Order) (stage dbl : Bool) (z : Size) (op : AtomOp)
    (off : BitVec 20) (o16 : BitVec 16), s.cur.unfinished = none → s.cur.pushes = [] → s.cur.late = [] → t.cur.trapc = s.cur.trapc →
    let addr := s.cur.addrOf mem off.toInt stage
    let addr16 := s.cur.addrOf mem o16.toInt stage
    let m := s.cur.acting g
    let outside := fun (f : Fate) (n : Nat) =>
      (∀ x, f ≠ .go x) ∧ t.mem = s.mem ∧ t.stage = s.stage ∨
      (∃ b, f = .go (.stage b)) ∧ t.mem = s.mem ∧ (∀ b, f = .go (.stage b) → ∀ a, ¬(b ≤ a ∧ a < b + n) → Memory.wf s.stage = true →
        SMap.get 0 t.stage a = SMap.get 0 s.stage a) ∨
      (∃ ia, f = .go (.paged ia)) ∧ t.stage = s.stage ∧ (∀ ia pa wp home size leaf, f = .go (.paged ia) →
        s.walk s.cur.part ia = .resident pa wp home size leaf → ∀ a, ¬(pa ≤ a ∧ a < pa + n) → Memory.wf s.mem = true →
        SMap.get 0 t.mem a = SMap.get 0 s.mem a) ∨
      (∃ x, f = .go x ∧ (∀ b, x ≠ .stage b) ∧ ∀ ia, x ≠ .paged ia) ∧ t.mem = s.mem ∧ t.stage = s.stage
    (exec (.ld g d mem obs order stage z off) s = .next t ∨ exec (.gld g d mem obs order stage z off) s = .next t →
      t.mem = s.mem ∧ t.stage = s.stage) ∧
    (exec (.gst g d mem obs order stage z off) s = .next t →
      outside (s.accessFate stage (addr s.cur.leader) z.bytes false true none) z.bytes) ∧
    (exec (.gatom g d mem obs order stage dbl op o16) s = .next t →
      outside (s.accessFate stage (addr16 s.cur.leader) (if dbl then 8 else 4) true true (some op)) (if dbl then 8 else 4)) ∧
    (exec (.st g d mem obs order stage z off) s = .next t → ∃ ls : List (Nat × Dest),
      (∀ e ∈ ls, m.getLsbD e.1 = true ∧ s.accessFate stage (addr e.1) z.bytes false true none = .go e.2) ∧
      let u := ls.foldl (fun u e => u.groupWrite e.2 (storedBytes z fun j => val s (d + BitVec.ofNat 7 j) e.1)) s
      t.mem = u.mem ∧ t.stage = u.stage) ∧
    (exec (.atom g d mem obs order stage dbl op o16) s = .next t → ∃ ls : List (Nat × Dest),
      (∀ e ∈ ls, m.getLsbD e.1 = true ∧
        s.accessFate stage (addr16 e.1) (if dbl then 8 else 4) true true (some op) = .go e.2) ∧
      let u := ls.foldl (fun u e => atomStep op dbl e.2 (fun j => val u (d + BitVec.ofNat 7 j) e.1)
        (fun gr j w => gr.setV (d + BitVec.ofNat 7 j) (1#64 <<< e.1) (lanesFrom fun _ => w)) u) s
      t.mem = u.mem ∧ t.stage = u.stage)

/-- R79: the predicates p7 and c7 read true and discard what is written to them. -/
def Sys2Proof.Claims.HardWiredPredicates : Prop :=
  ∀ (gr : Group) (m x : Mask) (b : Bool), (∀ l < 64, (gr.pred 7).getLsbD l = true) ∧ gr.setPred 7 m x = gr ∧ gr.cpred 7 = true ∧
    gr.setC 7 b = gr

/-- R89, R100, R226, R306: an issue opportunity of a group that may issue, whose path stands at no join and keeps its turn, fetches the words at
the issuing path's PC, or takes the words it holds where its instruction waits or is parked, and the instruction they decode to is executed on
the state in which the group is in focus, holds those words, and has its pushes and its late accesses performed as far as they are due. After it
the group's own cached copies go, unless it waits, and late accesses to Stage lines that are absent are performed (log 1, DESIGN CHOICE). -/
def Obligations.StepRunsDecoded : Prop :=
  ∀ (s : State) (key : Nat) (other replica : Bool) (rest : List Sched) (gr : Group) (i : Instr),
    s.agenda = .issue key other replica :: rest → s.frozen = false → s.powered = true →
    let s0 : State := { s with agenda := rest }
    s0.group? key = some gr → gr.issuable = true → gr.atJoin = none → gr.switchDue other = false →
    let s1 := s0.prepare key other replica
    s1.cur = { gr with issuing := gr.pickPath other } ∧
    (gr.held = [] → ∀ bs, s1.fetchWord s1.cur.path.pc = .ok bs → (bs.getD 3 0).getLsbD 6 = false → decodeBytes bs = .ok i →
      step s = afterIssue key (exec i (s1.fetched bs).afterPushes)) ∧
    (gr.held = [] → ∀ bs bs2, s1.fetchWord s1.cur.path.pc = .ok bs → (bs.getD 3 0).getLsbD 6 = true →
      s1.fetchWord (s1.cur.path.pc + 1) = .ok bs2 → decodeBytes (bs ++ bs2) = .ok i →
      step s = afterIssue key (exec i (s1.fetched (bs ++ bs2)).afterPushes)) ∧
    (gr.held ≠ [] → decodeBytes gr.held = .ok i → step s = afterIssue key (exec i (s1.fetched gr.held).afterPushes)) ∧
    (∀ t : State, t.absent = [] → afterIssue key (.next t) = .next t ∨
      afterIssue key (.next t) = .next { t with replicas := t.replicas.filter fun r => r.holder != .own key }) ∧
    (∀ f, afterIssue key (.fault f) = .fault f) ∧ (∀ r, afterIssue key (.refused r) = .refused r) ∧
    (∀ bs, let t := s1.fetched bs
      t.cur = { s1.cur with held := bs } ∧ t.mem = s1.mem ∧ t.stage = s1.stage ∧ t.others = s1.others ∧
        (s1.cur.pushes = [] → s1.cur.late = [] → t.afterPushes = t))

/-- R84, R86, R90 to R93: some instructions and their words. -/
def Obligations.DecodedWords : Prop :=
  decode 0x4EE0C082 0x0002001C = .ok (.bfx 7 3 1 2 4) ∧ decode 0x0BE14283 0 = .ok (.sarImm 7 5 5 3) ∧
  decode 0x4CE24000 0x000186A0 = .ok (.moviLong 7 9 100000) ∧ decode 0xF7E08180 0x00000002 = .ok (.qtst 7 2 3) ∧
  decode 0x60E8C17B 0x00000015 = .ok (.cmpImm 7 3 4 2 (-5) .ge .nrm) ∧ decode 0x96E00000 0 = .ok (.rvpop 7) ∧
  decode 0x9CE08002 0 = .ok (.role 7 2 2) ∧ decode 0x28E2858C 0 = .ok (.vperm 7 10 11 12)

/-- R98: of a well-formed instruction's words the decoder reads that instruction again, with every operand at every value. -/
def Obligations.DecodeOfEncode : Prop :=
  ∀ i : Instr, encode i ≠ [] → i.wellFormed = true → decode ((encode i).getD 0 0) ((encode i).getD 1 0) = .ok i

/-- R201: every step keeps memory, the Stage and the tiles in their canonical form (log 4, DESIGN CHOICE), so that equal contents are equal data. -/
def Obligations.CanonicalMemoryKept : Prop :=
  ∀ s t : State, Canonical s → step s = .next t → Canonical t

/-- R64, R191, R230, R320: the device right after reset: no group, partition or launch, every byte clear, device time 0, memory in its
canonical form, measurement registers zero, every engine slot at generation 0, and the default curve in every companding table. -/
def Obligations.ResetState : Prop :=
  let s := State.reset
  Canonical s ∧ s.groups = [] ∧ s.saved = [] ∧ s.parts = [] ∧ s.launches = [] ∧ s.requests = [] ∧ s.now = 0 ∧
  s.booted = false ∧ s.frozen = false ∧ s.powered = true ∧ s.fenced = [] ∧ s.mregs = Vector.replicate 8 0 ∧
  (∀ a, SMap.get 0 s.mem a = 0 ∧ SMap.get 0 s.stage a = 0 ∧ SMap.get 0 s.tiles a = 0 ∧ SMap.get 0 s.tileCfg a = 0) ∧
  (∀ e, (s.slotOf e).1 = 0) ∧
  ∀ core n k, k ≤ 16 → FNum.rat (ieeeF32.decode (s.breakCode core n k).toNat) = (k : ℚ) / 8 - 1

/-- R86, R105, R111: the short and the immediate integer forms of lanes. -/
def Obligations.LaneIntegerForms : Prop :=
  Claims.LaneShortForms ∧ Claims.LaneImmediateForms

/-- R106 to R108: the extended integer arithmetic of lanes. -/
def Obligations.LaneArithmetic : Prop :=
  Claims.LaneExactArithmetic ∧ Claims.CarryForms

/-- R60, R112 to R115: the float forms of lanes, with no flag enabled and where an enabled flag traps. -/
def Obligations.LaneFloatForms : Prop :=
  Claims.FloatShortForms ∧ Claims.FloatWideForms ∧ Claims.FloatShortTrap ∧ Claims.FloatWideTrap ∧ Claims.Approximations ∧
    Claims.ApproximationBounds

/-- R54 to R57, R112 to R114: one exact result, rounded once; the format's rounding; minimum and maximum; square roots. -/
def Obligations.FloatRounding : Prop :=
  Claims.FloatExactThenRounded ∧ Claims.RoundingModes ∧ Claims.RoundToFormat ∧ Claims.MinimumAndMaximum ∧ Claims.SquareRoots

/-- R116, R117, R136: compares of integers, in lanes and for the group. -/
def Obligations.WordCompares : Prop :=
  Claims.IntegerCompares ∧ Claims.UniformCompares

/-- R120 to R124: moves, scans, reductions and votes across lanes. -/
def Obligations.CrossLaneOperations : Prop :=
  Claims.CrossLaneForms ∧ Claims.ReductionsAndVotes

/-- R41, R129, R130: the extended register array. -/
def Obligations.ExtendedRegisters : Prop :=
  Claims.RegisterArray ∧ Claims.RegisterArrayTrap

/-- R133 to R135: the uniform integer forms. -/
def Obligations.UniformForms : Prop :=
  Claims.UniformShortForms ∧ Claims.UniformWideForms ∧ Claims.UniformDoubleForms

/-- R36, R137 to R141: branches of the group and of its lanes. -/
def Obligations.Branches : Prop :=
  Claims.UniformBranches ∧ Claims.DivergentBranch

/-- R37, R38, R142, R143: the reconvergence stack and the ends of paths. -/
def Obligations.Reconvergence : Prop :=
  Claims.StackInstructions ∧ Claims.PathJoin

/-- R35, R144 to R146: turns of paths, `yield`, `sleep` and the cohort barrier. -/
def Obligations.GroupWaits : Prop :=
  Claims.TurnsAndSleep ∧ Claims.CohortBarrier

/-- R41, R42, R44, R147 to R149: children, roles and the end of a group. -/
def Obligations.GroupLife : Prop :=
  Claims.Spawning ∧ Claims.RoleSwitch ∧ Claims.GroupExit

/-- R39, R40, R82, R150 to R153: the control registers. -/
def Obligations.ControlRegisters : Prop :=
  Claims.ControlRegisterReads ∧ Claims.ControlRegisterWrites ∧ Claims.StackAndMaskRegisters

/-- R216 to R222: what taking a trap leaves, and where a group dies instead. -/
def Obligations.TakingTraps : Prop :=
  Claims.TrapEntry ∧ Claims.TrapDeath

/-- R98, R100, R154, R175, R218, R219: instructions and events whose effect is a trap. -/
def Obligations.RaisingTraps : Prop :=
  Claims.TrapInstructions ∧ Claims.TrapEvents

/-- R155, R156, R299: what a group asks of Carillon and of its launch queue. -/
def Obligations.RequestsOfGroups : Prop :=
  Claims.ServiceRequests ∧ Claims.LaunchSubmission

/-- R83, R161, R167, R173, R176 to R180: addresses and the checks of an access. -/
def Obligations.Accesses : Prop :=
  Claims.OperandAddresses ∧ Claims.AccessFates ∧ Claims.AccessChecks

/-- R176 to R178, R183: loads and stores that go. -/
def Obligations.LoadsAndStores : Prop :=
  Claims.LaneLoads ∧ Claims.LaneStores ∧ Claims.UniformLoadsAndStores

/-- R182 to R184: completion times of stores, and `fence`. -/
def Obligations.StoreOrder : Prop :=
  Claims.Fence ∧ Claims.StoreHorizons

/-- R50, R98, R231, R232, R236: tiles, their configurations and their elements. -/
def Obligations.Tiles : Prop :=
  Claims.TileConfiguration ∧ Claims.TileAllotment ∧ Claims.TileElements

/-- R237 to R239: tiles to and from registers, memory and other tiles. -/
def Obligations.TileTransfers : Prop :=
  Claims.TileMoves ∧ Claims.TileLoadsAndStores

/-- R234, R241 to R245, R67 to R71: the products of tiles. -/
def Obligations.MatrixProducts : Prop :=
  Claims.MatrixForms ∧ Claims.ProductElements ∧ Claims.IntegerProduct ∧ Claims.CooperativeProduct

/-- R62, R64, R240, R246, R247: `quant` and the companding tables. -/
def Obligations.TileQuantisation : Prop :=
  Claims.Quantising ∧ Claims.CompandingTables

/-- R186 to R192, R195, R248 to R251: copy commands and weight streams, and how they end; that a cancelled copy ends between two chunks and
leaves memory and Stage as they were is the model's reading (log 41, DEDUCED), and so are the order of the checks at issue (log 22, DEDUCED)
and that of two weight streams of a group over one tile (log 31, DEDUCED); which bytes are compared for an overlap is its choice (log 36,
DESIGN CHOICE). -/
def Obligations.EngineCommands : Prop :=
  Claims.CopyCommands ∧ Claims.EngineEvents ∧ Claims.WeightStreams

/-- R32, R300 to R302, R305: the launch queue and what leaves it, by class and then in the order of acceptance, past head cohorts that
their budgets do not admit. -/
def Obligations.LaunchScheduling : Prop :=
  Claims.LaunchQueue ∧ Claims.LaunchDispatch

/-- R191, R193 to R195: handles, status words and Claves. -/
def Obligations.HandlesAndClaves : Prop :=
  Claims.HandleLayout ∧ Claims.HandleInstructions ∧ Claims.Claves

/-- R196 to R198: ports and their elements. -/
def Obligations.Streams : Prop :=
  Claims.StreamPorts ∧ Claims.StreamElements

/-- R262 to R268: collections counted, changed and iterated. -/
def Obligations.Collections : Prop :=
  Claims.CollectionCountsAndRemovals ∧ Claims.CollectionInsertion ∧ Claims.CollectionIterators

/-- R270, R272: work lists and their memberships; that a `wlins` which passes both its pool and its ring is refused for the ring first is the
model's reading (log 26, DEDUCED). -/
def Obligations.WorkListForms : Prop :=
  Claims.WorkLists ∧ Claims.ListMembership

/-- R278 to R282: calls to coprocessors and their returns. -/
def Obligations.CoprocessorRecords : Prop :=
  Claims.CoprocessorCalls ∧ Claims.CoprocessorReturns

/-- R283, R284, R295, R296: tokens, turns and tile sections. -/
def Obligations.ChimeOrder : Prop :=
  Claims.ChimeTokens ∧ Claims.TileSections

/-- R276, R278, R279, R284 to R292: what each unit makes of a record, and the laws of its arithmetic; which of several checks that fail
decides is the model's reading where R288 to R292 give no order (log 42, DEDUCED). -/
def Obligations.CoprocessorUnits : Prop :=
  Claims.UnitLaws ∧ Claims.PixelRecords ∧ Claims.Fragments ∧ Claims.TessellatorRecords ∧ Claims.FilterRecords ∧ Claims.TraversalRecords

/-- R200, R214, R315 to R319: the host link and the peers. -/
def Obligations.OutsideAccesses : Prop :=
  Claims.HostLink ∧ Claims.PeerLinks

/-- R60, R79, R101, R133: what lane and uniform instructions leave as it was. -/
def Obligations.RegisterFrames : Prop :=
  Claims.LaneFrame ∧ Claims.UniformFrame ∧ Claims.HardWiredPredicates

/-- R60, R125 to R128: conversions, with their FP trap, and stream decoding. -/
def Obligations.LaneDecoding : Prop :=
  Claims.Conversions ∧ Claims.StreamDecode

/-- R109, R110, R119: bits of words and of lane predicates. -/
def Obligations.LaneBitsAndPredicates : Prop :=
  Claims.LaneBitForms ∧ Claims.PredicateForms
end

