-- ==== Sys2Proof/Laws/Memory.lean ====
section
/-!
SUPPORT. Sparse arrays and byte memory: a read after a write, the canonical form that every operation keeps, and that equal
contents are equal data.
-/

namespace Sys2Proof.Machine

/-! ### Reads after writes -/

theorem SMap.get_of_rising {α : Type} (d : α) : ∀ (m : SMap α) (b a : Nat), SMap.rising b m = true → a < b → SMap.get d m a = d
  | [], _, _, _, _ => rfl
  | (k, v) :: r, b, a, h, hab => by
    simp only [SMap.rising, Bool.and_eq_true, decide_eq_true_eq] at h
    simp only [SMap.get]
    rw [if_neg (by omega)]
    exact SMap.get_of_rising d r (k + 1) a h.2 (by omega)

/-- A read after a write to a canonical array. -/
theorem SMap.get_set {α : Type} [DecidableEq α] (d : α) : ∀ (m : SMap α) (b a c : Nat) (x : α), SMap.rising b m = true →
    SMap.get d (SMap.set d m a x) c = if c = a then x else SMap.get d m c
  | [], _, a, c, x, _ => by
    simp only [SMap.set, SMap.get]
    split <;> simp_all [SMap.get]
  | (k, v) :: r, b, a, c, x, h => by
    simp only [SMap.rising, Bool.and_eq_true, decide_eq_true_eq] at h
    have ih := SMap.get_set d r (k + 1) a c x h.2
    have hl : ∀ c, c < k + 1 → SMap.get d r c = d := fun c hc => SMap.get_of_rising d r (k + 1) c h.2 hc
    simp only [SMap.set]
    split
    · rename_i hak
      split
      · rename_i hx
        simp only [SMap.get]
        by_cases hca : c = a
        · subst hca; rw [if_neg (by omega), if_pos rfl, hx]; exact hl c (by omega)
        · simp [hca]
      · simp [SMap.get]
    · split
      · rename_i hak hk
        subst hk
        split
        · rename_i hx
          by_cases hca : c = a
          · subst hca; simp [hx, hl c (by omega)]
          · simp [SMap.get, hca]
        · by_cases hca : c = a <;> simp [SMap.get, hca]
      · rename_i hak hk
        simp only [SMap.get]
        by_cases hck : c = k
        · subst hck; simp [Ne.symm (Ne.intro hk)]
        · simp [hck, ih]

/-! ### The canonical form -/

theorem SMap.rising_mono {α : Type} : ∀ (m : SMap α) {k b : Nat}, SMap.rising k m = true → b ≤ k → SMap.rising b m = true
  | [], _, _, _, _ => rfl
  | (_, _) :: _, _, _, h, hb => by
    simp only [SMap.rising, Bool.and_eq_true, decide_eq_true_eq] at h ⊢
    exact ⟨by omega, h.2⟩

theorem SMap.rising_set {α : Type} [DecidableEq α] (d : α) : ∀ (m : SMap α) (b a : Nat) (x : α), SMap.rising b m = true → b ≤ a →
    SMap.rising b (SMap.set d m a x) = true
  | [], b, a, x, _, hb => by
    simp only [SMap.set]; split <;> simp [SMap.rising, hb]
  | (k, v) :: r, b, a, x, h, hb => by
    simp only [SMap.rising, Bool.and_eq_true, decide_eq_true_eq] at h
    simp only [SMap.set]
    split
    · split <;> simp [SMap.rising] <;> (refine ⟨?_, ?_⟩ <;> first | omega | exact h.2 | skip)
      · exact ⟨by omega, h.2⟩
    · split
      · rename_i hk; subst hk
        split
        · exact SMap.rising_mono r h.2 (by omega)
        · simp [SMap.rising, h.2, hb]
      · simp only [SMap.rising, Bool.and_eq_true, decide_eq_true_eq]
        exact ⟨h.1, SMap.rising_set d r (k + 1) a x h.2 (by omega)⟩
theorem SMap.nodefault_set {α : Type} [DecidableEq α] (d : α) : ∀ (m : SMap α) (a : Nat) (x : α),
    (m.all fun e => decide (e.2 ≠ d)) = true → ((SMap.set d m a x).all fun e => decide (e.2 ≠ d)) = true
  | [], a, x, _ => by simp only [SMap.set]; split <;> simp_all
  | (k, v) :: r, a, x, h => by
    simp only [List.all_cons, Bool.and_eq_true] at h
    have ih := SMap.nodefault_set d r a x h.2
    simp only [SMap.set]
    split
    · split
      · simp only [List.all_cons, Bool.and_eq_true]; exact h
      · simp only [List.all_cons, Bool.and_eq_true]; exact ⟨by simpa using ‹_›, h⟩
    · split
      · split
        · exact h.2
        · simp only [List.all_cons, Bool.and_eq_true]; exact ⟨by simpa using ‹_›, h.2⟩
      · simp only [List.all_cons, Bool.and_eq_true]; exact ⟨h.1, ih⟩

/-- A write keeps the canonical form. -/
theorem SMap.wf_set {α : Type} [DecidableEq α] (d : α) (m : SMap α) (a : Nat) (x : α) (h : SMap.wf d m = true) :
    SMap.wf d (SMap.set d m a x) = true := by
  simp only [SMap.wf, Bool.and_eq_true] at h ⊢
  exact ⟨SMap.rising_set d m 0 a x h.1 (Nat.zero_le a), SMap.nodefault_set d m a x h.2⟩

theorem SMap.rising_keep {α : Type} (q : Nat → Bool) : ∀ (m : SMap α) (b : Nat), SMap.rising b m = true →
    SMap.rising b (SMap.keep q m) = true
  | [], _, _ => rfl
  | (k, v) :: r, b, h => by
    simp only [SMap.rising, Bool.and_eq_true, decide_eq_true_eq] at h
    have ih := SMap.rising_keep q r (k + 1) h.2
    simp only [SMap.keep, List.filter_cons]
    split
    · simp only [SMap.rising, Bool.and_eq_true, decide_eq_true_eq]; exact ⟨h.1, ih⟩
    · exact SMap.rising_mono _ ih (by omega)

/-- A bulk clear keeps the canonical form. -/
theorem SMap.wf_keep {α : Type} [DecidableEq α] (d : α) (q : Nat → Bool) (m : SMap α) (h : SMap.wf d m = true) :
    SMap.wf d (SMap.keep q m) = true := by
  simp only [SMap.wf, Bool.and_eq_true] at h ⊢
  refine ⟨SMap.rising_keep q m 0 h.1, ?_⟩
  simp only [SMap.keep, List.all_eq_true, List.mem_filter, and_imp] at h ⊢
  intro x hx _
  exact h.2 x hx

/-- A read after a write. -/
theorem SMap.get_set_wf {α : Type} [DecidableEq α] (d : α) (m : SMap α) (a c : Nat) (x : α) (h : SMap.wf d m = true) :
    SMap.get d (SMap.set d m a x) c = if c = a then x else SMap.get d m c := by
  simp only [SMap.wf, Bool.and_eq_true] at h
  exact SMap.get_set d m 0 a c x h.1

/-! ### Bytes -/

/-- Stores keep the canonical form of memory. -/
theorem wf_writeBytes : ∀ (bs : List Byte) (m : List Host.Cell) (a : Nat), Memory.wf m = true →
    Memory.wf (writeBytes m a bs) = true
  | [], _, _, h => h
  | b :: bs, m, a, h => wf_writeBytes bs _ (a + 1) (SMap.wf_set 0 m a b h)

/-- A read of a byte after a store. -/
theorem get_writeBytes : ∀ (bs : List Byte) (m : List Host.Cell) (a c : Nat), Memory.wf m = true →
    SMap.get 0 (writeBytes m a bs) c = if a ≤ c ∧ c < a + bs.length then bs.getD (c - a) 0 else SMap.get 0 m c
  | [], m, a, c, _ => by simp [writeBytes]
  | b :: bs, m, a, c, h => by
    simp only [writeBytes]
    rw [get_writeBytes bs _ (a + 1) c (SMap.wf_set 0 m a b h), SMap.get_set_wf 0 m a c b h]
    by_cases h1 : c = a
    · subst h1; simp
    · by_cases h2 : a + 1 ≤ c ∧ c < a + 1 + bs.length
      · rw [if_pos h2, if_pos (by simp; omega)]
        have : c - a = (c - (a + 1)) + 1 := by omega
        rw [this]; rfl
      · rw [if_neg h2, if_neg h1, if_neg (by simp; omega)]

@[simp] theorem length_readBytes (m : List Host.Cell) (a n : Nat) : (readBytes m a n).length = n := by simp [readBytes]

/-- A store leaves the bytes outside it. -/
theorem readBytes_writeBytes_of_disjoint (m : List Host.Cell) (a c n : Nat) (bs : List Byte) (h : Memory.wf m = true)
    (hd : c + n ≤ a ∨ a + bs.length ≤ c) : readBytes (writeBytes m a bs) c n = readBytes m c n := by
  unfold readBytes
  refine List.map_congr_left fun i hi => ?_
  rw [List.mem_range] at hi
  rw [get_writeBytes bs m a (c + i) h, if_neg (by omega)]

/-- A read of what was stored. -/
theorem readBytes_writeBytes_same (m : List Host.Cell) (a : Nat) (bs : List Byte) (h : Memory.wf m = true) :
    readBytes (writeBytes m a bs) a bs.length = bs := by
  apply List.ext_getElem
  · simp
  · intro i h1 h2
    simp only [readBytes, List.getElem_map, List.getElem_range]
    rw [get_writeBytes bs m a (a + i) h, if_pos (by omega)]
    simp [List.getD_eq_getElem?_getD, h2]

@[simp] theorem length_leBytes : ∀ (n x : Nat), (leBytes n x).length = n
  | 0, _ => rfl
  | n + 1, x => by simp [leBytes, length_leBytes n]

/-- The bytes of a number are the number again, modulo their count. -/
theorem leNat_leBytes : ∀ (n x : Nat), leNat (leBytes n x) = x % 256 ^ n
  | 0, x => by simp [leBytes, leNat, Nat.mod_one]
  | n + 1, x => by
    have h : (BitVec.ofNat 8 x).toNat = x % 256 := by rw [BitVec.toNat_ofNat]
    rw [leBytes, leNat, leNat_leBytes n, h, Nat.pow_succ', Nat.mod_mul]

end Sys2Proof.Machine
end

