-- ==== Sys2Proof/Laws/Words.lean ====
section
/-!
SUPPORT. Words and their fields: the fields of a word made of fields are those fields, for the first word and for each format of
the second; every code reads back as its name; and what an instruction's round trip through its words comes down to.
-/

namespace Sys2Proof

/-! ### Parts of joined vectors -/

theorem ext_lo {m n : Nat} (x : BitVec m) (y : BitVec n) : (x ++ y).extractLsb' 0 n = y := by
  ext i hi
  simp [BitVec.getLsbD_append, hi]

theorem ext_hi {m n : Nat} (x : BitVec m) (y : BitVec n) (k w : Nat) :
    (x ++ y).extractLsb' (n + k) w = x.extractLsb' k w := by
  ext i hi
  simp only [BitVec.getElem_extractLsb', BitVec.getLsbD_append]
  rw [if_neg (by omega)]
  congr 1; omega

theorem ext_all {n : Nat} (x : BitVec n) : x.extractLsb' 0 n = x := by
  ext i hi; simp

theorem bit_hi {m n : Nat} (x : BitVec m) (y : BitVec n) (k : Nat) : (x ++ y).getLsbD (n + k) = x.getLsbD k := by
  simp only [BitVec.getLsbD_append]
  rw [if_neg (by omega)]
  congr 1; omega

theorem bit_lo {m n : Nat} (x : BitVec m) (y : BitVec n) (k : Nat) (h : k < n) : (x ++ y).getLsbD k = y.getLsbD k := by
  simp [BitVec.getLsbD_append, h]

/-! ### The fields of words made of fields (R90, R91) -/

theorem Head.ofWord_toWord (h : Head) : Head.ofWord h.toWord = h := by
  obtain ⟨uni, ext, prim, g, d, a, b⟩ := h
  have hb : (Head.toWord ⟨uni, ext, prim, g, d, a, b⟩).extractLsb' 0 7 = b := ext_lo _ b
  have ha : (Head.toWord ⟨uni, ext, prim, g, d, a, b⟩).extractLsb' 7 7 = a := (ext_hi _ b 0 7).trans (ext_lo _ a)
  have hd : (Head.toWord ⟨uni, ext, prim, g, d, a, b⟩).extractLsb' 14 7 = d :=
    (ext_hi _ b 7 7).trans <| (ext_hi _ a 0 7).trans (ext_lo _ d)
  have hg : (Head.toWord ⟨uni, ext, prim, g, d, a, b⟩).extractLsb' 21 3 = g :=
    (ext_hi _ b 14 3).trans <| (ext_hi _ a 7 3).trans <| (ext_hi _ d 0 3).trans (ext_lo _ g)
  have hp : (Head.toWord ⟨uni, ext, prim, g, d, a, b⟩).extractLsb' 24 6 = prim :=
    (ext_hi _ b 17 6).trans <| (ext_hi _ a 10 6).trans <| (ext_hi _ d 3 6).trans <| (ext_hi _ g 0 6).trans (ext_lo _ prim)
  have he : (Head.toWord ⟨uni, ext, prim, g, d, a, b⟩).getLsbD 30 = ext :=
    (bit_hi _ b 23).trans <| (bit_hi _ a 16).trans <| (bit_hi _ d 9).trans <| (bit_hi _ g 6).trans <| (bit_hi _ prim 0).trans <|
      (bit_lo _ _ 0 (by decide)).trans (by simp)
  have hu : (Head.toWord ⟨uni, ext, prim, g, d, a, b⟩).getLsbD 31 = uni :=
    (bit_hi _ b 24).trans <| (bit_hi _ a 17).trans <| (bit_hi _ d 10).trans <| (bit_hi _ g 7).trans <| (bit_hi _ prim 1).trans <|
      (bit_hi _ _ 0).trans (by simp)
  simp only [Head.ofWord, hb, ha, hd, hg, hp, he, hu]

theorem E2.ofWord_toWord (x : E2) : E2.ofWord x.toWord = x := by
  obtain ⟨fmt, rnd, ct, c, aux, sub⟩ := x
  have h1 : (E2.toWord ⟨fmt, rnd, ct, c, aux, sub⟩).extractLsb' 0 8 = sub := ext_lo _ sub
  have h2 : (E2.toWord ⟨fmt, rnd, ct, c, aux, sub⟩).extractLsb' 8 7 = aux := (ext_hi _ sub 0 7).trans (ext_lo _ aux)
  have h3 : (E2.toWord ⟨fmt, rnd, ct, c, aux, sub⟩).extractLsb' 15 7 = c :=
    (ext_hi _ sub 7 7).trans <| (ext_hi _ aux 0 7).trans (ext_lo _ c)
  have h4 : (E2.toWord ⟨fmt, rnd, ct, c, aux, sub⟩).extractLsb' 22 3 = ct :=
    (ext_hi _ sub 14 3).trans <| (ext_hi _ aux 7 3).trans <| (ext_hi _ c 0 3).trans (ext_lo _ ct)
  have h5 : (E2.toWord ⟨fmt, rnd, ct, c, aux, sub⟩).extractLsb' 25 3 = rnd :=
    (ext_hi _ sub 17 3).trans <| (ext_hi _ aux 10 3).trans <| (ext_hi _ c 3 3).trans <| (ext_hi _ ct 0 3).trans (ext_lo _ rnd)
  have h6 : (E2.toWord ⟨fmt, rnd, ct, c, aux, sub⟩).extractLsb' 28 4 = fmt :=
    (ext_hi _ sub 20 4).trans <| (ext_hi _ aux 13 4).trans <| (ext_hi _ c 6 4).trans <| (ext_hi _ ct 3 4).trans <|
      (ext_hi _ rnd 0 4).trans (ext_all fmt)
  simp only [E2.ofWord, h1, h2, h3, h4, h5, h6]

theorem E3.ofWord_toWord (x : E3) : E3.ofWord x.toWord = x := by
  obtain ⟨obs, order, space, size, off⟩ := x
  have h1 : (E3.toWord ⟨obs, order, space, size, off⟩).extractLsb' 0 20 = off := ext_lo _ off
  have h2 : (E3.toWord ⟨obs, order, space, size, off⟩).extractLsb' 20 3 = size := (ext_hi _ off 0 3).trans (ext_lo _ size)
  have h3 : (E3.toWord ⟨obs, order, space, size, off⟩).getLsbD 23 = space :=
    (bit_hi _ off 3).trans <| (bit_hi _ size 0).trans <| (bit_lo _ _ 0 (by decide)).trans (by simp)
  have h4 : (E3.toWord ⟨obs, order, space, size, off⟩).extractLsb' 24 2 = order :=
    (ext_hi _ off 4 2).trans <| (ext_hi _ size 1 2).trans <| (ext_hi _ (BitVec.ofBool space) 0 2).trans (ext_lo _ order)
  have h5 : (E3.toWord ⟨obs, order, space, size, off⟩).extractLsb' 26 6 = obs :=
    (ext_hi _ off 6 6).trans <| (ext_hi _ size 3 6).trans <| (ext_hi _ (BitVec.ofBool space) 2 6).trans <|
      (ext_hi _ order 0 6).trans (ext_all obs)
  simp only [E3.ofWord, h1, h2, h3, h4, h5]

theorem E4.ofWord_toWord (x : E4) : E4.ofWord x.toWord = x := by
  obtain ⟨join, hints⟩ := x
  have h1 : (E4.toWord ⟨join, hints⟩).extractLsb' 0 12 = hints := ext_lo _ hints
  have h2 : (E4.toWord ⟨join, hints⟩).extractLsb' 12 20 = join := (ext_hi _ hints 0 20).trans (ext_all join)
  simp only [E4.ofWord, h1, h2]

theorem Head.low21_mk21 (uni ext : Bool) (prim : BitVec 6) (g : BitVec 3) (x : BitVec 21) :
    (Head.mk21 uni ext prim g x).low21 = x := by
  have h : ∀ k < 21, (Head.mk21 uni ext prim g x).low21.getLsbD k = x.getLsbD k := by
    intro k hk
    simp only [Head.mk21, Head.low21, BitVec.getLsbD_append, BitVec.getLsbD_extractLsb']
    split
    · simp [*]
    · split <;> (rw [decide_eq_true (by omega)]; simp only [Bool.true_and]; congr 1; omega)
  exact BitVec.eq_of_getLsbD_eq fun i hi => h i hi

/-! ### Parts of fields (R92, R94, R96) -/

theorem lo3_4 (x : BitVec 3) : lo3 (0#4 ++ x) = x := ext_lo _ x
theorem lo3_33 (y : BitVec 1) (p x : BitVec 3) : lo3 (y ++ p ++ x) = x := ext_lo _ x
theorem mid3_33 (y : BitVec 1) (p x : BitVec 3) : mid3 (y ++ p ++ x) = p := (ext_hi _ x 0 3).trans (ext_lo _ p)
theorem lo3_22 (y z : BitVec 2) (x : BitVec 3) : lo3 (y ++ z ++ x) = x := ext_lo _ x
theorem sel_22 (y z : BitVec 2) (x : BitVec 3) : (y ++ z ++ x).extractLsb' 3 2 = z := (ext_hi _ x 0 2).trans (ext_lo _ z)
theorem lo4_3 (y : BitVec 3) (x : BitVec 4) : lo4 (y ++ x) = x := ext_lo _ x
theorem sel_34 (y : BitVec 3) (x : BitVec 4) : (y ++ x).extractLsb' 4 3 = y := (ext_hi _ x 0 3).trans (ext_all y)
theorem lo6_1 (x : BitVec 6) : lo6 (0#1 ++ x) = x := ext_lo _ x
theorem lo2_5 (x : BitVec 2) : lo2 (0#5 ++ x) = x := ext_lo _ x
theorem lo4_44 (y x : BitVec 4) : (y ++ x).extractLsb' 0 4 = x := ext_lo _ x
theorem sel_44 (y x : BitVec 4) : (y ++ x).extractLsb' 4 4 = y := (ext_hi _ x 0 4).trans (ext_all y)
theorem lo3_53 (x : BitVec 3) : (0#5 ++ x).extractLsb' 0 3 = x := ext_lo _ x
theorem lo2_62 (x : BitVec 2) : (0#6 ++ x).extractLsb' 0 2 = x := ext_lo _ x
theorem lo2_10 (x : BitVec 2) : (0#10 ++ x).extractLsb' 0 2 = x := ext_lo _ x
theorem bit0_7 (z : Bool) : (0#7 ++ BitVec.ofBool z).getLsbD 0 = z := by cases z <;> decide
theorem bit2_12 (z : Bool) : (BitVec.ofBool z ++ 0#2).getLsbD 2 = z := by cases z <;> decide
theorem bit3_313 (z : Bool) (x : BitVec 3) : (0#3 ++ BitVec.ofBool z ++ x).getLsbD 3 = z :=
  (bit_hi _ x 0).trans ((bit_lo _ _ 0 (by decide)).trans (by simp))
theorem lo3_313 (y : BitVec 3) (z : BitVec 1) (x : BitVec 3) : lo3 (y ++ z ++ x) = x := ext_lo _ x
theorem hi_416 (x : BitVec 4) (y : BitVec 16) : (x ++ y).extractLsb' 16 4 = x := (ext_hi _ y 0 4).trans (ext_all x)
theorem lo_416 (x : BitVec 4) (y : BitVec 16) : (x ++ y).extractLsb' 0 16 = y := ext_lo _ y
theorem hi_318 (x : BitVec 3) (y : BitVec 18) : (x ++ y).extractLsb' 18 3 = x := (ext_hi _ y 0 3).trans (ext_all x)
theorem lo_318 (x : BitVec 3) (y : BitVec 18) : (x ++ y).extractLsb' 0 18 = y := ext_lo _ y
theorem lo_230 (y : BitVec 30) : (0#2 ++ y).extractLsb' 0 30 = y := ext_lo _ y
theorem size_dbl (z : Bool) : ((if z then 5#3 else 4#3) == 5#3) = z := by cases z <;> decide
theorem ovf_sat (z : Bool) : (ovf z == 1#3) = z := by cases z <;> decide

/-! ### Codes (R49, R56, R91 to R94) -/

theorem Rnd.ofCode_code (x : Rnd) : Rnd.ofCode x.code = x := by cases x <;> rfl
theorem Fmt.ofCode_code (x : Fmt) : Fmt.ofCode x.code = x := by cases x <;> rfl
theorem FFmt.ofCode_code (x : FFmt) : FFmt.ofCode x.code = x := by cases x <;> rfl
theorem CmpOp.ofCode_code (x : CmpOp) : CmpOp.ofCode x.code = x := by cases x <;> rfl
theorem FcmpOp.ofCode_code (x : FcmpOp) : FcmpOp.ofCode x.code = x := by cases x <;> rfl
theorem CType.ofCode_code (x : CType) : CType.ofCode x.code = x := by cases x <;> rfl
theorem Shfl.ofCode_code (x : Shfl) : Shfl.ofCode x.code = x := by cases x <;> rfl
theorem RedOp.ofCode_code (x : RedOp) : RedOp.ofCode x.code = x := by cases x <;> rfl
theorem AtomOp.ofCode_code (x : AtomOp) : AtomOp.ofCode x.code = x := by cases x <;> rfl
theorem Size.ofCode_code (x : Size) : Size.ofCode x.code = x := by cases x <;> rfl
theorem Order.ofCode_code (x : Order) : Order.ofCode x.code = x := by cases x <;> rfl
theorem Hint.ofCode_code (x : Hint) : Hint.ofCode x.code = x := by cases x <;> rfl
theorem CUnit.ofCode_code (x : CUnit) : CUnit.ofCode x.code = x := by cases x <;> rfl

theorem MemAddr.ofFields_fields (m : MemAddr) : MemAddr.ofFields m.fieldA m.fieldB = m := by
  cases m with
  | idx s k r =>
    have hk : (0#1 ++ s ++ k : BitVec 7).extractLsb' 0 4 = k := ext_lo _ k
    have hs : (0#1 ++ s ++ k : BitVec 7).extractLsb' 4 3 = 0#1 ++ s := (ext_hi _ k 0 3).trans (ext_all _)
    simp only [MemAddr.ofFields, MemAddr.fieldA, MemAddr.fieldB, hs, hk]
    have h4 : ∀ s : BitVec 2, s = 0#2 ∨ s = 1#2 ∨ s = 2#2 ∨ s = 3#2 := by decide
    rcases h4 s with rfl | rfl | rfl | rfl <;> rfl
  | base k =>
    have hk : (4#3 ++ k : BitVec 7).extractLsb' 0 4 = k := ext_lo _ k
    have hs : (4#3 ++ k : BitVec 7).extractLsb' 4 3 = 4#3 := (ext_hi _ k 0 3).trans (ext_all _)
    simp only [MemAddr.ofFields, MemAddr.fieldA, MemAddr.fieldB, hs, hk]
    rfl
  | lanes r =>
    have hs : (5#3 ++ 0#4 : BitVec 7).extractLsb' 4 3 = 5#3 := by decide
    simp only [MemAddr.ofFields, MemAddr.fieldA, MemAddr.fieldB, hs]
    rfl

/-! ### The round trip of an instruction's words -/

/-- The form that a first word's fields and a second word name: what the decoder tries. -/
def Head.form (h : Head) (w1 : Word) : Option Instr :=
  match h.uni, h.ext with
  | false, false => laneShort h
  | false, true => laneLong h w1
  | true, false => uniformShort h w1
  | true, true => uniformLong h w1

/-- The decoder gives back a well-formed instruction that has the form of its own words. -/
theorem decode_of_form (h : Head) (w : Word) (i : Instr) (hf : h.form w = some i) (hw : i.wellFormed = true)
    (he : encode i = if h.ext then [h.toWord, w] else [h.toWord]) : decode h.toWord w = .ok i := by
  have hx : h.toWord.getLsbD 30 = h.ext := congrArg Head.ext h.ofWord_toWord
  have hc : candidate h.toWord w = some i := by unfold candidate; rw [Head.ofWord_toWord]; exact hf
  unfold decode patternWords
  rw [hc, hx]
  simp [hw, he]

/-- The round trip of an instruction's words (R89 to R98). -/
def ReadsBack (i : Instr) : Prop :=
  encode i ≠ [] → i.wellFormed = true → decode ((encode i).getD 0 0) ((encode i).getD 1 0) = .ok i

theorem readsBack_none (i : Instr) (he : encode i = []) : ReadsBack i := fun h => absurd he h

theorem readsBack_one (i : Instr) (h : Head) (hx : h.ext = false) (he : encode i = [h.toWord])
    (hf : i.wellFormed = true → h.form 0 = some i) : ReadsBack i := fun _ hw => by
  rw [he]; exact decode_of_form h 0 i (hf hw) hw (by rw [hx]; exact he)

theorem readsBack_two (i : Instr) (h : Head) (w : Word) (hx : h.ext = true) (he : encode i = [h.toWord, w])
    (hf : i.wellFormed = true → h.form w = some i) : ReadsBack i := fun _ hw => by
  rw [he]; exact decode_of_form h w i (hf hw) hw (by rw [hx]; exact he)

theorem readsBack_e2 (i : Instr) (h : Head) (x : E2) (hx : h.ext = true) (he : encode i = [h.toWord, x.toWord])
    (hf : i.wellFormed = true → ∀ w, E2.ofWord w = x → h.form w = some i) : ReadsBack i :=
  readsBack_two i h x.toWord hx he fun hw => hf hw _ x.ofWord_toWord

theorem readsBack_e3 (i : Instr) (h : Head) (x : E3) (hx : h.ext = true) (he : encode i = [h.toWord, x.toWord])
    (hf : ∀ w, E3.ofWord w = x → h.form w = some i) : ReadsBack i :=
  readsBack_two i h x.toWord hx he fun _ => hf _ x.ofWord_toWord

end Sys2Proof
end

