-- ==== Sys2Proof/Laws/PerInstr.lean ====
section
/-!
SUPPORT. What holds of every instruction as syntax, one lemma a constructor: the decoder reads an instruction again from its own
words (R89 to R98); an event has no words.
-/

namespace Sys2Proof

/-- The words of the instruction, if it has any and is well formed, decode to it. -/
def Laws.RoundTrip.Statement (i : Instr) : Prop := ReadsBack i

end Sys2Proof

open Sys2Proof Sys2Proof.Laws.RoundTrip

theorem Sys2Proof.Laws.RoundTrip.add g d a b : Statement (.add g d a b) :=
  readsBack_one _ ⟨false, false, 0x00#6, g, d, a, b⟩ rfl rfl fun _ => rfl

theorem Sys2Proof.Laws.RoundTrip.addImm g d a i : Statement (.addImm g d a i) :=
  readsBack_one _ ⟨false, false, 0x01#6, g, d, a, i⟩ rfl rfl fun _ => rfl

theorem Sys2Proof.Laws.RoundTrip.addImmLong g d a w : Statement (.addImmLong g d a w) :=
  readsBack_two _ ⟨false, true, 0x01#6, g, d, a, 0#7⟩ w rfl rfl fun _ => rfl

theorem Sys2Proof.Laws.RoundTrip.sub g d a b : Statement (.sub g d a b) :=
  readsBack_one _ ⟨false, false, 0x02#6, g, d, a, b⟩ rfl rfl fun _ => rfl

theorem Sys2Proof.Laws.RoundTrip.mullo g d a b : Statement (.mullo g d a b) :=
  readsBack_one _ ⟨false, false, 0x03#6, g, d, a, b⟩ rfl rfl fun _ => rfl

theorem Sys2Proof.Laws.RoundTrip.and g d a b : Statement (.and g d a b) :=
  readsBack_one _ ⟨false, false, 0x04#6, g, d, a, b⟩ rfl rfl fun _ => rfl

theorem Sys2Proof.Laws.RoundTrip.andImm g d a i : Statement (.andImm g d a i) :=
  readsBack_one _ ⟨false, false, 0x05#6, g, d, a, i⟩ rfl rfl fun _ => rfl

theorem Sys2Proof.Laws.RoundTrip.andImmLong g d a w : Statement (.andImmLong g d a w) :=
  readsBack_two _ ⟨false, true, 0x05#6, g, d, a, 0#7⟩ w rfl rfl fun _ => rfl

theorem Sys2Proof.Laws.RoundTrip.or g d a b : Statement (.or g d a b) :=
  readsBack_one _ ⟨false, false, 0x06#6, g, d, a, b⟩ rfl rfl fun _ => rfl

theorem Sys2Proof.Laws.RoundTrip.orImm g d a i : Statement (.orImm g d a i) :=
  readsBack_one _ ⟨false, false, 0x07#6, g, d, a, i⟩ rfl rfl fun _ => rfl

theorem Sys2Proof.Laws.RoundTrip.orImmLong g d a w : Statement (.orImmLong g d a w) :=
  readsBack_two _ ⟨false, true, 0x07#6, g, d, a, 0#7⟩ w rfl rfl fun _ => rfl

theorem Sys2Proof.Laws.RoundTrip.xor g d a b : Statement (.xor g d a b) :=
  readsBack_one _ ⟨false, false, 0x08#6, g, d, a, b⟩ rfl rfl fun _ => rfl

theorem Sys2Proof.Laws.RoundTrip.shlImm g d a i : Statement (.shlImm g d a i) :=
  readsBack_one _ ⟨false, false, 0x09#6, g, d, a, i⟩ rfl rfl fun _ => rfl

theorem Sys2Proof.Laws.RoundTrip.shlImmLong g d a w : Statement (.shlImmLong g d a w) :=
  readsBack_two _ ⟨false, true, 0x09#6, g, d, a, 0#7⟩ w rfl rfl fun _ => rfl

theorem Sys2Proof.Laws.RoundTrip.shrImm g d a i : Statement (.shrImm g d a i) :=
  readsBack_one _ ⟨false, false, 0x0A#6, g, d, a, i⟩ rfl rfl fun _ => rfl

theorem Sys2Proof.Laws.RoundTrip.shrImmLong g d a w : Statement (.shrImmLong g d a w) :=
  readsBack_two _ ⟨false, true, 0x0A#6, g, d, a, 0#7⟩ w rfl rfl fun _ => rfl

theorem Sys2Proof.Laws.RoundTrip.sarImm g d a i : Statement (.sarImm g d a i) :=
  readsBack_one _ ⟨false, false, 0x0B#6, g, d, a, i⟩ rfl rfl fun _ => rfl

theorem Sys2Proof.Laws.RoundTrip.sarImmLong g d a w : Statement (.sarImmLong g d a w) :=
  readsBack_two _ ⟨false, true, 0x0B#6, g, d, a, 0#7⟩ w rfl rfl fun _ => rfl

theorem Sys2Proof.Laws.RoundTrip.movi g d i : Statement (.movi g d i) :=
  readsBack_one _ ⟨false, false, 0x0C#6, g, d, 0#7, i⟩ rfl rfl fun _ => rfl

theorem Sys2Proof.Laws.RoundTrip.moviLong g d w : Statement (.moviLong g d w) :=
  readsBack_two _ ⟨false, true, 0x0C#6, g, d, 0#7, 0#7⟩ w rfl rfl fun _ => rfl

theorem Sys2Proof.Laws.RoundTrip.mov g d a : Statement (.mov g d a) :=
  readsBack_one _ ⟨false, false, 0x0D#6, g, d, a, 0#7⟩ rfl rfl fun _ => by
    refine (rfl : _ = ite _ _ _).trans ?_
    simp

theorem Sys2Proof.Laws.RoundTrip.movPopPort g d q : Statement (.movPopPort g d q) :=
  readsBack_one _ ⟨false, false, 0x0D#6, g, d, 0#7, 1#3 ++ q⟩ rfl rfl fun _ => by
    refine (rfl : _ = ite _ _ _).trans ?_
    simp only [sel_34, lo4_3]; rfl

theorem Sys2Proof.Laws.RoundTrip.movPushPort g a q : Statement (.movPushPort g a q) :=
  readsBack_one _ ⟨false, false, 0x0D#6, g, 0#7, a, 2#3 ++ q⟩ rfl rfl fun _ => by
    refine (rfl : _ = ite _ _ _).trans ?_
    simp only [sel_34, lo4_3]; rfl

theorem Sys2Proof.Laws.RoundTrip.addX g d a b sat : Statement (.addX g d a b sat) :=
  readsBack_e2 _ ⟨false, true, 0x0E#6, g, d, a, b⟩ ⟨0#4, ovf sat, 0#3, 0#7, 0#7, 0x00#8⟩ rfl rfl fun _ w e => by
    unfold Head.form; dsimp only; unfold laneLong; rw [e]
    exact (rfl : _ = some _).trans (by simp only [ovf_sat])

theorem Sys2Proof.Laws.RoundTrip.addN32 g d a b sat : Statement (.addN32 g d a b sat) :=
  readsBack_e2 _ ⟨false, true, 0x0E#6, g, d, a, b⟩ ⟨0#4, ovf sat, 0#3, 0#7, 0#7, 0x01#8⟩ rfl rfl fun _ w e => by
    unfold Head.form; dsimp only; unfold laneLong; rw [e]
    exact (rfl : _ = some _).trans (by simp only [ovf_sat])

theorem Sys2Proof.Laws.RoundTrip.subX g d a b sat : Statement (.subX g d a b sat) :=
  readsBack_e2 _ ⟨false, true, 0x0E#6, g, d, a, b⟩ ⟨0#4, ovf sat, 0#3, 0#7, 0#7, 0x02#8⟩ rfl rfl fun _ w e => by
    unfold Head.form; dsimp only; unfold laneLong; rw [e]
    exact (rfl : _ = some _).trans (by simp only [ovf_sat])

theorem Sys2Proof.Laws.RoundTrip.subN32 g d a b sat : Statement (.subN32 g d a b sat) :=
  readsBack_e2 _ ⟨false, true, 0x0E#6, g, d, a, b⟩ ⟨0#4, ovf sat, 0#3, 0#7, 0#7, 0x03#8⟩ rfl rfl fun _ w e => by
    unfold Head.form; dsimp only; unfold laneLong; rw [e]
    exact (rfl : _ = some _).trans (by simp only [ovf_sat])

theorem Sys2Proof.Laws.RoundTrip.addc g d a b pi po : Statement (.addc g d a b pi po) :=
  readsBack_e2 _ ⟨false, true, 0x0E#6, g, d, a, b⟩ ⟨0#4, 0#3, 0#3, 0#7, (0#1 ++ po ++ pi), 0x04#8⟩ rfl rfl fun _ w e => by
    unfold Head.form; dsimp only; unfold laneLong; rw [e]
    exact (rfl : _ = some _).trans (by simp only [lo3_33, mid3_33])

theorem Sys2Proof.Laws.RoundTrip.subb g d a b pi po : Statement (.subb g d a b pi po) :=
  readsBack_e2 _ ⟨false, true, 0x0E#6, g, d, a, b⟩ ⟨0#4, 0#3, 0#3, 0#7, (0#1 ++ po ++ pi), 0x05#8⟩ rfl rfl fun _ w e => by
    unfold Head.form; dsimp only; unfold laneLong; rw [e]
    exact (rfl : _ = some _).trans (by simp only [lo3_33, mid3_33])

theorem Sys2Proof.Laws.RoundTrip.neg g d a sat : Statement (.neg g d a sat) :=
  readsBack_e2 _ ⟨false, true, 0x0E#6, g, d, a, 0#7⟩ ⟨0#4, ovf sat, 0#3, 0#7, 0#7, 0x06#8⟩ rfl rfl fun _ w e => by
    unfold Head.form; dsimp only; unfold laneLong; rw [e]
    exact (rfl : _ = some _).trans (by simp only [ovf_sat])

theorem Sys2Proof.Laws.RoundTrip.abs g d a sat : Statement (.abs g d a sat) :=
  readsBack_e2 _ ⟨false, true, 0x0E#6, g, d, a, 0#7⟩ ⟨0#4, ovf sat, 0#3, 0#7, 0#7, 0x07#8⟩ rfl rfl fun _ w e => by
    unfold Head.form; dsimp only; unfold laneLong; rw [e]
    exact (rfl : _ = some _).trans (by simp only [ovf_sat])

theorem Sys2Proof.Laws.RoundTrip.min g d a b : Statement (.min g d a b) :=
  readsBack_e2 _ ⟨false, true, 0x0E#6, g, d, a, b⟩ ⟨0#4, 0#3, 0#3, 0#7, 0#7, 0x08#8⟩ rfl rfl fun _ w e => by
    unfold Head.form; dsimp only; unfold laneLong; rw [e]; rfl

theorem Sys2Proof.Laws.RoundTrip.minN32 g d a b : Statement (.minN32 g d a b) :=
  readsBack_e2 _ ⟨false, true, 0x0E#6, g, d, a, b⟩ ⟨0#4, 0#3, 0#3, 0#7, 0#7, 0x09#8⟩ rfl rfl fun _ w e => by
    unfold Head.form; dsimp only; unfold laneLong; rw [e]; rfl

theorem Sys2Proof.Laws.RoundTrip.max g d a b : Statement (.max g d a b) :=
  readsBack_e2 _ ⟨false, true, 0x0E#6, g, d, a, b⟩ ⟨0#4, 0#3, 0#3, 0#7, 0#7, 0x0A#8⟩ rfl rfl fun _ w e => by
    unfold Head.form; dsimp only; unfold laneLong; rw [e]; rfl

theorem Sys2Proof.Laws.RoundTrip.maxN32 g d a b : Statement (.maxN32 g d a b) :=
  readsBack_e2 _ ⟨false, true, 0x0E#6, g, d, a, b⟩ ⟨0#4, 0#3, 0#3, 0#7, 0#7, 0x0B#8⟩ rfl rfl fun _ w e => by
    unfold Head.form; dsimp only; unfold laneLong; rw [e]; rfl

theorem Sys2Proof.Laws.RoundTrip.mulloX g d a b : Statement (.mulloX g d a b) :=
  readsBack_e2 _ ⟨false, true, 0x0E#6, g, d, a, b⟩ ⟨0#4, 0#3, 0#3, 0#7, 0#7, 0x0C#8⟩ rfl rfl fun _ w e => by
    unfold Head.form; dsimp only; unfold laneLong; rw [e]; rfl

theorem Sys2Proof.Laws.RoundTrip.mulhi g d a b : Statement (.mulhi g d a b) :=
  readsBack_e2 _ ⟨false, true, 0x0E#6, g, d, a, b⟩ ⟨0#4, 0#3, 0#3, 0#7, 0#7, 0x0D#8⟩ rfl rfl fun _ w e => by
    unfold Head.form; dsimp only; unfold laneLong; rw [e]; rfl

theorem Sys2Proof.Laws.RoundTrip.mulhiN32 g d a b : Statement (.mulhiN32 g d a b) :=
  readsBack_e2 _ ⟨false, true, 0x0E#6, g, d, a, b⟩ ⟨0#4, 0#3, 0#3, 0#7, 0#7, 0x0E#8⟩ rfl rfl fun _ w e => by
    unfold Head.form; dsimp only; unfold laneLong; rw [e]; rfl

theorem Sys2Proof.Laws.RoundTrip.mad g d a b c sat : Statement (.mad g d a b c sat) :=
  readsBack_e2 _ ⟨false, true, 0x0E#6, g, d, a, b⟩ ⟨0#4, ovf sat, 0#3, c, 0#7, 0x0F#8⟩ rfl rfl fun _ w e => by
    unfold Head.form; dsimp only; unfold laneLong; rw [e]
    exact (rfl : _ = some _).trans (by simp only [ovf_sat])

theorem Sys2Proof.Laws.RoundTrip.madN32 g d a b c sat : Statement (.madN32 g d a b c sat) :=
  readsBack_e2 _ ⟨false, true, 0x0E#6, g, d, a, b⟩ ⟨0#4, ovf sat, 0#3, c, 0#7, 0x10#8⟩ rfl rfl fun _ w e => by
    unfold Head.form; dsimp only; unfold laneLong; rw [e]
    exact (rfl : _ = some _).trans (by simp only [ovf_sat])

theorem Sys2Proof.Laws.RoundTrip.sad g d a b c : Statement (.sad g d a b c) :=
  readsBack_e2 _ ⟨false, true, 0x0E#6, g, d, a, b⟩ ⟨0#4, 0#3, 0#3, c, 0#7, 0x11#8⟩ rfl rfl fun _ w e => by
    unfold Head.form; dsimp only; unfold laneLong; rw [e]; rfl

theorem Sys2Proof.Laws.RoundTrip.sadN32 g d a b c : Statement (.sadN32 g d a b c) :=
  readsBack_e2 _ ⟨false, true, 0x0E#6, g, d, a, b⟩ ⟨0#4, 0#3, 0#3, c, 0#7, 0x12#8⟩ rfl rfl fun _ w e => by
    unfold Head.form; dsimp only; unfold laneLong; rw [e]; rfl

theorem Sys2Proof.Laws.RoundTrip.shl g d a b : Statement (.shl g d a b) :=
  readsBack_e2 _ ⟨false, true, 0x0E#6, g, d, a, b⟩ ⟨0#4, 0#3, 0#3, 0#7, 0#7, 0x13#8⟩ rfl rfl fun _ w e => by
    unfold Head.form; dsimp only; unfold laneLong; rw [e]; rfl

theorem Sys2Proof.Laws.RoundTrip.shr g d a b : Statement (.shr g d a b) :=
  readsBack_e2 _ ⟨false, true, 0x0E#6, g, d, a, b⟩ ⟨0#4, 0#3, 0#3, 0#7, 0#7, 0x14#8⟩ rfl rfl fun _ w e => by
    unfold Head.form; dsimp only; unfold laneLong; rw [e]; rfl

theorem Sys2Proof.Laws.RoundTrip.sar g d a b : Statement (.sar g d a b) :=
  readsBack_e2 _ ⟨false, true, 0x0E#6, g, d, a, b⟩ ⟨0#4, 0#3, 0#3, 0#7, 0#7, 0x15#8⟩ rfl rfl fun _ w e => by
    unfold Head.form; dsimp only; unfold laneLong; rw [e]; rfl

theorem Sys2Proof.Laws.RoundTrip.rot g d a b : Statement (.rot g d a b) :=
  readsBack_e2 _ ⟨false, true, 0x0E#6, g, d, a, b⟩ ⟨0#4, 0#3, 0#3, 0#7, 0#7, 0x16#8⟩ rfl rfl fun _ w e => by
    unfold Head.form; dsimp only; unfold laneLong; rw [e]; rfl

theorem Sys2Proof.Laws.RoundTrip.andX g d a b : Statement (.andX g d a b) :=
  readsBack_e2 _ ⟨false, true, 0x0E#6, g, d, a, b⟩ ⟨0#4, 0#3, 0#3, 0#7, 0#7, 0x17#8⟩ rfl rfl fun _ w e => by
    unfold Head.form; dsimp only; unfold laneLong; rw [e]; rfl

theorem Sys2Proof.Laws.RoundTrip.orX g d a b : Statement (.orX g d a b) :=
  readsBack_e2 _ ⟨false, true, 0x0E#6, g, d, a, b⟩ ⟨0#4, 0#3, 0#3, 0#7, 0#7, 0x18#8⟩ rfl rfl fun _ w e => by
    unfold Head.form; dsimp only; unfold laneLong; rw [e]; rfl

theorem Sys2Proof.Laws.RoundTrip.xorX g d a b : Statement (.xorX g d a b) :=
  readsBack_e2 _ ⟨false, true, 0x0E#6, g, d, a, b⟩ ⟨0#4, 0#3, 0#3, 0#7, 0#7, 0x19#8⟩ rfl rfl fun _ w e => by
    unfold Head.form; dsimp only; unfold laneLong; rw [e]; rfl

theorem Sys2Proof.Laws.RoundTrip.andn g d a b : Statement (.andn g d a b) :=
  readsBack_e2 _ ⟨false, true, 0x0E#6, g, d, a, b⟩ ⟨0#4, 0#3, 0#3, 0#7, 0#7, 0x1A#8⟩ rfl rfl fun _ w e => by
    unfold Head.form; dsimp only; unfold laneLong; rw [e]; rfl

theorem Sys2Proof.Laws.RoundTrip.not g d a : Statement (.not g d a) :=
  readsBack_e2 _ ⟨false, true, 0x0E#6, g, d, a, 0#7⟩ ⟨0#4, 0#3, 0#3, 0#7, 0#7, 0x1B#8⟩ rfl rfl fun _ w e => by
    unfold Head.form; dsimp only; unfold laneLong; rw [e]; rfl

theorem Sys2Proof.Laws.RoundTrip.bfx g d a b c : Statement (.bfx g d a b c) :=
  readsBack_e2 _ ⟨false, true, 0x0E#6, g, d, a, b⟩ ⟨0#4, 0#3, 0#3, c, 0#7, 0x1C#8⟩ rfl rfl fun _ w e => by
    unfold Head.form; dsimp only; unfold laneLong; rw [e]; rfl

theorem Sys2Proof.Laws.RoundTrip.bfi g d a b c len : Statement (.bfi g d a b c len) :=
  readsBack_e2 _ ⟨false, true, 0x0E#6, g, d, a, b⟩ ⟨0#4, 0#3, 0#3, c, (0#1 ++ len), 0x1D#8⟩ rfl rfl fun _ w e => by
    unfold Head.form; dsimp only; unfold laneLong; rw [e]
    exact (rfl : _ = some _).trans (by simp only [lo6_1])

theorem Sys2Proof.Laws.RoundTrip.popc g d a : Statement (.popc g d a) :=
  readsBack_e2 _ ⟨false, true, 0x0E#6, g, d, a, 0#7⟩ ⟨0#4, 0#3, 0#3, 0#7, 0#7, 0x1E#8⟩ rfl rfl fun _ w e => by
    unfold Head.form; dsimp only; unfold laneLong; rw [e]; rfl

theorem Sys2Proof.Laws.RoundTrip.clz g d a : Statement (.clz g d a) :=
  readsBack_e2 _ ⟨false, true, 0x0E#6, g, d, a, 0#7⟩ ⟨0#4, 0#3, 0#3, 0#7, 0#7, 0x1F#8⟩ rfl rfl fun _ w e => by
    unfold Head.form; dsimp only; unfold laneLong; rw [e]; rfl

theorem Sys2Proof.Laws.RoundTrip.brev g d a : Statement (.brev g d a) :=
  readsBack_e2 _ ⟨false, true, 0x0E#6, g, d, a, 0#7⟩ ⟨0#4, 0#3, 0#3, 0#7, 0#7, 0x20#8⟩ rfl rfl fun _ w e => by
    unfold Head.form; dsimp only; unfold laneLong; rw [e]; rfl

theorem Sys2Proof.Laws.RoundTrip.lea g d a b s : Statement (.lea g d a b s) :=
  readsBack_e2 _ ⟨false, true, 0x0E#6, g, d, a, b⟩ ⟨0#4, 0#3, 0#3, 0#7, (0#5 ++ s), 0x21#8⟩ rfl rfl fun _ w e => by
    unfold Head.form; dsimp only; unfold laneLong; rw [e]
    exact (rfl : _ = some _).trans (by simp only [lo2_5])

theorem Sys2Proof.Laws.RoundTrip.fadd g d a b : Statement (.fadd g d a b) :=
  readsBack_one _ ⟨false, false, 0x10#6, g, d, a, b⟩ rfl rfl fun _ => rfl

theorem Sys2Proof.Laws.RoundTrip.fsub g d a b : Statement (.fsub g d a b) :=
  readsBack_one _ ⟨false, false, 0x11#6, g, d, a, b⟩ rfl rfl fun _ => rfl

theorem Sys2Proof.Laws.RoundTrip.fmul g d a b : Statement (.fmul g d a b) :=
  readsBack_one _ ⟨false, false, 0x12#6, g, d, a, b⟩ rfl rfl fun _ => rfl

theorem Sys2Proof.Laws.RoundTrip.ffma g d a b : Statement (.ffma g d a b) :=
  readsBack_one _ ⟨false, false, 0x13#6, g, d, a, b⟩ rfl rfl fun _ => rfl

theorem Sys2Proof.Laws.RoundTrip.fmin g d a b : Statement (.fmin g d a b) :=
  readsBack_one _ ⟨false, false, 0x14#6, g, d, a, b⟩ rfl rfl fun _ => rfl

theorem Sys2Proof.Laws.RoundTrip.fmax g d a b : Statement (.fmax g d a b) :=
  readsBack_one _ ⟨false, false, 0x15#6, g, d, a, b⟩ rfl rfl fun _ => rfl

theorem Sys2Proof.Laws.RoundTrip.faddX g d a b ff rnd : Statement (.faddX g d a b ff rnd) :=
  readsBack_e2 _ ⟨false, true, 0x16#6, g, d, a, b⟩ ⟨ff.code, rnd.code, 0#3, 0#7, 0#7, 0x00#8⟩ rfl rfl fun _ w e => by
    unfold Head.form; dsimp only; unfold laneLong; rw [e]
    exact (rfl : _ = some _).trans (by simp only [Rnd.ofCode_code, FFmt.ofCode_code])

theorem Sys2Proof.Laws.RoundTrip.fsubX g d a b ff rnd : Statement (.fsubX g d a b ff rnd) :=
  readsBack_e2 _ ⟨false, true, 0x16#6, g, d, a, b⟩ ⟨ff.code, rnd.code, 0#3, 0#7, 0#7, 0x01#8⟩ rfl rfl fun _ w e => by
    unfold Head.form; dsimp only; unfold laneLong; rw [e]
    exact (rfl : _ = some _).trans (by simp only [Rnd.ofCode_code, FFmt.ofCode_code])

theorem Sys2Proof.Laws.RoundTrip.fmulX g d a b ff rnd : Statement (.fmulX g d a b ff rnd) :=
  readsBack_e2 _ ⟨false, true, 0x16#6, g, d, a, b⟩ ⟨ff.code, rnd.code, 0#3, 0#7, 0#7, 0x02#8⟩ rfl rfl fun _ w e => by
    unfold Head.form; dsimp only; unfold laneLong; rw [e]
    exact (rfl : _ = some _).trans (by simp only [Rnd.ofCode_code, FFmt.ofCode_code])

theorem Sys2Proof.Laws.RoundTrip.ffmaX g d a b c ff rnd : Statement (.ffmaX g d a b c ff rnd) :=
  readsBack_e2 _ ⟨false, true, 0x16#6, g, d, a, b⟩ ⟨ff.code, rnd.code, 0#3, c, 0#7, 0x03#8⟩ rfl rfl fun _ w e => by
    unfold Head.form; dsimp only; unfold laneLong; rw [e]
    exact (rfl : _ = some _).trans (by simp only [Rnd.ofCode_code, FFmt.ofCode_code])

theorem Sys2Proof.Laws.RoundTrip.fminX g d a b ff : Statement (.fminX g d a b ff) :=
  readsBack_e2 _ ⟨false, true, 0x16#6, g, d, a, b⟩ ⟨ff.code, 0#3, 0#3, 0#7, 0#7, 0x04#8⟩ rfl rfl fun _ w e => by
    unfold Head.form; dsimp only; unfold laneLong; rw [e]
    exact (rfl : _ = some _).trans (by simp only [FFmt.ofCode_code])

theorem Sys2Proof.Laws.RoundTrip.fmaxX g d a b ff : Statement (.fmaxX g d a b ff) :=
  readsBack_e2 _ ⟨false, true, 0x16#6, g, d, a, b⟩ ⟨ff.code, 0#3, 0#3, 0#7, 0#7, 0x05#8⟩ rfl rfl fun _ w e => by
    unfold Head.form; dsimp only; unfold laneLong; rw [e]
    exact (rfl : _ = some _).trans (by simp only [FFmt.ofCode_code])

theorem Sys2Proof.Laws.RoundTrip.frcp g d a : Statement (.frcp g d a) :=
  readsBack_e2 _ ⟨false, true, 0x16#6, g, d, a, 0#7⟩ ⟨7#4, 0#3, 0#3, 0#7, 0#7, 0x06#8⟩ rfl rfl fun _ w e => by
    unfold Head.form; dsimp only; unfold laneLong; rw [e]; rfl

theorem Sys2Proof.Laws.RoundTrip.frsq g d a : Statement (.frsq g d a) :=
  readsBack_e2 _ ⟨false, true, 0x16#6, g, d, a, 0#7⟩ ⟨7#4, 0#3, 0#3, 0#7, 0#7, 0x07#8⟩ rfl rfl fun _ w e => by
    unfold Head.form; dsimp only; unfold laneLong; rw [e]; rfl

theorem Sys2Proof.Laws.RoundTrip.fsqrt g d a ff rnd : Statement (.fsqrt g d a ff rnd) :=
  readsBack_e2 _ ⟨false, true, 0x16#6, g, d, a, 0#7⟩ ⟨ff.code, rnd.code, 0#3, 0#7, 0#7, 0x08#8⟩ rfl rfl fun _ w e => by
    unfold Head.form; dsimp only; unfold laneLong; rw [e]
    exact (rfl : _ = some _).trans (by simp only [Rnd.ofCode_code, FFmt.ofCode_code])

theorem Sys2Proof.Laws.RoundTrip.fexp2 g d a : Statement (.fexp2 g d a) :=
  readsBack_e2 _ ⟨false, true, 0x16#6, g, d, a, 0#7⟩ ⟨7#4, 0#3, 0#3, 0#7, 0#7, 0x09#8⟩ rfl rfl fun _ w e => by
    unfold Head.form; dsimp only; unfold laneLong; rw [e]; rfl

theorem Sys2Proof.Laws.RoundTrip.flog2 g d a : Statement (.flog2 g d a) :=
  readsBack_e2 _ ⟨false, true, 0x16#6, g, d, a, 0#7⟩ ⟨7#4, 0#3, 0#3, 0#7, 0#7, 0x0A#8⟩ rfl rfl fun _ w e => by
    unfold Head.form; dsimp only; unfold laneLong; rw [e]; rfl

theorem Sys2Proof.Laws.RoundTrip.fsin g d a : Statement (.fsin g d a) :=
  readsBack_e2 _ ⟨false, true, 0x16#6, g, d, a, 0#7⟩ ⟨7#4, 0#3, 0#3, 0#7, 0#7, 0x0B#8⟩ rfl rfl fun _ w e => by
    unfold Head.form; dsimp only; unfold laneLong; rw [e]; rfl

theorem Sys2Proof.Laws.RoundTrip.fcos g d a : Statement (.fcos g d a) :=
  readsBack_e2 _ ⟨false, true, 0x16#6, g, d, a, 0#7⟩ ⟨7#4, 0#3, 0#3, 0#7, 0#7, 0x0C#8⟩ rfl rfl fun _ w e => by
    unfold Head.form; dsimp only; unfold laneLong; rw [e]; rfl

theorem Sys2Proof.Laws.RoundTrip.fclass g d a ff : Statement (.fclass g d a ff) :=
  readsBack_e2 _ ⟨false, true, 0x16#6, g, d, a, 0#7⟩ ⟨ff.code, 0#3, 0#3, 0#7, 0#7, 0x0D#8⟩ rfl rfl fun _ w e => by
    unfold Head.form; dsimp only; unfold laneLong; rw [e]
    exact (rfl : _ = some _).trans (by simp only [FFmt.ofCode_code])

theorem Sys2Proof.Laws.RoundTrip.cmp g pd pe a b op ct : Statement (.cmp g pd pe a b op ct) :=
  readsBack_e2 _ ⟨false, true, 0x20#6, g, 0#1 ++ pe ++ pd, a, b⟩ ⟨0#4, 0#3, ct.code, 0#7, 0#7, 0#4 ++ op.code⟩ rfl rfl
    fun _ w e => by
    unfold Head.form; dsimp only; unfold laneLong; rw [e]
    refine (rfl : _ = ite _ _ _).trans ?_
    simp only [sel_44, lo4_44, lo3_33, mid3_33, CmpOp.ofCode_code, CType.ofCode_code]; rfl

theorem Sys2Proof.Laws.RoundTrip.cmpImm g pd pe a i op ct : Statement (.cmpImm g pd pe a i op ct) :=
  readsBack_e2 _ ⟨false, true, 0x20#6, g, 0#1 ++ pe ++ pd, a, i⟩ ⟨0#4, 0#3, ct.code, 0#7, 0#7, 1#4 ++ op.code⟩ rfl rfl
    fun _ w e => by
    unfold Head.form; dsimp only; unfold laneLong; rw [e]
    refine (rfl : _ = ite _ _ _).trans ?_
    simp only [sel_44, lo4_44, lo3_33, mid3_33, CmpOp.ofCode_code, CType.ofCode_code]; rfl

theorem Sys2Proof.Laws.RoundTrip.fcmp g pd pe a b fop ct ff : Statement (.fcmp g pd pe a b fop ct ff) :=
  readsBack_e2 _ ⟨false, true, 0x21#6, g, (0#1 ++ pe ++ pd), a, b⟩ ⟨ff.code, 0#3, ct.code, 0#7, 0#7, (0#5 ++ fop.code)⟩ rfl rfl
    fun _ w e => by
    unfold Head.form; dsimp only; unfold laneLong; rw [e]
    exact (rfl : _ = some _).trans (by simp only [lo3_33, mid3_33, lo3_53, FFmt.ofCode_code, CType.ofCode_code, FcmpOp.ofCode_code])

theorem Sys2Proof.Laws.RoundTrip.tst g pd pe a b ct : Statement (.tst g pd pe a b ct) :=
  readsBack_e2 _ ⟨false, true, 0x22#6, g, (0#1 ++ pe ++ pd), a, b⟩ ⟨0#4, 0#3, ct.code, 0#7, 0#7, 0x00#8⟩ rfl rfl fun _ w e => by
    unfold Head.form; dsimp only; unfold laneLong; rw [e]
    exact (rfl : _ = some _).trans (by simp only [lo3_33, mid3_33, CType.ofCode_code])

theorem Sys2Proof.Laws.RoundTrip.pand g pd pa pb : Statement (.pand g pd pa pb) :=
  readsBack_one _ ⟨false, false, 0x23#6, g, 0#4 ++ pd, 0#4 ++ pa, 0#2 ++ 0#2 ++ pb⟩ rfl rfl fun _ => by
    refine (rfl : _ = ite _ _ _).trans ?_
    simp only [sel_22, lo3_22, lo3_4]; rfl

theorem Sys2Proof.Laws.RoundTrip.por g pd pa pb : Statement (.por g pd pa pb) :=
  readsBack_one _ ⟨false, false, 0x23#6, g, 0#4 ++ pd, 0#4 ++ pa, 0#2 ++ 1#2 ++ pb⟩ rfl rfl fun _ => by
    refine (rfl : _ = ite _ _ _).trans ?_
    simp only [sel_22, lo3_22, lo3_4]; rfl

theorem Sys2Proof.Laws.RoundTrip.pxor g pd pa pb : Statement (.pxor g pd pa pb) :=
  readsBack_one _ ⟨false, false, 0x23#6, g, 0#4 ++ pd, 0#4 ++ pa, 0#2 ++ 2#2 ++ pb⟩ rfl rfl fun _ => by
    refine (rfl : _ = ite _ _ _).trans ?_
    simp only [sel_22, lo3_22, lo3_4]; rfl

theorem Sys2Proof.Laws.RoundTrip.pmov g pd pa : Statement (.pmov g pd pa) :=
  readsBack_one _ ⟨false, false, 0x23#6, g, 0#4 ++ pd, 0#4 ++ pa, 24#7⟩ rfl rfl fun _ => by
    refine (rfl : _ = ite _ _ _).trans ?_
    simp [lo3_4]

theorem Sys2Proof.Laws.RoundTrip.sel g d a b px : Statement (.sel g d a b px) :=
  readsBack_e2 _ ⟨false, true, 0x24#6, g, d, a, b⟩ ⟨0#4, 0#3, 0#3, 0#7, (0#4 ++ px), 0x00#8⟩ rfl rfl fun _ w e => by
    unfold Head.form; dsimp only; unfold laneLong; rw [e]
    exact (rfl : _ = some _).trans (by simp only [lo3_4])

theorem Sys2Proof.Laws.RoundTrip.vperm g d a b : Statement (.vperm g d a b) :=
  readsBack_one _ ⟨false, false, 0x28#6, g, d, a, b⟩ rfl rfl fun _ => rfl

theorem Sys2Proof.Laws.RoundTrip.vshfl g d a b sh : Statement (.vshfl g d a b sh) :=
  readsBack_e2 _ ⟨false, true, 0x29#6, g, d, a, b⟩ ⟨0#4, 0#3, 0#3, 0#7, 0#7, (0#6 ++ sh.code)⟩ rfl rfl fun _ w e => by
    unfold Head.form; dsimp only; unfold laneLong; rw [e]
    exact (rfl : _ = some _).trans (by simp only [lo2_62, Shfl.ofCode_code])

theorem Sys2Proof.Laws.RoundTrip.vbcast g d a k : Statement (.vbcast g d a k) :=
  readsBack_one _ ⟨false, false, 0x2A#6, g, d, a, (0#1 ++ k)⟩ rfl rfl fun _ => (rfl : _ = some _).trans (by simp only [lo6_1])

theorem Sys2Proof.Laws.RoundTrip.vscan g d a px rop : Statement (.vscan g d a px rop) :=
  readsBack_e2 _ ⟨false, true, 0x2B#6, g, d, a, 0#7⟩ ⟨0#4, 0#3, 0#3, 0#7, (0#4 ++ px), (0#5 ++ rop.code)⟩ rfl rfl fun _ w e => by
    unfold Head.form; dsimp only; unfold laneLong; rw [e]
    exact (rfl : _ = some _).trans (by simp only [lo3_4, lo3_53, RedOp.ofCode_code])

theorem Sys2Proof.Laws.RoundTrip.vred g d a rop : Statement (.vred g d a rop) :=
  readsBack_e2 _ ⟨false, true, 0x2C#6, g, d, a, 0#7⟩ ⟨0#4, 0#3, 0#3, 0#7, 0#7, (0#5 ++ rop.code)⟩ rfl rfl fun _ w e => by
    unfold Head.form; dsimp only; unfold laneLong; rw [e]
    exact (rfl : _ = some _).trans (by simp only [lo3_53, RedOp.ofCode_code])

theorem Sys2Proof.Laws.RoundTrip.vvoteAny g pd pa : Statement (.vvoteAny g pd pa) :=
  readsBack_e2 _ ⟨false, true, 0x2D#6, g, (0#4 ++ pd), (0#4 ++ pa), 0#7⟩ ⟨0#4, 0#3, 0#3, 0#7, 0#7, 0x00#8⟩ rfl rfl fun _ w e => by
    unfold Head.form; dsimp only; unfold laneLong; rw [e]
    exact (rfl : _ = some _).trans (by simp only [lo3_4])

theorem Sys2Proof.Laws.RoundTrip.vvoteAll g pd pa : Statement (.vvoteAll g pd pa) :=
  readsBack_e2 _ ⟨false, true, 0x2D#6, g, (0#4 ++ pd), (0#4 ++ pa), 0#7⟩ ⟨0#4, 0#3, 0#3, 0#7, 0#7, 0x01#8⟩ rfl rfl fun _ w e => by
    unfold Head.form; dsimp only; unfold laneLong; rw [e]
    exact (rfl : _ = some _).trans (by simp only [lo3_4])

theorem Sys2Proof.Laws.RoundTrip.vvoteMask g d pa : Statement (.vvoteMask g d pa) :=
  readsBack_e2 _ ⟨false, true, 0x2D#6, g, d, (0#4 ++ pa), 0#7⟩ ⟨0#4, 0#3, 0#3, 0#7, 0#7, 0x02#8⟩ rfl rfl fun _ w e => by
    unfold Head.form; dsimp only; unfold laneLong; rw [e]
    exact (rfl : _ = some _).trans (by simp only [lo3_4])

theorem Sys2Proof.Laws.RoundTrip.vfirst g d pa : Statement (.vfirst g d pa) :=
  readsBack_one _ ⟨false, false, 0x2E#6, g, d, (0#4 ++ pa), 0#7⟩ rfl rfl fun _ => (rfl : _ = some _).trans (by simp only [lo3_4])

theorem Sys2Proof.Laws.RoundTrip.cvt g d a dst src rnd : Statement (.cvt g d a dst src rnd) :=
  readsBack_e2 _ ⟨false, true, 0x30#6, g, d, a, 0#7⟩ ⟨dst.code, rnd.code, 0#3, 0#7, (0#3 ++ src.code), 0x00#8⟩ rfl rfl
    fun _ w e => by
    unfold Head.form; dsimp only; unfold laneLong; rw [e]
    exact (rfl : _ = some _).trans (by simp only [lo4_3, Rnd.ofCode_code, Fmt.ofCode_code])

theorem Sys2Proof.Laws.RoundTrip.cvtEsc g d a dst src rnd : Statement (.cvtEsc g d a dst src rnd) :=
  readsBack_e2 _ ⟨false, true, 0x30#6, g, d, a, 0#7⟩ ⟨dst.code, rnd.code, 0#3, 0#7, (0#3 ++ src.code), 0x01#8⟩ rfl rfl
    fun _ w e => by
    unfold Head.form; dsimp only; unfold laneLong; rw [e]
    exact (rfl : _ = some _).trans (by simp only [lo4_3, Rnd.ofCode_code, Fmt.ofCode_code])

theorem Sys2Proof.Laws.RoundTrip.vdecGap g d a b wd : Statement (.vdecGap g d a b wd) :=
  readsBack_e2 _ ⟨false, true, 0x31#6, g, d, a, b⟩ ⟨0#4, 0#3, 0#3, 0#7, wd, 0x00#8⟩ rfl rfl fun _ w e => by
    unfold Head.form; dsimp only; unfold laneLong; rw [e]; rfl

theorem Sys2Proof.Laws.RoundTrip.vdecVarint g d a b wd : Statement (.vdecVarint g d a b wd) :=
  readsBack_e2 _ ⟨false, true, 0x31#6, g, d, a, b⟩ ⟨0#4, 0#3, 0#3, 0#7, wd, 0x01#8⟩ rfl rfl fun _ w e => by
    unfold Head.form; dsimp only; unfold laneLong; rw [e]; rfl

theorem Sys2Proof.Laws.RoundTrip.vdecBitplane g d a b wd : Statement (.vdecBitplane g d a b wd) :=
  readsBack_e2 _ ⟨false, true, 0x31#6, g, d, a, b⟩ ⟨0#4, 0#3, 0#3, 0#7, wd, 0x02#8⟩ rfl rfl fun _ w e => by
    unfold Head.form; dsimp only; unfold laneLong; rw [e]; rfl

theorem Sys2Proof.Laws.RoundTrip.ld g d mem obs order stage size off : Statement (.ld g d mem obs order stage size off) :=
  readsBack_e3 _ ⟨false, true, 0x38#6, g, d, mem.fieldA, mem.fieldB⟩ ⟨obs, order.code, stage, size.code, off⟩ rfl rfl
    fun w e => by
    unfold Head.form; dsimp only; unfold laneLong; rw [e]
    exact (rfl : _ = some _).trans (by simp only [Size.ofCode_code, Order.ofCode_code, MemAddr.ofFields_fields])

theorem Sys2Proof.Laws.RoundTrip.st g d mem obs order stage size off : Statement (.st g d mem obs order stage size off) :=
  readsBack_e3 _ ⟨false, true, 0x39#6, g, d, mem.fieldA, mem.fieldB⟩ ⟨obs, order.code, stage, size.code, off⟩ rfl rfl
    fun w e => by
    unfold Head.form; dsimp only; unfold laneLong; rw [e]
    exact (rfl : _ = some _).trans (by simp only [Size.ofCode_code, Order.ofCode_code, MemAddr.ofFields_fields])

theorem Sys2Proof.Laws.RoundTrip.atom g d mem obs order stage dbl aop off16 : Statement (.atom g d mem obs order stage dbl aop off16) :=
  readsBack_e3 _ ⟨false, true, 0x3A#6, g, d, mem.fieldA, mem.fieldB⟩ ⟨obs, order.code, stage, (if dbl then 5#3 else 4#3), (aop.code ++ off16)⟩ rfl rfl
    fun w e => by
    unfold Head.form; dsimp only; unfold laneLong; rw [e]
    exact (rfl : _ = some _).trans (by simp only [hi_416, lo_416, AtomOp.ofCode_code, size_dbl, Order.ofCode_code, MemAddr.ofFields_fields])

theorem Sys2Proof.Laws.RoundTrip.pref g mem off : Statement (.pref g mem off) :=
  readsBack_e3 _ ⟨false, true, 0x3B#6, g, 0#7, mem.fieldA, mem.fieldB⟩ ⟨0#6, 0#2, false, 0#3, off⟩ rfl rfl fun w e => by
    unfold Head.form; dsimp only; unfold laneLong; rw [e]
    exact (rfl : _ = some _).trans (by simp only [MemAddr.ofFields_fields])

theorem Sys2Proof.Laws.RoundTrip.xld g d a i : Statement (.xld g d a i) :=
  readsBack_one _ ⟨false, false, 0x3C#6, g, d, a, i⟩ rfl rfl fun _ => rfl

theorem Sys2Proof.Laws.RoundTrip.xldLong g d a w : Statement (.xldLong g d a w) :=
  readsBack_two _ ⟨false, true, 0x3C#6, g, d, a, 0#7⟩ w rfl rfl fun _ => rfl

theorem Sys2Proof.Laws.RoundTrip.xst g d a i : Statement (.xst g d a i) :=
  readsBack_one _ ⟨false, false, 0x3D#6, g, d, a, i⟩ rfl rfl fun _ => rfl

theorem Sys2Proof.Laws.RoundTrip.xstLong g d a w : Statement (.xstLong g d a w) :=
  readsBack_two _ ⟨false, true, 0x3D#6, g, d, a, 0#7⟩ w rfl rfl fun _ => rfl

theorem Sys2Proof.Laws.RoundTrip.cins g d a b c obs : Statement (.cins g d a b c obs) :=
  readsBack_e2 _ ⟨false, true, 0x3E#6, g, d, a, b⟩ ⟨0#4, 0#3, 0#3, c, (0#1 ++ obs), 0x00#8⟩ rfl rfl fun _ w e => by
    unfold Head.form; dsimp only; unfold laneLong; rw [e]
    exact (rfl : _ = some _).trans (by simp only [lo6_1])

theorem Sys2Proof.Laws.RoundTrip.crem g pd a b c : Statement (.crem g pd a b c) :=
  readsBack_e2 _ ⟨false, true, 0x3E#6, g, (0#4 ++ pd), a, b⟩ ⟨0#4, 0#3, 0#3, c, 0#7, 0x01#8⟩ rfl rfl fun _ w e => by
    unfold Head.form; dsimp only; unfold laneLong; rw [e]
    exact (rfl : _ = some _).trans (by simp only [lo3_4])

theorem Sys2Proof.Laws.RoundTrip.cnext g d ita b px : Statement (.cnext g d ita b px) :=
  readsBack_e2 _ ⟨false, true, 0x3E#6, g, d, (0#4 ++ ita), b⟩ ⟨0#4, 0#3, 0#3, 0#7, (0#4 ++ px), 0x02#8⟩ rfl rfl fun _ w e => by
    unfold Head.form; dsimp only; unfold laneLong; rw [e]
    exact (rfl : _ = some _).trans (by simp only [lo3_4])

theorem Sys2Proof.Laws.RoundTrip.wlpush g a c : Statement (.wlpush g a c) :=
  readsBack_e2 _ ⟨false, true, 0x3E#6, g, 0#7, a, 0#7⟩ ⟨0#4, 0#3, 0#3, c, 0#7, 0x08#8⟩ rfl rfl fun _ w e => by
    unfold Head.form; dsimp only; unfold laneLong; rw [e]; rfl

theorem Sys2Proof.Laws.RoundTrip.wlpop g d c px : Statement (.wlpop g d c px) :=
  readsBack_e2 _ ⟨false, true, 0x3E#6, g, d, 0#7, 0#7⟩ ⟨0#4, 0#3, 0#3, c, (0#4 ++ px), 0x09#8⟩ rfl rfl fun _ w e => by
    unfold Head.form; dsimp only; unfold laneLong; rw [e]
    exact (rfl : _ = some _).trans (by simp only [lo3_4])

theorem Sys2Proof.Laws.RoundTrip.wlins g a c px : Statement (.wlins g a c px) :=
  readsBack_e2 _ ⟨false, true, 0x3E#6, g, 0#7, a, 0#7⟩ ⟨0#4, 0#3, 0#3, c, (0#4 ++ px), 0x0A#8⟩ rfl rfl fun _ w e => by
    unfold Head.form; dsimp only; unfold laneLong; rw [e]
    exact (rfl : _ = some _).trans (by simp only [lo3_4])

theorem Sys2Proof.Laws.RoundTrip.qcall g a typ unit sp : Statement (.qcall g a typ unit sp) :=
  readsBack_e2 _ ⟨false, true, 0x3F#6, g, 0#7, a, typ⟩ ⟨0#4, 0#3, 0#3, 0#7, (0#3 ++ BitVec.ofBool sp ++ unit.code), 0x00#8⟩ rfl rfl
    fun _ w e => by
    unfold Head.form; dsimp only; unfold laneLong; rw [e]
    exact (rfl : _ = some _).trans (by simp only [bit3_313, lo3_313, CUnit.ofCode_code])

theorem Sys2Proof.Laws.RoundTrip.qret g d unit : Statement (.qret g d unit) :=
  readsBack_e2 _ ⟨false, true, 0x3F#6, g, d, 0#7, 0#7⟩ ⟨0#4, 0#3, 0#3, 0#7, (0#4 ++ unit.code), 0x01#8⟩ rfl rfl fun _ w e => by
    unfold Head.form; dsimp only; unfold laneLong; rw [e]
    exact (rfl : _ = some _).trans (by simp only [lo3_4, CUnit.ofCode_code])

theorem Sys2Proof.Laws.RoundTrip.qretTrap g d unit : Statement (.qretTrap g d unit) :=
  readsBack_e2 _ ⟨false, true, 0x3F#6, g, d, 0#7, 0#7⟩ ⟨0#4, 0#3, 0#3, 0#7, (0#4 ++ unit.code), 0x02#8⟩ rfl rfl fun _ w e => by
    unfold Head.form; dsimp only; unfold laneLong; rw [e]
    exact (rfl : _ = some _).trans (by simp only [lo3_4, CUnit.ofCode_code])

theorem Sys2Proof.Laws.RoundTrip.gadd g d a b : Statement (.gadd g d a b) :=
  readsBack_one _ ⟨true, false, 0x00#6, g, d, a, b⟩ rfl rfl fun _ => rfl

theorem Sys2Proof.Laws.RoundTrip.gaddImm g d a i : Statement (.gaddImm g d a i) :=
  readsBack_one _ ⟨true, false, 0x01#6, g, d, a, i⟩ rfl rfl fun _ => rfl

theorem Sys2Proof.Laws.RoundTrip.gaddImmLong g d a w : Statement (.gaddImmLong g d a w) :=
  readsBack_two _ ⟨true, true, 0x01#6, g, d, a, 0#7⟩ w rfl rfl fun _ => rfl

theorem Sys2Proof.Laws.RoundTrip.gsub g d a b : Statement (.gsub g d a b) :=
  readsBack_one _ ⟨true, false, 0x02#6, g, d, a, b⟩ rfl rfl fun _ => rfl

theorem Sys2Proof.Laws.RoundTrip.gmul g d a b : Statement (.gmul g d a b) :=
  readsBack_one _ ⟨true, false, 0x03#6, g, d, a, b⟩ rfl rfl fun _ => rfl

theorem Sys2Proof.Laws.RoundTrip.gand g d a b : Statement (.gand g d a b) :=
  readsBack_one _ ⟨true, false, 0x04#6, g, d, a, b⟩ rfl rfl fun _ => rfl

theorem Sys2Proof.Laws.RoundTrip.gandImm g d a i : Statement (.gandImm g d a i) :=
  readsBack_one _ ⟨true, false, 0x05#6, g, d, a, i⟩ rfl rfl fun _ => rfl

theorem Sys2Proof.Laws.RoundTrip.gandImmLong g d a w : Statement (.gandImmLong g d a w) :=
  readsBack_two _ ⟨true, true, 0x05#6, g, d, a, 0#7⟩ w rfl rfl fun _ => rfl

theorem Sys2Proof.Laws.RoundTrip.gor g d a b : Statement (.gor g d a b) :=
  readsBack_one _ ⟨true, false, 0x06#6, g, d, a, b⟩ rfl rfl fun _ => rfl

theorem Sys2Proof.Laws.RoundTrip.gorImm g d a i : Statement (.gorImm g d a i) :=
  readsBack_one _ ⟨true, false, 0x07#6, g, d, a, i⟩ rfl rfl fun _ => rfl

theorem Sys2Proof.Laws.RoundTrip.gorImmLong g d a w : Statement (.gorImmLong g d a w) :=
  readsBack_two _ ⟨true, true, 0x07#6, g, d, a, 0#7⟩ w rfl rfl fun _ => rfl

theorem Sys2Proof.Laws.RoundTrip.gxor g d a b : Statement (.gxor g d a b) :=
  readsBack_one _ ⟨true, false, 0x08#6, g, d, a, b⟩ rfl rfl fun _ => rfl

theorem Sys2Proof.Laws.RoundTrip.gshlImm g d a i : Statement (.gshlImm g d a i) :=
  readsBack_one _ ⟨true, false, 0x09#6, g, d, a, i⟩ rfl rfl fun _ => rfl

theorem Sys2Proof.Laws.RoundTrip.gshlImmLong g d a w : Statement (.gshlImmLong g d a w) :=
  readsBack_two _ ⟨true, true, 0x09#6, g, d, a, 0#7⟩ w rfl rfl fun _ => rfl

theorem Sys2Proof.Laws.RoundTrip.gshrImm g d a i : Statement (.gshrImm g d a i) :=
  readsBack_one _ ⟨true, false, 0x0A#6, g, d, a, i⟩ rfl rfl fun _ => rfl

theorem Sys2Proof.Laws.RoundTrip.gshrImmLong g d a w : Statement (.gshrImmLong g d a w) :=
  readsBack_two _ ⟨true, true, 0x0A#6, g, d, a, 0#7⟩ w rfl rfl fun _ => rfl

theorem Sys2Proof.Laws.RoundTrip.gsarImm g d a i : Statement (.gsarImm g d a i) :=
  readsBack_one _ ⟨true, false, 0x0B#6, g, d, a, i⟩ rfl rfl fun _ => rfl

theorem Sys2Proof.Laws.RoundTrip.gsarImmLong g d a w : Statement (.gsarImmLong g d a w) :=
  readsBack_two _ ⟨true, true, 0x0B#6, g, d, a, 0#7⟩ w rfl rfl fun _ => rfl

theorem Sys2Proof.Laws.RoundTrip.gmovi g d i : Statement (.gmovi g d i) :=
  readsBack_one _ ⟨true, false, 0x0C#6, g, d, 0#7, i⟩ rfl rfl fun _ => rfl

theorem Sys2Proof.Laws.RoundTrip.gmoviLong g d w : Statement (.gmoviLong g d w) :=
  readsBack_two _ ⟨true, true, 0x0C#6, g, d, 0#7, 0#7⟩ w rfl rfl fun _ => rfl

theorem Sys2Proof.Laws.RoundTrip.gmov g d a : Statement (.gmov g d a) :=
  readsBack_one _ ⟨true, false, 0x0D#6, g, d, a, 0#7⟩ rfl rfl fun _ => rfl

theorem Sys2Proof.Laws.RoundTrip.gaddX g d a b : Statement (.gaddX g d a b) :=
  readsBack_e2 _ ⟨true, true, 0x0E#6, g, d, a, b⟩ ⟨0#4, 0#3, 0#3, 0#7, 0#7, 0x00#8⟩ rfl rfl fun _ w e => by
    unfold Head.form; dsimp only; unfold uniformLong; rw [e]; rfl

theorem Sys2Proof.Laws.RoundTrip.gsubX g d a b : Statement (.gsubX g d a b) :=
  readsBack_e2 _ ⟨true, true, 0x0E#6, g, d, a, b⟩ ⟨0#4, 0#3, 0#3, 0#7, 0#7, 0x01#8⟩ rfl rfl fun _ w e => by
    unfold Head.form; dsimp only; unfold uniformLong; rw [e]; rfl

theorem Sys2Proof.Laws.RoundTrip.gmulX g d a b : Statement (.gmulX g d a b) :=
  readsBack_e2 _ ⟨true, true, 0x0E#6, g, d, a, b⟩ ⟨0#4, 0#3, 0#3, 0#7, 0#7, 0x02#8⟩ rfl rfl fun _ w e => by
    unfold Head.form; dsimp only; unfold uniformLong; rw [e]; rfl

theorem Sys2Proof.Laws.RoundTrip.gshl g d a b : Statement (.gshl g d a b) :=
  readsBack_e2 _ ⟨true, true, 0x0E#6, g, d, a, b⟩ ⟨0#4, 0#3, 0#3, 0#7, 0#7, 0x03#8⟩ rfl rfl fun _ w e => by
    unfold Head.form; dsimp only; unfold uniformLong; rw [e]; rfl

theorem Sys2Proof.Laws.RoundTrip.gshr g d a b : Statement (.gshr g d a b) :=
  readsBack_e2 _ ⟨true, true, 0x0E#6, g, d, a, b⟩ ⟨0#4, 0#3, 0#3, 0#7, 0#7, 0x04#8⟩ rfl rfl fun _ w e => by
    unfold Head.form; dsimp only; unfold uniformLong; rw [e]; rfl

theorem Sys2Proof.Laws.RoundTrip.gsar g d a b : Statement (.gsar g d a b) :=
  readsBack_e2 _ ⟨true, true, 0x0E#6, g, d, a, b⟩ ⟨0#4, 0#3, 0#3, 0#7, 0#7, 0x05#8⟩ rfl rfl fun _ w e => by
    unfold Head.form; dsimp only; unfold uniformLong; rw [e]; rfl

theorem Sys2Proof.Laws.RoundTrip.gandX g d a b : Statement (.gandX g d a b) :=
  readsBack_e2 _ ⟨true, true, 0x0E#6, g, d, a, b⟩ ⟨0#4, 0#3, 0#3, 0#7, 0#7, 0x06#8⟩ rfl rfl fun _ w e => by
    unfold Head.form; dsimp only; unfold uniformLong; rw [e]; rfl

theorem Sys2Proof.Laws.RoundTrip.gorX g d a b : Statement (.gorX g d a b) :=
  readsBack_e2 _ ⟨true, true, 0x0E#6, g, d, a, b⟩ ⟨0#4, 0#3, 0#3, 0#7, 0#7, 0x07#8⟩ rfl rfl fun _ w e => by
    unfold Head.form; dsimp only; unfold uniformLong; rw [e]; rfl

theorem Sys2Proof.Laws.RoundTrip.gxorX g d a b : Statement (.gxorX g d a b) :=
  readsBack_e2 _ ⟨true, true, 0x0E#6, g, d, a, b⟩ ⟨0#4, 0#3, 0#3, 0#7, 0#7, 0x08#8⟩ rfl rfl fun _ w e => by
    unfold Head.form; dsimp only; unfold uniformLong; rw [e]; rfl

theorem Sys2Proof.Laws.RoundTrip.gmovX g d a : Statement (.gmovX g d a) :=
  readsBack_e2 _ ⟨true, true, 0x0E#6, g, d, a, 0#7⟩ ⟨0#4, 0#3, 0#3, 0#7, 0#7, 0x09#8⟩ rfl rfl fun _ w e => by
    unfold Head.form; dsimp only; unfold uniformLong; rw [e]; rfl

theorem Sys2Proof.Laws.RoundTrip.glea g d a b s : Statement (.glea g d a b s) :=
  readsBack_e2 _ ⟨true, true, 0x0E#6, g, d, a, b⟩ ⟨0#4, 0#3, 0#3, 0#7, (0#5 ++ s), 0x0A#8⟩ rfl rfl fun _ w e => by
    unfold Head.form; dsimp only; unfold uniformLong; rw [e]
    exact (rfl : _ = some _).trans (by simp only [lo2_5])

theorem Sys2Proof.Laws.RoundTrip.gsel g d a b px : Statement (.gsel g d a b px) :=
  readsBack_e2 _ ⟨true, true, 0x0E#6, g, d, a, b⟩ ⟨0#4, 0#3, 0#3, 0#7, (0#4 ++ px), 0x0B#8⟩ rfl rfl fun _ w e => by
    unfold Head.form; dsimp only; unfold uniformLong; rw [e]
    exact (rfl : _ = some _).trans (by simp only [lo3_4])

theorem Sys2Proof.Laws.RoundTrip.gaddD g d a b : Statement (.gaddD g d a b) :=
  readsBack_e2 _ ⟨true, true, 0x0E#6, g, d, a, b⟩ ⟨0#4, 0#3, 0#3, 0#7, 0#7, 0x10#8⟩ rfl rfl fun _ w e => by
    unfold Head.form; dsimp only; unfold uniformLong; rw [e]; rfl

theorem Sys2Proof.Laws.RoundTrip.gsubD g d a b : Statement (.gsubD g d a b) :=
  readsBack_e2 _ ⟨true, true, 0x0E#6, g, d, a, b⟩ ⟨0#4, 0#3, 0#3, 0#7, 0#7, 0x11#8⟩ rfl rfl fun _ w e => by
    unfold Head.form; dsimp only; unfold uniformLong; rw [e]; rfl

theorem Sys2Proof.Laws.RoundTrip.gmulD g d a b : Statement (.gmulD g d a b) :=
  readsBack_e2 _ ⟨true, true, 0x0E#6, g, d, a, b⟩ ⟨0#4, 0#3, 0#3, 0#7, 0#7, 0x12#8⟩ rfl rfl fun _ w e => by
    unfold Head.form; dsimp only; unfold uniformLong; rw [e]; rfl

theorem Sys2Proof.Laws.RoundTrip.gshlD g d a b : Statement (.gshlD g d a b) :=
  readsBack_e2 _ ⟨true, true, 0x0E#6, g, d, a, b⟩ ⟨0#4, 0#3, 0#3, 0#7, 0#7, 0x13#8⟩ rfl rfl fun _ w e => by
    unfold Head.form; dsimp only; unfold uniformLong; rw [e]; rfl

theorem Sys2Proof.Laws.RoundTrip.gshrD g d a b : Statement (.gshrD g d a b) :=
  readsBack_e2 _ ⟨true, true, 0x0E#6, g, d, a, b⟩ ⟨0#4, 0#3, 0#3, 0#7, 0#7, 0x14#8⟩ rfl rfl fun _ w e => by
    unfold Head.form; dsimp only; unfold uniformLong; rw [e]; rfl

theorem Sys2Proof.Laws.RoundTrip.gsarD g d a b : Statement (.gsarD g d a b) :=
  readsBack_e2 _ ⟨true, true, 0x0E#6, g, d, a, b⟩ ⟨0#4, 0#3, 0#3, 0#7, 0#7, 0x15#8⟩ rfl rfl fun _ w e => by
    unfold Head.form; dsimp only; unfold uniformLong; rw [e]; rfl

theorem Sys2Proof.Laws.RoundTrip.gandD g d a b : Statement (.gandD g d a b) :=
  readsBack_e2 _ ⟨true, true, 0x0E#6, g, d, a, b⟩ ⟨0#4, 0#3, 0#3, 0#7, 0#7, 0x16#8⟩ rfl rfl fun _ w e => by
    unfold Head.form; dsimp only; unfold uniformLong; rw [e]; rfl

theorem Sys2Proof.Laws.RoundTrip.gorD g d a b : Statement (.gorD g d a b) :=
  readsBack_e2 _ ⟨true, true, 0x0E#6, g, d, a, b⟩ ⟨0#4, 0#3, 0#3, 0#7, 0#7, 0x17#8⟩ rfl rfl fun _ w e => by
    unfold Head.form; dsimp only; unfold uniformLong; rw [e]; rfl

theorem Sys2Proof.Laws.RoundTrip.gxorD g d a b : Statement (.gxorD g d a b) :=
  readsBack_e2 _ ⟨true, true, 0x0E#6, g, d, a, b⟩ ⟨0#4, 0#3, 0#3, 0#7, 0#7, 0x18#8⟩ rfl rfl fun _ w e => by
    unfold Head.form; dsimp only; unfold uniformLong; rw [e]; rfl

theorem Sys2Proof.Laws.RoundTrip.gmovD g d a : Statement (.gmovD g d a) :=
  readsBack_e2 _ ⟨true, true, 0x0E#6, g, d, a, 0#7⟩ ⟨0#4, 0#3, 0#3, 0#7, 0#7, 0x19#8⟩ rfl rfl fun _ w e => by
    unfold Head.form; dsimp only; unfold uniformLong; rw [e]; rfl

theorem Sys2Proof.Laws.RoundTrip.gleaD g d a b s : Statement (.gleaD g d a b s) :=
  readsBack_e2 _ ⟨true, true, 0x0E#6, g, d, a, b⟩ ⟨0#4, 0#3, 0#3, 0#7, (0#5 ++ s), 0x1A#8⟩ rfl rfl fun _ w e => by
    unfold Head.form; dsimp only; unfold uniformLong; rw [e]
    exact (rfl : _ = some _).trans (by simp only [lo2_5])

theorem Sys2Proof.Laws.RoundTrip.gselD g d a b px : Statement (.gselD g d a b px) :=
  readsBack_e2 _ ⟨true, true, 0x0E#6, g, d, a, b⟩ ⟨0#4, 0#3, 0#3, 0#7, (0#4 ++ px), 0x1B#8⟩ rfl rfl fun _ w e => by
    unfold Head.form; dsimp only; unfold uniformLong; rw [e]
    exact (rfl : _ = some _).trans (by simp only [lo3_4])

theorem Sys2Proof.Laws.RoundTrip.gcmp g pd pe a b op ct : Statement (.gcmp g pd pe a b op ct) :=
  readsBack_e2 _ ⟨true, true, 0x0F#6, g, 0#1 ++ pe ++ pd, a, b⟩ ⟨0#4, 0#3, ct.code, 0#7, 0#7, 0#4 ++ op.code⟩ rfl rfl
    fun _ w e => by
    unfold Head.form; dsimp only; unfold uniformLong; rw [e]
    refine (rfl : _ = ite _ _ _).trans ?_
    simp only [sel_44, lo4_44, lo3_33, mid3_33, CmpOp.ofCode_code, CType.ofCode_code]; rfl

theorem Sys2Proof.Laws.RoundTrip.gcmpImm g pd pe a i op ct : Statement (.gcmpImm g pd pe a i op ct) :=
  readsBack_e2 _ ⟨true, true, 0x0F#6, g, 0#1 ++ pe ++ pd, a, i⟩ ⟨0#4, 0#3, ct.code, 0#7, 0#7, 1#4 ++ op.code⟩ rfl rfl
    fun _ w e => by
    unfold Head.form; dsimp only; unfold uniformLong; rw [e]
    refine (rfl : _ = ite _ _ _).trans ?_
    simp only [sel_44, lo4_44, lo3_33, mid3_33, CmpOp.ofCode_code, CType.ofCode_code]; rfl

theorem Sys2Proof.Laws.RoundTrip.bra g cq off18 : Statement (.bra g cq off18) :=
  readsBack_one _ (Head.mk21 true false 0x10#6 g (cq ++ off18)) rfl rfl fun _ => by
    refine (rfl : _ = some (Instr.bra _ (BitVec.extractLsb' _ _ (Head.mk21 true false 0x10#6 g (cq ++ off18)).low21) (BitVec.extractLsb' _ _ (Head.mk21 true false 0x10#6 g (cq ++ off18)).low21))).trans ?_
    rw [Head.low21_mk21, hi_318, lo_318]; rfl

theorem Sys2Proof.Laws.RoundTrip.jmp g off21 : Statement (.jmp g off21) :=
  readsBack_one _ (Head.mk21 true false 0x11#6 g off21) rfl rfl fun _ => by
    refine (rfl : _ = some (Instr.jmp _ (Head.mk21 true false 0x11#6 g off21).low21)).trans ?_
    rw [Head.low21_mk21]; rfl

theorem Sys2Proof.Laws.RoundTrip.jmpAbs g pc : Statement (.jmpAbs g pc) :=
  readsBack_two _ (Head.mk21 true true 0x11#6 g 0#21) (0#2 ++ pc) rfl rfl fun _ => (rfl : _ = some _).trans (by rw [lo_230]; rfl)

theorem Sys2Proof.Laws.RoundTrip.braV g pq off18 join hint : Statement (.braV g pq off18 join hint) :=
  readsBack_two _ (Head.mk21 true true 0x12#6 g (pq ++ off18)) (E4.toWord ⟨join, 0#10 ++ hint.code⟩) rfl rfl fun _ => by
    refine (rfl : _ = some (Instr.braV _ (BitVec.extractLsb' _ _ (Head.mk21 true true 0x12#6 g (pq ++ off18)).low21)
      (BitVec.extractLsb' _ _ (Head.mk21 true true 0x12#6 g (pq ++ off18)).low21) (E4.ofWord _).join
      (Hint.ofCode (BitVec.extractLsb' _ _ (E4.ofWord _).hints)))).trans ?_
    rw [Head.low21_mk21, hi_318, lo_318, E4.ofWord_toWord]; simp only [lo2_10, Hint.ofCode_code]; rfl

theorem Sys2Proof.Laws.RoundTrip.brx g a : Statement (.brx g a) :=
  readsBack_one _ ⟨true, false, 0x13#6, g, 0#7, a, 0#7⟩ rfl rfl fun _ => rfl

theorem Sys2Proof.Laws.RoundTrip.call g d w : Statement (.call g d w) :=
  readsBack_two _ ⟨true, true, 0x14#6, g, d, 0#7, 0#7⟩ w rfl rfl fun _ => rfl

theorem Sys2Proof.Laws.RoundTrip.ret g a : Statement (.ret g a) :=
  readsBack_one _ ⟨true, false, 0x15#6, g, 0#7, a, 0#7⟩ rfl rfl fun _ => rfl

theorem Sys2Proof.Laws.RoundTrip.rvpop g : Statement (.rvpop g) :=
  readsBack_one _ ⟨true, false, 0x16#6, g, 0#7, 0#7, 0#7⟩ rfl rfl fun _ => rfl

theorem Sys2Proof.Laws.RoundTrip.rvpush g a b : Statement (.rvpush g a b) :=
  readsBack_one _ ⟨true, false, 0x17#6, g, 0#7, a, b⟩ rfl rfl fun _ => rfl

theorem Sys2Proof.Laws.RoundTrip.yield g : Statement (.yield g) :=
  readsBack_one _ ⟨true, false, 0x18#6, g, 0#7, 0#7, 0#7⟩ rfl rfl fun _ => rfl

theorem Sys2Proof.Laws.RoundTrip.sleep g i : Statement (.sleep g i) :=
  readsBack_one _ ⟨true, false, 0x19#6, g, 0#7, 0#7, i⟩ rfl rfl fun _ => rfl

theorem Sys2Proof.Laws.RoundTrip.sleepLong g w : Statement (.sleepLong g w) :=
  readsBack_two _ ⟨true, true, 0x19#6, g, 0#7, 0#7, 0#7⟩ w rfl rfl fun _ => rfl

theorem Sys2Proof.Laws.RoundTrip.bar g : Statement (.bar g) :=
  readsBack_one _ ⟨true, false, 0x1A#6, g, 0#7, 0#7, 0#7⟩ rfl rfl fun _ => rfl

theorem Sys2Proof.Laws.RoundTrip.spawn g cq a w : Statement (.spawn g cq a w) :=
  readsBack_two _ ⟨true, true, 0x1B#6, g, (0#4 ++ cq), a, 0#7⟩ w rfl rfl fun _ => (rfl : _ = some _).trans (by simp only [lo3_4])

theorem Sys2Proof.Laws.RoundTrip.role g cq n : Statement (.role g cq n) :=
  readsBack_one _ ⟨true, false, 0x1C#6, g, (0#4 ++ cq), 0#7, (0#3 ++ n)⟩ rfl rfl
    fun _ => (rfl : _ = some _).trans (by simp only [lo3_4, lo4_3])

theorem Sys2Proof.Laws.RoundTrip.exit g : Statement (.exit g) :=
  readsBack_one _ ⟨true, false, 0x1D#6, g, 0#7, 0#7, 0#7⟩ rfl rfl fun _ => rfl

theorem Sys2Proof.Laws.RoundTrip.mfc g d ctl : Statement (.mfc g d ctl) :=
  readsBack_e2 _ ⟨true, true, 0x1E#6, g, d, 0#7, 0#7⟩ ⟨0#4, 0#3, 0#3, 0#7, ctl, 0x00#8⟩ rfl rfl fun _ w e => by
    unfold Head.form; dsimp only; unfold uniformLong; rw [e]; rfl

theorem Sys2Proof.Laws.RoundTrip.mtc g ctl a : Statement (.mtc g ctl a) :=
  readsBack_e2 _ ⟨true, true, 0x1E#6, g, 0#7, a, 0#7⟩ ⟨0#4, 0#3, 0#3, 0#7, ctl, 0x01#8⟩ rfl rfl fun hw w e => by
    have h3 : (ctl == 3#7) = false := by
      by_cases h : ctl = 3#7
      · subst h; exact absurd hw (by simp [Instr.wellFormed, Machine.fieldsOk, ctlWriteOk])
      · simpa using h
    unfold Head.form; dsimp only; unfold uniformLong; rw [e]
    refine (rfl : _ = ite _ _ _).trans ?_
    simp only [h3, Bool.and_false]; rfl

theorem Sys2Proof.Laws.RoundTrip.mtcRvsp g a : Statement (.mtcRvsp g a) :=
  readsBack_e2 _ ⟨true, true, 0x1E#6, g, 0#7, a, 0#7⟩ ⟨0#4, 0#3, 0#3, 0#7, 3#7, 0x01#8⟩ rfl rfl fun _ w e => by
    unfold Head.form; dsimp only; unfold uniformLong; rw [e]; rfl

theorem Sys2Proof.Laws.RoundTrip.xmset g pa : Statement (.xmset g pa) :=
  readsBack_e2 _ ⟨true, true, 0x1E#6, g, 0#7, (0#4 ++ pa), 0#7⟩ ⟨0#4, 0#3, 0#3, 0#7, 0#7, 0x02#8⟩ rfl rfl fun _ w e => by
    unfold Head.form; dsimp only; unfold uniformLong; rw [e]
    exact (rfl : _ = some _).trans (by simp only [lo3_4])

theorem Sys2Proof.Laws.RoundTrip.trap g n7 : Statement (.trap g n7) :=
  readsBack_e2 _ ⟨true, true, 0x1E#6, g, 0#7, 0#7, n7⟩ ⟨0#4, 0#3, 0#3, 0#7, 0#7, 0x03#8⟩ rfl rfl fun _ w e => by
    unfold Head.form; dsimp only; unfold uniformLong; rw [e]; rfl

theorem Sys2Proof.Laws.RoundTrip.sys g n7 : Statement (.sys g n7) :=
  readsBack_e2 _ ⟨true, true, 0x1E#6, g, 0#7, 0#7, n7⟩ ⟨0#4, 0#3, 0#3, 0#7, 0#7, 0x04#8⟩ rfl rfl fun _ w e => by
    unfold Head.form; dsimp only; unfold uniformLong; rw [e]; rfl

theorem Sys2Proof.Laws.RoundTrip.brk g n7 : Statement (.brk g n7) :=
  readsBack_e2 _ ⟨true, true, 0x1E#6, g, 0#7, 0#7, n7⟩ ⟨0#4, 0#3, 0#3, 0#7, 0#7, 0x05#8⟩ rfl rfl fun _ w e => by
    unfold Head.form; dsimp only; unfold uniformLong; rw [e]; rfl

theorem Sys2Proof.Laws.RoundTrip.nop g d a b hx : Statement (.nop g d a b hx) :=
  by
  intro _ hw
  have h1 : (b == 1#7) = false := by simpa [Instr.wellFormed, Machine.fieldsOk] using hw
  cases hx with
  | none =>
    refine decode_of_form ⟨true, false, 0x1F#6, g, d, a, b⟩ 0 _ ?_ hw rfl
    refine (rfl : _ = ite _ _ _).trans ?_
    simp only [h1]; rfl
  | some x =>
    refine decode_of_form ⟨true, true, 0x1F#6, g, d, a, b⟩ x _ ?_ hw rfl
    refine (rfl : _ = ite _ _ _).trans ?_
    simp only [h1]; rfl

theorem Sys2Proof.Laws.RoundTrip.prefc g d a hx : Statement (.prefc g d a hx) :=
  by
  intro _ hw
  cases hx with
  | none => exact decode_of_form ⟨true, false, 0x1F#6, g, d, a, 1#7⟩ 0 _ rfl hw rfl
  | some x => exact decode_of_form ⟨true, true, 0x1F#6, g, d, a, 1#7⟩ x _ rfl hw rfl

theorem Sys2Proof.Laws.RoundTrip.tcfg g t b : Statement (.tcfg g t b) :=
  readsBack_one _ ⟨true, false, 0x20#6, g, (0#1 ++ t), 0#7, b⟩ rfl rfl fun _ => (rfl : _ = some _).trans (by simp only [lo6_1])

theorem Sys2Proof.Laws.RoundTrip.tcfgImm g t w : Statement (.tcfgImm g t w) :=
  readsBack_two _ ⟨true, true, 0x20#6, g, (0#1 ++ t), 0#7, 0#7⟩ w rfl rfl fun _ => (rfl : _ = some _).trans (by simp only [lo6_1])

theorem Sys2Proof.Laws.RoundTrip.tzero g t : Statement (.tzero g t) :=
  readsBack_one _ ⟨true, false, 0x21#6, g, (0#1 ++ t), 0#7, 0#7⟩ rfl rfl fun _ => (rfl : _ = some _).trans (by simp only [lo6_1])

theorem Sys2Proof.Laws.RoundTrip.tld g t k b obs order stage off : Statement (.tld g t k b obs order stage off) :=
  readsBack_e3 _ ⟨true, true, 0x22#6, g, (0#1 ++ t), (4#3 ++ k), b⟩ ⟨obs, order.code, stage, 0#3, off⟩ rfl rfl fun w e => by
    unfold Head.form; dsimp only; unfold uniformLong; rw [e]
    exact (rfl : _ = some _).trans (by simp only [lo6_1, lo4_3, Order.ofCode_code])

theorem Sys2Proof.Laws.RoundTrip.tsv g t k b obs order stage off : Statement (.tsv g t k b obs order stage off) :=
  readsBack_e3 _ ⟨true, true, 0x23#6, g, (0#1 ++ t), (4#3 ++ k), b⟩ ⟨obs, order.code, stage, 0#3, off⟩ rfl rfl fun w e => by
    unfold Head.form; dsimp only; unfold uniformLong; rw [e]
    exact (rfl : _ = some _).trans (by simp only [lo6_1, lo4_3, Order.ofCode_code])

theorem Sys2Proof.Laws.RoundTrip.tcvt g t ta dst rnd : Statement (.tcvt g t ta dst rnd) :=
  readsBack_e2 _ ⟨true, true, 0x24#6, g, (0#1 ++ t), (0#1 ++ ta), 0#7⟩ ⟨dst.code, rnd.code, 0#3, 0#7, 0#7, 0x00#8⟩ rfl rfl
    fun _ w e => by
    unfold Head.form; dsimp only; unfold uniformLong; rw [e]
    exact (rfl : _ = some _).trans (by simp only [lo6_1, Rnd.ofCode_code, Fmt.ofCode_code])

theorem Sys2Proof.Laws.RoundTrip.tmvV g d ta b : Statement (.tmvV g d ta b) :=
  readsBack_e2 _ ⟨true, true, 0x25#6, g, d, (0#1 ++ ta), b⟩ ⟨0#4, 0#3, 0#3, 0#7, 0#7, 0x00#8⟩ rfl rfl fun _ w e => by
    unfold Head.form; dsimp only; unfold uniformLong; rw [e]
    exact (rfl : _ = some _).trans (by simp only [lo6_1])

theorem Sys2Proof.Laws.RoundTrip.tmvT g t a b : Statement (.tmvT g t a b) :=
  readsBack_e2 _ ⟨true, true, 0x25#6, g, (0#1 ++ t), a, b⟩ ⟨0#4, 0#3, 0#3, 0#7, 0#7, 0x01#8⟩ rfl rfl fun _ w e => by
    unfold Head.form; dsimp only; unfold uniformLong; rw [e]
    exact (rfl : _ = some _).trans (by simp only [lo6_1])

theorem Sys2Proof.Laws.RoundTrip.mma g t ta tb c rnd z : Statement (.mma g t ta tb c rnd z) :=
  readsBack_e2 _ ⟨true, true, 0x26#6, g, (0#1 ++ t), (0#1 ++ ta), (0#1 ++ tb)⟩ ⟨0#4, rnd.code, 0#3, c, 0#7, (0#7 ++ BitVec.ofBool z)⟩ rfl rfl
    fun _ w e => by
    unfold Head.form; dsimp only; unfold uniformLong; rw [e]
    exact (rfl : _ = some _).trans (by simp only [lo6_1, bit0_7, Rnd.ofCode_code])

theorem Sys2Proof.Laws.RoundTrip.mmat g t ta tb c rnd z : Statement (.mmat g t ta tb c rnd z) :=
  readsBack_e2 _ ⟨true, true, 0x27#6, g, (0#1 ++ t), (0#1 ++ ta), (0#1 ++ tb)⟩ ⟨0#4, rnd.code, 0#3, c, 0#7, (0#7 ++ BitVec.ofBool z)⟩ rfl rfl
    fun _ w e => by
    unfold Head.form; dsimp only; unfold uniformLong; rw [e]
    exact (rfl : _ = some _).trans (by simp only [lo6_1, bit0_7, Rnd.ofCode_code])

theorem Sys2Proof.Laws.RoundTrip.mmag g t ta tb c gx rnd z : Statement (.mmag g t ta tb c gx rnd z) :=
  readsBack_e2 _ ⟨true, true, 0x28#6, g, (0#1 ++ t), (0#1 ++ ta), (0#1 ++ tb)⟩ ⟨0#4, rnd.code, 0#3, c, gx, (0#7 ++ BitVec.ofBool z)⟩ rfl rfl
    fun _ w e => by
    unfold Head.form; dsimp only; unfold uniformLong; rw [e]
    exact (rfl : _ = some _).trans (by simp only [lo6_1, bit0_7, Rnd.ofCode_code])

theorem Sys2Proof.Laws.RoundTrip.mmx g t ta tb c rnd z : Statement (.mmx g t ta tb c rnd z) :=
  readsBack_e2 _ ⟨true, true, 0x29#6, g, (0#1 ++ t), (0#1 ++ ta), (0#1 ++ tb)⟩ ⟨0#4, rnd.code, 0#3, c, 0#7, (0#7 ++ BitVec.ofBool z)⟩ rfl rfl
    fun _ w e => by
    unfold Head.form; dsimp only; unfold uniformLong; rw [e]
    exact (rfl : _ = some _).trans (by simp only [lo6_1, bit0_7, Rnd.ofCode_code])

theorem Sys2Proof.Laws.RoundTrip.quant g t ta c rnd : Statement (.quant g t ta c rnd) :=
  readsBack_e2 _ ⟨true, true, 0x2A#6, g, (0#1 ++ t), (0#1 ++ ta), 0#7⟩ ⟨0#4, rnd.code, 0#3, c, 0#7, 0x00#8⟩ rfl rfl
    fun _ w e => by
    unfold Head.form; dsimp only; unfold uniformLong; rw [e]
    exact (rfl : _ = some _).trans (by simp only [lo6_1, Rnd.ofCode_code])

theorem Sys2Proof.Laws.RoundTrip.ctld g n a : Statement (.ctld g n a) :=
  readsBack_one _ ⟨true, false, 0x2B#6, g, (0#4 ++ n), a, 0#7⟩ rfl rfl fun _ => (rfl : _ = some _).trans (by simp only [lo3_4])

theorem Sys2Proof.Laws.RoundTrip.acp g d a b obs order ds fs : Statement (.acp g d a b obs order ds fs) :=
  readsBack_e3 _ ⟨true, true, 0x30#6, g, d, a, b⟩ ⟨obs, order.code, ds, (BitVec.ofBool fs ++ 0#2), 0#20⟩ rfl rfl fun w e => by
    unfold Head.form; dsimp only; unfold uniformLong; rw [e]
    exact (rfl : _ = some _).trans (by simp only [bit2_12, Order.ofCode_code])

theorem Sys2Proof.Laws.RoundTrip.acp2 g d a b obs order ds fs : Statement (.acp2 g d a b obs order ds fs) :=
  readsBack_e3 _ ⟨true, true, 0x31#6, g, d, a, b⟩ ⟨obs, order.code, ds, (BitVec.ofBool fs ++ 0#2), 0#20⟩ rfl rfl fun w e => by
    unfold Head.form; dsimp only; unfold uniformLong; rw [e]
    exact (rfl : _ = some _).trans (by simp only [bit2_12, Order.ofCode_code])

theorem Sys2Proof.Laws.RoundTrip.acpg g d a b obs order ds fs : Statement (.acpg g d a b obs order ds fs) :=
  readsBack_e3 _ ⟨true, true, 0x32#6, g, d, a, b⟩ ⟨obs, order.code, ds, (BitVec.ofBool fs ++ 0#2), 0#20⟩ rfl rfl fun w e => by
    unfold Head.form; dsimp only; unfold uniformLong; rw [e]
    exact (rfl : _ = some _).trans (by simp only [bit2_12, Order.ofCode_code])

theorem Sys2Proof.Laws.RoundTrip.afill g d a b obs order ds : Statement (.afill g d a b obs order ds) :=
  readsBack_e3 _ ⟨true, true, 0x33#6, g, d, a, b⟩ ⟨obs, order.code, ds, 0#3, 0#20⟩ rfl rfl fun w e => by
    unfold Head.form; dsimp only; unfold uniformLong; rw [e]
    exact (rfl : _ = some _).trans (by simp only [Order.ofCode_code])

theorem Sys2Proof.Laws.RoundTrip.wload g d a b obs order prec : Statement (.wload g d a b obs order prec) :=
  readsBack_e3 _ ⟨true, true, 0x34#6, g, d, a, b⟩ ⟨obs, order.code, false, prec, 0#20⟩ rfl rfl fun w e => by
    unfold Head.form; dsimp only; unfold uniformLong; rw [e]
    exact (rfl : _ = some _).trans (by simp only [Order.ofCode_code])

theorem Sys2Proof.Laws.RoundTrip.clvInit g a b : Statement (.clvInit g a b) :=
  readsBack_e2 _ ⟨true, true, 0x35#6, g, 0#7, a, b⟩ ⟨0#4, 0#3, 0#3, 0#7, 0#7, 0x00#8⟩ rfl rfl fun _ w e => by
    unfold Head.form; dsimp only; unfold uniformLong; rw [e]; rfl

theorem Sys2Proof.Laws.RoundTrip.clvArm g a b : Statement (.clvArm g a b) :=
  readsBack_e2 _ ⟨true, true, 0x35#6, g, 0#7, a, b⟩ ⟨0#4, 0#3, 0#3, 0#7, 0#7, 0x01#8⟩ rfl rfl fun _ w e => by
    unfold Head.form; dsimp only; unfold uniformLong; rw [e]; rfl

theorem Sys2Proof.Laws.RoundTrip.clvWait g a b : Statement (.clvWait g a b) :=
  readsBack_e2 _ ⟨true, true, 0x35#6, g, 0#7, a, b⟩ ⟨0#4, 0#3, 0#3, 0#7, 0#7, 0x02#8⟩ rfl rfl fun _ w e => by
    unfold Head.form; dsimp only; unfold uniformLong; rw [e]; rfl

theorem Sys2Proof.Laws.RoundTrip.hwait g d a : Statement (.hwait g d a) :=
  readsBack_e2 _ ⟨true, true, 0x36#6, g, d, a, 0#7⟩ ⟨0#4, 0#3, 0#3, 0#7, 0#7, 0x00#8⟩ rfl rfl fun _ w e => by
    unfold Head.form; dsimp only; unfold uniformLong; rw [e]; rfl

theorem Sys2Proof.Laws.RoundTrip.htst g cq a : Statement (.htst g cq a) :=
  readsBack_e2 _ ⟨true, true, 0x36#6, g, (0#4 ++ cq), a, 0#7⟩ ⟨0#4, 0#3, 0#3, 0#7, 0#7, 0x01#8⟩ rfl rfl fun _ w e => by
    unfold Head.form; dsimp only; unfold uniformLong; rw [e]
    exact (rfl : _ = some _).trans (by simp only [lo3_4])

theorem Sys2Proof.Laws.RoundTrip.hcan g a : Statement (.hcan g a) :=
  readsBack_e2 _ ⟨true, true, 0x36#6, g, 0#7, a, 0#7⟩ ⟨0#4, 0#3, 0#3, 0#7, 0#7, 0x02#8⟩ rfl rfl fun _ w e => by
    unfold Head.form; dsimp only; unfold uniformLong; rw [e]; rfl

theorem Sys2Proof.Laws.RoundTrip.hmov g d a : Statement (.hmov g d a) :=
  readsBack_e2 _ ⟨true, true, 0x36#6, g, d, a, 0#7⟩ ⟨0#4, 0#3, 0#3, 0#7, 0#7, 0x03#8⟩ rfl rfl fun _ w e => by
    unfold Head.form; dsimp only; unfold uniformLong; rw [e]; rfl

theorem Sys2Proof.Laws.RoundTrip.apGo g a : Statement (.apGo g a) :=
  readsBack_e2 _ ⟨true, true, 0x37#6, g, 0#7, a, 0#7⟩ ⟨0#4, 0#3, 0#3, 0#7, 0#7, 0x00#8⟩ rfl rfl fun _ w e => by
    unfold Head.form; dsimp only; unfold uniformLong; rw [e]; rfl

theorem Sys2Proof.Laws.RoundTrip.apStop g : Statement (.apStop g) :=
  readsBack_e2 _ ⟨true, true, 0x37#6, g, 0#7, 0#7, 0#7⟩ ⟨0#4, 0#3, 0#3, 0#7, 0#7, 0x01#8⟩ rfl rfl fun _ w e => by
    unfold Head.form; dsimp only; unfold uniformLong; rw [e]; rfl

theorem Sys2Proof.Laws.RoundTrip.qtst g cq qa : Statement (.qtst g cq qa) :=
  readsBack_e2 _ ⟨true, true, 0x37#6, g, (0#4 ++ cq), (0#3 ++ qa), 0#7⟩ ⟨0#4, 0#3, 0#3, 0#7, 0#7, 0x02#8⟩ rfl rfl fun _ w e => by
    unfold Head.form; dsimp only; unfold uniformLong; rw [e]
    exact (rfl : _ = some _).trans (by simp only [lo3_4, lo4_3])

theorem Sys2Proof.Laws.RoundTrip.gld g d mem obs order stage size off : Statement (.gld g d mem obs order stage size off) :=
  readsBack_e3 _ ⟨true, true, 0x38#6, g, d, mem.fieldA, mem.fieldB⟩ ⟨obs, order.code, stage, size.code, off⟩ rfl rfl fun w e => by
    unfold Head.form; dsimp only; unfold uniformLong; rw [e]
    exact (rfl : _ = some _).trans (by simp only [Size.ofCode_code, Order.ofCode_code, MemAddr.ofFields_fields])

theorem Sys2Proof.Laws.RoundTrip.gst g d mem obs order stage size off : Statement (.gst g d mem obs order stage size off) :=
  readsBack_e3 _ ⟨true, true, 0x39#6, g, d, mem.fieldA, mem.fieldB⟩ ⟨obs, order.code, stage, size.code, off⟩ rfl rfl fun w e => by
    unfold Head.form; dsimp only; unfold uniformLong; rw [e]
    exact (rfl : _ = some _).trans (by simp only [Size.ofCode_code, Order.ofCode_code, MemAddr.ofFields_fields])

theorem Sys2Proof.Laws.RoundTrip.gatom g d mem obs order stage dbl aop off16 : Statement (.gatom g d mem obs order stage dbl aop off16) :=
  readsBack_e3 _ ⟨true, true, 0x3A#6, g, d, mem.fieldA, mem.fieldB⟩ ⟨obs, order.code, stage, (if dbl then 5#3 else 4#3), (aop.code ++ off16)⟩ rfl rfl
    fun w e => by
    unfold Head.form; dsimp only; unfold uniformLong; rw [e]
    exact (rfl : _ = some _).trans (by simp only [hi_416, lo_416, AtomOp.ofCode_code, size_dbl, Order.ofCode_code, MemAddr.ofFields_fields])

theorem Sys2Proof.Laws.RoundTrip.fence g obs : Statement (.fence g obs) :=
  readsBack_e3 _ ⟨true, true, 0x3B#6, g, 0#7, 0#7, 0#7⟩ ⟨obs, 0#2, false, 0#3, 0#20⟩ rfl rfl fun w e => by
    unfold Head.form; dsimp only; unfold uniformLong; rw [e]
    exact (rfl : _ = some _).trans (by simp only [])

theorem Sys2Proof.Laws.RoundTrip.copen g it a b c : Statement (.copen g it a b c) :=
  readsBack_e2 _ ⟨true, true, 0x3C#6, g, (0#4 ++ it), a, b⟩ ⟨0#4, 0#3, 0#3, c, 0#7, 0x00#8⟩ rfl rfl fun _ w e => by
    unfold Head.form; dsimp only; unfold uniformLong; rw [e]
    exact (rfl : _ = some _).trans (by simp only [lo3_4])

theorem Sys2Proof.Laws.RoundTrip.cclose g ita : Statement (.cclose g ita) :=
  readsBack_e2 _ ⟨true, true, 0x3C#6, g, 0#7, (0#4 ++ ita), 0#7⟩ ⟨0#4, 0#3, 0#3, 0#7, 0#7, 0x01#8⟩ rfl rfl fun _ w e => by
    unfold Head.form; dsimp only; unfold uniformLong; rw [e]
    exact (rfl : _ = some _).trans (by simp only [lo3_4])

theorem Sys2Proof.Laws.RoundTrip.ccount g d a b c : Statement (.ccount g d a b c) :=
  readsBack_e2 _ ⟨true, true, 0x3C#6, g, d, a, b⟩ ⟨0#4, 0#3, 0#3, c, 0#7, 0x02#8⟩ rfl rfl fun _ w e => by
    unfold Head.form; dsimp only; unfold uniformLong; rw [e]; rfl

theorem Sys2Proof.Laws.RoundTrip.wlclr g c : Statement (.wlclr g c) :=
  readsBack_e2 _ ⟨true, true, 0x3D#6, g, 0#7, 0#7, 0#7⟩ ⟨0#4, 0#3, 0#3, c, 0#7, 0x00#8⟩ rfl rfl fun _ w e => by
    unfold Head.form; dsimp only; unfold uniformLong; rw [e]; rfl

theorem Sys2Proof.Laws.RoundTrip.wlcnt g d c : Statement (.wlcnt g d c) :=
  readsBack_e2 _ ⟨true, true, 0x3D#6, g, d, 0#7, 0#7⟩ ⟨0#4, 0#3, 0#3, c, 0#7, 0x01#8⟩ rfl rfl fun _ w e => by
    unfold Head.form; dsimp only; unfold uniformLong; rw [e]; rfl

theorem Sys2Proof.Laws.RoundTrip.qtok g d a : Statement (.qtok g d a) :=
  readsBack_e2 _ ⟨true, true, 0x3E#6, g, d, a, 0#7⟩ ⟨0#4, 0#3, 0#3, 0#7, 0#7, 0x00#8⟩ rfl rfl fun _ w e => by
    unfold Head.form; dsimp only; unfold uniformLong; rw [e]; rfl

theorem Sys2Proof.Laws.RoundTrip.tsecEnter g a b : Statement (.tsecEnter g a b) :=
  readsBack_e2 _ ⟨true, true, 0x3E#6, g, 0#7, a, b⟩ ⟨0#4, 0#3, 0#3, 0#7, 0#7, 0x01#8⟩ rfl rfl fun _ w e => by
    unfold Head.form; dsimp only; unfold uniformLong; rw [e]; rfl

theorem Sys2Proof.Laws.RoundTrip.tsecExit g a b : Statement (.tsecExit g a b) :=
  readsBack_e2 _ ⟨true, true, 0x3E#6, g, 0#7, a, b⟩ ⟨0#4, 0#3, 0#3, 0#7, 0#7, 0x02#8⟩ rfl rfl fun _ w e => by
    unfold Head.form; dsimp only; unfold uniformLong; rw [e]; rfl

theorem Sys2Proof.Laws.RoundTrip.glaunch g cq a : Statement (.glaunch g cq a) :=
  readsBack_one _ ⟨true, false, 0x3F#6, g, (0#4 ++ cq), a, 0#7⟩ rfl rfl fun _ => (rfl : _ = some _).trans (by simp only [lo3_4])

theorem Sys2Proof.Laws.RoundTrip.illegalPattern x1 x2 : Statement (.illegalPattern x1 x2) :=
  readsBack_none _ rfl

theorem Sys2Proof.Laws.RoundTrip.fetchFault x1 x2 x3 x4 : Statement (.fetchFault x1 x2 x3 x4) :=
  readsBack_none _ rfl

theorem Sys2Proof.Laws.RoundTrip.pathJoin x1 x2 : Statement (.pathJoin x1 x2) :=
  readsBack_none _ rfl

theorem Sys2Proof.Laws.RoundTrip.pathSwitch x1 : Statement (.pathSwitch x1) :=
  readsBack_none _ rfl

theorem Sys2Proof.Laws.RoundTrip.slotIssueCycle x1 x2 : Statement (.slotIssueCycle x1 x2) :=
  readsBack_none _ rfl

theorem Sys2Proof.Laws.RoundTrip.groupAged x1 : Statement (.groupAged x1) :=
  readsBack_none _ rfl

theorem Sys2Proof.Laws.RoundTrip.trapEntry x1 : Statement (.trapEntry x1) :=
  readsBack_none _ rfl

theorem Sys2Proof.Laws.RoundTrip.faultRecord x1 : Statement (.faultRecord x1) :=
  readsBack_none _ rfl

theorem Sys2Proof.Laws.RoundTrip.parkedReplay x1 : Statement (.parkedReplay x1) :=
  readsBack_none _ rfl

theorem Sys2Proof.Laws.RoundTrip.pageFaultResolve x1 x2 x3 : Statement (.pageFaultResolve x1 x2 x3) :=
  readsBack_none _ rfl

theorem Sys2Proof.Laws.RoundTrip.pageMigrationStart x1 x2 : Statement (.pageMigrationStart x1 x2) :=
  readsBack_none _ rfl

theorem Sys2Proof.Laws.RoundTrip.pageMigrationEnd x1 x2 x3 x4 x5 : Statement (.pageMigrationEnd x1 x2 x3 x4 x5) :=
  readsBack_none _ rfl

theorem Sys2Proof.Laws.RoundTrip.hotUpdate x1 : Statement (.hotUpdate x1) :=
  readsBack_none _ rfl

theorem Sys2Proof.Laws.RoundTrip.lineMigrate x1 x2 : Statement (.lineMigrate x1 x2) :=
  readsBack_none _ rfl

theorem Sys2Proof.Laws.RoundTrip.lineEvict x1 : Statement (.lineEvict x1) :=
  readsBack_none _ rfl

theorem Sys2Proof.Laws.RoundTrip.leaseExpiry x1 : Statement (.leaseExpiry x1) :=
  readsBack_none _ rfl

theorem Sys2Proof.Laws.RoundTrip.eccCorrectable x1 : Statement (.eccCorrectable x1) :=
  readsBack_none _ rfl

theorem Sys2Proof.Laws.RoundTrip.eccUncorrectable x1 x2 : Statement (.eccUncorrectable x1 x2) :=
  readsBack_none _ rfl

theorem Sys2Proof.Laws.RoundTrip.engineChunkComplete x1 x2 : Statement (.engineChunkComplete x1 x2) :=
  readsBack_none _ rfl

theorem Sys2Proof.Laws.RoundTrip.claveCredit x1 : Statement (.claveCredit x1) :=
  readsBack_none _ rfl

theorem Sys2Proof.Laws.RoundTrip.engineCommandComplete x1 : Statement (.engineCommandComplete x1) :=
  readsBack_none _ rfl

theorem Sys2Proof.Laws.RoundTrip.cinsApply x1 x2 : Statement (.cinsApply x1 x2) :=
  readsBack_none _ rfl

theorem Sys2Proof.Laws.RoundTrip.wloadRecord x1 x2 : Statement (.wloadRecord x1 x2) :=
  readsBack_none _ rfl

theorem Sys2Proof.Laws.RoundTrip.streamLoadElement x1 x2 : Statement (.streamLoadElement x1 x2) :=
  readsBack_none _ rfl

theorem Sys2Proof.Laws.RoundTrip.streamStoreElement x1 x2 : Statement (.streamStoreElement x1 x2) :=
  readsBack_none _ rfl

theorem Sys2Proof.Laws.RoundTrip.queueSpillRefill x1 : Statement (.queueSpillRefill x1) :=
  readsBack_none _ rfl

theorem Sys2Proof.Laws.RoundTrip.coprocRecord x1 x2 : Statement (.coprocRecord x1 x2) :=
  readsBack_none _ rfl

theorem Sys2Proof.Laws.RoundTrip.fragmentTurn x1 x2 : Statement (.fragmentTurn x1 x2) :=
  readsBack_none _ rfl

theorem Sys2Proof.Laws.RoundTrip.consumerWaitExpiry x1 x2 : Statement (.consumerWaitExpiry x1 x2) :=
  readsBack_none _ rfl

theorem Sys2Proof.Laws.RoundTrip.sectionTimeout x1 : Statement (.sectionTimeout x1) :=
  readsBack_none _ rfl

theorem Sys2Proof.Laws.RoundTrip.barrierPhaseComplete x1 : Statement (.barrierPhaseComplete x1) :=
  readsBack_none _ rfl

theorem Sys2Proof.Laws.RoundTrip.sleepDeadline x1 : Statement (.sleepDeadline x1) :=
  readsBack_none _ rfl

theorem Sys2Proof.Laws.RoundTrip.sysReply x1 : Statement (.sysReply x1) :=
  readsBack_none _ rfl

theorem Sys2Proof.Laws.RoundTrip.launchDispatch x1 : Statement (.launchDispatch x1) :=
  readsBack_none _ rfl

theorem Sys2Proof.Laws.RoundTrip.launchRefused x1 x2 : Statement (.launchRefused x1 x2) :=
  readsBack_none _ rfl

theorem Sys2Proof.Laws.RoundTrip.preconditionRead x1 x2 : Statement (.preconditionRead x1 x2) :=
  readsBack_none _ rfl

theorem Sys2Proof.Laws.RoundTrip.cohortReserved x1 x2 : Statement (.cohortReserved x1 x2) :=
  readsBack_none _ rfl

theorem Sys2Proof.Laws.RoundTrip.preempt x1 : Statement (.preempt x1) :=
  readsBack_none _ rfl

theorem Sys2Proof.Laws.RoundTrip.restore x1 : Statement (.restore x1) :=
  readsBack_none _ rfl

theorem Sys2Proof.Laws.RoundTrip.islandFrequencyChange x1 x2 : Statement (.islandFrequencyChange x1 x2) :=
  readsBack_none _ rfl

theorem Sys2Proof.Laws.RoundTrip.debugHalt x1 : Statement (.debugHalt x1) :=
  readsBack_none _ rfl

theorem Sys2Proof.Laws.RoundTrip.debugResume x1 : Statement (.debugResume x1) :=
  readsBack_none _ rfl

theorem Sys2Proof.Laws.RoundTrip.debugStep x1 : Statement (.debugStep x1) :=
  readsBack_none _ rfl

theorem Sys2Proof.Laws.RoundTrip.debugRead x1 x2 : Statement (.debugRead x1 x2) :=
  readsBack_none _ rfl

theorem Sys2Proof.Laws.RoundTrip.debugWrite x1 x2 x3 : Statement (.debugWrite x1 x2 x3) :=
  readsBack_none _ rfl

theorem Sys2Proof.Laws.RoundTrip.debugDrain x1 x2 : Statement (.debugDrain x1 x2) :=
  readsBack_none _ rfl

theorem Sys2Proof.Laws.RoundTrip.debugDrainTimeout x1 : Statement (.debugDrainTimeout x1) :=
  readsBack_none _ rfl

theorem Sys2Proof.Laws.RoundTrip.debugWatch x1 x2 x3 : Statement (.debugWatch x1 x2 x3) :=
  readsBack_none _ rfl

theorem Sys2Proof.Laws.RoundTrip.debugTrapmode x1 x2 : Statement (.debugTrapmode x1 x2) :=
  readsBack_none _ rfl

theorem Sys2Proof.Laws.RoundTrip.gong : Statement (.gong) :=
  readsBack_none _ rfl

theorem Sys2Proof.Laws.RoundTrip.deviceReset : Statement (.deviceReset) :=
  readsBack_none _ rfl

theorem Sys2Proof.Laws.RoundTrip.powerUpBoot : Statement (.powerUpBoot) :=
  readsBack_none _ rfl

theorem Sys2Proof.Laws.RoundTrip.ping x1 : Statement (.ping x1) :=
  readsBack_none _ rfl

theorem Sys2Proof.Laws.RoundTrip.launch x1 : Statement (.launch x1) :=
  readsBack_none _ rfl

theorem Sys2Proof.Laws.RoundTrip.status x1 : Statement (.status x1) :=
  readsBack_none _ rfl

theorem Sys2Proof.Laws.RoundTrip.quote x1 : Statement (.quote x1) :=
  readsBack_none _ rfl

theorem Sys2Proof.Laws.RoundTrip.hot x1 : Statement (.hot x1) :=
  readsBack_none _ rfl

theorem Sys2Proof.Laws.RoundTrip.reload x1 : Statement (.reload x1) :=
  readsBack_none _ rfl

theorem Sys2Proof.Laws.RoundTrip.monitor x1 : Statement (.monitor x1) :=
  readsBack_none _ rfl

theorem Sys2Proof.Laws.RoundTrip.migrate x1 : Statement (.migrate x1) :=
  readsBack_none _ rfl

theorem Sys2Proof.Laws.RoundTrip.quota x1 : Statement (.quota x1) :=
  readsBack_none _ rfl

theorem Sys2Proof.Laws.RoundTrip.partitionCreate x1 : Statement (.partitionCreate x1) :=
  readsBack_none _ rfl

theorem Sys2Proof.Laws.RoundTrip.partitionResize x1 : Statement (.partitionResize x1) :=
  readsBack_none _ rfl

theorem Sys2Proof.Laws.RoundTrip.partitionDestroy x1 : Statement (.partitionDestroy x1) :=
  readsBack_none _ rfl

theorem Sys2Proof.Laws.RoundTrip.partitionHalt x1 : Statement (.partitionHalt x1) :=
  readsBack_none _ rfl

theorem Sys2Proof.Laws.RoundTrip.partitionResume x1 : Statement (.partitionResume x1) :=
  readsBack_none _ rfl

theorem Sys2Proof.Laws.RoundTrip.partitionQuery x1 : Statement (.partitionQuery x1) :=
  readsBack_none _ rfl

theorem Sys2Proof.Laws.RoundTrip.consumers x1 : Statement (.consumers x1) :=
  readsBack_none _ rfl

theorem Sys2Proof.Laws.RoundTrip.debug x1 : Statement (.debug x1) :=
  readsBack_none _ rfl

theorem Sys2Proof.Laws.RoundTrip.fwupd x1 : Statement (.fwupd x1) :=
  readsBack_none _ rfl

theorem Sys2Proof.Laws.RoundTrip.peers x1 : Statement (.peers x1) :=
  readsBack_none _ rfl

theorem Sys2Proof.Laws.RoundTrip.exportList x1 : Statement (.exportList x1) :=
  readsBack_none _ rfl

theorem Sys2Proof.Laws.RoundTrip.hostLinkTrain x1 : Statement (.hostLinkTrain x1) :=
  readsBack_none _ rfl

theorem Sys2Proof.Laws.RoundTrip.hostAccess x1 x2 x3 : Statement (.hostAccess x1 x2 x3) :=
  readsBack_none _ rfl

theorem Sys2Proof.Laws.RoundTrip.peerAccess x1 x2 x3 : Statement (.peerAccess x1 x2 x3) :=
  readsBack_none _ rfl

theorem Sys2Proof.Laws.RoundTrip.partFence x1 x2 : Statement (.partFence x1 x2) :=
  readsBack_none _ rfl

theorem Sys2Proof.Laws.RoundTrip.partFailure x1 x2 : Statement (.partFailure x1 x2) :=
  readsBack_none _ rfl

theorem Sys2Proof.Laws.RoundTrip.powerLoss : Statement (.powerLoss) :=
  readsBack_none _ rfl

theorem Sys2Proof.Laws.RoundTrip.peerTransportFailure x1 x2 : Statement (.peerTransportFailure x1 x2) :=
  readsBack_none _ rfl

theorem Sys2Proof.Laws.RoundTrip.monitorWindowEnd x1 : Statement (.monitorWindowEnd x1) :=
  readsBack_none _ rfl
end

