-- ==== Sys2Proof/Laws/State.lean ====
section
/-!
SUPPORT. What each record update leaves and gives, one lemma a field: a proof never unfolds an update of State or of Group.
-/

namespace Sys2Proof.Machine

/-! ### `State.setCur` -/

@[simp] theorem State.setCur_cur (s : State) (gr : Group) : (s.setCur gr).cur = gr := rfl
@[simp] theorem State.setCur_others (s : State) (gr : Group) : (s.setCur gr).others = s.others := rfl
@[simp] theorem State.setCur_saved (s : State) (gr : Group) : (s.setCur gr).saved = s.saved := rfl
@[simp] theorem State.setCur_draining (s : State) (gr : Group) : (s.setCur gr).draining = s.draining := rfl
@[simp] theorem State.setCur_serve (s : State) (gr : Group) : (s.setCur gr).serve = s.serve := rfl
@[simp] theorem State.setCur_cohorts (s : State) (gr : Group) : (s.setCur gr).cohorts = s.cohorts := rfl
@[simp] theorem State.setCur_launches (s : State) (gr : Group) : (s.setCur gr).launches = s.launches := rfl
@[simp] theorem State.setCur_parts (s : State) (gr : Group) : (s.setCur gr).parts = s.parts := rfl
@[simp] theorem State.setCur_mem (s : State) (gr : Group) : (s.setCur gr).mem = s.mem := rfl
@[simp] theorem State.setCur_stage (s : State) (gr : Group) : (s.setCur gr).stage = s.stage := rfl
@[simp] theorem State.setCur_absent (s : State) (gr : Group) : (s.setCur gr).absent = s.absent := rfl
@[simp] theorem State.setCur_poison (s : State) (gr : Group) : (s.setCur gr).poison = s.poison := rfl
@[simp] theorem State.setCur_failed (s : State) (gr : Group) : (s.setCur gr).failed = s.failed := rfl
@[simp] theorem State.setCur_moved (s : State) (gr : Group) : (s.setCur gr).moved = s.moved := rfl
@[simp] theorem State.setCur_replicas (s : State) (gr : Group) : (s.setCur gr).replicas = s.replicas := rfl
@[simp] theorem State.setCur_snaps (s : State) (gr : Group) : (s.setCur gr).snaps = s.snaps := rfl
@[simp] theorem State.setCur_l2 (s : State) (gr : Group) : (s.setCur gr).l2 = s.l2 := rfl
@[simp] theorem State.setCur_lineTimes (s : State) (gr : Group) : (s.setCur gr).lineTimes = s.lineTimes := rfl
@[simp] theorem State.setCur_hotPending (s : State) (gr : Group) : (s.setCur gr).hotPending = s.hotPending := rfl
@[simp] theorem State.setCur_arrivals (s : State) (gr : Group) : (s.setCur gr).arrivals = s.arrivals := rfl
@[simp] theorem State.setCur_shadowStore (s : State) (gr : Group) : (s.setCur gr).shadowStore = s.shadowStore := rfl
@[simp] theorem State.setCur_hostBytes (s : State) (gr : Group) : (s.setCur gr).hostBytes = s.hostBytes := rfl
@[simp] theorem State.setCur_peerBytes (s : State) (gr : Group) : (s.setCur gr).peerBytes = s.peerBytes := rfl
@[simp] theorem State.setCur_peerLink (s : State) (gr : Group) : (s.setCur gr).peerLink = s.peerLink := rfl
@[simp] theorem State.setCur_tileCfg (s : State) (gr : Group) : (s.setCur gr).tileCfg = s.tileCfg := rfl
@[simp] theorem State.setCur_tiles (s : State) (gr : Group) : (s.setCur gr).tiles = s.tiles := rfl
@[simp] theorem State.setCur_compand (s : State) (gr : Group) : (s.setCur gr).compand = s.compand := rfl
@[simp] theorem State.setCur_copySlots (s : State) (gr : Group) : (s.setCur gr).copySlots = s.copySlots := rfl
@[simp] theorem State.setCur_wloadSlots (s : State) (gr : Group) : (s.setCur gr).wloadSlots = s.wloadSlots := rfl
@[simp] theorem State.setCur_cinsSlots (s : State) (gr : Group) : (s.setCur gr).cinsSlots = s.cinsSlots := rfl
@[simp] theorem State.setCur_credits (s : State) (gr : Group) : (s.setCur gr).credits = s.credits := rfl
@[simp] theorem State.setCur_watches (s : State) (gr : Group) : (s.setCur gr).watches = s.watches := rfl
@[simp] theorem State.setCur_meets (s : State) (gr : Group) : (s.setCur gr).meets = s.meets := rfl
@[simp] theorem State.setCur_clusters (s : State) (gr : Group) : (s.setCur gr).clusters = s.clusters := rfl
@[simp] theorem State.setCur_lists (s : State) (gr : Group) : (s.setCur gr).lists = s.lists := rfl
@[simp] theorem State.setCur_cycles (s : State) (gr : Group) : (s.setCur gr).cycles = s.cycles := rfl
@[simp] theorem State.setCur_charged (s : State) (gr : Group) : (s.setCur gr).charged = s.charged := rfl
@[simp] theorem State.setCur_granted (s : State) (gr : Group) : (s.setCur gr).granted = s.granted := rfl
@[simp] theorem State.setCur_faults (s : State) (gr : Group) : (s.setCur gr).faults = s.faults := rfl
@[simp] theorem State.setCur_requests (s : State) (gr : Group) : (s.setCur gr).requests = s.requests := rfl
@[simp] theorem State.setCur_mailbox (s : State) (gr : Group) : (s.setCur gr).mailbox = s.mailbox := rfl
@[simp] theorem State.setCur_out (s : State) (gr : Group) : (s.setCur gr).out = s.out := rfl
@[simp] theorem State.setCur_heldColls (s : State) (gr : Group) : (s.setCur gr).heldColls = s.heldColls := rfl
@[simp] theorem State.setCur_heldLists (s : State) (gr : Group) : (s.setCur gr).heldLists = s.heldLists := rfl
@[simp] theorem State.setCur_debugOn (s : State) (gr : Group) : (s.setCur gr).debugOn = s.debugOn := rfl
@[simp] theorem State.setCur_haltBrk (s : State) (gr : Group) : (s.setCur gr).haltBrk = s.haltBrk := rfl
@[simp] theorem State.setCur_haltWatch (s : State) (gr : Group) : (s.setCur gr).haltWatch = s.haltWatch := rfl
@[simp] theorem State.setCur_islands (s : State) (gr : Group) : (s.setCur gr).islands = s.islands := rfl
@[simp] theorem State.setCur_monitors (s : State) (gr : Group) : (s.setCur gr).monitors = s.monitors := rfl
@[simp] theorem State.setCur_fenced (s : State) (gr : Group) : (s.setCur gr).fenced = s.fenced := rfl
@[simp] theorem State.setCur_hostUp (s : State) (gr : Group) : (s.setCur gr).hostUp = s.hostUp := rfl
@[simp] theorem State.setCur_recovery (s : State) (gr : Group) : (s.setCur gr).recovery = s.recovery := rfl
@[simp] theorem State.setCur_booted (s : State) (gr : Group) : (s.setCur gr).booted = s.booted := rfl
@[simp] theorem State.setCur_powered (s : State) (gr : Group) : (s.setCur gr).powered = s.powered := rfl
@[simp] theorem State.setCur_frozen (s : State) (gr : Group) : (s.setCur gr).frozen = s.frozen := rfl
@[simp] theorem State.setCur_mregs (s : State) (gr : Group) : (s.setCur gr).mregs = s.mregs := rfl
@[simp] theorem State.setCur_flashA (s : State) (gr : Group) : (s.setCur gr).flashA = s.flashA := rfl
@[simp] theorem State.setCur_flashB (s : State) (gr : Group) : (s.setCur gr).flashB = s.flashB := rfl
@[simp] theorem State.setCur_fwVersion (s : State) (gr : Group) : (s.setCur gr).fwVersion = s.fwVersion := rfl
@[simp] theorem State.setCur_now (s : State) (gr : Group) : (s.setCur gr).now = s.now := rfl
@[simp] theorem State.setCur_cycle (s : State) (gr : Group) : (s.setCur gr).cycle = s.cycle := rfl
@[simp] theorem State.setCur_nextKey (s : State) (gr : Group) : (s.setCur gr).nextKey = s.nextKey := rfl
@[simp] theorem State.setCur_freeCtr (s : State) (gr : Group) : (s.setCur gr).freeCtr = s.freeCtr := rfl
@[simp] theorem State.setCur_agenda (s : State) (gr : Group) : (s.setCur gr).agenda = s.agenda := rfl

/-! ### `State.hold` -/

@[simp] theorem State.hold_cur (s : State) (why : Hold) : (s.hold why).cur = { s.cur with wait := .again why } := rfl
@[simp] theorem State.hold_others (s : State) (why : Hold) : (s.hold why).others = s.others := rfl
@[simp] theorem State.hold_saved (s : State) (why : Hold) : (s.hold why).saved = s.saved := rfl
@[simp] theorem State.hold_draining (s : State) (why : Hold) : (s.hold why).draining = s.draining := rfl
@[simp] theorem State.hold_serve (s : State) (why : Hold) : (s.hold why).serve = s.serve := rfl
@[simp] theorem State.hold_cohorts (s : State) (why : Hold) : (s.hold why).cohorts = s.cohorts := rfl
@[simp] theorem State.hold_launches (s : State) (why : Hold) : (s.hold why).launches = s.launches := rfl
@[simp] theorem State.hold_parts (s : State) (why : Hold) : (s.hold why).parts = s.parts := rfl
@[simp] theorem State.hold_mem (s : State) (why : Hold) : (s.hold why).mem = s.mem := rfl
@[simp] theorem State.hold_stage (s : State) (why : Hold) : (s.hold why).stage = s.stage := rfl
@[simp] theorem State.hold_absent (s : State) (why : Hold) : (s.hold why).absent = s.absent := rfl
@[simp] theorem State.hold_poison (s : State) (why : Hold) : (s.hold why).poison = s.poison := rfl
@[simp] theorem State.hold_failed (s : State) (why : Hold) : (s.hold why).failed = s.failed := rfl
@[simp] theorem State.hold_moved (s : State) (why : Hold) : (s.hold why).moved = s.moved := rfl
@[simp] theorem State.hold_replicas (s : State) (why : Hold) : (s.hold why).replicas = s.replicas := rfl
@[simp] theorem State.hold_snaps (s : State) (why : Hold) : (s.hold why).snaps = s.snaps := rfl
@[simp] theorem State.hold_l2 (s : State) (why : Hold) : (s.hold why).l2 = s.l2 := rfl
@[simp] theorem State.hold_lineTimes (s : State) (why : Hold) : (s.hold why).lineTimes = s.lineTimes := rfl
@[simp] theorem State.hold_hotPending (s : State) (why : Hold) : (s.hold why).hotPending = s.hotPending := rfl
@[simp] theorem State.hold_arrivals (s : State) (why : Hold) : (s.hold why).arrivals = s.arrivals := rfl
@[simp] theorem State.hold_shadowStore (s : State) (why : Hold) : (s.hold why).shadowStore = s.shadowStore := rfl
@[simp] theorem State.hold_hostBytes (s : State) (why : Hold) : (s.hold why).hostBytes = s.hostBytes := rfl
@[simp] theorem State.hold_peerBytes (s : State) (why : Hold) : (s.hold why).peerBytes = s.peerBytes := rfl
@[simp] theorem State.hold_peerLink (s : State) (why : Hold) : (s.hold why).peerLink = s.peerLink := rfl
@[simp] theorem State.hold_tileCfg (s : State) (why : Hold) : (s.hold why).tileCfg = s.tileCfg := rfl
@[simp] theorem State.hold_tiles (s : State) (why : Hold) : (s.hold why).tiles = s.tiles := rfl
@[simp] theorem State.hold_compand (s : State) (why : Hold) : (s.hold why).compand = s.compand := rfl
@[simp] theorem State.hold_copySlots (s : State) (why : Hold) : (s.hold why).copySlots = s.copySlots := rfl
@[simp] theorem State.hold_wloadSlots (s : State) (why : Hold) : (s.hold why).wloadSlots = s.wloadSlots := rfl
@[simp] theorem State.hold_cinsSlots (s : State) (why : Hold) : (s.hold why).cinsSlots = s.cinsSlots := rfl
@[simp] theorem State.hold_credits (s : State) (why : Hold) : (s.hold why).credits = s.credits := rfl
@[simp] theorem State.hold_watches (s : State) (why : Hold) : (s.hold why).watches = s.watches := rfl
@[simp] theorem State.hold_meets (s : State) (why : Hold) : (s.hold why).meets = s.meets := rfl
@[simp] theorem State.hold_clusters (s : State) (why : Hold) : (s.hold why).clusters = s.clusters := rfl
@[simp] theorem State.hold_lists (s : State) (why : Hold) : (s.hold why).lists = s.lists := rfl
@[simp] theorem State.hold_cycles (s : State) (why : Hold) : (s.hold why).cycles = s.cycles := rfl
@[simp] theorem State.hold_charged (s : State) (why : Hold) : (s.hold why).charged = s.charged := rfl
@[simp] theorem State.hold_granted (s : State) (why : Hold) : (s.hold why).granted = s.granted := rfl
@[simp] theorem State.hold_faults (s : State) (why : Hold) : (s.hold why).faults = s.faults := rfl
@[simp] theorem State.hold_requests (s : State) (why : Hold) : (s.hold why).requests = s.requests := rfl
@[simp] theorem State.hold_mailbox (s : State) (why : Hold) : (s.hold why).mailbox = s.mailbox := rfl
@[simp] theorem State.hold_out (s : State) (why : Hold) : (s.hold why).out = s.out := rfl
@[simp] theorem State.hold_heldColls (s : State) (why : Hold) : (s.hold why).heldColls = s.heldColls := rfl
@[simp] theorem State.hold_heldLists (s : State) (why : Hold) : (s.hold why).heldLists = s.heldLists := rfl
@[simp] theorem State.hold_debugOn (s : State) (why : Hold) : (s.hold why).debugOn = s.debugOn := rfl
@[simp] theorem State.hold_haltBrk (s : State) (why : Hold) : (s.hold why).haltBrk = s.haltBrk := rfl
@[simp] theorem State.hold_haltWatch (s : State) (why : Hold) : (s.hold why).haltWatch = s.haltWatch := rfl
@[simp] theorem State.hold_islands (s : State) (why : Hold) : (s.hold why).islands = s.islands := rfl
@[simp] theorem State.hold_monitors (s : State) (why : Hold) : (s.hold why).monitors = s.monitors := rfl
@[simp] theorem State.hold_fenced (s : State) (why : Hold) : (s.hold why).fenced = s.fenced := rfl
@[simp] theorem State.hold_hostUp (s : State) (why : Hold) : (s.hold why).hostUp = s.hostUp := rfl
@[simp] theorem State.hold_recovery (s : State) (why : Hold) : (s.hold why).recovery = s.recovery := rfl
@[simp] theorem State.hold_booted (s : State) (why : Hold) : (s.hold why).booted = s.booted := rfl
@[simp] theorem State.hold_powered (s : State) (why : Hold) : (s.hold why).powered = s.powered := rfl
@[simp] theorem State.hold_frozen (s : State) (why : Hold) : (s.hold why).frozen = s.frozen := rfl
@[simp] theorem State.hold_mregs (s : State) (why : Hold) : (s.hold why).mregs = s.mregs := rfl
@[simp] theorem State.hold_flashA (s : State) (why : Hold) : (s.hold why).flashA = s.flashA := rfl
@[simp] theorem State.hold_flashB (s : State) (why : Hold) : (s.hold why).flashB = s.flashB := rfl
@[simp] theorem State.hold_fwVersion (s : State) (why : Hold) : (s.hold why).fwVersion = s.fwVersion := rfl
@[simp] theorem State.hold_now (s : State) (why : Hold) : (s.hold why).now = s.now := rfl
@[simp] theorem State.hold_cycle (s : State) (why : Hold) : (s.hold why).cycle = s.cycle := rfl
@[simp] theorem State.hold_nextKey (s : State) (why : Hold) : (s.hold why).nextKey = s.nextKey := rfl
@[simp] theorem State.hold_freeCtr (s : State) (why : Hold) : (s.hold why).freeCtr = s.freeCtr := rfl
@[simp] theorem State.hold_agenda (s : State) (why : Hold) : (s.hold why).agenda = s.agenda := rfl

/-! ### `Group.setV` -/

@[simp] theorem Group.setV_key (gr : Group) (r : Reg) (m : Mask) (x : LaneVec) : (gr.setV r m x).key = gr.key := rfl
@[simp] theorem Group.setV_live (gr : Group) (r : Reg) (m : Mask) (x : LaneVec) : (gr.setV r m x).live = gr.live := rfl
@[simp] theorem Group.setV_part (gr : Group) (r : Reg) (m : Mask) (x : LaneVec) : (gr.setV r m x).part = gr.part := rfl
@[simp] theorem Group.setV_cohort (gr : Group) (r : Reg) (m : Mask) (x : LaneVec) : (gr.setV r m x).cohort = gr.cohort := rfl
@[simp] theorem Group.setV_core (gr : Group) (r : Reg) (m : Mask) (x : LaneVec) : (gr.setV r m x).core = gr.core := rfl
@[simp] theorem Group.setV_slot (gr : Group) (r : Reg) (m : Mask) (x : LaneVec) : (gr.setV r m x).slot = gr.slot := rfl
@[simp] theorem Group.setV_octet (gr : Group) (r : Reg) (m : Mask) (x : LaneVec) : (gr.setV r m x).octet = gr.octet := rfl
@[simp] theorem Group.setV_width (gr : Group) (r : Reg) (m : Mask) (x : LaneVec) : (gr.setV r m x).width = gr.width := rfl
@[simp] theorem Group.setV_cid (gr : Group) (r : Reg) (m : Mask) (x : LaneVec) : (gr.setV r m x).cid = gr.cid := rfl
@[simp] theorem Group.setV_gid (gr : Group) (r : Reg) (m : Mask) (x : LaneVec) : (gr.setV r m x).gid = gr.gid := rfl
@[simp] theorem Group.setV_xregs (gr : Group) (r : Reg) (m : Mask) (x : LaneVec) : (gr.setV r m x).xregs = gr.xregs := rfl
@[simp] theorem Group.setV_xwords (gr : Group) (r : Reg) (m : Mask) (x : LaneVec) : (gr.setV r m x).xwords = gr.xwords := rfl
@[simp] theorem Group.setV_g (gr : Group) (r : Reg) (m : Mask) (x : LaneVec) : (gr.setV r m x).g = gr.g := rfl
@[simp] theorem Group.setV_p (gr : Group) (r : Reg) (m : Mask) (x : LaneVec) : (gr.setV r m x).p = gr.p := rfl
@[simp] theorem Group.setV_c (gr : Group) (r : Reg) (m : Mask) (x : LaneVec) : (gr.setV r m x).c = gr.c := rfl
@[simp] theorem Group.setV_s0 (gr : Group) (r : Reg) (m : Mask) (x : LaneVec) : (gr.setV r m x).s0 = gr.s0 := rfl
@[simp] theorem Group.setV_s1 (gr : Group) (r : Reg) (m : Mask) (x : LaneVec) : (gr.setV r m x).s1 = gr.s1 := rfl
@[simp] theorem Group.setV_current (gr : Group) (r : Reg) (m : Mask) (x : LaneVec) : (gr.setV r m x).current = gr.current := rfl
@[simp] theorem Group.setV_issuing (gr : Group) (r : Reg) (m : Mask) (x : LaneVec) : (gr.setV r m x).issuing = gr.issuing := rfl
@[simp] theorem Group.setV_count (gr : Group) (r : Reg) (m : Mask) (x : LaneVec) : (gr.setV r m x).count = gr.count := rfl
@[simp] theorem Group.setV_quantum (gr : Group) (r : Reg) (m : Mask) (x : LaneVec) : (gr.setV r m x).quantum = gr.quantum := rfl
@[simp] theorem Group.setV_xm (gr : Group) (r : Reg) (m : Mask) (x : LaneVec) : (gr.setV r m x).xm = gr.xm := rfl
@[simp] theorem Group.setV_pathq (gr : Group) (r : Reg) (m : Mask) (x : LaneVec) : (gr.setV r m x).pathq = gr.pathq := rfl
@[simp] theorem Group.setV_rvsb (gr : Group) (r : Reg) (m : Mask) (x : LaneVec) : (gr.setV r m x).rvsb = gr.rvsb := rfl
@[simp] theorem Group.setV_rvcap (gr : Group) (r : Reg) (m : Mask) (x : LaneVec) : (gr.setV r m x).rvcap = gr.rvcap := rfl
@[simp] theorem Group.setV_rvdepth (gr : Group) (r : Reg) (m : Mask) (x : LaneVec) : (gr.setV r m x).rvdepth = gr.rvdepth := rfl
@[simp] theorem Group.setV_reserve (gr : Group) (r : Reg) (m : Mask) (x : LaneVec) : (gr.setV r m x).reserve = gr.reserve := rfl
@[simp] theorem Group.setV_horizon (gr : Group) (r : Reg) (m : Mask) (x : LaneVec) : (gr.setV r m x).horizon = gr.horizon := rfl
@[simp] theorem Group.setV_fsr (gr : Group) (r : Reg) (m : Mask) (x : LaneVec) : (gr.setV r m x).fsr = gr.fsr := rfl
@[simp] theorem Group.setV_mxc (gr : Group) (r : Reg) (m : Mask) (x : LaneVec) : (gr.setV r m x).mxc = gr.mxc := rfl
@[simp] theorem Group.setV_prio (gr : Group) (r : Reg) (m : Mask) (x : LaneVec) : (gr.setV r m x).prio = gr.prio := rfl
@[simp] theorem Group.setV_prioCap (gr : Group) (r : Reg) (m : Mask) (x : LaneVec) : (gr.setV r m x).prioCap = gr.prioCap := rfl
@[simp] theorem Group.setV_roleNone (gr : Group) (r : Reg) (m : Mask) (x : LaneVec) : (gr.setV r m x).roleNone = gr.roleNone := rfl
@[simp] theorem Group.setV_roleIdx (gr : Group) (r : Reg) (m : Mask) (x : LaneVec) : (gr.setV r m x).roleIdx = gr.roleIdx := rfl
@[simp] theorem Group.setV_trapv (gr : Group) (r : Reg) (m : Mask) (x : LaneVec) : (gr.setV r m x).trapv = gr.trapv := rfl
@[simp] theorem Group.setV_trapc (gr : Group) (r : Reg) (m : Mask) (x : LaneVec) : (gr.setV r m x).trapc = gr.trapc := rfl
@[simp] theorem Group.setV_trapa (gr : Group) (r : Reg) (m : Mask) (x : LaneVec) : (gr.setV r m x).trapa = gr.trapa := rfl
@[simp] theorem Group.setV_trapm (gr : Group) (r : Reg) (m : Mask) (x : LaneVec) : (gr.setV r m x).trapm = gr.trapm := rfl
@[simp] theorem Group.setV_sect (gr : Group) (r : Reg) (m : Mask) (x : LaneVec) : (gr.setV r m x).sect = gr.sect := rfl
@[simp] theorem Group.setV_stgFirst (gr : Group) (r : Reg) (m : Mask) (x : LaneVec) : (gr.setV r m x).stgFirst = gr.stgFirst := rfl
@[simp] theorem Group.setV_stgLines (gr : Group) (r : Reg) (m : Mask) (x : LaneVec) : (gr.setV r m x).stgLines = gr.stgLines := rfl
@[simp] theorem Group.setV_tileBase (gr : Group) (r : Reg) (m : Mask) (x : LaneVec) : (gr.setV r m x).tileBase = gr.tileBase := rfl
@[simp] theorem Group.setV_tileCount (gr : Group) (r : Reg) (m : Mask) (x : LaneVec) : (gr.setV r m x).tileCount = gr.tileCount := rfl
@[simp] theorem Group.setV_pend (gr : Group) (r : Reg) (m : Mask) (x : LaneVec) : (gr.setV r m x).pend = gr.pend := rfl
@[simp] theorem Group.setV_iters (gr : Group) (r : Reg) (m : Mask) (x : LaneVec) : (gr.setV r m x).iters = gr.iters := rfl
@[simp] theorem Group.setV_ports (gr : Group) (r : Reg) (m : Mask) (x : LaneVec) : (gr.setV r m x).ports = gr.ports := rfl
@[simp] theorem Group.setV_pushes (gr : Group) (r : Reg) (m : Mask) (x : LaneVec) : (gr.setV r m x).pushes = gr.pushes := rfl
@[simp] theorem Group.setV_sections (gr : Group) (r : Reg) (m : Mask) (x : LaneVec) : (gr.setV r m x).sections = gr.sections := rfl
@[simp] theorem Group.setV_owed (gr : Group) (r : Reg) (m : Mask) (x : LaneVec) : (gr.setV r m x).owed = gr.owed := rfl
@[simp] theorem Group.setV_returns (gr : Group) (r : Reg) (m : Mask) (x : LaneVec) : (gr.setV r m x).returns = gr.returns := rfl
@[simp] theorem Group.setV_wait (gr : Group) (r : Reg) (m : Mask) (x : LaneVec) : (gr.setV r m x).wait = gr.wait := rfl
@[simp] theorem Group.setV_unfinished (gr : Group) (r : Reg) (m : Mask) (x : LaneVec) : (gr.setV r m x).unfinished = gr.unfinished := rfl
@[simp] theorem Group.setV_held (gr : Group) (r : Reg) (m : Mask) (x : LaneVec) : (gr.setV r m x).held = gr.held := rfl
@[simp] theorem Group.setV_watched (gr : Group) (r : Reg) (m : Mask) (x : LaneVec) : (gr.setV r m x).watched = gr.watched := rfl
@[simp] theorem Group.setV_pendingTrap (gr : Group) (r : Reg) (m : Mask) (x : LaneVec) : (gr.setV r m x).pendingTrap = gr.pendingTrap := rfl
@[simp] theorem Group.setV_codebase (gr : Group) (r : Reg) (m : Mask) (x : LaneVec) : (gr.setV r m x).codebase = gr.codebase := rfl
@[simp] theorem Group.setV_ranges (gr : Group) (r : Reg) (m : Mask) (x : LaneVec) : (gr.setV r m x).ranges = gr.ranges := rfl
@[simp] theorem Group.setV_chain (gr : Group) (r : Reg) (m : Mask) (x : LaneVec) : (gr.setV r m x).chain = gr.chain := rfl
@[simp] theorem Group.setV_roletab (gr : Group) (r : Reg) (m : Mask) (x : LaneVec) : (gr.setV r m x).roletab = gr.roletab := rfl
@[simp] theorem Group.setV_rolecnt (gr : Group) (r : Reg) (m : Mask) (x : LaneVec) : (gr.setV r m x).rolecnt = gr.rolecnt := rfl
@[simp] theorem Group.setV_faultdom (gr : Group) (r : Reg) (m : Mask) (x : LaneVec) : (gr.setV r m x).faultdom = gr.faultdom := rfl
@[simp] theorem Group.setV_quotas (gr : Group) (r : Reg) (m : Mask) (x : LaneVec) : (gr.setV r m x).quotas = gr.quotas := rfl
@[simp] theorem Group.setV_lrr (gr : Group) (r : Reg) (m : Mask) (x : LaneVec) : (gr.setV r m x).lrr = gr.lrr := rfl
@[simp] theorem Group.setV_age (gr : Group) (r : Reg) (m : Mask) (x : LaneVec) : (gr.setV r m x).age = gr.age := rfl
@[simp] theorem Group.setV_lastIssue (gr : Group) (r : Reg) (m : Mask) (x : LaneVec) : (gr.setV r m x).lastIssue = gr.lastIssue := rfl
@[simp] theorem Group.setV_since (gr : Group) (r : Reg) (m : Mask) (x : LaneVec) : (gr.setV r m x).since = gr.since := rfl
@[simp] theorem Group.setV_agedAt (gr : Group) (r : Reg) (m : Mask) (x : LaneVec) : (gr.setV r m x).agedAt = gr.agedAt := rfl
@[simp] theorem Group.setV_halted (gr : Group) (r : Reg) (m : Mask) (x : LaneVec) : (gr.setV r m x).halted = gr.halted := rfl
@[simp] theorem Group.setV_stepping (gr : Group) (r : Reg) (m : Mask) (x : LaneVec) : (gr.setV r m x).stepping = gr.stepping := rfl
@[simp] theorem Group.setV_late (gr : Group) (r : Reg) (m : Mask) (x : LaneVec) : (gr.setV r m x).late = gr.late := rfl
@[simp] theorem Group.setV_resume (gr : Group) (r : Reg) (m : Mask) (x : LaneVec) : (gr.setV r m x).resume = gr.resume := rfl
@[simp] theorem Group.setV_yielded (gr : Group) (r : Reg) (m : Mask) (x : LaneVec) : (gr.setV r m x).yielded = gr.yielded := rfl
@[simp] theorem Group.setV_drain (gr : Group) (r : Reg) (m : Mask) (x : LaneVec) : (gr.setV r m x).drain = gr.drain := rfl

/-! ### `Group.setG` -/

@[simp] theorem Group.setG_key (gr : Group) (r : Reg) (w : Word) : (gr.setG r w).key = gr.key := rfl
@[simp] theorem Group.setG_live (gr : Group) (r : Reg) (w : Word) : (gr.setG r w).live = gr.live := rfl
@[simp] theorem Group.setG_part (gr : Group) (r : Reg) (w : Word) : (gr.setG r w).part = gr.part := rfl
@[simp] theorem Group.setG_cohort (gr : Group) (r : Reg) (w : Word) : (gr.setG r w).cohort = gr.cohort := rfl
@[simp] theorem Group.setG_core (gr : Group) (r : Reg) (w : Word) : (gr.setG r w).core = gr.core := rfl
@[simp] theorem Group.setG_slot (gr : Group) (r : Reg) (w : Word) : (gr.setG r w).slot = gr.slot := rfl
@[simp] theorem Group.setG_octet (gr : Group) (r : Reg) (w : Word) : (gr.setG r w).octet = gr.octet := rfl
@[simp] theorem Group.setG_width (gr : Group) (r : Reg) (w : Word) : (gr.setG r w).width = gr.width := rfl
@[simp] theorem Group.setG_cid (gr : Group) (r : Reg) (w : Word) : (gr.setG r w).cid = gr.cid := rfl
@[simp] theorem Group.setG_gid (gr : Group) (r : Reg) (w : Word) : (gr.setG r w).gid = gr.gid := rfl
@[simp] theorem Group.setG_v (gr : Group) (r : Reg) (w : Word) : (gr.setG r w).v = gr.v := rfl
@[simp] theorem Group.setG_xregs (gr : Group) (r : Reg) (w : Word) : (gr.setG r w).xregs = gr.xregs := rfl
@[simp] theorem Group.setG_xwords (gr : Group) (r : Reg) (w : Word) : (gr.setG r w).xwords = gr.xwords := rfl
@[simp] theorem Group.setG_g (gr : Group) (r : Reg) (w : Word) : (gr.setG r w).g = gr.g.setIfInBounds (r.toNat - 96) w := rfl
@[simp] theorem Group.setG_p (gr : Group) (r : Reg) (w : Word) : (gr.setG r w).p = gr.p := rfl
@[simp] theorem Group.setG_c (gr : Group) (r : Reg) (w : Word) : (gr.setG r w).c = gr.c := rfl
@[simp] theorem Group.setG_s0 (gr : Group) (r : Reg) (w : Word) : (gr.setG r w).s0 = gr.s0 := rfl
@[simp] theorem Group.setG_s1 (gr : Group) (r : Reg) (w : Word) : (gr.setG r w).s1 = gr.s1 := rfl
@[simp] theorem Group.setG_current (gr : Group) (r : Reg) (w : Word) : (gr.setG r w).current = gr.current := rfl
@[simp] theorem Group.setG_issuing (gr : Group) (r : Reg) (w : Word) : (gr.setG r w).issuing = gr.issuing := rfl
@[simp] theorem Group.setG_count (gr : Group) (r : Reg) (w : Word) : (gr.setG r w).count = gr.count := rfl
@[simp] theorem Group.setG_quantum (gr : Group) (r : Reg) (w : Word) : (gr.setG r w).quantum = gr.quantum := rfl
@[simp] theorem Group.setG_xm (gr : Group) (r : Reg) (w : Word) : (gr.setG r w).xm = gr.xm := rfl
@[simp] theorem Group.setG_pathq (gr : Group) (r : Reg) (w : Word) : (gr.setG r w).pathq = gr.pathq := rfl
@[simp] theorem Group.setG_rvsb (gr : Group) (r : Reg) (w : Word) : (gr.setG r w).rvsb = gr.rvsb := rfl
@[simp] theorem Group.setG_rvcap (gr : Group) (r : Reg) (w : Word) : (gr.setG r w).rvcap = gr.rvcap := rfl
@[simp] theorem Group.setG_rvdepth (gr : Group) (r : Reg) (w : Word) : (gr.setG r w).rvdepth = gr.rvdepth := rfl
@[simp] theorem Group.setG_reserve (gr : Group) (r : Reg) (w : Word) : (gr.setG r w).reserve = gr.reserve := rfl
@[simp] theorem Group.setG_horizon (gr : Group) (r : Reg) (w : Word) : (gr.setG r w).horizon = gr.horizon := rfl
@[simp] theorem Group.setG_fsr (gr : Group) (r : Reg) (w : Word) : (gr.setG r w).fsr = gr.fsr := rfl
@[simp] theorem Group.setG_mxc (gr : Group) (r : Reg) (w : Word) : (gr.setG r w).mxc = gr.mxc := rfl
@[simp] theorem Group.setG_prio (gr : Group) (r : Reg) (w : Word) : (gr.setG r w).prio = gr.prio := rfl
@[simp] theorem Group.setG_prioCap (gr : Group) (r : Reg) (w : Word) : (gr.setG r w).prioCap = gr.prioCap := rfl
@[simp] theorem Group.setG_roleNone (gr : Group) (r : Reg) (w : Word) : (gr.setG r w).roleNone = gr.roleNone := rfl
@[simp] theorem Group.setG_roleIdx (gr : Group) (r : Reg) (w : Word) : (gr.setG r w).roleIdx = gr.roleIdx := rfl
@[simp] theorem Group.setG_trapv (gr : Group) (r : Reg) (w : Word) : (gr.setG r w).trapv = gr.trapv := rfl
@[simp] theorem Group.setG_trapc (gr : Group) (r : Reg) (w : Word) : (gr.setG r w).trapc = gr.trapc := rfl
@[simp] theorem Group.setG_trapa (gr : Group) (r : Reg) (w : Word) : (gr.setG r w).trapa = gr.trapa := rfl
@[simp] theorem Group.setG_trapm (gr : Group) (r : Reg) (w : Word) : (gr.setG r w).trapm = gr.trapm := rfl
@[simp] theorem Group.setG_sect (gr : Group) (r : Reg) (w : Word) : (gr.setG r w).sect = gr.sect := rfl
@[simp] theorem Group.setG_stgFirst (gr : Group) (r : Reg) (w : Word) : (gr.setG r w).stgFirst = gr.stgFirst := rfl
@[simp] theorem Group.setG_stgLines (gr : Group) (r : Reg) (w : Word) : (gr.setG r w).stgLines = gr.stgLines := rfl
@[simp] theorem Group.setG_tileBase (gr : Group) (r : Reg) (w : Word) : (gr.setG r w).tileBase = gr.tileBase := rfl
@[simp] theorem Group.setG_tileCount (gr : Group) (r : Reg) (w : Word) : (gr.setG r w).tileCount = gr.tileCount := rfl
@[simp] theorem Group.setG_pend (gr : Group) (r : Reg) (w : Word) : (gr.setG r w).pend = gr.pend &&& ~~~(1#16 <<< gPair r) := rfl
@[simp] theorem Group.setG_iters (gr : Group) (r : Reg) (w : Word) : (gr.setG r w).iters = gr.iters := rfl
@[simp] theorem Group.setG_ports (gr : Group) (r : Reg) (w : Word) : (gr.setG r w).ports = gr.ports := rfl
@[simp] theorem Group.setG_pushes (gr : Group) (r : Reg) (w : Word) : (gr.setG r w).pushes = gr.pushes := rfl
@[simp] theorem Group.setG_sections (gr : Group) (r : Reg) (w : Word) : (gr.setG r w).sections = gr.sections := rfl
@[simp] theorem Group.setG_owed (gr : Group) (r : Reg) (w : Word) : (gr.setG r w).owed = gr.owed := rfl
@[simp] theorem Group.setG_returns (gr : Group) (r : Reg) (w : Word) : (gr.setG r w).returns = gr.returns := rfl
@[simp] theorem Group.setG_wait (gr : Group) (r : Reg) (w : Word) : (gr.setG r w).wait = gr.wait := rfl
@[simp] theorem Group.setG_unfinished (gr : Group) (r : Reg) (w : Word) : (gr.setG r w).unfinished = gr.unfinished := rfl
@[simp] theorem Group.setG_held (gr : Group) (r : Reg) (w : Word) : (gr.setG r w).held = gr.held := rfl
@[simp] theorem Group.setG_watched (gr : Group) (r : Reg) (w : Word) : (gr.setG r w).watched = gr.watched := rfl
@[simp] theorem Group.setG_pendingTrap (gr : Group) (r : Reg) (w : Word) : (gr.setG r w).pendingTrap = gr.pendingTrap := rfl
@[simp] theorem Group.setG_codebase (gr : Group) (r : Reg) (w : Word) : (gr.setG r w).codebase = gr.codebase := rfl
@[simp] theorem Group.setG_ranges (gr : Group) (r : Reg) (w : Word) : (gr.setG r w).ranges = gr.ranges := rfl
@[simp] theorem Group.setG_chain (gr : Group) (r : Reg) (w : Word) : (gr.setG r w).chain = gr.chain := rfl
@[simp] theorem Group.setG_roletab (gr : Group) (r : Reg) (w : Word) : (gr.setG r w).roletab = gr.roletab := rfl
@[simp] theorem Group.setG_rolecnt (gr : Group) (r : Reg) (w : Word) : (gr.setG r w).rolecnt = gr.rolecnt := rfl
@[simp] theorem Group.setG_faultdom (gr : Group) (r : Reg) (w : Word) : (gr.setG r w).faultdom = gr.faultdom := rfl
@[simp] theorem Group.setG_quotas (gr : Group) (r : Reg) (w : Word) : (gr.setG r w).quotas = gr.quotas := rfl
@[simp] theorem Group.setG_lrr (gr : Group) (r : Reg) (w : Word) : (gr.setG r w).lrr = gr.lrr := rfl
@[simp] theorem Group.setG_age (gr : Group) (r : Reg) (w : Word) : (gr.setG r w).age = gr.age := rfl
@[simp] theorem Group.setG_lastIssue (gr : Group) (r : Reg) (w : Word) : (gr.setG r w).lastIssue = gr.lastIssue := rfl
@[simp] theorem Group.setG_since (gr : Group) (r : Reg) (w : Word) : (gr.setG r w).since = gr.since := rfl
@[simp] theorem Group.setG_agedAt (gr : Group) (r : Reg) (w : Word) : (gr.setG r w).agedAt = gr.agedAt := rfl
@[simp] theorem Group.setG_halted (gr : Group) (r : Reg) (w : Word) : (gr.setG r w).halted = gr.halted := rfl
@[simp] theorem Group.setG_stepping (gr : Group) (r : Reg) (w : Word) : (gr.setG r w).stepping = gr.stepping := rfl
@[simp] theorem Group.setG_late (gr : Group) (r : Reg) (w : Word) : (gr.setG r w).late = gr.late := rfl
@[simp] theorem Group.setG_resume (gr : Group) (r : Reg) (w : Word) : (gr.setG r w).resume = gr.resume := rfl
@[simp] theorem Group.setG_yielded (gr : Group) (r : Reg) (w : Word) : (gr.setG r w).yielded = gr.yielded := rfl
@[simp] theorem Group.setG_drain (gr : Group) (r : Reg) (w : Word) : (gr.setG r w).drain = gr.drain := rfl

/-! ### `Group.setPred` -/

@[simp] theorem Group.setPred_key (gr : Group) (n : BitVec 3) (m x : Mask) : (gr.setPred n m x).key = gr.key := by unfold Group.setPred; split <;> rfl
@[simp] theorem Group.setPred_live (gr : Group) (n : BitVec 3) (m x : Mask) : (gr.setPred n m x).live = gr.live := by unfold Group.setPred; split <;> rfl
@[simp] theorem Group.setPred_part (gr : Group) (n : BitVec 3) (m x : Mask) : (gr.setPred n m x).part = gr.part := by unfold Group.setPred; split <;> rfl
@[simp] theorem Group.setPred_cohort (gr : Group) (n : BitVec 3) (m x : Mask) : (gr.setPred n m x).cohort = gr.cohort := by unfold Group.setPred; split <;> rfl
@[simp] theorem Group.setPred_core (gr : Group) (n : BitVec 3) (m x : Mask) : (gr.setPred n m x).core = gr.core := by unfold Group.setPred; split <;> rfl
@[simp] theorem Group.setPred_slot (gr : Group) (n : BitVec 3) (m x : Mask) : (gr.setPred n m x).slot = gr.slot := by unfold Group.setPred; split <;> rfl
@[simp] theorem Group.setPred_octet (gr : Group) (n : BitVec 3) (m x : Mask) : (gr.setPred n m x).octet = gr.octet := by unfold Group.setPred; split <;> rfl
@[simp] theorem Group.setPred_width (gr : Group) (n : BitVec 3) (m x : Mask) : (gr.setPred n m x).width = gr.width := by unfold Group.setPred; split <;> rfl
@[simp] theorem Group.setPred_cid (gr : Group) (n : BitVec 3) (m x : Mask) : (gr.setPred n m x).cid = gr.cid := by unfold Group.setPred; split <;> rfl
@[simp] theorem Group.setPred_gid (gr : Group) (n : BitVec 3) (m x : Mask) : (gr.setPred n m x).gid = gr.gid := by unfold Group.setPred; split <;> rfl
@[simp] theorem Group.setPred_v (gr : Group) (n : BitVec 3) (m x : Mask) : (gr.setPred n m x).v = gr.v := by unfold Group.setPred; split <;> rfl
@[simp] theorem Group.setPred_xregs (gr : Group) (n : BitVec 3) (m x : Mask) : (gr.setPred n m x).xregs = gr.xregs := by unfold Group.setPred; split <;> rfl
@[simp] theorem Group.setPred_xwords (gr : Group) (n : BitVec 3) (m x : Mask) : (gr.setPred n m x).xwords = gr.xwords := by unfold Group.setPred; split <;> rfl
@[simp] theorem Group.setPred_g (gr : Group) (n : BitVec 3) (m x : Mask) : (gr.setPred n m x).g = gr.g := by unfold Group.setPred; split <;> rfl
@[simp] theorem Group.setPred_c (gr : Group) (n : BitVec 3) (m x : Mask) : (gr.setPred n m x).c = gr.c := by unfold Group.setPred; split <;> rfl
@[simp] theorem Group.setPred_s0 (gr : Group) (n : BitVec 3) (m x : Mask) : (gr.setPred n m x).s0 = gr.s0 := by unfold Group.setPred; split <;> rfl
@[simp] theorem Group.setPred_s1 (gr : Group) (n : BitVec 3) (m x : Mask) : (gr.setPred n m x).s1 = gr.s1 := by unfold Group.setPred; split <;> rfl
@[simp] theorem Group.setPred_current (gr : Group) (n : BitVec 3) (m x : Mask) : (gr.setPred n m x).current = gr.current := by unfold Group.setPred; split <;> rfl
@[simp] theorem Group.setPred_issuing (gr : Group) (n : BitVec 3) (m x : Mask) : (gr.setPred n m x).issuing = gr.issuing := by unfold Group.setPred; split <;> rfl
@[simp] theorem Group.setPred_count (gr : Group) (n : BitVec 3) (m x : Mask) : (gr.setPred n m x).count = gr.count := by unfold Group.setPred; split <;> rfl
@[simp] theorem Group.setPred_quantum (gr : Group) (n : BitVec 3) (m x : Mask) : (gr.setPred n m x).quantum = gr.quantum := by unfold Group.setPred; split <;> rfl
@[simp] theorem Group.setPred_xm (gr : Group) (n : BitVec 3) (m x : Mask) : (gr.setPred n m x).xm = gr.xm := by unfold Group.setPred; split <;> rfl
@[simp] theorem Group.setPred_pathq (gr : Group) (n : BitVec 3) (m x : Mask) : (gr.setPred n m x).pathq = gr.pathq := by unfold Group.setPred; split <;> rfl
@[simp] theorem Group.setPred_rvsb (gr : Group) (n : BitVec 3) (m x : Mask) : (gr.setPred n m x).rvsb = gr.rvsb := by unfold Group.setPred; split <;> rfl
@[simp] theorem Group.setPred_rvcap (gr : Group) (n : BitVec 3) (m x : Mask) : (gr.setPred n m x).rvcap = gr.rvcap := by unfold Group.setPred; split <;> rfl
@[simp] theorem Group.setPred_rvdepth (gr : Group) (n : BitVec 3) (m x : Mask) : (gr.setPred n m x).rvdepth = gr.rvdepth := by unfold Group.setPred; split <;> rfl
@[simp] theorem Group.setPred_reserve (gr : Group) (n : BitVec 3) (m x : Mask) : (gr.setPred n m x).reserve = gr.reserve := by unfold Group.setPred; split <;> rfl
@[simp] theorem Group.setPred_horizon (gr : Group) (n : BitVec 3) (m x : Mask) : (gr.setPred n m x).horizon = gr.horizon := by unfold Group.setPred; split <;> rfl
@[simp] theorem Group.setPred_fsr (gr : Group) (n : BitVec 3) (m x : Mask) : (gr.setPred n m x).fsr = gr.fsr := by unfold Group.setPred; split <;> rfl
@[simp] theorem Group.setPred_mxc (gr : Group) (n : BitVec 3) (m x : Mask) : (gr.setPred n m x).mxc = gr.mxc := by unfold Group.setPred; split <;> rfl
@[simp] theorem Group.setPred_prio (gr : Group) (n : BitVec 3) (m x : Mask) : (gr.setPred n m x).prio = gr.prio := by unfold Group.setPred; split <;> rfl
@[simp] theorem Group.setPred_prioCap (gr : Group) (n : BitVec 3) (m x : Mask) : (gr.setPred n m x).prioCap = gr.prioCap := by unfold Group.setPred; split <;> rfl
@[simp] theorem Group.setPred_roleNone (gr : Group) (n : BitVec 3) (m x : Mask) : (gr.setPred n m x).roleNone = gr.roleNone := by unfold Group.setPred; split <;> rfl
@[simp] theorem Group.setPred_roleIdx (gr : Group) (n : BitVec 3) (m x : Mask) : (gr.setPred n m x).roleIdx = gr.roleIdx := by unfold Group.setPred; split <;> rfl
@[simp] theorem Group.setPred_trapv (gr : Group) (n : BitVec 3) (m x : Mask) : (gr.setPred n m x).trapv = gr.trapv := by unfold Group.setPred; split <;> rfl
@[simp] theorem Group.setPred_trapc (gr : Group) (n : BitVec 3) (m x : Mask) : (gr.setPred n m x).trapc = gr.trapc := by unfold Group.setPred; split <;> rfl
@[simp] theorem Group.setPred_trapa (gr : Group) (n : BitVec 3) (m x : Mask) : (gr.setPred n m x).trapa = gr.trapa := by unfold Group.setPred; split <;> rfl
@[simp] theorem Group.setPred_trapm (gr : Group) (n : BitVec 3) (m x : Mask) : (gr.setPred n m x).trapm = gr.trapm := by unfold Group.setPred; split <;> rfl
@[simp] theorem Group.setPred_sect (gr : Group) (n : BitVec 3) (m x : Mask) : (gr.setPred n m x).sect = gr.sect := by unfold Group.setPred; split <;> rfl
@[simp] theorem Group.setPred_stgFirst (gr : Group) (n : BitVec 3) (m x : Mask) : (gr.setPred n m x).stgFirst = gr.stgFirst := by unfold Group.setPred; split <;> rfl
@[simp] theorem Group.setPred_stgLines (gr : Group) (n : BitVec 3) (m x : Mask) : (gr.setPred n m x).stgLines = gr.stgLines := by unfold Group.setPred; split <;> rfl
@[simp] theorem Group.setPred_tileBase (gr : Group) (n : BitVec 3) (m x : Mask) : (gr.setPred n m x).tileBase = gr.tileBase := by unfold Group.setPred; split <;> rfl
@[simp] theorem Group.setPred_tileCount (gr : Group) (n : BitVec 3) (m x : Mask) : (gr.setPred n m x).tileCount = gr.tileCount := by unfold Group.setPred; split <;> rfl
@[simp] theorem Group.setPred_pend (gr : Group) (n : BitVec 3) (m x : Mask) : (gr.setPred n m x).pend = gr.pend := by unfold Group.setPred; split <;> rfl
@[simp] theorem Group.setPred_iters (gr : Group) (n : BitVec 3) (m x : Mask) : (gr.setPred n m x).iters = gr.iters := by unfold Group.setPred; split <;> rfl
@[simp] theorem Group.setPred_ports (gr : Group) (n : BitVec 3) (m x : Mask) : (gr.setPred n m x).ports = gr.ports := by unfold Group.setPred; split <;> rfl
@[simp] theorem Group.setPred_pushes (gr : Group) (n : BitVec 3) (m x : Mask) : (gr.setPred n m x).pushes = gr.pushes := by unfold Group.setPred; split <;> rfl
@[simp] theorem Group.setPred_sections (gr : Group) (n : BitVec 3) (m x : Mask) : (gr.setPred n m x).sections = gr.sections := by unfold Group.setPred; split <;> rfl
@[simp] theorem Group.setPred_owed (gr : Group) (n : BitVec 3) (m x : Mask) : (gr.setPred n m x).owed = gr.owed := by unfold Group.setPred; split <;> rfl
@[simp] theorem Group.setPred_returns (gr : Group) (n : BitVec 3) (m x : Mask) : (gr.setPred n m x).returns = gr.returns := by unfold Group.setPred; split <;> rfl
@[simp] theorem Group.setPred_wait (gr : Group) (n : BitVec 3) (m x : Mask) : (gr.setPred n m x).wait = gr.wait := by unfold Group.setPred; split <;> rfl
@[simp] theorem Group.setPred_unfinished (gr : Group) (n : BitVec 3) (m x : Mask) : (gr.setPred n m x).unfinished = gr.unfinished := by unfold Group.setPred; split <;> rfl
@[simp] theorem Group.setPred_held (gr : Group) (n : BitVec 3) (m x : Mask) : (gr.setPred n m x).held = gr.held := by unfold Group.setPred; split <;> rfl
@[simp] theorem Group.setPred_watched (gr : Group) (n : BitVec 3) (m x : Mask) : (gr.setPred n m x).watched = gr.watched := by unfold Group.setPred; split <;> rfl
@[simp] theorem Group.setPred_pendingTrap (gr : Group) (n : BitVec 3) (m x : Mask) : (gr.setPred n m x).pendingTrap = gr.pendingTrap := by unfold Group.setPred; split <;> rfl
@[simp] theorem Group.setPred_codebase (gr : Group) (n : BitVec 3) (m x : Mask) : (gr.setPred n m x).codebase = gr.codebase := by unfold Group.setPred; split <;> rfl
@[simp] theorem Group.setPred_ranges (gr : Group) (n : BitVec 3) (m x : Mask) : (gr.setPred n m x).ranges = gr.ranges := by unfold Group.setPred; split <;> rfl
@[simp] theorem Group.setPred_chain (gr : Group) (n : BitVec 3) (m x : Mask) : (gr.setPred n m x).chain = gr.chain := by unfold Group.setPred; split <;> rfl
@[simp] theorem Group.setPred_roletab (gr : Group) (n : BitVec 3) (m x : Mask) : (gr.setPred n m x).roletab = gr.roletab := by unfold Group.setPred; split <;> rfl
@[simp] theorem Group.setPred_rolecnt (gr : Group) (n : BitVec 3) (m x : Mask) : (gr.setPred n m x).rolecnt = gr.rolecnt := by unfold Group.setPred; split <;> rfl
@[simp] theorem Group.setPred_faultdom (gr : Group) (n : BitVec 3) (m x : Mask) : (gr.setPred n m x).faultdom = gr.faultdom := by unfold Group.setPred; split <;> rfl
@[simp] theorem Group.setPred_quotas (gr : Group) (n : BitVec 3) (m x : Mask) : (gr.setPred n m x).quotas = gr.quotas := by unfold Group.setPred; split <;> rfl
@[simp] theorem Group.setPred_lrr (gr : Group) (n : BitVec 3) (m x : Mask) : (gr.setPred n m x).lrr = gr.lrr := by unfold Group.setPred; split <;> rfl
@[simp] theorem Group.setPred_age (gr : Group) (n : BitVec 3) (m x : Mask) : (gr.setPred n m x).age = gr.age := by unfold Group.setPred; split <;> rfl
@[simp] theorem Group.setPred_lastIssue (gr : Group) (n : BitVec 3) (m x : Mask) : (gr.setPred n m x).lastIssue = gr.lastIssue := by unfold Group.setPred; split <;> rfl
@[simp] theorem Group.setPred_since (gr : Group) (n : BitVec 3) (m x : Mask) : (gr.setPred n m x).since = gr.since := by unfold Group.setPred; split <;> rfl
@[simp] theorem Group.setPred_agedAt (gr : Group) (n : BitVec 3) (m x : Mask) : (gr.setPred n m x).agedAt = gr.agedAt := by unfold Group.setPred; split <;> rfl
@[simp] theorem Group.setPred_halted (gr : Group) (n : BitVec 3) (m x : Mask) : (gr.setPred n m x).halted = gr.halted := by unfold Group.setPred; split <;> rfl
@[simp] theorem Group.setPred_stepping (gr : Group) (n : BitVec 3) (m x : Mask) : (gr.setPred n m x).stepping = gr.stepping := by unfold Group.setPred; split <;> rfl
@[simp] theorem Group.setPred_late (gr : Group) (n : BitVec 3) (m x : Mask) : (gr.setPred n m x).late = gr.late := by unfold Group.setPred; split <;> rfl
@[simp] theorem Group.setPred_resume (gr : Group) (n : BitVec 3) (m x : Mask) : (gr.setPred n m x).resume = gr.resume := by unfold Group.setPred; split <;> rfl
@[simp] theorem Group.setPred_yielded (gr : Group) (n : BitVec 3) (m x : Mask) : (gr.setPred n m x).yielded = gr.yielded := by unfold Group.setPred; split <;> rfl
@[simp] theorem Group.setPred_drain (gr : Group) (n : BitVec 3) (m x : Mask) : (gr.setPred n m x).drain = gr.drain := by unfold Group.setPred; split <;> rfl

/-! ### `Group.setC` -/

@[simp] theorem Group.setC_key (gr : Group) (n : BitVec 3) (b : Bool) : (gr.setC n b).key = gr.key := by unfold Group.setC; split <;> rfl
@[simp] theorem Group.setC_live (gr : Group) (n : BitVec 3) (b : Bool) : (gr.setC n b).live = gr.live := by unfold Group.setC; split <;> rfl
@[simp] theorem Group.setC_part (gr : Group) (n : BitVec 3) (b : Bool) : (gr.setC n b).part = gr.part := by unfold Group.setC; split <;> rfl
@[simp] theorem Group.setC_cohort (gr : Group) (n : BitVec 3) (b : Bool) : (gr.setC n b).cohort = gr.cohort := by unfold Group.setC; split <;> rfl
@[simp] theorem Group.setC_core (gr : Group) (n : BitVec 3) (b : Bool) : (gr.setC n b).core = gr.core := by unfold Group.setC; split <;> rfl
@[simp] theorem Group.setC_slot (gr : Group) (n : BitVec 3) (b : Bool) : (gr.setC n b).slot = gr.slot := by unfold Group.setC; split <;> rfl
@[simp] theorem Group.setC_octet (gr : Group) (n : BitVec 3) (b : Bool) : (gr.setC n b).octet = gr.octet := by unfold Group.setC; split <;> rfl
@[simp] theorem Group.setC_width (gr : Group) (n : BitVec 3) (b : Bool) : (gr.setC n b).width = gr.width := by unfold Group.setC; split <;> rfl
@[simp] theorem Group.setC_cid (gr : Group) (n : BitVec 3) (b : Bool) : (gr.setC n b).cid = gr.cid := by unfold Group.setC; split <;> rfl
@[simp] theorem Group.setC_gid (gr : Group) (n : BitVec 3) (b : Bool) : (gr.setC n b).gid = gr.gid := by unfold Group.setC; split <;> rfl
@[simp] theorem Group.setC_v (gr : Group) (n : BitVec 3) (b : Bool) : (gr.setC n b).v = gr.v := by unfold Group.setC; split <;> rfl
@[simp] theorem Group.setC_xregs (gr : Group) (n : BitVec 3) (b : Bool) : (gr.setC n b).xregs = gr.xregs := by unfold Group.setC; split <;> rfl
@[simp] theorem Group.setC_xwords (gr : Group) (n : BitVec 3) (b : Bool) : (gr.setC n b).xwords = gr.xwords := by unfold Group.setC; split <;> rfl
@[simp] theorem Group.setC_g (gr : Group) (n : BitVec 3) (b : Bool) : (gr.setC n b).g = gr.g := by unfold Group.setC; split <;> rfl
@[simp] theorem Group.setC_p (gr : Group) (n : BitVec 3) (b : Bool) : (gr.setC n b).p = gr.p := by unfold Group.setC; split <;> rfl
@[simp] theorem Group.setC_s0 (gr : Group) (n : BitVec 3) (b : Bool) : (gr.setC n b).s0 = gr.s0 := by unfold Group.setC; split <;> rfl
@[simp] theorem Group.setC_s1 (gr : Group) (n : BitVec 3) (b : Bool) : (gr.setC n b).s1 = gr.s1 := by unfold Group.setC; split <;> rfl
@[simp] theorem Group.setC_current (gr : Group) (n : BitVec 3) (b : Bool) : (gr.setC n b).current = gr.current := by unfold Group.setC; split <;> rfl
@[simp] theorem Group.setC_issuing (gr : Group) (n : BitVec 3) (b : Bool) : (gr.setC n b).issuing = gr.issuing := by unfold Group.setC; split <;> rfl
@[simp] theorem Group.setC_count (gr : Group) (n : BitVec 3) (b : Bool) : (gr.setC n b).count = gr.count := by unfold Group.setC; split <;> rfl
@[simp] theorem Group.setC_quantum (gr : Group) (n : BitVec 3) (b : Bool) : (gr.setC n b).quantum = gr.quantum := by unfold Group.setC; split <;> rfl
@[simp] theorem Group.setC_xm (gr : Group) (n : BitVec 3) (b : Bool) : (gr.setC n b).xm = gr.xm := by unfold Group.setC; split <;> rfl
@[simp] theorem Group.setC_pathq (gr : Group) (n : BitVec 3) (b : Bool) : (gr.setC n b).pathq = gr.pathq := by unfold Group.setC; split <;> rfl
@[simp] theorem Group.setC_rvsb (gr : Group) (n : BitVec 3) (b : Bool) : (gr.setC n b).rvsb = gr.rvsb := by unfold Group.setC; split <;> rfl
@[simp] theorem Group.setC_rvcap (gr : Group) (n : BitVec 3) (b : Bool) : (gr.setC n b).rvcap = gr.rvcap := by unfold Group.setC; split <;> rfl
@[simp] theorem Group.setC_rvdepth (gr : Group) (n : BitVec 3) (b : Bool) : (gr.setC n b).rvdepth = gr.rvdepth := by unfold Group.setC; split <;> rfl
@[simp] theorem Group.setC_reserve (gr : Group) (n : BitVec 3) (b : Bool) : (gr.setC n b).reserve = gr.reserve := by unfold Group.setC; split <;> rfl
@[simp] theorem Group.setC_horizon (gr : Group) (n : BitVec 3) (b : Bool) : (gr.setC n b).horizon = gr.horizon := by unfold Group.setC; split <;> rfl
@[simp] theorem Group.setC_fsr (gr : Group) (n : BitVec 3) (b : Bool) : (gr.setC n b).fsr = gr.fsr := by unfold Group.setC; split <;> rfl
@[simp] theorem Group.setC_mxc (gr : Group) (n : BitVec 3) (b : Bool) : (gr.setC n b).mxc = gr.mxc := by unfold Group.setC; split <;> rfl
@[simp] theorem Group.setC_prio (gr : Group) (n : BitVec 3) (b : Bool) : (gr.setC n b).prio = gr.prio := by unfold Group.setC; split <;> rfl
@[simp] theorem Group.setC_prioCap (gr : Group) (n : BitVec 3) (b : Bool) : (gr.setC n b).prioCap = gr.prioCap := by unfold Group.setC; split <;> rfl
@[simp] theorem Group.setC_roleNone (gr : Group) (n : BitVec 3) (b : Bool) : (gr.setC n b).roleNone = gr.roleNone := by unfold Group.setC; split <;> rfl
@[simp] theorem Group.setC_roleIdx (gr : Group) (n : BitVec 3) (b : Bool) : (gr.setC n b).roleIdx = gr.roleIdx := by unfold Group.setC; split <;> rfl
@[simp] theorem Group.setC_trapv (gr : Group) (n : BitVec 3) (b : Bool) : (gr.setC n b).trapv = gr.trapv := by unfold Group.setC; split <;> rfl
@[simp] theorem Group.setC_trapc (gr : Group) (n : BitVec 3) (b : Bool) : (gr.setC n b).trapc = gr.trapc := by unfold Group.setC; split <;> rfl
@[simp] theorem Group.setC_trapa (gr : Group) (n : BitVec 3) (b : Bool) : (gr.setC n b).trapa = gr.trapa := by unfold Group.setC; split <;> rfl
@[simp] theorem Group.setC_trapm (gr : Group) (n : BitVec 3) (b : Bool) : (gr.setC n b).trapm = gr.trapm := by unfold Group.setC; split <;> rfl
@[simp] theorem Group.setC_sect (gr : Group) (n : BitVec 3) (b : Bool) : (gr.setC n b).sect = gr.sect := by unfold Group.setC; split <;> rfl
@[simp] theorem Group.setC_stgFirst (gr : Group) (n : BitVec 3) (b : Bool) : (gr.setC n b).stgFirst = gr.stgFirst := by unfold Group.setC; split <;> rfl
@[simp] theorem Group.setC_stgLines (gr : Group) (n : BitVec 3) (b : Bool) : (gr.setC n b).stgLines = gr.stgLines := by unfold Group.setC; split <;> rfl
@[simp] theorem Group.setC_tileBase (gr : Group) (n : BitVec 3) (b : Bool) : (gr.setC n b).tileBase = gr.tileBase := by unfold Group.setC; split <;> rfl
@[simp] theorem Group.setC_tileCount (gr : Group) (n : BitVec 3) (b : Bool) : (gr.setC n b).tileCount = gr.tileCount := by unfold Group.setC; split <;> rfl
@[simp] theorem Group.setC_pend (gr : Group) (n : BitVec 3) (b : Bool) : (gr.setC n b).pend = gr.pend := by unfold Group.setC; split <;> rfl
@[simp] theorem Group.setC_iters (gr : Group) (n : BitVec 3) (b : Bool) : (gr.setC n b).iters = gr.iters := by unfold Group.setC; split <;> rfl
@[simp] theorem Group.setC_ports (gr : Group) (n : BitVec 3) (b : Bool) : (gr.setC n b).ports = gr.ports := by unfold Group.setC; split <;> rfl
@[simp] theorem Group.setC_pushes (gr : Group) (n : BitVec 3) (b : Bool) : (gr.setC n b).pushes = gr.pushes := by unfold Group.setC; split <;> rfl
@[simp] theorem Group.setC_sections (gr : Group) (n : BitVec 3) (b : Bool) : (gr.setC n b).sections = gr.sections := by unfold Group.setC; split <;> rfl
@[simp] theorem Group.setC_owed (gr : Group) (n : BitVec 3) (b : Bool) : (gr.setC n b).owed = gr.owed := by unfold Group.setC; split <;> rfl
@[simp] theorem Group.setC_returns (gr : Group) (n : BitVec 3) (b : Bool) : (gr.setC n b).returns = gr.returns := by unfold Group.setC; split <;> rfl
@[simp] theorem Group.setC_wait (gr : Group) (n : BitVec 3) (b : Bool) : (gr.setC n b).wait = gr.wait := by unfold Group.setC; split <;> rfl
@[simp] theorem Group.setC_unfinished (gr : Group) (n : BitVec 3) (b : Bool) : (gr.setC n b).unfinished = gr.unfinished := by unfold Group.setC; split <;> rfl
@[simp] theorem Group.setC_held (gr : Group) (n : BitVec 3) (b : Bool) : (gr.setC n b).held = gr.held := by unfold Group.setC; split <;> rfl
@[simp] theorem Group.setC_watched (gr : Group) (n : BitVec 3) (b : Bool) : (gr.setC n b).watched = gr.watched := by unfold Group.setC; split <;> rfl
@[simp] theorem Group.setC_pendingTrap (gr : Group) (n : BitVec 3) (b : Bool) : (gr.setC n b).pendingTrap = gr.pendingTrap := by unfold Group.setC; split <;> rfl
@[simp] theorem Group.setC_codebase (gr : Group) (n : BitVec 3) (b : Bool) : (gr.setC n b).codebase = gr.codebase := by unfold Group.setC; split <;> rfl
@[simp] theorem Group.setC_ranges (gr : Group) (n : BitVec 3) (b : Bool) : (gr.setC n b).ranges = gr.ranges := by unfold Group.setC; split <;> rfl
@[simp] theorem Group.setC_chain (gr : Group) (n : BitVec 3) (b : Bool) : (gr.setC n b).chain = gr.chain := by unfold Group.setC; split <;> rfl
@[simp] theorem Group.setC_roletab (gr : Group) (n : BitVec 3) (b : Bool) : (gr.setC n b).roletab = gr.roletab := by unfold Group.setC; split <;> rfl
@[simp] theorem Group.setC_rolecnt (gr : Group) (n : BitVec 3) (b : Bool) : (gr.setC n b).rolecnt = gr.rolecnt := by unfold Group.setC; split <;> rfl
@[simp] theorem Group.setC_faultdom (gr : Group) (n : BitVec 3) (b : Bool) : (gr.setC n b).faultdom = gr.faultdom := by unfold Group.setC; split <;> rfl
@[simp] theorem Group.setC_quotas (gr : Group) (n : BitVec 3) (b : Bool) : (gr.setC n b).quotas = gr.quotas := by unfold Group.setC; split <;> rfl
@[simp] theorem Group.setC_lrr (gr : Group) (n : BitVec 3) (b : Bool) : (gr.setC n b).lrr = gr.lrr := by unfold Group.setC; split <;> rfl
@[simp] theorem Group.setC_age (gr : Group) (n : BitVec 3) (b : Bool) : (gr.setC n b).age = gr.age := by unfold Group.setC; split <;> rfl
@[simp] theorem Group.setC_lastIssue (gr : Group) (n : BitVec 3) (b : Bool) : (gr.setC n b).lastIssue = gr.lastIssue := by unfold Group.setC; split <;> rfl
@[simp] theorem Group.setC_since (gr : Group) (n : BitVec 3) (b : Bool) : (gr.setC n b).since = gr.since := by unfold Group.setC; split <;> rfl
@[simp] theorem Group.setC_agedAt (gr : Group) (n : BitVec 3) (b : Bool) : (gr.setC n b).agedAt = gr.agedAt := by unfold Group.setC; split <;> rfl
@[simp] theorem Group.setC_halted (gr : Group) (n : BitVec 3) (b : Bool) : (gr.setC n b).halted = gr.halted := by unfold Group.setC; split <;> rfl
@[simp] theorem Group.setC_stepping (gr : Group) (n : BitVec 3) (b : Bool) : (gr.setC n b).stepping = gr.stepping := by unfold Group.setC; split <;> rfl
@[simp] theorem Group.setC_late (gr : Group) (n : BitVec 3) (b : Bool) : (gr.setC n b).late = gr.late := by unfold Group.setC; split <;> rfl
@[simp] theorem Group.setC_resume (gr : Group) (n : BitVec 3) (b : Bool) : (gr.setC n b).resume = gr.resume := by unfold Group.setC; split <;> rfl
@[simp] theorem Group.setC_yielded (gr : Group) (n : BitVec 3) (b : Bool) : (gr.setC n b).yielded = gr.yielded := by unfold Group.setC; split <;> rfl
@[simp] theorem Group.setC_drain (gr : Group) (n : BitVec 3) (b : Bool) : (gr.setC n b).drain = gr.drain := by unfold Group.setC; split <;> rfl

/-! ### `Group.setSlot` -/

@[simp] theorem Group.setSlot_key (gr : Group) (one : Bool) (p : PathSlot) : (gr.setSlot one p).key = gr.key := by cases one <;> rfl
@[simp] theorem Group.setSlot_live (gr : Group) (one : Bool) (p : PathSlot) : (gr.setSlot one p).live = gr.live := by cases one <;> rfl
@[simp] theorem Group.setSlot_part (gr : Group) (one : Bool) (p : PathSlot) : (gr.setSlot one p).part = gr.part := by cases one <;> rfl
@[simp] theorem Group.setSlot_cohort (gr : Group) (one : Bool) (p : PathSlot) : (gr.setSlot one p).cohort = gr.cohort := by cases one <;> rfl
@[simp] theorem Group.setSlot_core (gr : Group) (one : Bool) (p : PathSlot) : (gr.setSlot one p).core = gr.core := by cases one <;> rfl
@[simp] theorem Group.setSlot_slot (gr : Group) (one : Bool) (p : PathSlot) : (gr.setSlot one p).slot = gr.slot := by cases one <;> rfl
@[simp] theorem Group.setSlot_octet (gr : Group) (one : Bool) (p : PathSlot) : (gr.setSlot one p).octet = gr.octet := by cases one <;> rfl
@[simp] theorem Group.setSlot_width (gr : Group) (one : Bool) (p : PathSlot) : (gr.setSlot one p).width = gr.width := by cases one <;> rfl
@[simp] theorem Group.setSlot_cid (gr : Group) (one : Bool) (p : PathSlot) : (gr.setSlot one p).cid = gr.cid := by cases one <;> rfl
@[simp] theorem Group.setSlot_gid (gr : Group) (one : Bool) (p : PathSlot) : (gr.setSlot one p).gid = gr.gid := by cases one <;> rfl
@[simp] theorem Group.setSlot_v (gr : Group) (one : Bool) (p : PathSlot) : (gr.setSlot one p).v = gr.v := by cases one <;> rfl
@[simp] theorem Group.setSlot_xregs (gr : Group) (one : Bool) (p : PathSlot) : (gr.setSlot one p).xregs = gr.xregs := by cases one <;> rfl
@[simp] theorem Group.setSlot_xwords (gr : Group) (one : Bool) (p : PathSlot) : (gr.setSlot one p).xwords = gr.xwords := by cases one <;> rfl
@[simp] theorem Group.setSlot_g (gr : Group) (one : Bool) (p : PathSlot) : (gr.setSlot one p).g = gr.g := by cases one <;> rfl
@[simp] theorem Group.setSlot_p (gr : Group) (one : Bool) (p : PathSlot) : (gr.setSlot one p).p = gr.p := by cases one <;> rfl
@[simp] theorem Group.setSlot_c (gr : Group) (one : Bool) (p : PathSlot) : (gr.setSlot one p).c = gr.c := by cases one <;> rfl
@[simp] theorem Group.setSlot_current (gr : Group) (one : Bool) (p : PathSlot) : (gr.setSlot one p).current = gr.current := by cases one <;> rfl
@[simp] theorem Group.setSlot_issuing (gr : Group) (one : Bool) (p : PathSlot) : (gr.setSlot one p).issuing = gr.issuing := by cases one <;> rfl
@[simp] theorem Group.setSlot_count (gr : Group) (one : Bool) (p : PathSlot) : (gr.setSlot one p).count = gr.count := by cases one <;> rfl
@[simp] theorem Group.setSlot_quantum (gr : Group) (one : Bool) (p : PathSlot) : (gr.setSlot one p).quantum = gr.quantum := by cases one <;> rfl
@[simp] theorem Group.setSlot_xm (gr : Group) (one : Bool) (p : PathSlot) : (gr.setSlot one p).xm = gr.xm := by cases one <;> rfl
@[simp] theorem Group.setSlot_pathq (gr : Group) (one : Bool) (p : PathSlot) : (gr.setSlot one p).pathq = gr.pathq := by cases one <;> rfl
@[simp] theorem Group.setSlot_rvsb (gr : Group) (one : Bool) (p : PathSlot) : (gr.setSlot one p).rvsb = gr.rvsb := by cases one <;> rfl
@[simp] theorem Group.setSlot_rvcap (gr : Group) (one : Bool) (p : PathSlot) : (gr.setSlot one p).rvcap = gr.rvcap := by cases one <;> rfl
@[simp] theorem Group.setSlot_rvdepth (gr : Group) (one : Bool) (p : PathSlot) : (gr.setSlot one p).rvdepth = gr.rvdepth := by cases one <;> rfl
@[simp] theorem Group.setSlot_reserve (gr : Group) (one : Bool) (p : PathSlot) : (gr.setSlot one p).reserve = gr.reserve := by cases one <;> rfl
@[simp] theorem Group.setSlot_horizon (gr : Group) (one : Bool) (p : PathSlot) : (gr.setSlot one p).horizon = gr.horizon := by cases one <;> rfl
@[simp] theorem Group.setSlot_fsr (gr : Group) (one : Bool) (p : PathSlot) : (gr.setSlot one p).fsr = gr.fsr := by cases one <;> rfl
@[simp] theorem Group.setSlot_mxc (gr : Group) (one : Bool) (p : PathSlot) : (gr.setSlot one p).mxc = gr.mxc := by cases one <;> rfl
@[simp] theorem Group.setSlot_prio (gr : Group) (one : Bool) (p : PathSlot) : (gr.setSlot one p).prio = gr.prio := by cases one <;> rfl
@[simp] theorem Group.setSlot_prioCap (gr : Group) (one : Bool) (p : PathSlot) : (gr.setSlot one p).prioCap = gr.prioCap := by cases one <;> rfl
@[simp] theorem Group.setSlot_roleNone (gr : Group) (one : Bool) (p : PathSlot) : (gr.setSlot one p).roleNone = gr.roleNone := by cases one <;> rfl
@[simp] theorem Group.setSlot_roleIdx (gr : Group) (one : Bool) (p : PathSlot) : (gr.setSlot one p).roleIdx = gr.roleIdx := by cases one <;> rfl
@[simp] theorem Group.setSlot_trapv (gr : Group) (one : Bool) (p : PathSlot) : (gr.setSlot one p).trapv = gr.trapv := by cases one <;> rfl
@[simp] theorem Group.setSlot_trapc (gr : Group) (one : Bool) (p : PathSlot) : (gr.setSlot one p).trapc = gr.trapc := by cases one <;> rfl
@[simp] theorem Group.setSlot_trapa (gr : Group) (one : Bool) (p : PathSlot) : (gr.setSlot one p).trapa = gr.trapa := by cases one <;> rfl
@[simp] theorem Group.setSlot_trapm (gr : Group) (one : Bool) (p : PathSlot) : (gr.setSlot one p).trapm = gr.trapm := by cases one <;> rfl
@[simp] theorem Group.setSlot_sect (gr : Group) (one : Bool) (p : PathSlot) : (gr.setSlot one p).sect = gr.sect := by cases one <;> rfl
@[simp] theorem Group.setSlot_stgFirst (gr : Group) (one : Bool) (p : PathSlot) : (gr.setSlot one p).stgFirst = gr.stgFirst := by cases one <;> rfl
@[simp] theorem Group.setSlot_stgLines (gr : Group) (one : Bool) (p : PathSlot) : (gr.setSlot one p).stgLines = gr.stgLines := by cases one <;> rfl
@[simp] theorem Group.setSlot_tileBase (gr : Group) (one : Bool) (p : PathSlot) : (gr.setSlot one p).tileBase = gr.tileBase := by cases one <;> rfl
@[simp] theorem Group.setSlot_tileCount (gr : Group) (one : Bool) (p : PathSlot) : (gr.setSlot one p).tileCount = gr.tileCount := by cases one <;> rfl
@[simp] theorem Group.setSlot_pend (gr : Group) (one : Bool) (p : PathSlot) : (gr.setSlot one p).pend = gr.pend := by cases one <;> rfl
@[simp] theorem Group.setSlot_iters (gr : Group) (one : Bool) (p : PathSlot) : (gr.setSlot one p).iters = gr.iters := by cases one <;> rfl
@[simp] theorem Group.setSlot_ports (gr : Group) (one : Bool) (p : PathSlot) : (gr.setSlot one p).ports = gr.ports := by cases one <;> rfl
@[simp] theorem Group.setSlot_pushes (gr : Group) (one : Bool) (p : PathSlot) : (gr.setSlot one p).pushes = gr.pushes := by cases one <;> rfl
@[simp] theorem Group.setSlot_sections (gr : Group) (one : Bool) (p : PathSlot) : (gr.setSlot one p).sections = gr.sections := by cases one <;> rfl
@[simp] theorem Group.setSlot_owed (gr : Group) (one : Bool) (p : PathSlot) : (gr.setSlot one p).owed = gr.owed := by cases one <;> rfl
@[simp] theorem Group.setSlot_returns (gr : Group) (one : Bool) (p : PathSlot) : (gr.setSlot one p).returns = gr.returns := by cases one <;> rfl
@[simp] theorem Group.setSlot_wait (gr : Group) (one : Bool) (p : PathSlot) : (gr.setSlot one p).wait = gr.wait := by cases one <;> rfl
@[simp] theorem Group.setSlot_unfinished (gr : Group) (one : Bool) (p : PathSlot) : (gr.setSlot one p).unfinished = gr.unfinished := by cases one <;> rfl
@[simp] theorem Group.setSlot_held (gr : Group) (one : Bool) (p : PathSlot) : (gr.setSlot one p).held = gr.held := by cases one <;> rfl
@[simp] theorem Group.setSlot_watched (gr : Group) (one : Bool) (p : PathSlot) : (gr.setSlot one p).watched = gr.watched := by cases one <;> rfl
@[simp] theorem Group.setSlot_pendingTrap (gr : Group) (one : Bool) (p : PathSlot) : (gr.setSlot one p).pendingTrap = gr.pendingTrap := by cases one <;> rfl
@[simp] theorem Group.setSlot_codebase (gr : Group) (one : Bool) (p : PathSlot) : (gr.setSlot one p).codebase = gr.codebase := by cases one <;> rfl
@[simp] theorem Group.setSlot_ranges (gr : Group) (one : Bool) (p : PathSlot) : (gr.setSlot one p).ranges = gr.ranges := by cases one <;> rfl
@[simp] theorem Group.setSlot_chain (gr : Group) (one : Bool) (p : PathSlot) : (gr.setSlot one p).chain = gr.chain := by cases one <;> rfl
@[simp] theorem Group.setSlot_roletab (gr : Group) (one : Bool) (p : PathSlot) : (gr.setSlot one p).roletab = gr.roletab := by cases one <;> rfl
@[simp] theorem Group.setSlot_rolecnt (gr : Group) (one : Bool) (p : PathSlot) : (gr.setSlot one p).rolecnt = gr.rolecnt := by cases one <;> rfl
@[simp] theorem Group.setSlot_faultdom (gr : Group) (one : Bool) (p : PathSlot) : (gr.setSlot one p).faultdom = gr.faultdom := by cases one <;> rfl
@[simp] theorem Group.setSlot_quotas (gr : Group) (one : Bool) (p : PathSlot) : (gr.setSlot one p).quotas = gr.quotas := by cases one <;> rfl
@[simp] theorem Group.setSlot_lrr (gr : Group) (one : Bool) (p : PathSlot) : (gr.setSlot one p).lrr = gr.lrr := by cases one <;> rfl
@[simp] theorem Group.setSlot_age (gr : Group) (one : Bool) (p : PathSlot) : (gr.setSlot one p).age = gr.age := by cases one <;> rfl
@[simp] theorem Group.setSlot_lastIssue (gr : Group) (one : Bool) (p : PathSlot) : (gr.setSlot one p).lastIssue = gr.lastIssue := by cases one <;> rfl
@[simp] theorem Group.setSlot_since (gr : Group) (one : Bool) (p : PathSlot) : (gr.setSlot one p).since = gr.since := by cases one <;> rfl
@[simp] theorem Group.setSlot_agedAt (gr : Group) (one : Bool) (p : PathSlot) : (gr.setSlot one p).agedAt = gr.agedAt := by cases one <;> rfl
@[simp] theorem Group.setSlot_halted (gr : Group) (one : Bool) (p : PathSlot) : (gr.setSlot one p).halted = gr.halted := by cases one <;> rfl
@[simp] theorem Group.setSlot_stepping (gr : Group) (one : Bool) (p : PathSlot) : (gr.setSlot one p).stepping = gr.stepping := by cases one <;> rfl
@[simp] theorem Group.setSlot_late (gr : Group) (one : Bool) (p : PathSlot) : (gr.setSlot one p).late = gr.late := by cases one <;> rfl
@[simp] theorem Group.setSlot_resume (gr : Group) (one : Bool) (p : PathSlot) : (gr.setSlot one p).resume = gr.resume := by cases one <;> rfl
@[simp] theorem Group.setSlot_yielded (gr : Group) (one : Bool) (p : PathSlot) : (gr.setSlot one p).yielded = gr.yielded := by cases one <;> rfl
@[simp] theorem Group.setSlot_drain (gr : Group) (one : Bool) (p : PathSlot) : (gr.setSlot one p).drain = gr.drain := by cases one <;> rfl

/-! ### `Group.setPc` -/

@[simp] theorem Group.setPc_key (gr : Group) (pc : PC) : (gr.setPc pc).key = gr.key := by simp [Group.setPc]
@[simp] theorem Group.setPc_live (gr : Group) (pc : PC) : (gr.setPc pc).live = gr.live := by simp [Group.setPc]
@[simp] theorem Group.setPc_part (gr : Group) (pc : PC) : (gr.setPc pc).part = gr.part := by simp [Group.setPc]
@[simp] theorem Group.setPc_cohort (gr : Group) (pc : PC) : (gr.setPc pc).cohort = gr.cohort := by simp [Group.setPc]
@[simp] theorem Group.setPc_core (gr : Group) (pc : PC) : (gr.setPc pc).core = gr.core := by simp [Group.setPc]
@[simp] theorem Group.setPc_slot (gr : Group) (pc : PC) : (gr.setPc pc).slot = gr.slot := by simp [Group.setPc]
@[simp] theorem Group.setPc_octet (gr : Group) (pc : PC) : (gr.setPc pc).octet = gr.octet := by simp [Group.setPc]
@[simp] theorem Group.setPc_width (gr : Group) (pc : PC) : (gr.setPc pc).width = gr.width := by simp [Group.setPc]
@[simp] theorem Group.setPc_cid (gr : Group) (pc : PC) : (gr.setPc pc).cid = gr.cid := by simp [Group.setPc]
@[simp] theorem Group.setPc_gid (gr : Group) (pc : PC) : (gr.setPc pc).gid = gr.gid := by simp [Group.setPc]
@[simp] theorem Group.setPc_v (gr : Group) (pc : PC) : (gr.setPc pc).v = gr.v := by simp [Group.setPc]
@[simp] theorem Group.setPc_xregs (gr : Group) (pc : PC) : (gr.setPc pc).xregs = gr.xregs := by simp [Group.setPc]
@[simp] theorem Group.setPc_xwords (gr : Group) (pc : PC) : (gr.setPc pc).xwords = gr.xwords := by simp [Group.setPc]
@[simp] theorem Group.setPc_g (gr : Group) (pc : PC) : (gr.setPc pc).g = gr.g := by simp [Group.setPc]
@[simp] theorem Group.setPc_p (gr : Group) (pc : PC) : (gr.setPc pc).p = gr.p := by simp [Group.setPc]
@[simp] theorem Group.setPc_c (gr : Group) (pc : PC) : (gr.setPc pc).c = gr.c := by simp [Group.setPc]
@[simp] theorem Group.setPc_current (gr : Group) (pc : PC) : (gr.setPc pc).current = gr.current := by simp [Group.setPc]
@[simp] theorem Group.setPc_issuing (gr : Group) (pc : PC) : (gr.setPc pc).issuing = gr.issuing := by simp [Group.setPc]
@[simp] theorem Group.setPc_count (gr : Group) (pc : PC) : (gr.setPc pc).count = gr.count := by simp [Group.setPc]
@[simp] theorem Group.setPc_quantum (gr : Group) (pc : PC) : (gr.setPc pc).quantum = gr.quantum := by simp [Group.setPc]
@[simp] theorem Group.setPc_xm (gr : Group) (pc : PC) : (gr.setPc pc).xm = gr.xm := by simp [Group.setPc]
@[simp] theorem Group.setPc_pathq (gr : Group) (pc : PC) : (gr.setPc pc).pathq = gr.pathq := by simp [Group.setPc]
@[simp] theorem Group.setPc_rvsb (gr : Group) (pc : PC) : (gr.setPc pc).rvsb = gr.rvsb := by simp [Group.setPc]
@[simp] theorem Group.setPc_rvcap (gr : Group) (pc : PC) : (gr.setPc pc).rvcap = gr.rvcap := by simp [Group.setPc]
@[simp] theorem Group.setPc_rvdepth (gr : Group) (pc : PC) : (gr.setPc pc).rvdepth = gr.rvdepth := by simp [Group.setPc]
@[simp] theorem Group.setPc_reserve (gr : Group) (pc : PC) : (gr.setPc pc).reserve = gr.reserve := by simp [Group.setPc]
@[simp] theorem Group.setPc_horizon (gr : Group) (pc : PC) : (gr.setPc pc).horizon = gr.horizon := by simp [Group.setPc]
@[simp] theorem Group.setPc_fsr (gr : Group) (pc : PC) : (gr.setPc pc).fsr = gr.fsr := by simp [Group.setPc]
@[simp] theorem Group.setPc_mxc (gr : Group) (pc : PC) : (gr.setPc pc).mxc = gr.mxc := by simp [Group.setPc]
@[simp] theorem Group.setPc_prio (gr : Group) (pc : PC) : (gr.setPc pc).prio = gr.prio := by simp [Group.setPc]
@[simp] theorem Group.setPc_prioCap (gr : Group) (pc : PC) : (gr.setPc pc).prioCap = gr.prioCap := by simp [Group.setPc]
@[simp] theorem Group.setPc_roleNone (gr : Group) (pc : PC) : (gr.setPc pc).roleNone = gr.roleNone := by simp [Group.setPc]
@[simp] theorem Group.setPc_roleIdx (gr : Group) (pc : PC) : (gr.setPc pc).roleIdx = gr.roleIdx := by simp [Group.setPc]
@[simp] theorem Group.setPc_trapv (gr : Group) (pc : PC) : (gr.setPc pc).trapv = gr.trapv := by simp [Group.setPc]
@[simp] theorem Group.setPc_trapc (gr : Group) (pc : PC) : (gr.setPc pc).trapc = gr.trapc := by simp [Group.setPc]
@[simp] theorem Group.setPc_trapa (gr : Group) (pc : PC) : (gr.setPc pc).trapa = gr.trapa := by simp [Group.setPc]
@[simp] theorem Group.setPc_trapm (gr : Group) (pc : PC) : (gr.setPc pc).trapm = gr.trapm := by simp [Group.setPc]
@[simp] theorem Group.setPc_sect (gr : Group) (pc : PC) : (gr.setPc pc).sect = gr.sect := by simp [Group.setPc]
@[simp] theorem Group.setPc_stgFirst (gr : Group) (pc : PC) : (gr.setPc pc).stgFirst = gr.stgFirst := by simp [Group.setPc]
@[simp] theorem Group.setPc_stgLines (gr : Group) (pc : PC) : (gr.setPc pc).stgLines = gr.stgLines := by simp [Group.setPc]
@[simp] theorem Group.setPc_tileBase (gr : Group) (pc : PC) : (gr.setPc pc).tileBase = gr.tileBase := by simp [Group.setPc]
@[simp] theorem Group.setPc_tileCount (gr : Group) (pc : PC) : (gr.setPc pc).tileCount = gr.tileCount := by simp [Group.setPc]
@[simp] theorem Group.setPc_pend (gr : Group) (pc : PC) : (gr.setPc pc).pend = gr.pend := by simp [Group.setPc]
@[simp] theorem Group.setPc_iters (gr : Group) (pc : PC) : (gr.setPc pc).iters = gr.iters := by simp [Group.setPc]
@[simp] theorem Group.setPc_ports (gr : Group) (pc : PC) : (gr.setPc pc).ports = gr.ports := by simp [Group.setPc]
@[simp] theorem Group.setPc_pushes (gr : Group) (pc : PC) : (gr.setPc pc).pushes = gr.pushes := by simp [Group.setPc]
@[simp] theorem Group.setPc_sections (gr : Group) (pc : PC) : (gr.setPc pc).sections = gr.sections := by simp [Group.setPc]
@[simp] theorem Group.setPc_owed (gr : Group) (pc : PC) : (gr.setPc pc).owed = gr.owed := by simp [Group.setPc]
@[simp] theorem Group.setPc_returns (gr : Group) (pc : PC) : (gr.setPc pc).returns = gr.returns := by simp [Group.setPc]
@[simp] theorem Group.setPc_wait (gr : Group) (pc : PC) : (gr.setPc pc).wait = gr.wait := by simp [Group.setPc]
@[simp] theorem Group.setPc_unfinished (gr : Group) (pc : PC) : (gr.setPc pc).unfinished = gr.unfinished := by simp [Group.setPc]
@[simp] theorem Group.setPc_held (gr : Group) (pc : PC) : (gr.setPc pc).held = gr.held := by simp [Group.setPc]
@[simp] theorem Group.setPc_watched (gr : Group) (pc : PC) : (gr.setPc pc).watched = gr.watched := by simp [Group.setPc]
@[simp] theorem Group.setPc_pendingTrap (gr : Group) (pc : PC) : (gr.setPc pc).pendingTrap = gr.pendingTrap := by simp [Group.setPc]
@[simp] theorem Group.setPc_codebase (gr : Group) (pc : PC) : (gr.setPc pc).codebase = gr.codebase := by simp [Group.setPc]
@[simp] theorem Group.setPc_ranges (gr : Group) (pc : PC) : (gr.setPc pc).ranges = gr.ranges := by simp [Group.setPc]
@[simp] theorem Group.setPc_chain (gr : Group) (pc : PC) : (gr.setPc pc).chain = gr.chain := by simp [Group.setPc]
@[simp] theorem Group.setPc_roletab (gr : Group) (pc : PC) : (gr.setPc pc).roletab = gr.roletab := by simp [Group.setPc]
@[simp] theorem Group.setPc_rolecnt (gr : Group) (pc : PC) : (gr.setPc pc).rolecnt = gr.rolecnt := by simp [Group.setPc]
@[simp] theorem Group.setPc_faultdom (gr : Group) (pc : PC) : (gr.setPc pc).faultdom = gr.faultdom := by simp [Group.setPc]
@[simp] theorem Group.setPc_quotas (gr : Group) (pc : PC) : (gr.setPc pc).quotas = gr.quotas := by simp [Group.setPc]
@[simp] theorem Group.setPc_lrr (gr : Group) (pc : PC) : (gr.setPc pc).lrr = gr.lrr := by simp [Group.setPc]
@[simp] theorem Group.setPc_age (gr : Group) (pc : PC) : (gr.setPc pc).age = gr.age := by simp [Group.setPc]
@[simp] theorem Group.setPc_lastIssue (gr : Group) (pc : PC) : (gr.setPc pc).lastIssue = gr.lastIssue := by simp [Group.setPc]
@[simp] theorem Group.setPc_since (gr : Group) (pc : PC) : (gr.setPc pc).since = gr.since := by simp [Group.setPc]
@[simp] theorem Group.setPc_agedAt (gr : Group) (pc : PC) : (gr.setPc pc).agedAt = gr.agedAt := by simp [Group.setPc]
@[simp] theorem Group.setPc_halted (gr : Group) (pc : PC) : (gr.setPc pc).halted = gr.halted := by simp [Group.setPc]
@[simp] theorem Group.setPc_stepping (gr : Group) (pc : PC) : (gr.setPc pc).stepping = gr.stepping := by simp [Group.setPc]
@[simp] theorem Group.setPc_late (gr : Group) (pc : PC) : (gr.setPc pc).late = gr.late := by simp [Group.setPc]
@[simp] theorem Group.setPc_resume (gr : Group) (pc : PC) : (gr.setPc pc).resume = gr.resume := by simp [Group.setPc]
@[simp] theorem Group.setPc_yielded (gr : Group) (pc : PC) : (gr.setPc pc).yielded = gr.yielded := by simp [Group.setPc]
@[simp] theorem Group.setPc_drain (gr : Group) (pc : PC) : (gr.setPc pc).drain = gr.drain := by simp [Group.setPc]

/-! ### `Group.makeCurrent` -/

@[simp] theorem Group.makeCurrent_key (gr : Group) (one : Bool) : (gr.makeCurrent one).key = gr.key := rfl
@[simp] theorem Group.makeCurrent_live (gr : Group) (one : Bool) : (gr.makeCurrent one).live = gr.live := rfl
@[simp] theorem Group.makeCurrent_part (gr : Group) (one : Bool) : (gr.makeCurrent one).part = gr.part := rfl
@[simp] theorem Group.makeCurrent_cohort (gr : Group) (one : Bool) : (gr.makeCurrent one).cohort = gr.cohort := rfl
@[simp] theorem Group.makeCurrent_core (gr : Group) (one : Bool) : (gr.makeCurrent one).core = gr.core := rfl
@[simp] theorem Group.makeCurrent_slot (gr : Group) (one : Bool) : (gr.makeCurrent one).slot = gr.slot := rfl
@[simp] theorem Group.makeCurrent_octet (gr : Group) (one : Bool) : (gr.makeCurrent one).octet = gr.octet := rfl
@[simp] theorem Group.makeCurrent_width (gr : Group) (one : Bool) : (gr.makeCurrent one).width = gr.width := rfl
@[simp] theorem Group.makeCurrent_cid (gr : Group) (one : Bool) : (gr.makeCurrent one).cid = gr.cid := rfl
@[simp] theorem Group.makeCurrent_gid (gr : Group) (one : Bool) : (gr.makeCurrent one).gid = gr.gid := rfl
@[simp] theorem Group.makeCurrent_v (gr : Group) (one : Bool) : (gr.makeCurrent one).v = gr.v := rfl
@[simp] theorem Group.makeCurrent_xregs (gr : Group) (one : Bool) : (gr.makeCurrent one).xregs = gr.xregs := rfl
@[simp] theorem Group.makeCurrent_xwords (gr : Group) (one : Bool) : (gr.makeCurrent one).xwords = gr.xwords := rfl
@[simp] theorem Group.makeCurrent_g (gr : Group) (one : Bool) : (gr.makeCurrent one).g = gr.g := rfl
@[simp] theorem Group.makeCurrent_p (gr : Group) (one : Bool) : (gr.makeCurrent one).p = gr.p := rfl
@[simp] theorem Group.makeCurrent_c (gr : Group) (one : Bool) : (gr.makeCurrent one).c = gr.c := rfl
@[simp] theorem Group.makeCurrent_s0 (gr : Group) (one : Bool) : (gr.makeCurrent one).s0 = gr.s0 := rfl
@[simp] theorem Group.makeCurrent_s1 (gr : Group) (one : Bool) : (gr.makeCurrent one).s1 = gr.s1 := rfl
@[simp] theorem Group.makeCurrent_current (gr : Group) (one : Bool) : (gr.makeCurrent one).current = one := rfl
@[simp] theorem Group.makeCurrent_issuing (gr : Group) (one : Bool) : (gr.makeCurrent one).issuing = gr.issuing := rfl
@[simp] theorem Group.makeCurrent_count (gr : Group) (one : Bool) : (gr.makeCurrent one).count = 0 := rfl
@[simp] theorem Group.makeCurrent_quantum (gr : Group) (one : Bool) : (gr.makeCurrent one).quantum = (gr.pathq.extractLsb' 0 8).toNat := rfl
@[simp] theorem Group.makeCurrent_xm (gr : Group) (one : Bool) : (gr.makeCurrent one).xm = gr.xm := rfl
@[simp] theorem Group.makeCurrent_pathq (gr : Group) (one : Bool) : (gr.makeCurrent one).pathq = gr.pathq := rfl
@[simp] theorem Group.makeCurrent_rvsb (gr : Group) (one : Bool) : (gr.makeCurrent one).rvsb = gr.rvsb := rfl
@[simp] theorem Group.makeCurrent_rvcap (gr : Group) (one : Bool) : (gr.makeCurrent one).rvcap = gr.rvcap := rfl
@[simp] theorem Group.makeCurrent_rvdepth (gr : Group) (one : Bool) : (gr.makeCurrent one).rvdepth = gr.rvdepth := rfl
@[simp] theorem Group.makeCurrent_reserve (gr : Group) (one : Bool) : (gr.makeCurrent one).reserve = gr.reserve := rfl
@[simp] theorem Group.makeCurrent_horizon (gr : Group) (one : Bool) : (gr.makeCurrent one).horizon = gr.horizon := rfl
@[simp] theorem Group.makeCurrent_fsr (gr : Group) (one : Bool) : (gr.makeCurrent one).fsr = gr.fsr := rfl
@[simp] theorem Group.makeCurrent_mxc (gr : Group) (one : Bool) : (gr.makeCurrent one).mxc = gr.mxc := rfl
@[simp] theorem Group.makeCurrent_prio (gr : Group) (one : Bool) : (gr.makeCurrent one).prio = gr.prio := rfl
@[simp] theorem Group.makeCurrent_prioCap (gr : Group) (one : Bool) : (gr.makeCurrent one).prioCap = gr.prioCap := rfl
@[simp] theorem Group.makeCurrent_roleNone (gr : Group) (one : Bool) : (gr.makeCurrent one).roleNone = gr.roleNone := rfl
@[simp] theorem Group.makeCurrent_roleIdx (gr : Group) (one : Bool) : (gr.makeCurrent one).roleIdx = gr.roleIdx := rfl
@[simp] theorem Group.makeCurrent_trapv (gr : Group) (one : Bool) : (gr.makeCurrent one).trapv = gr.trapv := rfl
@[simp] theorem Group.makeCurrent_trapc (gr : Group) (one : Bool) : (gr.makeCurrent one).trapc = gr.trapc := rfl
@[simp] theorem Group.makeCurrent_trapa (gr : Group) (one : Bool) : (gr.makeCurrent one).trapa = gr.trapa := rfl
@[simp] theorem Group.makeCurrent_trapm (gr : Group) (one : Bool) : (gr.makeCurrent one).trapm = gr.trapm := rfl
@[simp] theorem Group.makeCurrent_sect (gr : Group) (one : Bool) : (gr.makeCurrent one).sect = gr.sect := rfl
@[simp] theorem Group.makeCurrent_stgFirst (gr : Group) (one : Bool) : (gr.makeCurrent one).stgFirst = gr.stgFirst := rfl
@[simp] theorem Group.makeCurrent_stgLines (gr : Group) (one : Bool) : (gr.makeCurrent one).stgLines = gr.stgLines := rfl
@[simp] theorem Group.makeCurrent_tileBase (gr : Group) (one : Bool) : (gr.makeCurrent one).tileBase = gr.tileBase := rfl
@[simp] theorem Group.makeCurrent_tileCount (gr : Group) (one : Bool) : (gr.makeCurrent one).tileCount = gr.tileCount := rfl
@[simp] theorem Group.makeCurrent_pend (gr : Group) (one : Bool) : (gr.makeCurrent one).pend = gr.pend := rfl
@[simp] theorem Group.makeCurrent_iters (gr : Group) (one : Bool) : (gr.makeCurrent one).iters = gr.iters := rfl
@[simp] theorem Group.makeCurrent_ports (gr : Group) (one : Bool) : (gr.makeCurrent one).ports = gr.ports := rfl
@[simp] theorem Group.makeCurrent_pushes (gr : Group) (one : Bool) : (gr.makeCurrent one).pushes = gr.pushes := rfl
@[simp] theorem Group.makeCurrent_sections (gr : Group) (one : Bool) : (gr.makeCurrent one).sections = gr.sections := rfl
@[simp] theorem Group.makeCurrent_owed (gr : Group) (one : Bool) : (gr.makeCurrent one).owed = gr.owed := rfl
@[simp] theorem Group.makeCurrent_returns (gr : Group) (one : Bool) : (gr.makeCurrent one).returns = gr.returns := rfl
@[simp] theorem Group.makeCurrent_wait (gr : Group) (one : Bool) : (gr.makeCurrent one).wait = gr.wait := rfl
@[simp] theorem Group.makeCurrent_unfinished (gr : Group) (one : Bool) : (gr.makeCurrent one).unfinished = gr.unfinished := rfl
@[simp] theorem Group.makeCurrent_held (gr : Group) (one : Bool) : (gr.makeCurrent one).held = gr.held := rfl
@[simp] theorem Group.makeCurrent_watched (gr : Group) (one : Bool) : (gr.makeCurrent one).watched = gr.watched := rfl
@[simp] theorem Group.makeCurrent_pendingTrap (gr : Group) (one : Bool) : (gr.makeCurrent one).pendingTrap = gr.pendingTrap := rfl
@[simp] theorem Group.makeCurrent_codebase (gr : Group) (one : Bool) : (gr.makeCurrent one).codebase = gr.codebase := rfl
@[simp] theorem Group.makeCurrent_ranges (gr : Group) (one : Bool) : (gr.makeCurrent one).ranges = gr.ranges := rfl
@[simp] theorem Group.makeCurrent_chain (gr : Group) (one : Bool) : (gr.makeCurrent one).chain = gr.chain := rfl
@[simp] theorem Group.makeCurrent_roletab (gr : Group) (one : Bool) : (gr.makeCurrent one).roletab = gr.roletab := rfl
@[simp] theorem Group.makeCurrent_rolecnt (gr : Group) (one : Bool) : (gr.makeCurrent one).rolecnt = gr.rolecnt := rfl
@[simp] theorem Group.makeCurrent_faultdom (gr : Group) (one : Bool) : (gr.makeCurrent one).faultdom = gr.faultdom := rfl
@[simp] theorem Group.makeCurrent_quotas (gr : Group) (one : Bool) : (gr.makeCurrent one).quotas = gr.quotas := rfl
@[simp] theorem Group.makeCurrent_lrr (gr : Group) (one : Bool) : (gr.makeCurrent one).lrr = gr.lrr := rfl
@[simp] theorem Group.makeCurrent_age (gr : Group) (one : Bool) : (gr.makeCurrent one).age = gr.age := rfl
@[simp] theorem Group.makeCurrent_lastIssue (gr : Group) (one : Bool) : (gr.makeCurrent one).lastIssue = gr.lastIssue := rfl
@[simp] theorem Group.makeCurrent_since (gr : Group) (one : Bool) : (gr.makeCurrent one).since = gr.since := rfl
@[simp] theorem Group.makeCurrent_agedAt (gr : Group) (one : Bool) : (gr.makeCurrent one).agedAt = gr.agedAt := rfl
@[simp] theorem Group.makeCurrent_halted (gr : Group) (one : Bool) : (gr.makeCurrent one).halted = gr.halted := rfl
@[simp] theorem Group.makeCurrent_stepping (gr : Group) (one : Bool) : (gr.makeCurrent one).stepping = gr.stepping := rfl
@[simp] theorem Group.makeCurrent_late (gr : Group) (one : Bool) : (gr.makeCurrent one).late = gr.late := rfl
@[simp] theorem Group.makeCurrent_resume (gr : Group) (one : Bool) : (gr.makeCurrent one).resume = gr.resume := rfl
@[simp] theorem Group.makeCurrent_yielded (gr : Group) (one : Bool) : (gr.makeCurrent one).yielded = gr.yielded := rfl
@[simp] theorem Group.makeCurrent_drain (gr : Group) (one : Bool) : (gr.makeCurrent one).drain = gr.drain := rfl

/-! ### `Group.issued` -/

@[simp] theorem Group.issued_key (gr : Group) : (gr.issued).key = gr.key := rfl
@[simp] theorem Group.issued_live (gr : Group) : (gr.issued).live = gr.live := rfl
@[simp] theorem Group.issued_part (gr : Group) : (gr.issued).part = gr.part := rfl
@[simp] theorem Group.issued_cohort (gr : Group) : (gr.issued).cohort = gr.cohort := rfl
@[simp] theorem Group.issued_core (gr : Group) : (gr.issued).core = gr.core := rfl
@[simp] theorem Group.issued_slot (gr : Group) : (gr.issued).slot = gr.slot := rfl
@[simp] theorem Group.issued_octet (gr : Group) : (gr.issued).octet = gr.octet := rfl
@[simp] theorem Group.issued_width (gr : Group) : (gr.issued).width = gr.width := rfl
@[simp] theorem Group.issued_cid (gr : Group) : (gr.issued).cid = gr.cid := rfl
@[simp] theorem Group.issued_gid (gr : Group) : (gr.issued).gid = gr.gid := rfl
@[simp] theorem Group.issued_v (gr : Group) : (gr.issued).v = gr.v := rfl
@[simp] theorem Group.issued_xregs (gr : Group) : (gr.issued).xregs = gr.xregs := rfl
@[simp] theorem Group.issued_xwords (gr : Group) : (gr.issued).xwords = gr.xwords := rfl
@[simp] theorem Group.issued_g (gr : Group) : (gr.issued).g = gr.g := rfl
@[simp] theorem Group.issued_p (gr : Group) : (gr.issued).p = gr.p := rfl
@[simp] theorem Group.issued_c (gr : Group) : (gr.issued).c = gr.c := rfl
@[simp] theorem Group.issued_s0 (gr : Group) : (gr.issued).s0 = gr.s0 := rfl
@[simp] theorem Group.issued_s1 (gr : Group) : (gr.issued).s1 = gr.s1 := rfl
@[simp] theorem Group.issued_current (gr : Group) : (gr.issued).current = gr.current := rfl
@[simp] theorem Group.issued_issuing (gr : Group) : (gr.issued).issuing = gr.issuing := rfl
@[simp] theorem Group.issued_count (gr : Group) : (gr.issued).count = (if gr.issuing = gr.current then gr.count + 1 else gr.count) := rfl
@[simp] theorem Group.issued_quantum (gr : Group) : (gr.issued).quantum = gr.quantum := rfl
@[simp] theorem Group.issued_xm (gr : Group) : (gr.issued).xm = gr.xm := rfl
@[simp] theorem Group.issued_pathq (gr : Group) : (gr.issued).pathq = gr.pathq := rfl
@[simp] theorem Group.issued_rvsb (gr : Group) : (gr.issued).rvsb = gr.rvsb := rfl
@[simp] theorem Group.issued_rvcap (gr : Group) : (gr.issued).rvcap = gr.rvcap := rfl
@[simp] theorem Group.issued_rvdepth (gr : Group) : (gr.issued).rvdepth = gr.rvdepth := rfl
@[simp] theorem Group.issued_reserve (gr : Group) : (gr.issued).reserve = gr.reserve := rfl
@[simp] theorem Group.issued_horizon (gr : Group) : (gr.issued).horizon = gr.horizon := rfl
@[simp] theorem Group.issued_fsr (gr : Group) : (gr.issued).fsr = gr.fsr := rfl
@[simp] theorem Group.issued_mxc (gr : Group) : (gr.issued).mxc = gr.mxc := rfl
@[simp] theorem Group.issued_prio (gr : Group) : (gr.issued).prio = gr.prio := rfl
@[simp] theorem Group.issued_prioCap (gr : Group) : (gr.issued).prioCap = gr.prioCap := rfl
@[simp] theorem Group.issued_roleNone (gr : Group) : (gr.issued).roleNone = gr.roleNone := rfl
@[simp] theorem Group.issued_roleIdx (gr : Group) : (gr.issued).roleIdx = gr.roleIdx := rfl
@[simp] theorem Group.issued_trapv (gr : Group) : (gr.issued).trapv = gr.trapv := rfl
@[simp] theorem Group.issued_trapc (gr : Group) : (gr.issued).trapc = gr.trapc := rfl
@[simp] theorem Group.issued_trapa (gr : Group) : (gr.issued).trapa = gr.trapa := rfl
@[simp] theorem Group.issued_trapm (gr : Group) : (gr.issued).trapm = gr.trapm := rfl
@[simp] theorem Group.issued_sect (gr : Group) : (gr.issued).sect = gr.sect := rfl
@[simp] theorem Group.issued_stgFirst (gr : Group) : (gr.issued).stgFirst = gr.stgFirst := rfl
@[simp] theorem Group.issued_stgLines (gr : Group) : (gr.issued).stgLines = gr.stgLines := rfl
@[simp] theorem Group.issued_tileBase (gr : Group) : (gr.issued).tileBase = gr.tileBase := rfl
@[simp] theorem Group.issued_tileCount (gr : Group) : (gr.issued).tileCount = gr.tileCount := rfl
@[simp] theorem Group.issued_pend (gr : Group) : (gr.issued).pend = gr.pend := rfl
@[simp] theorem Group.issued_iters (gr : Group) : (gr.issued).iters = gr.iters := rfl
@[simp] theorem Group.issued_ports (gr : Group) : (gr.issued).ports = gr.ports := rfl
@[simp] theorem Group.issued_pushes (gr : Group) : (gr.issued).pushes = gr.pushes := rfl
@[simp] theorem Group.issued_sections (gr : Group) : (gr.issued).sections = gr.sections := rfl
@[simp] theorem Group.issued_owed (gr : Group) : (gr.issued).owed = gr.owed := rfl
@[simp] theorem Group.issued_returns (gr : Group) : (gr.issued).returns = gr.returns := rfl
@[simp] theorem Group.issued_wait (gr : Group) : (gr.issued).wait = .none := rfl
@[simp] theorem Group.issued_unfinished (gr : Group) : (gr.issued).unfinished = none := rfl
@[simp] theorem Group.issued_held (gr : Group) : (gr.issued).held = [] := rfl
@[simp] theorem Group.issued_watched (gr : Group) : (gr.issued).watched = [] := rfl
@[simp] theorem Group.issued_pendingTrap (gr : Group) : (gr.issued).pendingTrap = gr.pendingTrap := rfl
@[simp] theorem Group.issued_codebase (gr : Group) : (gr.issued).codebase = gr.codebase := rfl
@[simp] theorem Group.issued_ranges (gr : Group) : (gr.issued).ranges = gr.ranges := rfl
@[simp] theorem Group.issued_chain (gr : Group) : (gr.issued).chain = gr.chain := rfl
@[simp] theorem Group.issued_roletab (gr : Group) : (gr.issued).roletab = gr.roletab := rfl
@[simp] theorem Group.issued_rolecnt (gr : Group) : (gr.issued).rolecnt = gr.rolecnt := rfl
@[simp] theorem Group.issued_faultdom (gr : Group) : (gr.issued).faultdom = gr.faultdom := rfl
@[simp] theorem Group.issued_quotas (gr : Group) : (gr.issued).quotas = gr.quotas := rfl
@[simp] theorem Group.issued_lrr (gr : Group) : (gr.issued).lrr = gr.lrr := rfl
@[simp] theorem Group.issued_age (gr : Group) : (gr.issued).age = gr.age := rfl
@[simp] theorem Group.issued_lastIssue (gr : Group) : (gr.issued).lastIssue = gr.lastIssue := rfl
@[simp] theorem Group.issued_since (gr : Group) : (gr.issued).since = gr.since := rfl
@[simp] theorem Group.issued_agedAt (gr : Group) : (gr.issued).agedAt = none := rfl
@[simp] theorem Group.issued_halted (gr : Group) : (gr.issued).halted = (gr.halted || gr.stepping) := rfl
@[simp] theorem Group.issued_stepping (gr : Group) : (gr.issued).stepping = false := rfl
@[simp] theorem Group.issued_late (gr : Group) : (gr.issued).late = gr.late := rfl
@[simp] theorem Group.issued_resume (gr : Group) : (gr.issued).resume = gr.resume := rfl
@[simp] theorem Group.issued_yielded (gr : Group) : (gr.issued).yielded = false := rfl
@[simp] theorem Group.issued_drain (gr : Group) : (gr.issued).drain = gr.drain := rfl

/-! ### `Group.addFlags` -/

@[simp] theorem Group.addFlags_key (gr : Group) (f : FFlags) : (gr.addFlags f).key = gr.key := rfl
@[simp] theorem Group.addFlags_live (gr : Group) (f : FFlags) : (gr.addFlags f).live = gr.live := rfl
@[simp] theorem Group.addFlags_part (gr : Group) (f : FFlags) : (gr.addFlags f).part = gr.part := rfl
@[simp] theorem Group.addFlags_cohort (gr : Group) (f : FFlags) : (gr.addFlags f).cohort = gr.cohort := rfl
@[simp] theorem Group.addFlags_core (gr : Group) (f : FFlags) : (gr.addFlags f).core = gr.core := rfl
@[simp] theorem Group.addFlags_slot (gr : Group) (f : FFlags) : (gr.addFlags f).slot = gr.slot := rfl
@[simp] theorem Group.addFlags_octet (gr : Group) (f : FFlags) : (gr.addFlags f).octet = gr.octet := rfl
@[simp] theorem Group.addFlags_width (gr : Group) (f : FFlags) : (gr.addFlags f).width = gr.width := rfl
@[simp] theorem Group.addFlags_cid (gr : Group) (f : FFlags) : (gr.addFlags f).cid = gr.cid := rfl
@[simp] theorem Group.addFlags_gid (gr : Group) (f : FFlags) : (gr.addFlags f).gid = gr.gid := rfl
@[simp] theorem Group.addFlags_v (gr : Group) (f : FFlags) : (gr.addFlags f).v = gr.v := rfl
@[simp] theorem Group.addFlags_xregs (gr : Group) (f : FFlags) : (gr.addFlags f).xregs = gr.xregs := rfl
@[simp] theorem Group.addFlags_xwords (gr : Group) (f : FFlags) : (gr.addFlags f).xwords = gr.xwords := rfl
@[simp] theorem Group.addFlags_g (gr : Group) (f : FFlags) : (gr.addFlags f).g = gr.g := rfl
@[simp] theorem Group.addFlags_p (gr : Group) (f : FFlags) : (gr.addFlags f).p = gr.p := rfl
@[simp] theorem Group.addFlags_c (gr : Group) (f : FFlags) : (gr.addFlags f).c = gr.c := rfl
@[simp] theorem Group.addFlags_s0 (gr : Group) (f : FFlags) : (gr.addFlags f).s0 = gr.s0 := rfl
@[simp] theorem Group.addFlags_s1 (gr : Group) (f : FFlags) : (gr.addFlags f).s1 = gr.s1 := rfl
@[simp] theorem Group.addFlags_current (gr : Group) (f : FFlags) : (gr.addFlags f).current = gr.current := rfl
@[simp] theorem Group.addFlags_issuing (gr : Group) (f : FFlags) : (gr.addFlags f).issuing = gr.issuing := rfl
@[simp] theorem Group.addFlags_count (gr : Group) (f : FFlags) : (gr.addFlags f).count = gr.count := rfl
@[simp] theorem Group.addFlags_quantum (gr : Group) (f : FFlags) : (gr.addFlags f).quantum = gr.quantum := rfl
@[simp] theorem Group.addFlags_xm (gr : Group) (f : FFlags) : (gr.addFlags f).xm = gr.xm := rfl
@[simp] theorem Group.addFlags_pathq (gr : Group) (f : FFlags) : (gr.addFlags f).pathq = gr.pathq := rfl
@[simp] theorem Group.addFlags_rvsb (gr : Group) (f : FFlags) : (gr.addFlags f).rvsb = gr.rvsb := rfl
@[simp] theorem Group.addFlags_rvcap (gr : Group) (f : FFlags) : (gr.addFlags f).rvcap = gr.rvcap := rfl
@[simp] theorem Group.addFlags_rvdepth (gr : Group) (f : FFlags) : (gr.addFlags f).rvdepth = gr.rvdepth := rfl
@[simp] theorem Group.addFlags_reserve (gr : Group) (f : FFlags) : (gr.addFlags f).reserve = gr.reserve := rfl
@[simp] theorem Group.addFlags_horizon (gr : Group) (f : FFlags) : (gr.addFlags f).horizon = gr.horizon := rfl
@[simp] theorem Group.addFlags_fsr (gr : Group) (f : FFlags) : (gr.addFlags f).fsr = gr.fsr ||| f.setWidth 32 := rfl
@[simp] theorem Group.addFlags_mxc (gr : Group) (f : FFlags) : (gr.addFlags f).mxc = gr.mxc := rfl
@[simp] theorem Group.addFlags_prio (gr : Group) (f : FFlags) : (gr.addFlags f).prio = gr.prio := rfl
@[simp] theorem Group.addFlags_prioCap (gr : Group) (f : FFlags) : (gr.addFlags f).prioCap = gr.prioCap := rfl
@[simp] theorem Group.addFlags_roleNone (gr : Group) (f : FFlags) : (gr.addFlags f).roleNone = gr.roleNone := rfl
@[simp] theorem Group.addFlags_roleIdx (gr : Group) (f : FFlags) : (gr.addFlags f).roleIdx = gr.roleIdx := rfl
@[simp] theorem Group.addFlags_trapv (gr : Group) (f : FFlags) : (gr.addFlags f).trapv = gr.trapv := rfl
@[simp] theorem Group.addFlags_trapc (gr : Group) (f : FFlags) : (gr.addFlags f).trapc = gr.trapc := rfl
@[simp] theorem Group.addFlags_trapa (gr : Group) (f : FFlags) : (gr.addFlags f).trapa = gr.trapa := rfl
@[simp] theorem Group.addFlags_trapm (gr : Group) (f : FFlags) : (gr.addFlags f).trapm = gr.trapm := rfl
@[simp] theorem Group.addFlags_sect (gr : Group) (f : FFlags) : (gr.addFlags f).sect = gr.sect := rfl
@[simp] theorem Group.addFlags_stgFirst (gr : Group) (f : FFlags) : (gr.addFlags f).stgFirst = gr.stgFirst := rfl
@[simp] theorem Group.addFlags_stgLines (gr : Group) (f : FFlags) : (gr.addFlags f).stgLines = gr.stgLines := rfl
@[simp] theorem Group.addFlags_tileBase (gr : Group) (f : FFlags) : (gr.addFlags f).tileBase = gr.tileBase := rfl
@[simp] theorem Group.addFlags_tileCount (gr : Group) (f : FFlags) : (gr.addFlags f).tileCount = gr.tileCount := rfl
@[simp] theorem Group.addFlags_pend (gr : Group) (f : FFlags) : (gr.addFlags f).pend = gr.pend := rfl
@[simp] theorem Group.addFlags_iters (gr : Group) (f : FFlags) : (gr.addFlags f).iters = gr.iters := rfl
@[simp] theorem Group.addFlags_ports (gr : Group) (f : FFlags) : (gr.addFlags f).ports = gr.ports := rfl
@[simp] theorem Group.addFlags_pushes (gr : Group) (f : FFlags) : (gr.addFlags f).pushes = gr.pushes := rfl
@[simp] theorem Group.addFlags_sections (gr : Group) (f : FFlags) : (gr.addFlags f).sections = gr.sections := rfl
@[simp] theorem Group.addFlags_owed (gr : Group) (f : FFlags) : (gr.addFlags f).owed = gr.owed := rfl
@[simp] theorem Group.addFlags_returns (gr : Group) (f : FFlags) : (gr.addFlags f).returns = gr.returns := rfl
@[simp] theorem Group.addFlags_wait (gr : Group) (f : FFlags) : (gr.addFlags f).wait = gr.wait := rfl
@[simp] theorem Group.addFlags_unfinished (gr : Group) (f : FFlags) : (gr.addFlags f).unfinished = gr.unfinished := rfl
@[simp] theorem Group.addFlags_held (gr : Group) (f : FFlags) : (gr.addFlags f).held = gr.held := rfl
@[simp] theorem Group.addFlags_watched (gr : Group) (f : FFlags) : (gr.addFlags f).watched = gr.watched := rfl
@[simp] theorem Group.addFlags_pendingTrap (gr : Group) (f : FFlags) : (gr.addFlags f).pendingTrap = gr.pendingTrap := rfl
@[simp] theorem Group.addFlags_codebase (gr : Group) (f : FFlags) : (gr.addFlags f).codebase = gr.codebase := rfl
@[simp] theorem Group.addFlags_ranges (gr : Group) (f : FFlags) : (gr.addFlags f).ranges = gr.ranges := rfl
@[simp] theorem Group.addFlags_chain (gr : Group) (f : FFlags) : (gr.addFlags f).chain = gr.chain := rfl
@[simp] theorem Group.addFlags_roletab (gr : Group) (f : FFlags) : (gr.addFlags f).roletab = gr.roletab := rfl
@[simp] theorem Group.addFlags_rolecnt (gr : Group) (f : FFlags) : (gr.addFlags f).rolecnt = gr.rolecnt := rfl
@[simp] theorem Group.addFlags_faultdom (gr : Group) (f : FFlags) : (gr.addFlags f).faultdom = gr.faultdom := rfl
@[simp] theorem Group.addFlags_quotas (gr : Group) (f : FFlags) : (gr.addFlags f).quotas = gr.quotas := rfl
@[simp] theorem Group.addFlags_lrr (gr : Group) (f : FFlags) : (gr.addFlags f).lrr = gr.lrr := rfl
@[simp] theorem Group.addFlags_age (gr : Group) (f : FFlags) : (gr.addFlags f).age = gr.age := rfl
@[simp] theorem Group.addFlags_lastIssue (gr : Group) (f : FFlags) : (gr.addFlags f).lastIssue = gr.lastIssue := rfl
@[simp] theorem Group.addFlags_since (gr : Group) (f : FFlags) : (gr.addFlags f).since = gr.since := rfl
@[simp] theorem Group.addFlags_agedAt (gr : Group) (f : FFlags) : (gr.addFlags f).agedAt = gr.agedAt := rfl
@[simp] theorem Group.addFlags_halted (gr : Group) (f : FFlags) : (gr.addFlags f).halted = gr.halted := rfl
@[simp] theorem Group.addFlags_stepping (gr : Group) (f : FFlags) : (gr.addFlags f).stepping = gr.stepping := rfl
@[simp] theorem Group.addFlags_late (gr : Group) (f : FFlags) : (gr.addFlags f).late = gr.late := rfl
@[simp] theorem Group.addFlags_resume (gr : Group) (f : FFlags) : (gr.addFlags f).resume = gr.resume := rfl
@[simp] theorem Group.addFlags_yielded (gr : Group) (f : FFlags) : (gr.addFlags f).yielded = gr.yielded := rfl
@[simp] theorem Group.addFlags_drain (gr : Group) (f : FFlags) : (gr.addFlags f).drain = gr.drain := rfl

/-! ### `Group.setPort` -/

@[simp] theorem Group.setPort_key (gr : Group) (q : Nat) (p : Port) : (gr.setPort q p).key = gr.key := rfl
@[simp] theorem Group.setPort_live (gr : Group) (q : Nat) (p : Port) : (gr.setPort q p).live = gr.live := rfl
@[simp] theorem Group.setPort_part (gr : Group) (q : Nat) (p : Port) : (gr.setPort q p).part = gr.part := rfl
@[simp] theorem Group.setPort_cohort (gr : Group) (q : Nat) (p : Port) : (gr.setPort q p).cohort = gr.cohort := rfl
@[simp] theorem Group.setPort_core (gr : Group) (q : Nat) (p : Port) : (gr.setPort q p).core = gr.core := rfl
@[simp] theorem Group.setPort_slot (gr : Group) (q : Nat) (p : Port) : (gr.setPort q p).slot = gr.slot := rfl
@[simp] theorem Group.setPort_octet (gr : Group) (q : Nat) (p : Port) : (gr.setPort q p).octet = gr.octet := rfl
@[simp] theorem Group.setPort_width (gr : Group) (q : Nat) (p : Port) : (gr.setPort q p).width = gr.width := rfl
@[simp] theorem Group.setPort_cid (gr : Group) (q : Nat) (p : Port) : (gr.setPort q p).cid = gr.cid := rfl
@[simp] theorem Group.setPort_gid (gr : Group) (q : Nat) (p : Port) : (gr.setPort q p).gid = gr.gid := rfl
@[simp] theorem Group.setPort_v (gr : Group) (q : Nat) (p : Port) : (gr.setPort q p).v = gr.v := rfl
@[simp] theorem Group.setPort_xregs (gr : Group) (q : Nat) (p : Port) : (gr.setPort q p).xregs = gr.xregs := rfl
@[simp] theorem Group.setPort_xwords (gr : Group) (q : Nat) (p : Port) : (gr.setPort q p).xwords = gr.xwords := rfl
@[simp] theorem Group.setPort_g (gr : Group) (q : Nat) (p : Port) : (gr.setPort q p).g = gr.g := rfl
@[simp] theorem Group.setPort_p (gr : Group) (q : Nat) (p : Port) : (gr.setPort q p).p = gr.p := rfl
@[simp] theorem Group.setPort_c (gr : Group) (q : Nat) (p : Port) : (gr.setPort q p).c = gr.c := rfl
@[simp] theorem Group.setPort_s0 (gr : Group) (q : Nat) (p : Port) : (gr.setPort q p).s0 = gr.s0 := rfl
@[simp] theorem Group.setPort_s1 (gr : Group) (q : Nat) (p : Port) : (gr.setPort q p).s1 = gr.s1 := rfl
@[simp] theorem Group.setPort_current (gr : Group) (q : Nat) (p : Port) : (gr.setPort q p).current = gr.current := rfl
@[simp] theorem Group.setPort_issuing (gr : Group) (q : Nat) (p : Port) : (gr.setPort q p).issuing = gr.issuing := rfl
@[simp] theorem Group.setPort_count (gr : Group) (q : Nat) (p : Port) : (gr.setPort q p).count = gr.count := rfl
@[simp] theorem Group.setPort_quantum (gr : Group) (q : Nat) (p : Port) : (gr.setPort q p).quantum = gr.quantum := rfl
@[simp] theorem Group.setPort_xm (gr : Group) (q : Nat) (p : Port) : (gr.setPort q p).xm = gr.xm := rfl
@[simp] theorem Group.setPort_pathq (gr : Group) (q : Nat) (p : Port) : (gr.setPort q p).pathq = gr.pathq := rfl
@[simp] theorem Group.setPort_rvsb (gr : Group) (q : Nat) (p : Port) : (gr.setPort q p).rvsb = gr.rvsb := rfl
@[simp] theorem Group.setPort_rvcap (gr : Group) (q : Nat) (p : Port) : (gr.setPort q p).rvcap = gr.rvcap := rfl
@[simp] theorem Group.setPort_rvdepth (gr : Group) (q : Nat) (p : Port) : (gr.setPort q p).rvdepth = gr.rvdepth := rfl
@[simp] theorem Group.setPort_reserve (gr : Group) (q : Nat) (p : Port) : (gr.setPort q p).reserve = gr.reserve := rfl
@[simp] theorem Group.setPort_horizon (gr : Group) (q : Nat) (p : Port) : (gr.setPort q p).horizon = gr.horizon := rfl
@[simp] theorem Group.setPort_fsr (gr : Group) (q : Nat) (p : Port) : (gr.setPort q p).fsr = gr.fsr := rfl
@[simp] theorem Group.setPort_mxc (gr : Group) (q : Nat) (p : Port) : (gr.setPort q p).mxc = gr.mxc := rfl
@[simp] theorem Group.setPort_prio (gr : Group) (q : Nat) (p : Port) : (gr.setPort q p).prio = gr.prio := rfl
@[simp] theorem Group.setPort_prioCap (gr : Group) (q : Nat) (p : Port) : (gr.setPort q p).prioCap = gr.prioCap := rfl
@[simp] theorem Group.setPort_roleNone (gr : Group) (q : Nat) (p : Port) : (gr.setPort q p).roleNone = gr.roleNone := rfl
@[simp] theorem Group.setPort_roleIdx (gr : Group) (q : Nat) (p : Port) : (gr.setPort q p).roleIdx = gr.roleIdx := rfl
@[simp] theorem Group.setPort_trapv (gr : Group) (q : Nat) (p : Port) : (gr.setPort q p).trapv = gr.trapv := rfl
@[simp] theorem Group.setPort_trapc (gr : Group) (q : Nat) (p : Port) : (gr.setPort q p).trapc = gr.trapc := rfl
@[simp] theorem Group.setPort_trapa (gr : Group) (q : Nat) (p : Port) : (gr.setPort q p).trapa = gr.trapa := rfl
@[simp] theorem Group.setPort_trapm (gr : Group) (q : Nat) (p : Port) : (gr.setPort q p).trapm = gr.trapm := rfl
@[simp] theorem Group.setPort_sect (gr : Group) (q : Nat) (p : Port) : (gr.setPort q p).sect = gr.sect := rfl
@[simp] theorem Group.setPort_stgFirst (gr : Group) (q : Nat) (p : Port) : (gr.setPort q p).stgFirst = gr.stgFirst := rfl
@[simp] theorem Group.setPort_stgLines (gr : Group) (q : Nat) (p : Port) : (gr.setPort q p).stgLines = gr.stgLines := rfl
@[simp] theorem Group.setPort_tileBase (gr : Group) (q : Nat) (p : Port) : (gr.setPort q p).tileBase = gr.tileBase := rfl
@[simp] theorem Group.setPort_tileCount (gr : Group) (q : Nat) (p : Port) : (gr.setPort q p).tileCount = gr.tileCount := rfl
@[simp] theorem Group.setPort_pend (gr : Group) (q : Nat) (p : Port) : (gr.setPort q p).pend = gr.pend := rfl
@[simp] theorem Group.setPort_iters (gr : Group) (q : Nat) (p : Port) : (gr.setPort q p).iters = gr.iters := rfl
@[simp] theorem Group.setPort_ports (gr : Group) (q : Nat) (p : Port) : (gr.setPort q p).ports = gr.ports.setIfInBounds q p := rfl
@[simp] theorem Group.setPort_pushes (gr : Group) (q : Nat) (p : Port) : (gr.setPort q p).pushes = gr.pushes := rfl
@[simp] theorem Group.setPort_sections (gr : Group) (q : Nat) (p : Port) : (gr.setPort q p).sections = gr.sections := rfl
@[simp] theorem Group.setPort_owed (gr : Group) (q : Nat) (p : Port) : (gr.setPort q p).owed = gr.owed := rfl
@[simp] theorem Group.setPort_returns (gr : Group) (q : Nat) (p : Port) : (gr.setPort q p).returns = gr.returns := rfl
@[simp] theorem Group.setPort_wait (gr : Group) (q : Nat) (p : Port) : (gr.setPort q p).wait = gr.wait := rfl
@[simp] theorem Group.setPort_unfinished (gr : Group) (q : Nat) (p : Port) : (gr.setPort q p).unfinished = gr.unfinished := rfl
@[simp] theorem Group.setPort_held (gr : Group) (q : Nat) (p : Port) : (gr.setPort q p).held = gr.held := rfl
@[simp] theorem Group.setPort_watched (gr : Group) (q : Nat) (p : Port) : (gr.setPort q p).watched = gr.watched := rfl
@[simp] theorem Group.setPort_pendingTrap (gr : Group) (q : Nat) (p : Port) : (gr.setPort q p).pendingTrap = gr.pendingTrap := rfl
@[simp] theorem Group.setPort_codebase (gr : Group) (q : Nat) (p : Port) : (gr.setPort q p).codebase = gr.codebase := rfl
@[simp] theorem Group.setPort_ranges (gr : Group) (q : Nat) (p : Port) : (gr.setPort q p).ranges = gr.ranges := rfl
@[simp] theorem Group.setPort_chain (gr : Group) (q : Nat) (p : Port) : (gr.setPort q p).chain = gr.chain := rfl
@[simp] theorem Group.setPort_roletab (gr : Group) (q : Nat) (p : Port) : (gr.setPort q p).roletab = gr.roletab := rfl
@[simp] theorem Group.setPort_rolecnt (gr : Group) (q : Nat) (p : Port) : (gr.setPort q p).rolecnt = gr.rolecnt := rfl
@[simp] theorem Group.setPort_faultdom (gr : Group) (q : Nat) (p : Port) : (gr.setPort q p).faultdom = gr.faultdom := rfl
@[simp] theorem Group.setPort_quotas (gr : Group) (q : Nat) (p : Port) : (gr.setPort q p).quotas = gr.quotas := rfl
@[simp] theorem Group.setPort_lrr (gr : Group) (q : Nat) (p : Port) : (gr.setPort q p).lrr = gr.lrr := rfl
@[simp] theorem Group.setPort_age (gr : Group) (q : Nat) (p : Port) : (gr.setPort q p).age = gr.age := rfl
@[simp] theorem Group.setPort_lastIssue (gr : Group) (q : Nat) (p : Port) : (gr.setPort q p).lastIssue = gr.lastIssue := rfl
@[simp] theorem Group.setPort_since (gr : Group) (q : Nat) (p : Port) : (gr.setPort q p).since = gr.since := rfl
@[simp] theorem Group.setPort_agedAt (gr : Group) (q : Nat) (p : Port) : (gr.setPort q p).agedAt = gr.agedAt := rfl
@[simp] theorem Group.setPort_halted (gr : Group) (q : Nat) (p : Port) : (gr.setPort q p).halted = gr.halted := rfl
@[simp] theorem Group.setPort_stepping (gr : Group) (q : Nat) (p : Port) : (gr.setPort q p).stepping = gr.stepping := rfl
@[simp] theorem Group.setPort_late (gr : Group) (q : Nat) (p : Port) : (gr.setPort q p).late = gr.late := rfl
@[simp] theorem Group.setPort_resume (gr : Group) (q : Nat) (p : Port) : (gr.setPort q p).resume = gr.resume := rfl
@[simp] theorem Group.setPort_yielded (gr : Group) (q : Nat) (p : Port) : (gr.setPort q p).yielded = gr.yielded := rfl
@[simp] theorem Group.setPort_drain (gr : Group) (q : Nat) (p : Port) : (gr.setPort q p).drain = gr.drain := rfl

/-! ### `Group.setU` -/

@[simp] theorem Group.setU_key (gr : Group) (r : Reg) (w : Word) : (gr.setU r w).key = gr.key := by unfold Group.setU; split <;> rfl
@[simp] theorem Group.setU_live (gr : Group) (r : Reg) (w : Word) : (gr.setU r w).live = gr.live := by unfold Group.setU; split <;> rfl
@[simp] theorem Group.setU_part (gr : Group) (r : Reg) (w : Word) : (gr.setU r w).part = gr.part := by unfold Group.setU; split <;> rfl
@[simp] theorem Group.setU_cohort (gr : Group) (r : Reg) (w : Word) : (gr.setU r w).cohort = gr.cohort := by unfold Group.setU; split <;> rfl
@[simp] theorem Group.setU_core (gr : Group) (r : Reg) (w : Word) : (gr.setU r w).core = gr.core := by unfold Group.setU; split <;> rfl
@[simp] theorem Group.setU_slot (gr : Group) (r : Reg) (w : Word) : (gr.setU r w).slot = gr.slot := by unfold Group.setU; split <;> rfl
@[simp] theorem Group.setU_octet (gr : Group) (r : Reg) (w : Word) : (gr.setU r w).octet = gr.octet := by unfold Group.setU; split <;> rfl
@[simp] theorem Group.setU_width (gr : Group) (r : Reg) (w : Word) : (gr.setU r w).width = gr.width := by unfold Group.setU; split <;> rfl
@[simp] theorem Group.setU_cid (gr : Group) (r : Reg) (w : Word) : (gr.setU r w).cid = gr.cid := by unfold Group.setU; split <;> rfl
@[simp] theorem Group.setU_gid (gr : Group) (r : Reg) (w : Word) : (gr.setU r w).gid = gr.gid := by unfold Group.setU; split <;> rfl
@[simp] theorem Group.setU_xregs (gr : Group) (r : Reg) (w : Word) : (gr.setU r w).xregs = gr.xregs := by unfold Group.setU; split <;> rfl
@[simp] theorem Group.setU_xwords (gr : Group) (r : Reg) (w : Word) : (gr.setU r w).xwords = gr.xwords := by unfold Group.setU; split <;> rfl
@[simp] theorem Group.setU_p (gr : Group) (r : Reg) (w : Word) : (gr.setU r w).p = gr.p := by unfold Group.setU; split <;> rfl
@[simp] theorem Group.setU_c (gr : Group) (r : Reg) (w : Word) : (gr.setU r w).c = gr.c := by unfold Group.setU; split <;> rfl
@[simp] theorem Group.setU_s0 (gr : Group) (r : Reg) (w : Word) : (gr.setU r w).s0 = gr.s0 := by unfold Group.setU; split <;> rfl
@[simp] theorem Group.setU_s1 (gr : Group) (r : Reg) (w : Word) : (gr.setU r w).s1 = gr.s1 := by unfold Group.setU; split <;> rfl
@[simp] theorem Group.setU_current (gr : Group) (r : Reg) (w : Word) : (gr.setU r w).current = gr.current := by unfold Group.setU; split <;> rfl
@[simp] theorem Group.setU_issuing (gr : Group) (r : Reg) (w : Word) : (gr.setU r w).issuing = gr.issuing := by unfold Group.setU; split <;> rfl
@[simp] theorem Group.setU_count (gr : Group) (r : Reg) (w : Word) : (gr.setU r w).count = gr.count := by unfold Group.setU; split <;> rfl
@[simp] theorem Group.setU_quantum (gr : Group) (r : Reg) (w : Word) : (gr.setU r w).quantum = gr.quantum := by unfold Group.setU; split <;> rfl
@[simp] theorem Group.setU_xm (gr : Group) (r : Reg) (w : Word) : (gr.setU r w).xm = gr.xm := by unfold Group.setU; split <;> rfl
@[simp] theorem Group.setU_pathq (gr : Group) (r : Reg) (w : Word) : (gr.setU r w).pathq = gr.pathq := by unfold Group.setU; split <;> rfl
@[simp] theorem Group.setU_rvsb (gr : Group) (r : Reg) (w : Word) : (gr.setU r w).rvsb = gr.rvsb := by unfold Group.setU; split <;> rfl
@[simp] theorem Group.setU_rvcap (gr : Group) (r : Reg) (w : Word) : (gr.setU r w).rvcap = gr.rvcap := by unfold Group.setU; split <;> rfl
@[simp] theorem Group.setU_rvdepth (gr : Group) (r : Reg) (w : Word) : (gr.setU r w).rvdepth = gr.rvdepth := by unfold Group.setU; split <;> rfl
@[simp] theorem Group.setU_reserve (gr : Group) (r : Reg) (w : Word) : (gr.setU r w).reserve = gr.reserve := by unfold Group.setU; split <;> rfl
@[simp] theorem Group.setU_horizon (gr : Group) (r : Reg) (w : Word) : (gr.setU r w).horizon = gr.horizon := by unfold Group.setU; split <;> rfl
@[simp] theorem Group.setU_fsr (gr : Group) (r : Reg) (w : Word) : (gr.setU r w).fsr = gr.fsr := by unfold Group.setU; split <;> rfl
@[simp] theorem Group.setU_mxc (gr : Group) (r : Reg) (w : Word) : (gr.setU r w).mxc = gr.mxc := by unfold Group.setU; split <;> rfl
@[simp] theorem Group.setU_prio (gr : Group) (r : Reg) (w : Word) : (gr.setU r w).prio = gr.prio := by unfold Group.setU; split <;> rfl
@[simp] theorem Group.setU_prioCap (gr : Group) (r : Reg) (w : Word) : (gr.setU r w).prioCap = gr.prioCap := by unfold Group.setU; split <;> rfl
@[simp] theorem Group.setU_roleNone (gr : Group) (r : Reg) (w : Word) : (gr.setU r w).roleNone = gr.roleNone := by unfold Group.setU; split <;> rfl
@[simp] theorem Group.setU_roleIdx (gr : Group) (r : Reg) (w : Word) : (gr.setU r w).roleIdx = gr.roleIdx := by unfold Group.setU; split <;> rfl
@[simp] theorem Group.setU_trapv (gr : Group) (r : Reg) (w : Word) : (gr.setU r w).trapv = gr.trapv := by unfold Group.setU; split <;> rfl
@[simp] theorem Group.setU_trapc (gr : Group) (r : Reg) (w : Word) : (gr.setU r w).trapc = gr.trapc := by unfold Group.setU; split <;> rfl
@[simp] theorem Group.setU_trapa (gr : Group) (r : Reg) (w : Word) : (gr.setU r w).trapa = gr.trapa := by unfold Group.setU; split <;> rfl
@[simp] theorem Group.setU_trapm (gr : Group) (r : Reg) (w : Word) : (gr.setU r w).trapm = gr.trapm := by unfold Group.setU; split <;> rfl
@[simp] theorem Group.setU_sect (gr : Group) (r : Reg) (w : Word) : (gr.setU r w).sect = gr.sect := by unfold Group.setU; split <;> rfl
@[simp] theorem Group.setU_stgFirst (gr : Group) (r : Reg) (w : Word) : (gr.setU r w).stgFirst = gr.stgFirst := by unfold Group.setU; split <;> rfl
@[simp] theorem Group.setU_stgLines (gr : Group) (r : Reg) (w : Word) : (gr.setU r w).stgLines = gr.stgLines := by unfold Group.setU; split <;> rfl
@[simp] theorem Group.setU_tileBase (gr : Group) (r : Reg) (w : Word) : (gr.setU r w).tileBase = gr.tileBase := by unfold Group.setU; split <;> rfl
@[simp] theorem Group.setU_tileCount (gr : Group) (r : Reg) (w : Word) : (gr.setU r w).tileCount = gr.tileCount := by unfold Group.setU; split <;> rfl
@[simp] theorem Group.setU_iters (gr : Group) (r : Reg) (w : Word) : (gr.setU r w).iters = gr.iters := by unfold Group.setU; split <;> rfl
@[simp] theorem Group.setU_ports (gr : Group) (r : Reg) (w : Word) : (gr.setU r w).ports = gr.ports := by unfold Group.setU; split <;> rfl
@[simp] theorem Group.setU_pushes (gr : Group) (r : Reg) (w : Word) : (gr.setU r w).pushes = gr.pushes := by unfold Group.setU; split <;> rfl
@[simp] theorem Group.setU_sections (gr : Group) (r : Reg) (w : Word) : (gr.setU r w).sections = gr.sections := by unfold Group.setU; split <;> rfl
@[simp] theorem Group.setU_owed (gr : Group) (r : Reg) (w : Word) : (gr.setU r w).owed = gr.owed := by unfold Group.setU; split <;> rfl
@[simp] theorem Group.setU_returns (gr : Group) (r : Reg) (w : Word) : (gr.setU r w).returns = gr.returns := by unfold Group.setU; split <;> rfl
@[simp] theorem Group.setU_wait (gr : Group) (r : Reg) (w : Word) : (gr.setU r w).wait = gr.wait := by unfold Group.setU; split <;> rfl
@[simp] theorem Group.setU_unfinished (gr : Group) (r : Reg) (w : Word) : (gr.setU r w).unfinished = gr.unfinished := by unfold Group.setU; split <;> rfl
@[simp] theorem Group.setU_held (gr : Group) (r : Reg) (w : Word) : (gr.setU r w).held = gr.held := by unfold Group.setU; split <;> rfl
@[simp] theorem Group.setU_watched (gr : Group) (r : Reg) (w : Word) : (gr.setU r w).watched = gr.watched := by unfold Group.setU; split <;> rfl
@[simp] theorem Group.setU_pendingTrap (gr : Group) (r : Reg) (w : Word) : (gr.setU r w).pendingTrap = gr.pendingTrap := by unfold Group.setU; split <;> rfl
@[simp] theorem Group.setU_codebase (gr : Group) (r : Reg) (w : Word) : (gr.setU r w).codebase = gr.codebase := by unfold Group.setU; split <;> rfl
@[simp] theorem Group.setU_ranges (gr : Group) (r : Reg) (w : Word) : (gr.setU r w).ranges = gr.ranges := by unfold Group.setU; split <;> rfl
@[simp] theorem Group.setU_chain (gr : Group) (r : Reg) (w : Word) : (gr.setU r w).chain = gr.chain := by unfold Group.setU; split <;> rfl
@[simp] theorem Group.setU_roletab (gr : Group) (r : Reg) (w : Word) : (gr.setU r w).roletab = gr.roletab := by unfold Group.setU; split <;> rfl
@[simp] theorem Group.setU_rolecnt (gr : Group) (r : Reg) (w : Word) : (gr.setU r w).rolecnt = gr.rolecnt := by unfold Group.setU; split <;> rfl
@[simp] theorem Group.setU_faultdom (gr : Group) (r : Reg) (w : Word) : (gr.setU r w).faultdom = gr.faultdom := by unfold Group.setU; split <;> rfl
@[simp] theorem Group.setU_quotas (gr : Group) (r : Reg) (w : Word) : (gr.setU r w).quotas = gr.quotas := by unfold Group.setU; split <;> rfl
@[simp] theorem Group.setU_lrr (gr : Group) (r : Reg) (w : Word) : (gr.setU r w).lrr = gr.lrr := by unfold Group.setU; split <;> rfl
@[simp] theorem Group.setU_age (gr : Group) (r : Reg) (w : Word) : (gr.setU r w).age = gr.age := by unfold Group.setU; split <;> rfl
@[simp] theorem Group.setU_lastIssue (gr : Group) (r : Reg) (w : Word) : (gr.setU r w).lastIssue = gr.lastIssue := by unfold Group.setU; split <;> rfl
@[simp] theorem Group.setU_since (gr : Group) (r : Reg) (w : Word) : (gr.setU r w).since = gr.since := by unfold Group.setU; split <;> rfl
@[simp] theorem Group.setU_agedAt (gr : Group) (r : Reg) (w : Word) : (gr.setU r w).agedAt = gr.agedAt := by unfold Group.setU; split <;> rfl
@[simp] theorem Group.setU_halted (gr : Group) (r : Reg) (w : Word) : (gr.setU r w).halted = gr.halted := by unfold Group.setU; split <;> rfl
@[simp] theorem Group.setU_stepping (gr : Group) (r : Reg) (w : Word) : (gr.setU r w).stepping = gr.stepping := by unfold Group.setU; split <;> rfl
@[simp] theorem Group.setU_late (gr : Group) (r : Reg) (w : Word) : (gr.setU r w).late = gr.late := by unfold Group.setU; split <;> rfl
@[simp] theorem Group.setU_resume (gr : Group) (r : Reg) (w : Word) : (gr.setU r w).resume = gr.resume := by unfold Group.setU; split <;> rfl
@[simp] theorem Group.setU_yielded (gr : Group) (r : Reg) (w : Word) : (gr.setU r w).yielded = gr.yielded := by unfold Group.setU; split <;> rfl
@[simp] theorem Group.setU_drain (gr : Group) (r : Reg) (w : Word) : (gr.setU r w).drain = gr.drain := by unfold Group.setU; split <;> rfl

/-! ### `Group.setUD` -/

@[simp] theorem Group.setUD_key (gr : Group) (r : Reg) (x : DWord) : (gr.setUD r x).key = gr.key := by simp [Group.setUD]
@[simp] theorem Group.setUD_live (gr : Group) (r : Reg) (x : DWord) : (gr.setUD r x).live = gr.live := by simp [Group.setUD]
@[simp] theorem Group.setUD_part (gr : Group) (r : Reg) (x : DWord) : (gr.setUD r x).part = gr.part := by simp [Group.setUD]
@[simp] theorem Group.setUD_cohort (gr : Group) (r : Reg) (x : DWord) : (gr.setUD r x).cohort = gr.cohort := by simp [Group.setUD]
@[simp] theorem Group.setUD_core (gr : Group) (r : Reg) (x : DWord) : (gr.setUD r x).core = gr.core := by simp [Group.setUD]
@[simp] theorem Group.setUD_slot (gr : Group) (r : Reg) (x : DWord) : (gr.setUD r x).slot = gr.slot := by simp [Group.setUD]
@[simp] theorem Group.setUD_octet (gr : Group) (r : Reg) (x : DWord) : (gr.setUD r x).octet = gr.octet := by simp [Group.setUD]
@[simp] theorem Group.setUD_width (gr : Group) (r : Reg) (x : DWord) : (gr.setUD r x).width = gr.width := by simp [Group.setUD]
@[simp] theorem Group.setUD_cid (gr : Group) (r : Reg) (x : DWord) : (gr.setUD r x).cid = gr.cid := by simp [Group.setUD]
@[simp] theorem Group.setUD_gid (gr : Group) (r : Reg) (x : DWord) : (gr.setUD r x).gid = gr.gid := by simp [Group.setUD]
@[simp] theorem Group.setUD_xregs (gr : Group) (r : Reg) (x : DWord) : (gr.setUD r x).xregs = gr.xregs := by simp [Group.setUD]
@[simp] theorem Group.setUD_xwords (gr : Group) (r : Reg) (x : DWord) : (gr.setUD r x).xwords = gr.xwords := by simp [Group.setUD]
@[simp] theorem Group.setUD_p (gr : Group) (r : Reg) (x : DWord) : (gr.setUD r x).p = gr.p := by simp [Group.setUD]
@[simp] theorem Group.setUD_c (gr : Group) (r : Reg) (x : DWord) : (gr.setUD r x).c = gr.c := by simp [Group.setUD]
@[simp] theorem Group.setUD_s0 (gr : Group) (r : Reg) (x : DWord) : (gr.setUD r x).s0 = gr.s0 := by simp [Group.setUD]
@[simp] theorem Group.setUD_s1 (gr : Group) (r : Reg) (x : DWord) : (gr.setUD r x).s1 = gr.s1 := by simp [Group.setUD]
@[simp] theorem Group.setUD_current (gr : Group) (r : Reg) (x : DWord) : (gr.setUD r x).current = gr.current := by simp [Group.setUD]
@[simp] theorem Group.setUD_issuing (gr : Group) (r : Reg) (x : DWord) : (gr.setUD r x).issuing = gr.issuing := by simp [Group.setUD]
@[simp] theorem Group.setUD_count (gr : Group) (r : Reg) (x : DWord) : (gr.setUD r x).count = gr.count := by simp [Group.setUD]
@[simp] theorem Group.setUD_quantum (gr : Group) (r : Reg) (x : DWord) : (gr.setUD r x).quantum = gr.quantum := by simp [Group.setUD]
@[simp] theorem Group.setUD_xm (gr : Group) (r : Reg) (x : DWord) : (gr.setUD r x).xm = gr.xm := by simp [Group.setUD]
@[simp] theorem Group.setUD_pathq (gr : Group) (r : Reg) (x : DWord) : (gr.setUD r x).pathq = gr.pathq := by simp [Group.setUD]
@[simp] theorem Group.setUD_rvsb (gr : Group) (r : Reg) (x : DWord) : (gr.setUD r x).rvsb = gr.rvsb := by simp [Group.setUD]
@[simp] theorem Group.setUD_rvcap (gr : Group) (r : Reg) (x : DWord) : (gr.setUD r x).rvcap = gr.rvcap := by simp [Group.setUD]
@[simp] theorem Group.setUD_rvdepth (gr : Group) (r : Reg) (x : DWord) : (gr.setUD r x).rvdepth = gr.rvdepth := by simp [Group.setUD]
@[simp] theorem Group.setUD_reserve (gr : Group) (r : Reg) (x : DWord) : (gr.setUD r x).reserve = gr.reserve := by simp [Group.setUD]
@[simp] theorem Group.setUD_horizon (gr : Group) (r : Reg) (x : DWord) : (gr.setUD r x).horizon = gr.horizon := by simp [Group.setUD]
@[simp] theorem Group.setUD_fsr (gr : Group) (r : Reg) (x : DWord) : (gr.setUD r x).fsr = gr.fsr := by simp [Group.setUD]
@[simp] theorem Group.setUD_mxc (gr : Group) (r : Reg) (x : DWord) : (gr.setUD r x).mxc = gr.mxc := by simp [Group.setUD]
@[simp] theorem Group.setUD_prio (gr : Group) (r : Reg) (x : DWord) : (gr.setUD r x).prio = gr.prio := by simp [Group.setUD]
@[simp] theorem Group.setUD_prioCap (gr : Group) (r : Reg) (x : DWord) : (gr.setUD r x).prioCap = gr.prioCap := by simp [Group.setUD]
@[simp] theorem Group.setUD_roleNone (gr : Group) (r : Reg) (x : DWord) : (gr.setUD r x).roleNone = gr.roleNone := by simp [Group.setUD]
@[simp] theorem Group.setUD_roleIdx (gr : Group) (r : Reg) (x : DWord) : (gr.setUD r x).roleIdx = gr.roleIdx := by simp [Group.setUD]
@[simp] theorem Group.setUD_trapv (gr : Group) (r : Reg) (x : DWord) : (gr.setUD r x).trapv = gr.trapv := by simp [Group.setUD]
@[simp] theorem Group.setUD_trapc (gr : Group) (r : Reg) (x : DWord) : (gr.setUD r x).trapc = gr.trapc := by simp [Group.setUD]
@[simp] theorem Group.setUD_trapa (gr : Group) (r : Reg) (x : DWord) : (gr.setUD r x).trapa = gr.trapa := by simp [Group.setUD]
@[simp] theorem Group.setUD_trapm (gr : Group) (r : Reg) (x : DWord) : (gr.setUD r x).trapm = gr.trapm := by simp [Group.setUD]
@[simp] theorem Group.setUD_sect (gr : Group) (r : Reg) (x : DWord) : (gr.setUD r x).sect = gr.sect := by simp [Group.setUD]
@[simp] theorem Group.setUD_stgFirst (gr : Group) (r : Reg) (x : DWord) : (gr.setUD r x).stgFirst = gr.stgFirst := by simp [Group.setUD]
@[simp] theorem Group.setUD_stgLines (gr : Group) (r : Reg) (x : DWord) : (gr.setUD r x).stgLines = gr.stgLines := by simp [Group.setUD]
@[simp] theorem Group.setUD_tileBase (gr : Group) (r : Reg) (x : DWord) : (gr.setUD r x).tileBase = gr.tileBase := by simp [Group.setUD]
@[simp] theorem Group.setUD_tileCount (gr : Group) (r : Reg) (x : DWord) : (gr.setUD r x).tileCount = gr.tileCount := by simp [Group.setUD]
@[simp] theorem Group.setUD_iters (gr : Group) (r : Reg) (x : DWord) : (gr.setUD r x).iters = gr.iters := by simp [Group.setUD]
@[simp] theorem Group.setUD_ports (gr : Group) (r : Reg) (x : DWord) : (gr.setUD r x).ports = gr.ports := by simp [Group.setUD]
@[simp] theorem Group.setUD_pushes (gr : Group) (r : Reg) (x : DWord) : (gr.setUD r x).pushes = gr.pushes := by simp [Group.setUD]
@[simp] theorem Group.setUD_sections (gr : Group) (r : Reg) (x : DWord) : (gr.setUD r x).sections = gr.sections := by simp [Group.setUD]
@[simp] theorem Group.setUD_owed (gr : Group) (r : Reg) (x : DWord) : (gr.setUD r x).owed = gr.owed := by simp [Group.setUD]
@[simp] theorem Group.setUD_returns (gr : Group) (r : Reg) (x : DWord) : (gr.setUD r x).returns = gr.returns := by simp [Group.setUD]
@[simp] theorem Group.setUD_wait (gr : Group) (r : Reg) (x : DWord) : (gr.setUD r x).wait = gr.wait := by simp [Group.setUD]
@[simp] theorem Group.setUD_unfinished (gr : Group) (r : Reg) (x : DWord) : (gr.setUD r x).unfinished = gr.unfinished := by simp [Group.setUD]
@[simp] theorem Group.setUD_held (gr : Group) (r : Reg) (x : DWord) : (gr.setUD r x).held = gr.held := by simp [Group.setUD]
@[simp] theorem Group.setUD_watched (gr : Group) (r : Reg) (x : DWord) : (gr.setUD r x).watched = gr.watched := by simp [Group.setUD]
@[simp] theorem Group.setUD_pendingTrap (gr : Group) (r : Reg) (x : DWord) : (gr.setUD r x).pendingTrap = gr.pendingTrap := by simp [Group.setUD]
@[simp] theorem Group.setUD_codebase (gr : Group) (r : Reg) (x : DWord) : (gr.setUD r x).codebase = gr.codebase := by simp [Group.setUD]
@[simp] theorem Group.setUD_ranges (gr : Group) (r : Reg) (x : DWord) : (gr.setUD r x).ranges = gr.ranges := by simp [Group.setUD]
@[simp] theorem Group.setUD_chain (gr : Group) (r : Reg) (x : DWord) : (gr.setUD r x).chain = gr.chain := by simp [Group.setUD]
@[simp] theorem Group.setUD_roletab (gr : Group) (r : Reg) (x : DWord) : (gr.setUD r x).roletab = gr.roletab := by simp [Group.setUD]
@[simp] theorem Group.setUD_rolecnt (gr : Group) (r : Reg) (x : DWord) : (gr.setUD r x).rolecnt = gr.rolecnt := by simp [Group.setUD]
@[simp] theorem Group.setUD_faultdom (gr : Group) (r : Reg) (x : DWord) : (gr.setUD r x).faultdom = gr.faultdom := by simp [Group.setUD]
@[simp] theorem Group.setUD_quotas (gr : Group) (r : Reg) (x : DWord) : (gr.setUD r x).quotas = gr.quotas := by simp [Group.setUD]
@[simp] theorem Group.setUD_lrr (gr : Group) (r : Reg) (x : DWord) : (gr.setUD r x).lrr = gr.lrr := by simp [Group.setUD]
@[simp] theorem Group.setUD_age (gr : Group) (r : Reg) (x : DWord) : (gr.setUD r x).age = gr.age := by simp [Group.setUD]
@[simp] theorem Group.setUD_lastIssue (gr : Group) (r : Reg) (x : DWord) : (gr.setUD r x).lastIssue = gr.lastIssue := by simp [Group.setUD]
@[simp] theorem Group.setUD_since (gr : Group) (r : Reg) (x : DWord) : (gr.setUD r x).since = gr.since := by simp [Group.setUD]
@[simp] theorem Group.setUD_agedAt (gr : Group) (r : Reg) (x : DWord) : (gr.setUD r x).agedAt = gr.agedAt := by simp [Group.setUD]
@[simp] theorem Group.setUD_halted (gr : Group) (r : Reg) (x : DWord) : (gr.setUD r x).halted = gr.halted := by simp [Group.setUD]
@[simp] theorem Group.setUD_stepping (gr : Group) (r : Reg) (x : DWord) : (gr.setUD r x).stepping = gr.stepping := by simp [Group.setUD]
@[simp] theorem Group.setUD_late (gr : Group) (r : Reg) (x : DWord) : (gr.setUD r x).late = gr.late := by simp [Group.setUD]
@[simp] theorem Group.setUD_resume (gr : Group) (r : Reg) (x : DWord) : (gr.setUD r x).resume = gr.resume := by simp [Group.setUD]
@[simp] theorem Group.setUD_yielded (gr : Group) (r : Reg) (x : DWord) : (gr.setUD r x).yielded = gr.yielded := by simp [Group.setUD]
@[simp] theorem Group.setUD_drain (gr : Group) (r : Reg) (x : DWord) : (gr.setUD r x).drain = gr.drain := by simp [Group.setUD]

end Sys2Proof.Machine
end

