-- ==== Sys2Proof/Laws/Retire.lean ====
section
/-!
SUPPORT. What retiring an instruction leaves (R7, R303): only the issuing path's PC, the counts of the path and the issue cycle
charged to the group's regions change.
-/

namespace Sys2Proof.Machine

/-- Charging an issue cycle changes the two region counters only (R29, R303). -/
theorem State.chargeCycle_only (s : State) :
    ∃ c y, s.chargeCycle = { s with charged := c, cycles := y } := by
  unfold State.chargeCycle
  generalize s.cur.chain.map (regionKey s.cur.part) = l
  induction l generalizing s with
  | nil => exact ⟨s.charged, s.cycles, rfl⟩
  | cons r l ih =>
    simp only [List.foldl_cons]
    split
    · exact ih s
    · obtain ⟨c, y, h⟩ := ih { s with
        charged := SMap.set 0 s.charged r (s.cycle + 1), cycles := SMap.set 0 s.cycles r (SMap.get 0 s.cycles r + 1) }
      exact ⟨c, y, h⟩

@[simp] theorem State.chargeCycle_cur (s : State) : s.chargeCycle.cur = s.cur := by
  obtain ⟨_, _, h⟩ := s.chargeCycle_only; rw [h]
@[simp] theorem State.chargeCycle_others (s : State) : s.chargeCycle.others = s.others := by
  obtain ⟨_, _, h⟩ := s.chargeCycle_only; rw [h]
@[simp] theorem State.chargeCycle_saved (s : State) : s.chargeCycle.saved = s.saved := by
  obtain ⟨_, _, h⟩ := s.chargeCycle_only; rw [h]
@[simp] theorem State.chargeCycle_draining (s : State) : s.chargeCycle.draining = s.draining := by
  obtain ⟨_, _, h⟩ := s.chargeCycle_only; rw [h]
@[simp] theorem State.chargeCycle_serve (s : State) : s.chargeCycle.serve = s.serve := by
  obtain ⟨_, _, h⟩ := s.chargeCycle_only; rw [h]
@[simp] theorem State.chargeCycle_cohorts (s : State) : s.chargeCycle.cohorts = s.cohorts := by
  obtain ⟨_, _, h⟩ := s.chargeCycle_only; rw [h]
@[simp] theorem State.chargeCycle_launches (s : State) : s.chargeCycle.launches = s.launches := by
  obtain ⟨_, _, h⟩ := s.chargeCycle_only; rw [h]
@[simp] theorem State.chargeCycle_parts (s : State) : s.chargeCycle.parts = s.parts := by
  obtain ⟨_, _, h⟩ := s.chargeCycle_only; rw [h]
@[simp] theorem State.chargeCycle_mem (s : State) : s.chargeCycle.mem = s.mem := by
  obtain ⟨_, _, h⟩ := s.chargeCycle_only; rw [h]
@[simp] theorem State.chargeCycle_stage (s : State) : s.chargeCycle.stage = s.stage := by
  obtain ⟨_, _, h⟩ := s.chargeCycle_only; rw [h]
@[simp] theorem State.chargeCycle_absent (s : State) : s.chargeCycle.absent = s.absent := by
  obtain ⟨_, _, h⟩ := s.chargeCycle_only; rw [h]
@[simp] theorem State.chargeCycle_poison (s : State) : s.chargeCycle.poison = s.poison := by
  obtain ⟨_, _, h⟩ := s.chargeCycle_only; rw [h]
@[simp] theorem State.chargeCycle_failed (s : State) : s.chargeCycle.failed = s.failed := by
  obtain ⟨_, _, h⟩ := s.chargeCycle_only; rw [h]
@[simp] theorem State.chargeCycle_moved (s : State) : s.chargeCycle.moved = s.moved := by
  obtain ⟨_, _, h⟩ := s.chargeCycle_only; rw [h]
@[simp] theorem State.chargeCycle_replicas (s : State) : s.chargeCycle.replicas = s.replicas := by
  obtain ⟨_, _, h⟩ := s.chargeCycle_only; rw [h]
@[simp] theorem State.chargeCycle_snaps (s : State) : s.chargeCycle.snaps = s.snaps := by
  obtain ⟨_, _, h⟩ := s.chargeCycle_only; rw [h]
@[simp] theorem State.chargeCycle_l2 (s : State) : s.chargeCycle.l2 = s.l2 := by
  obtain ⟨_, _, h⟩ := s.chargeCycle_only; rw [h]
@[simp] theorem State.chargeCycle_lineTimes (s : State) : s.chargeCycle.lineTimes = s.lineTimes := by
  obtain ⟨_, _, h⟩ := s.chargeCycle_only; rw [h]
@[simp] theorem State.chargeCycle_hotPending (s : State) : s.chargeCycle.hotPending = s.hotPending := by
  obtain ⟨_, _, h⟩ := s.chargeCycle_only; rw [h]
@[simp] theorem State.chargeCycle_arrivals (s : State) : s.chargeCycle.arrivals = s.arrivals := by
  obtain ⟨_, _, h⟩ := s.chargeCycle_only; rw [h]
@[simp] theorem State.chargeCycle_shadowStore (s : State) : s.chargeCycle.shadowStore = s.shadowStore := by
  obtain ⟨_, _, h⟩ := s.chargeCycle_only; rw [h]
@[simp] theorem State.chargeCycle_hostBytes (s : State) : s.chargeCycle.hostBytes = s.hostBytes := by
  obtain ⟨_, _, h⟩ := s.chargeCycle_only; rw [h]
@[simp] theorem State.chargeCycle_peerBytes (s : State) : s.chargeCycle.peerBytes = s.peerBytes := by
  obtain ⟨_, _, h⟩ := s.chargeCycle_only; rw [h]
@[simp] theorem State.chargeCycle_peerLink (s : State) : s.chargeCycle.peerLink = s.peerLink := by
  obtain ⟨_, _, h⟩ := s.chargeCycle_only; rw [h]
@[simp] theorem State.chargeCycle_tileCfg (s : State) : s.chargeCycle.tileCfg = s.tileCfg := by
  obtain ⟨_, _, h⟩ := s.chargeCycle_only; rw [h]
@[simp] theorem State.chargeCycle_tiles (s : State) : s.chargeCycle.tiles = s.tiles := by
  obtain ⟨_, _, h⟩ := s.chargeCycle_only; rw [h]
@[simp] theorem State.chargeCycle_compand (s : State) : s.chargeCycle.compand = s.compand := by
  obtain ⟨_, _, h⟩ := s.chargeCycle_only; rw [h]
@[simp] theorem State.chargeCycle_copySlots (s : State) : s.chargeCycle.copySlots = s.copySlots := by
  obtain ⟨_, _, h⟩ := s.chargeCycle_only; rw [h]
@[simp] theorem State.chargeCycle_wloadSlots (s : State) : s.chargeCycle.wloadSlots = s.wloadSlots := by
  obtain ⟨_, _, h⟩ := s.chargeCycle_only; rw [h]
@[simp] theorem State.chargeCycle_cinsSlots (s : State) : s.chargeCycle.cinsSlots = s.cinsSlots := by
  obtain ⟨_, _, h⟩ := s.chargeCycle_only; rw [h]
@[simp] theorem State.chargeCycle_credits (s : State) : s.chargeCycle.credits = s.credits := by
  obtain ⟨_, _, h⟩ := s.chargeCycle_only; rw [h]
@[simp] theorem State.chargeCycle_watches (s : State) : s.chargeCycle.watches = s.watches := by
  obtain ⟨_, _, h⟩ := s.chargeCycle_only; rw [h]
@[simp] theorem State.chargeCycle_meets (s : State) : s.chargeCycle.meets = s.meets := by
  obtain ⟨_, _, h⟩ := s.chargeCycle_only; rw [h]
@[simp] theorem State.chargeCycle_clusters (s : State) : s.chargeCycle.clusters = s.clusters := by
  obtain ⟨_, _, h⟩ := s.chargeCycle_only; rw [h]
@[simp] theorem State.chargeCycle_lists (s : State) : s.chargeCycle.lists = s.lists := by
  obtain ⟨_, _, h⟩ := s.chargeCycle_only; rw [h]
@[simp] theorem State.chargeCycle_granted (s : State) : s.chargeCycle.granted = s.granted := by
  obtain ⟨_, _, h⟩ := s.chargeCycle_only; rw [h]
@[simp] theorem State.chargeCycle_faults (s : State) : s.chargeCycle.faults = s.faults := by
  obtain ⟨_, _, h⟩ := s.chargeCycle_only; rw [h]
@[simp] theorem State.chargeCycle_requests (s : State) : s.chargeCycle.requests = s.requests := by
  obtain ⟨_, _, h⟩ := s.chargeCycle_only; rw [h]
@[simp] theorem State.chargeCycle_mailbox (s : State) : s.chargeCycle.mailbox = s.mailbox := by
  obtain ⟨_, _, h⟩ := s.chargeCycle_only; rw [h]
@[simp] theorem State.chargeCycle_out (s : State) : s.chargeCycle.out = s.out := by
  obtain ⟨_, _, h⟩ := s.chargeCycle_only; rw [h]
@[simp] theorem State.chargeCycle_heldColls (s : State) : s.chargeCycle.heldColls = s.heldColls := by
  obtain ⟨_, _, h⟩ := s.chargeCycle_only; rw [h]
@[simp] theorem State.chargeCycle_heldLists (s : State) : s.chargeCycle.heldLists = s.heldLists := by
  obtain ⟨_, _, h⟩ := s.chargeCycle_only; rw [h]
@[simp] theorem State.chargeCycle_debugOn (s : State) : s.chargeCycle.debugOn = s.debugOn := by
  obtain ⟨_, _, h⟩ := s.chargeCycle_only; rw [h]
@[simp] theorem State.chargeCycle_haltBrk (s : State) : s.chargeCycle.haltBrk = s.haltBrk := by
  obtain ⟨_, _, h⟩ := s.chargeCycle_only; rw [h]
@[simp] theorem State.chargeCycle_haltWatch (s : State) : s.chargeCycle.haltWatch = s.haltWatch := by
  obtain ⟨_, _, h⟩ := s.chargeCycle_only; rw [h]
@[simp] theorem State.chargeCycle_islands (s : State) : s.chargeCycle.islands = s.islands := by
  obtain ⟨_, _, h⟩ := s.chargeCycle_only; rw [h]
@[simp] theorem State.chargeCycle_monitors (s : State) : s.chargeCycle.monitors = s.monitors := by
  obtain ⟨_, _, h⟩ := s.chargeCycle_only; rw [h]
@[simp] theorem State.chargeCycle_fenced (s : State) : s.chargeCycle.fenced = s.fenced := by
  obtain ⟨_, _, h⟩ := s.chargeCycle_only; rw [h]
@[simp] theorem State.chargeCycle_hostUp (s : State) : s.chargeCycle.hostUp = s.hostUp := by
  obtain ⟨_, _, h⟩ := s.chargeCycle_only; rw [h]
@[simp] theorem State.chargeCycle_recovery (s : State) : s.chargeCycle.recovery = s.recovery := by
  obtain ⟨_, _, h⟩ := s.chargeCycle_only; rw [h]
@[simp] theorem State.chargeCycle_booted (s : State) : s.chargeCycle.booted = s.booted := by
  obtain ⟨_, _, h⟩ := s.chargeCycle_only; rw [h]
@[simp] theorem State.chargeCycle_powered (s : State) : s.chargeCycle.powered = s.powered := by
  obtain ⟨_, _, h⟩ := s.chargeCycle_only; rw [h]
@[simp] theorem State.chargeCycle_frozen (s : State) : s.chargeCycle.frozen = s.frozen := by
  obtain ⟨_, _, h⟩ := s.chargeCycle_only; rw [h]
@[simp] theorem State.chargeCycle_mregs (s : State) : s.chargeCycle.mregs = s.mregs := by
  obtain ⟨_, _, h⟩ := s.chargeCycle_only; rw [h]
@[simp] theorem State.chargeCycle_flashA (s : State) : s.chargeCycle.flashA = s.flashA := by
  obtain ⟨_, _, h⟩ := s.chargeCycle_only; rw [h]
@[simp] theorem State.chargeCycle_flashB (s : State) : s.chargeCycle.flashB = s.flashB := by
  obtain ⟨_, _, h⟩ := s.chargeCycle_only; rw [h]
@[simp] theorem State.chargeCycle_fwVersion (s : State) : s.chargeCycle.fwVersion = s.fwVersion := by
  obtain ⟨_, _, h⟩ := s.chargeCycle_only; rw [h]
@[simp] theorem State.chargeCycle_now (s : State) : s.chargeCycle.now = s.now := by
  obtain ⟨_, _, h⟩ := s.chargeCycle_only; rw [h]
@[simp] theorem State.chargeCycle_cycle (s : State) : s.chargeCycle.cycle = s.cycle := by
  obtain ⟨_, _, h⟩ := s.chargeCycle_only; rw [h]
@[simp] theorem State.chargeCycle_nextKey (s : State) : s.chargeCycle.nextKey = s.nextKey := by
  obtain ⟨_, _, h⟩ := s.chargeCycle_only; rw [h]
@[simp] theorem State.chargeCycle_freeCtr (s : State) : s.chargeCycle.freeCtr = s.freeCtr := by
  obtain ⟨_, _, h⟩ := s.chargeCycle_only; rw [h]
@[simp] theorem State.chargeCycle_agenda (s : State) : s.chargeCycle.agenda = s.agenda := by
  obtain ⟨_, _, h⟩ := s.chargeCycle_only; rw [h]

/-! ### `State.retireWith` -/

@[simp] theorem State.retireWith_cur (s : State) (f : Group → Group) :
    (s.retireWith f).cur = { f s.cur.issued with lastIssue := some s.cycle } := by simp [State.retireWith]
@[simp] theorem State.retireWith_others (s : State) (f : Group → Group) : (s.retireWith f).others = s.others := by simp [State.retireWith]
@[simp] theorem State.retireWith_saved (s : State) (f : Group → Group) : (s.retireWith f).saved = s.saved := by simp [State.retireWith]
@[simp] theorem State.retireWith_draining (s : State) (f : Group → Group) : (s.retireWith f).draining = s.draining := by simp [State.retireWith]
@[simp] theorem State.retireWith_serve (s : State) (f : Group → Group) : (s.retireWith f).serve = s.serve := by simp [State.retireWith]
@[simp] theorem State.retireWith_cohorts (s : State) (f : Group → Group) : (s.retireWith f).cohorts = s.cohorts := by simp [State.retireWith]
@[simp] theorem State.retireWith_launches (s : State) (f : Group → Group) : (s.retireWith f).launches = s.launches := by simp [State.retireWith]
@[simp] theorem State.retireWith_parts (s : State) (f : Group → Group) : (s.retireWith f).parts = s.parts := by simp [State.retireWith]
@[simp] theorem State.retireWith_mem (s : State) (f : Group → Group) : (s.retireWith f).mem = s.mem := by simp [State.retireWith]
@[simp] theorem State.retireWith_stage (s : State) (f : Group → Group) : (s.retireWith f).stage = s.stage := by simp [State.retireWith]
@[simp] theorem State.retireWith_absent (s : State) (f : Group → Group) : (s.retireWith f).absent = s.absent := by simp [State.retireWith]
@[simp] theorem State.retireWith_poison (s : State) (f : Group → Group) : (s.retireWith f).poison = s.poison := by simp [State.retireWith]
@[simp] theorem State.retireWith_failed (s : State) (f : Group → Group) : (s.retireWith f).failed = s.failed := by simp [State.retireWith]
@[simp] theorem State.retireWith_moved (s : State) (f : Group → Group) : (s.retireWith f).moved = s.moved := by simp [State.retireWith]
@[simp] theorem State.retireWith_replicas (s : State) (f : Group → Group) : (s.retireWith f).replicas = s.replicas := by simp [State.retireWith]
@[simp] theorem State.retireWith_snaps (s : State) (f : Group → Group) : (s.retireWith f).snaps = s.snaps := by simp [State.retireWith]
@[simp] theorem State.retireWith_l2 (s : State) (f : Group → Group) : (s.retireWith f).l2 = s.l2 := by simp [State.retireWith]
@[simp] theorem State.retireWith_lineTimes (s : State) (f : Group → Group) : (s.retireWith f).lineTimes = s.lineTimes := by simp [State.retireWith]
@[simp] theorem State.retireWith_hotPending (s : State) (f : Group → Group) : (s.retireWith f).hotPending = s.hotPending := by simp [State.retireWith]
@[simp] theorem State.retireWith_arrivals (s : State) (f : Group → Group) : (s.retireWith f).arrivals = s.arrivals := by simp [State.retireWith]
@[simp] theorem State.retireWith_shadowStore (s : State) (f : Group → Group) : (s.retireWith f).shadowStore = s.shadowStore := by simp [State.retireWith]
@[simp] theorem State.retireWith_hostBytes (s : State) (f : Group → Group) : (s.retireWith f).hostBytes = s.hostBytes := by simp [State.retireWith]
@[simp] theorem State.retireWith_peerBytes (s : State) (f : Group → Group) : (s.retireWith f).peerBytes = s.peerBytes := by simp [State.retireWith]
@[simp] theorem State.retireWith_peerLink (s : State) (f : Group → Group) : (s.retireWith f).peerLink = s.peerLink := by simp [State.retireWith]
@[simp] theorem State.retireWith_tileCfg (s : State) (f : Group → Group) : (s.retireWith f).tileCfg = s.tileCfg := by simp [State.retireWith]
@[simp] theorem State.retireWith_tiles (s : State) (f : Group → Group) : (s.retireWith f).tiles = s.tiles := by simp [State.retireWith]
@[simp] theorem State.retireWith_compand (s : State) (f : Group → Group) : (s.retireWith f).compand = s.compand := by simp [State.retireWith]
@[simp] theorem State.retireWith_copySlots (s : State) (f : Group → Group) : (s.retireWith f).copySlots = s.copySlots := by simp [State.retireWith]
@[simp] theorem State.retireWith_wloadSlots (s : State) (f : Group → Group) : (s.retireWith f).wloadSlots = s.wloadSlots := by simp [State.retireWith]
@[simp] theorem State.retireWith_cinsSlots (s : State) (f : Group → Group) : (s.retireWith f).cinsSlots = s.cinsSlots := by simp [State.retireWith]
@[simp] theorem State.retireWith_credits (s : State) (f : Group → Group) : (s.retireWith f).credits = s.credits := by simp [State.retireWith]
@[simp] theorem State.retireWith_watches (s : State) (f : Group → Group) : (s.retireWith f).watches = s.watches := by simp [State.retireWith]
@[simp] theorem State.retireWith_meets (s : State) (f : Group → Group) : (s.retireWith f).meets = s.meets := by simp [State.retireWith]
@[simp] theorem State.retireWith_clusters (s : State) (f : Group → Group) : (s.retireWith f).clusters = s.clusters := by simp [State.retireWith]
@[simp] theorem State.retireWith_lists (s : State) (f : Group → Group) : (s.retireWith f).lists = s.lists := by simp [State.retireWith]
@[simp] theorem State.retireWith_granted (s : State) (f : Group → Group) : (s.retireWith f).granted = s.granted := by simp [State.retireWith]
@[simp] theorem State.retireWith_faults (s : State) (f : Group → Group) : (s.retireWith f).faults = s.faults := by simp [State.retireWith]
@[simp] theorem State.retireWith_requests (s : State) (f : Group → Group) : (s.retireWith f).requests = s.requests := by simp [State.retireWith]
@[simp] theorem State.retireWith_mailbox (s : State) (f : Group → Group) : (s.retireWith f).mailbox = s.mailbox := by simp [State.retireWith]
@[simp] theorem State.retireWith_out (s : State) (f : Group → Group) : (s.retireWith f).out = s.out := by simp [State.retireWith]
@[simp] theorem State.retireWith_heldColls (s : State) (f : Group → Group) : (s.retireWith f).heldColls = s.heldColls := by simp [State.retireWith]
@[simp] theorem State.retireWith_heldLists (s : State) (f : Group → Group) : (s.retireWith f).heldLists = s.heldLists := by simp [State.retireWith]
@[simp] theorem State.retireWith_debugOn (s : State) (f : Group → Group) : (s.retireWith f).debugOn = s.debugOn := by simp [State.retireWith]
@[simp] theorem State.retireWith_haltBrk (s : State) (f : Group → Group) : (s.retireWith f).haltBrk = s.haltBrk := by simp [State.retireWith]
@[simp] theorem State.retireWith_haltWatch (s : State) (f : Group → Group) : (s.retireWith f).haltWatch = s.haltWatch := by simp [State.retireWith]
@[simp] theorem State.retireWith_islands (s : State) (f : Group → Group) : (s.retireWith f).islands = s.islands := by simp [State.retireWith]
@[simp] theorem State.retireWith_monitors (s : State) (f : Group → Group) : (s.retireWith f).monitors = s.monitors := by simp [State.retireWith]
@[simp] theorem State.retireWith_fenced (s : State) (f : Group → Group) : (s.retireWith f).fenced = s.fenced := by simp [State.retireWith]
@[simp] theorem State.retireWith_hostUp (s : State) (f : Group → Group) : (s.retireWith f).hostUp = s.hostUp := by simp [State.retireWith]
@[simp] theorem State.retireWith_recovery (s : State) (f : Group → Group) : (s.retireWith f).recovery = s.recovery := by simp [State.retireWith]
@[simp] theorem State.retireWith_booted (s : State) (f : Group → Group) : (s.retireWith f).booted = s.booted := by simp [State.retireWith]
@[simp] theorem State.retireWith_powered (s : State) (f : Group → Group) : (s.retireWith f).powered = s.powered := by simp [State.retireWith]
@[simp] theorem State.retireWith_frozen (s : State) (f : Group → Group) : (s.retireWith f).frozen = s.frozen := by simp [State.retireWith]
@[simp] theorem State.retireWith_mregs (s : State) (f : Group → Group) : (s.retireWith f).mregs = s.mregs := by simp [State.retireWith]
@[simp] theorem State.retireWith_flashA (s : State) (f : Group → Group) : (s.retireWith f).flashA = s.flashA := by simp [State.retireWith]
@[simp] theorem State.retireWith_flashB (s : State) (f : Group → Group) : (s.retireWith f).flashB = s.flashB := by simp [State.retireWith]
@[simp] theorem State.retireWith_fwVersion (s : State) (f : Group → Group) : (s.retireWith f).fwVersion = s.fwVersion := by simp [State.retireWith]
@[simp] theorem State.retireWith_now (s : State) (f : Group → Group) : (s.retireWith f).now = s.now := by simp [State.retireWith]
@[simp] theorem State.retireWith_cycle (s : State) (f : Group → Group) : (s.retireWith f).cycle = s.cycle := by simp [State.retireWith]
@[simp] theorem State.retireWith_nextKey (s : State) (f : Group → Group) : (s.retireWith f).nextKey = s.nextKey := by simp [State.retireWith]
@[simp] theorem State.retireWith_freeCtr (s : State) (f : Group → Group) : (s.retireWith f).freeCtr = s.freeCtr := by simp [State.retireWith]
@[simp] theorem State.retireWith_agenda (s : State) (f : Group → Group) : (s.retireWith f).agenda = s.agenda := by simp [State.retireWith]

/-! ### `State.retireTo` -/

@[simp] theorem State.retireTo_cur (s : State) (pc : PC) :
    (s.retireTo pc).cur = { s.cur.issued.setPc pc with lastIssue := some s.cycle } := by simp [State.retireTo]
@[simp] theorem State.retireTo_others (s : State) (pc : PC) : (s.retireTo pc).others = s.others := by simp [State.retireTo]
@[simp] theorem State.retireTo_saved (s : State) (pc : PC) : (s.retireTo pc).saved = s.saved := by simp [State.retireTo]
@[simp] theorem State.retireTo_draining (s : State) (pc : PC) : (s.retireTo pc).draining = s.draining := by simp [State.retireTo]
@[simp] theorem State.retireTo_serve (s : State) (pc : PC) : (s.retireTo pc).serve = s.serve := by simp [State.retireTo]
@[simp] theorem State.retireTo_cohorts (s : State) (pc : PC) : (s.retireTo pc).cohorts = s.cohorts := by simp [State.retireTo]
@[simp] theorem State.retireTo_launches (s : State) (pc : PC) : (s.retireTo pc).launches = s.launches := by simp [State.retireTo]
@[simp] theorem State.retireTo_parts (s : State) (pc : PC) : (s.retireTo pc).parts = s.parts := by simp [State.retireTo]
@[simp] theorem State.retireTo_mem (s : State) (pc : PC) : (s.retireTo pc).mem = s.mem := by simp [State.retireTo]
@[simp] theorem State.retireTo_stage (s : State) (pc : PC) : (s.retireTo pc).stage = s.stage := by simp [State.retireTo]
@[simp] theorem State.retireTo_absent (s : State) (pc : PC) : (s.retireTo pc).absent = s.absent := by simp [State.retireTo]
@[simp] theorem State.retireTo_poison (s : State) (pc : PC) : (s.retireTo pc).poison = s.poison := by simp [State.retireTo]
@[simp] theorem State.retireTo_failed (s : State) (pc : PC) : (s.retireTo pc).failed = s.failed := by simp [State.retireTo]
@[simp] theorem State.retireTo_moved (s : State) (pc : PC) : (s.retireTo pc).moved = s.moved := by simp [State.retireTo]
@[simp] theorem State.retireTo_replicas (s : State) (pc : PC) : (s.retireTo pc).replicas = s.replicas := by simp [State.retireTo]
@[simp] theorem State.retireTo_snaps (s : State) (pc : PC) : (s.retireTo pc).snaps = s.snaps := by simp [State.retireTo]
@[simp] theorem State.retireTo_l2 (s : State) (pc : PC) : (s.retireTo pc).l2 = s.l2 := by simp [State.retireTo]
@[simp] theorem State.retireTo_lineTimes (s : State) (pc : PC) : (s.retireTo pc).lineTimes = s.lineTimes := by simp [State.retireTo]
@[simp] theorem State.retireTo_hotPending (s : State) (pc : PC) : (s.retireTo pc).hotPending = s.hotPending := by simp [State.retireTo]
@[simp] theorem State.retireTo_arrivals (s : State) (pc : PC) : (s.retireTo pc).arrivals = s.arrivals := by simp [State.retireTo]
@[simp] theorem State.retireTo_shadowStore (s : State) (pc : PC) : (s.retireTo pc).shadowStore = s.shadowStore := by simp [State.retireTo]
@[simp] theorem State.retireTo_hostBytes (s : State) (pc : PC) : (s.retireTo pc).hostBytes = s.hostBytes := by simp [State.retireTo]
@[simp] theorem State.retireTo_peerBytes (s : State) (pc : PC) : (s.retireTo pc).peerBytes = s.peerBytes := by simp [State.retireTo]
@[simp] theorem State.retireTo_peerLink (s : State) (pc : PC) : (s.retireTo pc).peerLink = s.peerLink := by simp [State.retireTo]
@[simp] theorem State.retireTo_tileCfg (s : State) (pc : PC) : (s.retireTo pc).tileCfg = s.tileCfg := by simp [State.retireTo]
@[simp] theorem State.retireTo_tiles (s : State) (pc : PC) : (s.retireTo pc).tiles = s.tiles := by simp [State.retireTo]
@[simp] theorem State.retireTo_compand (s : State) (pc : PC) : (s.retireTo pc).compand = s.compand := by simp [State.retireTo]
@[simp] theorem State.retireTo_copySlots (s : State) (pc : PC) : (s.retireTo pc).copySlots = s.copySlots := by simp [State.retireTo]
@[simp] theorem State.retireTo_wloadSlots (s : State) (pc : PC) : (s.retireTo pc).wloadSlots = s.wloadSlots := by simp [State.retireTo]
@[simp] theorem State.retireTo_cinsSlots (s : State) (pc : PC) : (s.retireTo pc).cinsSlots = s.cinsSlots := by simp [State.retireTo]
@[simp] theorem State.retireTo_credits (s : State) (pc : PC) : (s.retireTo pc).credits = s.credits := by simp [State.retireTo]
@[simp] theorem State.retireTo_watches (s : State) (pc : PC) : (s.retireTo pc).watches = s.watches := by simp [State.retireTo]
@[simp] theorem State.retireTo_meets (s : State) (pc : PC) : (s.retireTo pc).meets = s.meets := by simp [State.retireTo]
@[simp] theorem State.retireTo_clusters (s : State) (pc : PC) : (s.retireTo pc).clusters = s.clusters := by simp [State.retireTo]
@[simp] theorem State.retireTo_lists (s : State) (pc : PC) : (s.retireTo pc).lists = s.lists := by simp [State.retireTo]
@[simp] theorem State.retireTo_granted (s : State) (pc : PC) : (s.retireTo pc).granted = s.granted := by simp [State.retireTo]
@[simp] theorem State.retireTo_faults (s : State) (pc : PC) : (s.retireTo pc).faults = s.faults := by simp [State.retireTo]
@[simp] theorem State.retireTo_requests (s : State) (pc : PC) : (s.retireTo pc).requests = s.requests := by simp [State.retireTo]
@[simp] theorem State.retireTo_mailbox (s : State) (pc : PC) : (s.retireTo pc).mailbox = s.mailbox := by simp [State.retireTo]
@[simp] theorem State.retireTo_out (s : State) (pc : PC) : (s.retireTo pc).out = s.out := by simp [State.retireTo]
@[simp] theorem State.retireTo_heldColls (s : State) (pc : PC) : (s.retireTo pc).heldColls = s.heldColls := by simp [State.retireTo]
@[simp] theorem State.retireTo_heldLists (s : State) (pc : PC) : (s.retireTo pc).heldLists = s.heldLists := by simp [State.retireTo]
@[simp] theorem State.retireTo_debugOn (s : State) (pc : PC) : (s.retireTo pc).debugOn = s.debugOn := by simp [State.retireTo]
@[simp] theorem State.retireTo_haltBrk (s : State) (pc : PC) : (s.retireTo pc).haltBrk = s.haltBrk := by simp [State.retireTo]
@[simp] theorem State.retireTo_haltWatch (s : State) (pc : PC) : (s.retireTo pc).haltWatch = s.haltWatch := by simp [State.retireTo]
@[simp] theorem State.retireTo_islands (s : State) (pc : PC) : (s.retireTo pc).islands = s.islands := by simp [State.retireTo]
@[simp] theorem State.retireTo_monitors (s : State) (pc : PC) : (s.retireTo pc).monitors = s.monitors := by simp [State.retireTo]
@[simp] theorem State.retireTo_fenced (s : State) (pc : PC) : (s.retireTo pc).fenced = s.fenced := by simp [State.retireTo]
@[simp] theorem State.retireTo_hostUp (s : State) (pc : PC) : (s.retireTo pc).hostUp = s.hostUp := by simp [State.retireTo]
@[simp] theorem State.retireTo_recovery (s : State) (pc : PC) : (s.retireTo pc).recovery = s.recovery := by simp [State.retireTo]
@[simp] theorem State.retireTo_booted (s : State) (pc : PC) : (s.retireTo pc).booted = s.booted := by simp [State.retireTo]
@[simp] theorem State.retireTo_powered (s : State) (pc : PC) : (s.retireTo pc).powered = s.powered := by simp [State.retireTo]
@[simp] theorem State.retireTo_frozen (s : State) (pc : PC) : (s.retireTo pc).frozen = s.frozen := by simp [State.retireTo]
@[simp] theorem State.retireTo_mregs (s : State) (pc : PC) : (s.retireTo pc).mregs = s.mregs := by simp [State.retireTo]
@[simp] theorem State.retireTo_flashA (s : State) (pc : PC) : (s.retireTo pc).flashA = s.flashA := by simp [State.retireTo]
@[simp] theorem State.retireTo_flashB (s : State) (pc : PC) : (s.retireTo pc).flashB = s.flashB := by simp [State.retireTo]
@[simp] theorem State.retireTo_fwVersion (s : State) (pc : PC) : (s.retireTo pc).fwVersion = s.fwVersion := by simp [State.retireTo]
@[simp] theorem State.retireTo_now (s : State) (pc : PC) : (s.retireTo pc).now = s.now := by simp [State.retireTo]
@[simp] theorem State.retireTo_cycle (s : State) (pc : PC) : (s.retireTo pc).cycle = s.cycle := by simp [State.retireTo]
@[simp] theorem State.retireTo_nextKey (s : State) (pc : PC) : (s.retireTo pc).nextKey = s.nextKey := by simp [State.retireTo]
@[simp] theorem State.retireTo_freeCtr (s : State) (pc : PC) : (s.retireTo pc).freeCtr = s.freeCtr := by simp [State.retireTo]
@[simp] theorem State.retireTo_agenda (s : State) (pc : PC) : (s.retireTo pc).agenda = s.agenda := by simp [State.retireTo]

/-! ### `State.retire` -/

@[simp] theorem State.retire_cur (s : State) (len : Nat) :
    (s.retire len).cur = { s.cur.issued.setPc (s.cur.path.pc + BitVec.ofNat 30 len) with lastIssue := some s.cycle } := by simp [State.retire]
@[simp] theorem State.retire_others (s : State) (len : Nat) : (s.retire len).others = s.others := by simp [State.retire]
@[simp] theorem State.retire_saved (s : State) (len : Nat) : (s.retire len).saved = s.saved := by simp [State.retire]
@[simp] theorem State.retire_draining (s : State) (len : Nat) : (s.retire len).draining = s.draining := by simp [State.retire]
@[simp] theorem State.retire_serve (s : State) (len : Nat) : (s.retire len).serve = s.serve := by simp [State.retire]
@[simp] theorem State.retire_cohorts (s : State) (len : Nat) : (s.retire len).cohorts = s.cohorts := by simp [State.retire]
@[simp] theorem State.retire_launches (s : State) (len : Nat) : (s.retire len).launches = s.launches := by simp [State.retire]
@[simp] theorem State.retire_parts (s : State) (len : Nat) : (s.retire len).parts = s.parts := by simp [State.retire]
@[simp] theorem State.retire_mem (s : State) (len : Nat) : (s.retire len).mem = s.mem := by simp [State.retire]
@[simp] theorem State.retire_stage (s : State) (len : Nat) : (s.retire len).stage = s.stage := by simp [State.retire]
@[simp] theorem State.retire_absent (s : State) (len : Nat) : (s.retire len).absent = s.absent := by simp [State.retire]
@[simp] theorem State.retire_poison (s : State) (len : Nat) : (s.retire len).poison = s.poison := by simp [State.retire]
@[simp] theorem State.retire_failed (s : State) (len : Nat) : (s.retire len).failed = s.failed := by simp [State.retire]
@[simp] theorem State.retire_moved (s : State) (len : Nat) : (s.retire len).moved = s.moved := by simp [State.retire]
@[simp] theorem State.retire_replicas (s : State) (len : Nat) : (s.retire len).replicas = s.replicas := by simp [State.retire]
@[simp] theorem State.retire_snaps (s : State) (len : Nat) : (s.retire len).snaps = s.snaps := by simp [State.retire]
@[simp] theorem State.retire_l2 (s : State) (len : Nat) : (s.retire len).l2 = s.l2 := by simp [State.retire]
@[simp] theorem State.retire_lineTimes (s : State) (len : Nat) : (s.retire len).lineTimes = s.lineTimes := by simp [State.retire]
@[simp] theorem State.retire_hotPending (s : State) (len : Nat) : (s.retire len).hotPending = s.hotPending := by simp [State.retire]
@[simp] theorem State.retire_arrivals (s : State) (len : Nat) : (s.retire len).arrivals = s.arrivals := by simp [State.retire]
@[simp] theorem State.retire_shadowStore (s : State) (len : Nat) : (s.retire len).shadowStore = s.shadowStore := by simp [State.retire]
@[simp] theorem State.retire_hostBytes (s : State) (len : Nat) : (s.retire len).hostBytes = s.hostBytes := by simp [State.retire]
@[simp] theorem State.retire_peerBytes (s : State) (len : Nat) : (s.retire len).peerBytes = s.peerBytes := by simp [State.retire]
@[simp] theorem State.retire_peerLink (s : State) (len : Nat) : (s.retire len).peerLink = s.peerLink := by simp [State.retire]
@[simp] theorem State.retire_tileCfg (s : State) (len : Nat) : (s.retire len).tileCfg = s.tileCfg := by simp [State.retire]
@[simp] theorem State.retire_tiles (s : State) (len : Nat) : (s.retire len).tiles = s.tiles := by simp [State.retire]
@[simp] theorem State.retire_compand (s : State) (len : Nat) : (s.retire len).compand = s.compand := by simp [State.retire]
@[simp] theorem State.retire_copySlots (s : State) (len : Nat) : (s.retire len).copySlots = s.copySlots := by simp [State.retire]
@[simp] theorem State.retire_wloadSlots (s : State) (len : Nat) : (s.retire len).wloadSlots = s.wloadSlots := by simp [State.retire]
@[simp] theorem State.retire_cinsSlots (s : State) (len : Nat) : (s.retire len).cinsSlots = s.cinsSlots := by simp [State.retire]
@[simp] theorem State.retire_credits (s : State) (len : Nat) : (s.retire len).credits = s.credits := by simp [State.retire]
@[simp] theorem State.retire_watches (s : State) (len : Nat) : (s.retire len).watches = s.watches := by simp [State.retire]
@[simp] theorem State.retire_meets (s : State) (len : Nat) : (s.retire len).meets = s.meets := by simp [State.retire]
@[simp] theorem State.retire_clusters (s : State) (len : Nat) : (s.retire len).clusters = s.clusters := by simp [State.retire]
@[simp] theorem State.retire_lists (s : State) (len : Nat) : (s.retire len).lists = s.lists := by simp [State.retire]
@[simp] theorem State.retire_granted (s : State) (len : Nat) : (s.retire len).granted = s.granted := by simp [State.retire]
@[simp] theorem State.retire_faults (s : State) (len : Nat) : (s.retire len).faults = s.faults := by simp [State.retire]
@[simp] theorem State.retire_requests (s : State) (len : Nat) : (s.retire len).requests = s.requests := by simp [State.retire]
@[simp] theorem State.retire_mailbox (s : State) (len : Nat) : (s.retire len).mailbox = s.mailbox := by simp [State.retire]
@[simp] theorem State.retire_out (s : State) (len : Nat) : (s.retire len).out = s.out := by simp [State.retire]
@[simp] theorem State.retire_heldColls (s : State) (len : Nat) : (s.retire len).heldColls = s.heldColls := by simp [State.retire]
@[simp] theorem State.retire_heldLists (s : State) (len : Nat) : (s.retire len).heldLists = s.heldLists := by simp [State.retire]
@[simp] theorem State.retire_debugOn (s : State) (len : Nat) : (s.retire len).debugOn = s.debugOn := by simp [State.retire]
@[simp] theorem State.retire_haltBrk (s : State) (len : Nat) : (s.retire len).haltBrk = s.haltBrk := by simp [State.retire]
@[simp] theorem State.retire_haltWatch (s : State) (len : Nat) : (s.retire len).haltWatch = s.haltWatch := by simp [State.retire]
@[simp] theorem State.retire_islands (s : State) (len : Nat) : (s.retire len).islands = s.islands := by simp [State.retire]
@[simp] theorem State.retire_monitors (s : State) (len : Nat) : (s.retire len).monitors = s.monitors := by simp [State.retire]
@[simp] theorem State.retire_fenced (s : State) (len : Nat) : (s.retire len).fenced = s.fenced := by simp [State.retire]
@[simp] theorem State.retire_hostUp (s : State) (len : Nat) : (s.retire len).hostUp = s.hostUp := by simp [State.retire]
@[simp] theorem State.retire_recovery (s : State) (len : Nat) : (s.retire len).recovery = s.recovery := by simp [State.retire]
@[simp] theorem State.retire_booted (s : State) (len : Nat) : (s.retire len).booted = s.booted := by simp [State.retire]
@[simp] theorem State.retire_powered (s : State) (len : Nat) : (s.retire len).powered = s.powered := by simp [State.retire]
@[simp] theorem State.retire_frozen (s : State) (len : Nat) : (s.retire len).frozen = s.frozen := by simp [State.retire]
@[simp] theorem State.retire_mregs (s : State) (len : Nat) : (s.retire len).mregs = s.mregs := by simp [State.retire]
@[simp] theorem State.retire_flashA (s : State) (len : Nat) : (s.retire len).flashA = s.flashA := by simp [State.retire]
@[simp] theorem State.retire_flashB (s : State) (len : Nat) : (s.retire len).flashB = s.flashB := by simp [State.retire]
@[simp] theorem State.retire_fwVersion (s : State) (len : Nat) : (s.retire len).fwVersion = s.fwVersion := by simp [State.retire]
@[simp] theorem State.retire_now (s : State) (len : Nat) : (s.retire len).now = s.now := by simp [State.retire]
@[simp] theorem State.retire_cycle (s : State) (len : Nat) : (s.retire len).cycle = s.cycle := by simp [State.retire]
@[simp] theorem State.retire_nextKey (s : State) (len : Nat) : (s.retire len).nextKey = s.nextKey := by simp [State.retire]
@[simp] theorem State.retire_freeCtr (s : State) (len : Nat) : (s.retire len).freeCtr = s.freeCtr := by simp [State.retire]
@[simp] theorem State.retire_agenda (s : State) (len : Nat) : (s.retire len).agenda = s.agenda := by simp [State.retire]

end Sys2Proof.Machine
end

