-- ==== Sys2Proof/Laws/Registers.lean ====
section
/-!
SUPPORT. Register reads after register writes (R79, R101, R133), the hard-wired predicates p7 and c7, masks and lanes.
-/

namespace Sys2Proof.Machine

/-! ### Lanes and masks -/

@[simp] theorem lane_lanesFrom (f : Nat → Word) (l : Nat) : lane (lanesFrom f) l = if l < 64 then f l else 0 := by
  unfold lane lanesFrom
  by_cases h : l < 64 <;> simp [h]

@[simp] theorem lane_replicate (w : Word) (l : Nat) : lane (Vector.replicate 64 w) l = if l < 64 then w else 0 := by
  unfold lane
  by_cases h : l < 64 <;> simp [h]

/-- Two lane vectors are equal when they agree in every lane. -/
theorem lanes_ext {x y : LaneVec} (h : ∀ l < 64, lane x l = lane y l) : x = y := by
  apply Vector.ext
  intro i hi
  have := h i hi
  simpa [lane, hi] using this

/-- A vector is made of its lanes. -/
@[simp] theorem lanesFrom_lane (x : LaneVec) : lanesFrom (lane x) = x :=
  lanes_ext fun l hl => by simp [hl]

theorem maskOf_fold (q : Nat → Bool) : ∀ (n : Nat) (l : Nat), n ≤ 64 →
    ((List.range n).foldl (fun (m : Mask) k => if q k then m ||| (1#64 <<< k) else m) 0).getLsbD l
      = (decide (l < n) && q l)
  | 0, l, _ => by simp
  | n + 1, l, hn => by
    rw [List.range_succ, List.foldl_append]
    simp only [List.foldl_cons, List.foldl_nil]
    have ih := maskOf_fold q n l (by omega)
    by_cases hq : q n
    · rw [if_pos hq, BitVec.getLsbD_or, ih]
      by_cases hl : l = n
      · subst hl; simp [hq]; omega
      · have : (1#64 <<< n).getLsbD l = false := by
          simp only [BitVec.getLsbD_shiftLeft, BitVec.getLsbD_one]
          by_cases h : l < n
          · simp [h]
          · have : l - n ≠ 0 := by omega
            simp [this]
        rw [this, Bool.or_false]
        congr 1
        simp only [decide_eq_decide]; omega
    · rw [if_neg hq, ih]
      by_cases hl : l = n
      · subst hl; simp [hq]
      · congr 1
        simp only [decide_eq_decide]; omega

/-- A lane of a mask made from a test. -/
@[simp] theorem getLsbD_maskOf (q : Nat → Bool) (l : Nat) : (maskOf q).getLsbD l = (decide (l < 64) && q l) :=
  maskOf_fold q 64 l (Nat.le_refl _)

/-! ### v-registers -/

/-- A write with no lane changes nothing. -/
@[simp] theorem Group.setV_zero (gr : Group) (r : Reg) (x : LaneVec) : gr.setV r 0#64 x = gr := by
  have : (lanesFrom fun l => if (0#64).getLsbD l then lane x l else lane (gr.vreg r) l) = gr.vreg r := by
    apply lanes_ext; intro l hl; simp
  unfold Group.setV
  simp only [this]
  suffices h : gr.v.setIfInBounds r.toNat (gr.vreg r) = gr.v by rw [h]
  apply Vector.ext
  intro i hi
  rw [Vector.getElem_setIfInBounds]
  split
  · rename_i h; subst h; simp [Group.vreg, hi]
  · rfl

/-- A v-register after a write: the written register in the lanes of the mask, every other lane and register as before (R101). -/
theorem Group.lane_vreg_setV (gr : Group) (r r' : Reg) (m : Mask) (x : LaneVec) (l : Nat) (hr : isV r) (hl : l < 64) :
    lane ((gr.setV r m x).vreg r') l = if r' = r ∧ m.getLsbD l then lane x l else lane (gr.vreg r') l := by
  have hr : r.toNat < 96 := by simpa using hr
  unfold Group.setV Group.vreg
  by_cases h : r' = r
  · subst h
    simp [hr, hl]
  · have : r.toNat ≠ r'.toNat := fun h' => h (BitVec.eq_of_toNat_eq h'.symm)
    simp [h, this]

/-- Another v-register is unchanged. -/
theorem Group.vreg_setV_ne (gr : Group) (r r' : Reg) (m : Mask) (x : LaneVec) (h : r' ≠ r) :
    (gr.setV r m x).vreg r' = gr.vreg r' := by
  have : r.toNat ≠ r'.toNat := fun h' => h (BitVec.eq_of_toNat_eq h'.symm)
  simp [Group.setV, Group.vreg, this]

@[simp] theorem Group.greg_setV (gr : Group) (r r' : Reg) (m : Mask) (x : LaneVec) : (gr.setV r m x).greg r' = gr.greg r' := rfl

/-! ### g-registers -/

/-- A g-register after a write (R79). -/
theorem Group.greg_setG (gr : Group) (r r' : Reg) (w : Word) (h : isG r) (h' : isG r') :
    (gr.setG r w).greg r' = if r' = r then w else gr.greg r' := by
  have h : 96 ≤ r.toNat := by simpa using h
  have h' : 96 ≤ r'.toNat := by simpa using h'
  have b := r.isLt
  unfold Group.setG Group.greg
  by_cases e : r' = r
  · subst e
    have : r'.toNat - 96 < 32 := by omega
    simp [this]
  · have : r.toNat ≠ r'.toNat := fun x => e (BitVec.eq_of_toNat_eq x.symm)
    have : r.toNat - 96 ≠ r'.toNat - 96 := by omega
    simp [e, this]

@[simp] theorem Group.vreg_setG (gr : Group) (r r' : Reg) (w : Word) : (gr.setG r w).vreg r' = gr.vreg r' := rfl

/-! ### Predicates -/

/-- p7 reads true in every lane, whatever is written (R79). -/
@[simp] theorem Group.pred_seven (gr : Group) : gr.pred 7#3 = BitVec.allOnes 64 := rfl
/-- A write to p7 is discarded (R79). -/
@[simp] theorem Group.setPred_seven (gr : Group) (m x : Mask) : gr.setPred 7#3 m x = gr := rfl
/-- c7 reads true (R79). -/
@[simp] theorem Group.cpred_seven (gr : Group) : gr.cpred 7#3 = true := rfl
/-- A write to c7 is discarded (R133). -/
@[simp] theorem Group.setC_seven (gr : Group) (b : Bool) : gr.setC 7#3 b = gr := rfl

/-- A write to a lane predicate with no lane changes nothing. -/
@[simp] theorem Group.setPred_zero (gr : Group) (n : BitVec 3) (x : Mask) : gr.setPred n 0#64 x = gr := by
  unfold Group.setPred
  split
  · rfl
  · rename_i h
    have hz : gr.pred n &&& ~~~(0#64) ||| x &&& 0#64 = gr.pred n := by
      rw [show ~~~(0#64) = BitVec.allOnes 64 from rfl, BitVec.and_allOnes]; simp
    have hb : n.toNat < 7 := by
      have := n.isLt
      have : n.toNat ≠ 7 := fun e => h (BitVec.eq_of_toNat_eq e)
      omega
    have : gr.p.setIfInBounds n.toNat (gr.pred n) = gr.p := by
      apply Vector.ext
      intro i hi
      rw [Vector.getElem_setIfInBounds]
      split
      · rename_i e; subst e; unfold Group.pred; rw [if_neg h]; simp [hi]
      · rfl
    rw [hz, this]

/-- A lane predicate after a write. -/
theorem Group.pred_setPred (gr : Group) (n k : BitVec 3) (m x : Mask) (hn : n ≠ 7) :
    (gr.setPred n m x).pred k = if k = n then (gr.pred n &&& ~~~m) ||| (x &&& m) else gr.pred k := by
  have hb : n.toNat < 7 := by
    have := n.isLt
    have : n.toNat ≠ 7 := fun h => hn (BitVec.eq_of_toNat_eq h)
    omega
  unfold Group.setPred
  rw [if_neg hn]
  by_cases h7 : k = 7
  · subst h7
    rw [if_neg (Ne.symm hn)]
    rfl
  · unfold Group.pred
    rw [if_neg h7, if_neg hn, if_neg h7]
    by_cases h : k = n
    · subst h
      simp [hb]
    · have : n.toNat ≠ k.toNat := fun h' => h (BitVec.eq_of_toNat_eq h'.symm)
      simp [h, this]

/-! ### Paths -/

@[simp] theorem Group.slotAt_setSlot (gr : Group) (i j : Bool) (p : PathSlot) :
    (gr.setSlot i p).slotAt j = if j = i then p else gr.slotAt j := by
  cases i <;> cases j <;> rfl

/-- The issuing path after its PC is set. -/
@[simp] theorem Group.path_setPc (gr : Group) (pc : PC) : (gr.setPc pc).path = { gr.path with pc := pc } := by
  simp [Group.setPc, Group.path]

@[simp] theorem Group.path_issued (gr : Group) : gr.issued.path = gr.path := rfl
@[simp] theorem Group.path_setV (gr : Group) (r : Reg) (m : Mask) (x : LaneVec) : (gr.setV r m x).path = gr.path := rfl
@[simp] theorem Group.path_setG (gr : Group) (r : Reg) (w : Word) : (gr.setG r w).path = gr.path := rfl

end Sys2Proof.Machine
end

