-- ==== Sys2Proof/Laws/Stack.lean ====
section
/-!
SUPPORT. The stack's pushes (R38, R221): whether some entries find room depends on how many they are, not on what they hold.
-/

namespace Sys2Proof.Machine

/-- What stops a push depends on the number of its entries alone. -/
theorem State.pushFate_map_zero (s : State) (es : List (BitVec 128)) (k : Nat) :
    s.pushFate k es = s.pushFate k (es.map fun _ => 0) := by
  induction es generalizing k with
  | nil => rfl
  | cons e es ih =>
    simp only [State.pushFate, List.map_cons, ← ih]

/-- Two entries find room where two zero entries do. -/
theorem State.pushFate_pair {s : State} {k : Nat} (h : s.pushFate k [0, 0] = none) (e e' : BitVec 128) :
    s.pushFate k [e, e'] = none := by
  rw [s.pushFate_map_zero]; exact h

end Sys2Proof.Machine
end

