-- ==== Sys2Proof/Laws/Storage.lean ====
section
/-!
SUPPORT. What the shared operations do to memory, the Stage and the tiles: each keeps their canonical form (log 4, DESIGN CHOICE), and those that store
nothing leave all three as they are.
-/

namespace Sys2Proof.Machine

/-- From one state to another the byte arrays keep their canonical form. -/
structure Keeps (s t : State) : Prop where
  mem : Memory.wf s.mem = true → Memory.wf t.mem = true
  stage : Memory.wf s.stage = true → Memory.wf t.stage = true
  tiles : Memory.wf s.tiles = true → Memory.wf t.tiles = true

/-- The byte arrays are the same. -/
structure Stores (s t : State) : Prop where
  mem : t.mem = s.mem
  stage : t.stage = s.stage
  tiles : t.tiles = s.tiles

theorem Keeps.refl (s : State) : Keeps s s := ⟨id, id, id⟩
theorem Keeps.trans {s t u : State} (h : Keeps s t) (k : Keeps t u) : Keeps s u :=
  ⟨k.mem ∘ h.mem, k.stage ∘ h.stage, k.tiles ∘ h.tiles⟩
theorem Stores.refl (s : State) : Stores s s := ⟨rfl, rfl, rfl⟩
theorem Stores.trans {s t u : State} (h : Stores s t) (k : Stores t u) : Stores s u :=
  ⟨k.mem.trans h.mem, k.stage.trans h.stage, k.tiles.trans h.tiles⟩
theorem Stores.keeps {s t : State} (h : Stores s t) : Keeps s t :=
  ⟨fun x => h.mem ▸ x, fun x => h.stage ▸ x, fun x => h.tiles ▸ x⟩
/-- A step that stores nothing, then one that stores nothing, the second named first. -/
theorem Stores.after {s t u : State} (k : Stores t u) (h : Stores s t) : Stores s u := h.trans k
/-- The same for steps that keep the form. -/
theorem Keeps.after {s t u : State} (k : Keeps t u) (h : Stores s t) : Keeps s u := h.keeps.trans k
theorem Stores.ite {s a b : State} {c : Prop} [Decidable c] (h : Stores s a) (k : Stores s b) : Stores s (if c then a else b) := by
  split
  · exact h
  · exact k
/-- A fold of steps that each keep the form keeps it. -/
theorem Keeps.foldl {α : Type} (f : State → α → State) (h : ∀ s x, Keeps s (f s x)) : ∀ (l : List α) (s : State), Keeps s (l.foldl f s)
  | [], s => .refl s
  | x :: l, s => (h s x).trans (Keeps.foldl f h l (f s x))
/-- A fold of steps that store nothing stores nothing. -/
theorem Stores.foldl {α : Type} (f : State → α → State) (h : ∀ s x, Stores s (f s x)) :
    ∀ (l : List α) (s : State), Stores s (l.foldl f s)
  | [], s => .refl s
  | x :: l, s => (h s x).trans (Stores.foldl f h l (f s x))

/-! ### Storage -/

theorem State.healByte_stores (s : State) (b : Bool) (a : Nat) : Stores s (s.healByte b a) := by
  unfold State.healByte; simp only []; split <;> exact ⟨rfl, rfl, rfl⟩
theorem State.healBytes_stores (b : Bool) : ∀ (n : Nat) (s : State) (a : Nat), Stores s (s.healBytes b a n)
  | 0, s, _ => .refl s
  | n + 1, s, a => (s.healByte_stores b a).trans (State.healBytes_stores b n _ (a + 1))
theorem State.markBelow_stores (s : State) (a n reader : Nat) (old : Nat → Bool) : Stores s (s.markBelow a n reader old) := ⟨rfl, rfl, rfl⟩
theorem State.markSeen_stores (s : State) (a n reader : Nat) : Stores s (s.markSeen a n reader) := s.markBelow_stores _ _ _ _
theorem State.reportFault_stores (s : State) (part ia : Nat) : Stores s (s.reportFault part ia) := by
  unfold State.reportFault; split <;> exact ⟨rfl, rfl, rfl⟩
theorem State.markCopy_stores (s : State) (a n reader : Nat) (stamp : Option Nat) : Stores s (s.markCopy a n reader stamp) :=
  s.markBelow_stores _ _ _ _
theorem State.countHot_stores (s : State) (part line : Nat) : Stores s (s.countHot part line) := by
  unfold State.countHot; split <;> exact ⟨rfl, rfl, rfl⟩
theorem State.evictLine_stores (s : State) (part line : Nat) : Stores s (s.evictLine part line) := by
  unfold State.evictLine
  simp only []
  split
  · exact (State.countHot_stores _ part line).after ⟨rfl, rfl, rfl⟩
  · exact ⟨rfl, rfl, rfl⟩
theorem State.makeRoom_stores (s : State) (slice : Nat) : Stores s (s.makeRoom slice) := by
  unfold State.makeRoom
  refine Stores.ite (.refl s) ?_
  simp only []
  refine Stores.ite (.refl s) ?_
  split
  · exact s.evictLine_stores _ _
  · exact .refl s
theorem State.touchLine_stores (s : State) (part line : Nat) (wr : Bool) : Stores s (s.touchLine part line wr) := by
  unfold State.touchLine
  split
  · split <;> exact ⟨rfl, rfl, rfl⟩
  · extract_lets s1
    have h : Stores s s1 := by
      show Stores s (match s.homeLeaf part line with | some h => s.makeRoom h.1 | none => s)
      split
      · exact s.makeRoom_stores _
      · exact .refl s
    exact (State.countHot_stores _ part line).after (h.trans ⟨rfl, rfl, rfl⟩)
theorem State.touch_stores (s : State) (part : Nat) (d : Dest) (n : Nat) (wr : Bool) : Stores s (s.touch part d n wr) :=
  Stores.foldl _ (fun s line => s.touchLine_stores part line wr) _ s
theorem State.markRead_stores (s : State) (part : Nat) (d : Dest) (n reader : Nat) : Stores s (s.markRead part d n reader) := by
  unfold State.markRead
  extract_lets s1
  have h : Stores s s1 := s.touch_stores part d n false
  split
  · exact h
  · exact h.trans (Stores.foldl _ (fun s (x : Nat × Nat) => s.markSeen_stores x.1 x.2 reader) _ s1)
theorem State.readAs_stores (s : State) (part : Nat) (d : Dest) (n : Nat) (cls : Obs) (reader : Nat) (served : Bool) :
    Stores s (s.readAs part d n cls reader served).2 := by
  unfold State.readAs
  generalize (if served = true then s.cachedBytes part d n cls reader 0 else none) = x
  cases x
  · exact s.markRead_stores _ _ _ _
  · exact Stores.foldl _ (fun s e => s.markCopy_stores _ _ _ _) _ s

/-- A write at the owning point keeps the form of every byte array (R201, R202). -/
theorem State.writeDest_keeps (s : State) (part : Nat) (d : Dest) (bs : List Byte) (writer : Nat) :
    Keeps s (s.writeDest part d bs writer) := by
  unfold State.writeDest
  split
  · split
    · rename_i pa _ home _ _ _
      have h : ∀ x : State, Stores s x → Keeps s { x with mem := writeBytes x.mem pa bs } := fun x hx =>
        ⟨fun y => wf_writeBytes _ _ _ (hx.mem ▸ y), fun y => hx.stage ▸ y, fun y => hx.tiles ▸ y⟩
      have h1 : Stores s (if s.poison.isEmpty && s.failed.isEmpty then s else s.healBytes false pa bs.length) := by
        split
        · exact .refl s
        · exact State.healBytes_stores _ _ _ _
      extract_lets t s1 s2 keep s3
      have h2 : Keeps s s2 := (h s1 h1).trans (State.touch_stores _ _ _ _ _).keeps
      split
      · exact h2
      · split
        · exact h2.trans (Stores.keeps ⟨rfl, rfl, rfl⟩)
        · exact h2.trans (Stores.keeps ((State.markSeen_stores _ _ _ _).after ⟨rfl, rfl, rfl⟩))
    · exact .refl s
  · rename_i b
    have h1 : Stores s (if s.poison.isEmpty then s else s.healBytes true b bs.length) := by
      split
      · exact .refl s
      · exact State.healBytes_stores _ _ _ _
    extract_lets s1 s2
    have h2 : Keeps s s2 := ⟨fun y => h1.mem ▸ y, fun y => wf_writeBytes _ _ _ (h1.stage ▸ y), fun y => h1.tiles ▸ y⟩
    split
    · exact h2
    · exact h2.trans (State.markSeen_stores _ _ _ _).keeps
  · exact Stores.keeps ⟨rfl, rfl, rfl⟩
  · exact Stores.keeps ⟨rfl, rfl, rfl⟩
  · exact .refl s

/-! ### The group's operations -/

theorem State.chargeCycle_stores (s : State) : Stores s s.chargeCycle := ⟨by simp, by simp, by simp⟩
theorem State.setCur_stores (s : State) (gr : Group) : Stores s (s.setCur gr) := ⟨rfl, rfl, rfl⟩
theorem State.modGroup_stores (s : State) (key : Nat) (f : Group → Group) : Stores s (s.modGroup key f) := by
  unfold State.modGroup; split <;> exact ⟨rfl, rfl, rfl⟩
theorem State.modGroups_stores (s : State) (f : Group → Group) : Stores s (s.modGroups f) := ⟨rfl, rfl, rfl⟩
theorem State.focus_stores (s : State) (key : Nat) : Stores s (s.focus key) := by
  unfold State.focus
  split
  · exact .refl s
  · split <;> exact ⟨rfl, rfl, rfl⟩
theorem State.hold_stores (s : State) (why : Hold) : Stores s (s.hold why) := ⟨rfl, rfl, rfl⟩
theorem State.retireWith_stores (s : State) (f : Group → Group) : Stores s (s.retireWith f) :=
  Stores.trans (t := { s with cur := { f s.cur.issued with lastIssue := some s.cycle } }) ⟨rfl, rfl, rfl⟩ (State.chargeCycle_stores _)
theorem State.retireTo_stores (s : State) (pc : PC) : Stores s (s.retireTo pc) := s.retireWith_stores _
theorem State.retire_stores (s : State) (len : Nat) : Stores s (s.retire len) := s.retireTo_stores _
theorem State.groupWrite_keeps (s : State) (d : Dest) (bs : List Byte) : Keeps s (s.groupWrite d bs) :=
  (s.writeDest_keeps _ _ _ _).trans (Stores.keeps ⟨rfl, rfl, rfl⟩)
theorem State.groupRead_stores (s : State) (d : Dest) (n : Nat) : Stores s (s.groupRead d n).2 := s.readAs_stores _ _ _ _ _ _
theorem State.parkAt_stores (s : State) (pages : List Nat) (m : Mask) : Stores s (s.parkAt pages m) :=
  (State.chargeCycle_stores _).after ⟨rfl, rfl, rfl⟩
theorem State.park_stores (s : State) (ia : Nat) (m : Mask) : Stores s (s.park ia m) :=
  (s.reportFault_stores _ _).trans (State.parkAt_stores _ _ _)
theorem State.faultRecord_stores (s : State) (kind cause : Nat) (addr : DWord) (lanes : Mask) (pc : PC) :
    Stores s (s.faultRecord kind cause addr lanes pc) := ⟨rfl, rfl, rfl⟩

/-! ### Cohorts, consumers, and the end of a group -/

theorem State.consumerLaunch_stores (s : State) (part n : Nat) : Stores s (s.consumerLaunch part n) := by
  unfold State.consumerLaunch
  split
  · exact .refl s
  · refine Stores.ite (.refl s) ?_
    split
    · exact (s.reportFault_stores _ _).trans ⟨rfl, rfl, rfl⟩
    all_goals exact ⟨rfl, rfl, rfl⟩
theorem State.consumerFree_stores (s : State) (part n first : Nat) : Stores s (s.consumerFree part n first) := by
  show Stores s (State.consumerLaunch _ part n)
  exact (State.consumerLaunch_stores _ part n).after ⟨rfl, rfl, rfl⟩
theorem State.dropLaunch_stores (s : State) (key : Nat) : Stores s (s.dropLaunch key) := by
  unfold State.dropLaunch
  split
  · exact .refl s
  · split
    · exact .refl s
    · simp only []
      split
      · exact ⟨rfl, rfl, rfl⟩
      · exact (State.consumerFree_stores _ _ _ _).after ⟨rfl, rfl, rfl⟩
theorem State.completeOnce_stores (s : State) (key : Nat) : Stores s (s.completeOnce key) := by
  unfold State.completeOnce
  split
  · exact .refl s
  · split <;> exact ⟨rfl, rfl, rfl⟩
theorem State.completePhase_stores (s : State) (key : Nat) : Stores s (s.completePhase key) :=
  (s.completeOnce_stores key).trans (State.completeOnce_stores _ key)
theorem State.leaveCohort_stores (s : State) (key cohort : Nat) : Stores s (s.leaveCohort key cohort) := by
  unfold State.leaveCohort
  split
  · exact .refl s
  · split
    · show Stores s (State.completePhase _ cohort)
      exact (State.completePhase_stores _ cohort).after ⟨rfl, rfl, rfl⟩
    · exact (State.dropLaunch_stores _ _).after ⟨rfl, rfl, rfl⟩
theorem State.endSections_stores (s : State) (key core : Nat) : Stores s (s.endSections key core) := by
  unfold State.endSections
  simp only []
  split <;> exact ⟨rfl, rfl, rfl⟩
theorem State.streamStore_keeps (s : State) (gr : Group) (p : Port) : Keeps s (s.streamStore gr p).1 := by
  unfold State.streamStore
  split
  · exact .refl s
  · simp only []
    split
    · exact s.writeDest_keeps _ _ _ _
    · exact .refl s
    · exact (s.reportFault_stores _ _).keeps
    · exact .refl s
theorem State.runLate_keeps (s : State) (gr : Group) (x : Late) (served : Bool) : Keeps s (s.runLate gr x served).1 := by
  unfold State.runLate
  simp only []
  split
  · exact s.writeDest_keeps _ _ _ _
  · exact (s.readAs_stores _ _ _ _ _ _).keeps
  · exact (s.readAs_stores _ _ _ _ _ _).keeps
  · exact s.writeDest_keeps _ _ _ _
theorem State.performLate_keeps (s : State) (gr : Group) (k : Nat) (served : Bool) : Keeps s (s.performLate gr k served).1 := by
  unfold State.performLate
  split
  · exact .refl s
  · split
    · exact .refl s
    · exact s.runLate_keeps _ _ _
theorem State.performAll_keeps (s : State) (gr : Group) : Keeps s (s.performAll gr).1 := by
  unfold State.performAll
  have h : ∀ (l : List Late) (a : State × Group), Keeps s a.1 →
      Keeps s (l.foldl (fun r _ => r.1.performLate r.2 0 false) a).1 := by
    intro l
    induction l with
    | nil => exact fun a ha => ha
    | cons x l ih => exact fun a ha => ih _ (ha.trans (State.performLate_keeps _ _ _ _))
  exact h _ _ (.refl s)
theorem State.writePush_keeps (s : State) (gr : Group) (q : Nat) : Keeps s (s.writePush gr q).1 := by
  unfold State.writePush
  extract_lets x gr1 r left
  have h : Keeps s x.1 := by
    show Keeps s (match s.pushedFate gr q with
      | some (.go d) => if gr.late.any fun y => y.meets d 4 then s.performAll gr else (s, gr)
      | _ => (s, gr)).1
    split
    · split
      · exact s.performAll_keeps gr
      · exact .refl s
    · exact .refl s
  exact h.trans (State.streamStore_keeps _ _ _)
theorem State.writePushes_keeps : ∀ (n : Nat) (s : State) (gr : Group), Keeps s (State.writePushes n s gr).1
  | 0, s, _ => .refl s
  | n + 1, s, gr => by
    unfold State.writePushes
    split
    · exact .refl s
    · exact (s.writePush_keeps gr _).trans (State.writePushes_keeps n _ _)
theorem State.flushPorts_keeps (s : State) (gr : Group) : Keeps s (s.flushPorts gr).1 := by
  unfold State.flushPorts
  have h : ∀ (l : List Nat) (a : State × Group), Keeps s a.1 →
      Keeps s (l.foldl (fun a q => if a.1.pushWaits a.2 q then a.1.writePush a.2 q else a) a).1 := by
    intro l
    induction l with
    | nil => exact fun a ha => ha
    | cons q l ih =>
      intro a ha
      refine ih _ ?_
      dsimp only
      split
      · exact ha.trans (State.writePush_keeps _ _ _)
      · exact ha
  exact h _ _ (State.writePushes_keeps _ _ _)
theorem State.writePushed_keeps (s : State) : Keeps s s.writePushed := by
  unfold State.writePushed
  split
  · exact .refl s
  · exact (s.flushPorts_keeps s.cur).trans (Stores.keeps (State.setCur_stores _ _))
/-- Nothing late: nothing to perform. -/
@[simp] theorem State.flushLate_none (s : State) (h : s.cur.late = []) : s.flushLate = s := by
  unfold State.flushLate; rw [h]; rfl
@[simp] theorem State.writePushed_none (s : State) (h : s.cur.pushes = []) : s.writePushed = s := by
  unfold State.writePushed; rw [h]; rfl
/-- Nothing pushed and nothing late: the next instruction comes at once (R183, R197). -/
theorem State.afterPushes_none (s : State) (hp : s.cur.pushes = []) (hl : s.cur.late = []) : s.afterPushes = s := by
  unfold State.afterPushes; rw [s.writePushed_none hp, s.flushLate_none hl]
theorem State.flushLate_keeps (s : State) : Keeps s s.flushLate := by
  unfold State.flushLate
  split
  · exact .refl s
  · exact (s.performAll_keeps s.cur).trans (Stores.keeps (State.setCur_stores _ _))
theorem State.afterPushes_keeps (s : State) : Keeps s s.afterPushes := s.writePushed_keeps.trans (State.flushLate_keeps _)
theorem State.performGroup_keeps (s : State) (key : Nat) : Keeps s (s.performGroup key) := by
  unfold State.performGroup
  split
  · exact .refl s
  · split
    · exact .refl s
    · exact (s.performAll_keeps _).trans (Stores.keeps (State.modGroup_stores _ _ _))
theorem State.flushAllLate_keeps (s : State) : Keeps s s.flushAllLate :=
  Keeps.foldl _ (fun s key => s.performGroup_keeps key) _ s
theorem State.endStreams_fst (s : State) (gr : Group) : (s.endStreams gr).1 = (s.flushPorts gr).1 := by
  unfold State.endStreams
  with_reducible rfl
theorem State.endStreams_keeps (s : State) (gr : Group) : Keeps s (s.endStreams gr).1 := by
  rw [State.endStreams_fst]
  exact s.flushPorts_keeps gr
/-- A context is freed and its cohort left. -/
theorem State.leave_keeps {s u : State} (h : Keeps s u) (gr : Group) (ds : List Group) (key cohort : Nat) :
    Keeps s (State.leaveCohort { u with cur := gr, draining := ds } key cohort) := by
  have h1 := State.leaveCohort_stores { u with cur := gr, draining := ds } key cohort
  have h2 : Stores u { u with cur := gr, draining := ds } := ⟨rfl, rfl, rfl⟩
  exact h.trans (h2.trans h1).keeps
theorem State.endGroup_keeps (s : State) (pc : PC) : Keeps s (s.endGroup pc) := by
  unfold State.endGroup
  extract_lets s0 gr s1 s2 d left s3
  have h1 : Stores s0 s1 := Stores.foldl _ (fun s x => State.faultRecord_stores s _ _ _ _ _) _ s0
  have h2 : Keeps s0 d.1 := (State.endStreams_keeps s2 gr).after ((State.endSections_stores s1 gr.key gr.core).after h1)
  exact State.leave_keeps (s.flushLate_keeps.trans h2) _ _ _ _

/-! ### The stack and traps -/

theorem State.pushWrite_keeps : ∀ (es : List (BitVec 128)) (s : State) (k : Nat), Keeps s (s.pushWrite k es)
  | [], s, _ => .refl s
  | e :: es, s, k => by
    unfold State.pushWrite
    split
    · exact (State.pushWrite_keeps es _ (k + 1)).after ⟨rfl, rfl, rfl⟩
    · split
      · exact (s.groupWrite_keeps _ _).trans (State.pushWrite_keeps es _ (k + 1))
      · exact State.pushWrite_keeps es s (k + 1)
theorem State.push_keeps (s : State) (es : List (BitVec 128)) : Keeps s (s.push es) :=
  (State.pushWrite_keeps es s _).trans (Stores.keeps ⟨rfl, rfl, rfl⟩)
theorem State.markStack_stores (s : State) (k n : Nat) : Stores s (s.markStack k n) :=
  Stores.foldl _ (fun s i => by
    split
    · exact .refl s
    · split
      · exact s.readAs_stores _ _ _ _ _ _
      · exact .refl s) _ s
theorem State.markPop_stores (s : State) (e : BitVec 128) (depth : Nat) : Stores s (s.markPop e depth) := s.markStack_stores _ _
theorem State.install_stores (s : State) (one : Bool) (e : BitVec 128) (m : Mask) (k : Nat) : Stores s (s.install one e m k) :=
  (s.markPop_stores e k).trans ⟨rfl, rfl, rfl⟩
theorem State.die_keeps (s : State) (cause : Nat) (addr : DWord) (lanes : Mask) (pc : PC) : Keeps s (s.die cause addr lanes pc) :=
  (s.faultRecord_stores _ _ _ _ _).keeps.trans (State.endGroup_keeps _ _)
theorem State.enterTrap_keeps (s : State) (t : TrapInfo) : Keeps s (s.enterTrap t) := by
  unfold State.enterTrap
  simp only []
  split
  · exact s.die_keeps _ _ _ _
  · split
    · exact s.die_keeps _ _ _ _
    · rename_i ia _ _
      exact Keeps.trans (t := s.reportFault s.cur.part ia) (s.reportFault_stores _ _).keeps (Stores.keeps ⟨rfl, rfl, rfl⟩)
    · exact Stores.keeps ⟨rfl, rfl, rfl⟩
    · exact Keeps.trans (t := s.push _) (s.push_keeps _) (Stores.keeps ⟨rfl, rfl, rfl⟩)
/-- Taking a trap stores no byte but those of its stack entries, and keeps the form of every array (R219, R221). -/
theorem State.takeTrap_keeps (s : State) (t : TrapInfo) : Keeps s (s.takeTrap t) := by
  unfold State.takeTrap
  refine Keeps.trans (Stores.keeps ?_) (State.enterTrap_keeps _ t)
  exact (State.chargeCycle_stores _).after ⟨rfl, rfl, rfl⟩
theorem State.trapPath_keeps (s : State) (cause info : Nat) (addr : DWord) (len : Nat) (replay : Bool) :
    Keeps s (s.trapPath cause info addr len replay) := s.takeTrap_keeps _
theorem State.uniformStop_keeps (s : State) (f : Fate) (addr : DWord) (len : Nat) (replay : Bool) :
    Keeps s (s.uniformStop f addr len replay) := by
  unfold State.uniformStop
  split
  · exact .refl s
  · exact (s.park_stores _ _).keeps
  · exact (s.hold_stores _).keeps
  · exact s.trapPath_keeps _ _ _ _ _
theorem State.stackOverflow_keeps (s : State) (len : Nat) : Keeps s (s.stackOverflow len) := s.trapPath_keeps _ _ _ _ _

/-! ### The wrappers -/

theorem laneExec_stores (len : Nat) (g : BitVec 3) (srcs : List Reg) (s : State) (f : Mask → Group → Group) :
    Stores s (laneExec len g srcs s f) := by
  unfold laneExec
  simp only []
  split
  · exact s.retire_stores _
  · split
    · exact s.hold_stores _
    · exact (s.setCur_stores _).trans (State.retire_stores _ _)
theorem uniExec_stores (len : Nat) (g : BitVec 3) (srcs : List Reg) (s : State) (f : Group → Group) :
    Stores s (uniExec len g srcs s f) := by
  unfold uniExec
  split
  · exact s.retire_stores _
  · split
    · exact s.hold_stores _
    · exact (s.setCur_stores _).trans (State.retire_stores _ _)
theorem uniDo_keeps (len : Nat) (g : BitVec 3) (srcs : List Reg) (s : State) (f : State → State) (h : Keeps s (f s)) :
    Keeps s (uniDo len g srcs s f) := by
  unfold uniDo
  split
  · exact (s.retire_stores _).keeps
  · split
    · exact (s.hold_stores _).keeps
    · exact h
/-- The end of an access stores no byte but those of a trap's stack entries (R218, R221). -/
theorem State.finishAccess_keeps (s : State) (len : Nat) (path : Bool) : Keeps s (s.finishAccess len path) := by
  unfold State.finishAccess
  split
  · exact (s.retire_stores _).keeps
  · simp only []
    split
    · exact (Stores.trans (s.retireTo_stores _) (State.setCur_stores _ _)).keeps
    · exact s.takeTrap_keeps _
theorem laneDo_keeps (len : Nat) (g : BitVec 3) (srcs : List Reg) (s : State) (f : Mask → State → State) (h : ∀ m, Keeps s (f m s)) :
    Keeps s (laneDo len g srcs s f) := by
  unfold laneDo
  simp only []
  split
  · split
    · exact s.finishAccess_keeps _ _
    · exact (s.retire_stores _).keeps
  · split
    · exact (s.hold_stores _).keeps
    · exact h _
theorem laneFloat_keeps (len : Nat) (g : BitVec 3) (srcs : List Reg) (s : State) (flags : Nat → FFlags)
    (write : Mask → Group → Group) : Keeps s (laneFloat len g srcs s flags write) := by
  unfold laneFloat
  simp only []
  split
  · exact (s.retire_stores _).keeps
  · split
    · exact (s.hold_stores _).keeps
    · split
      · exact ((s.setCur_stores _).trans (State.retire_stores _ _)).keeps
      · exact (s.setCur_stores _).keeps.trans (State.takeTrap_keeps _ _)

end Sys2Proof.Machine
end

