-- ==== Sys2Proof/Laws/Wrappers.lean ====
section
/-!
SUPPORT. What the wrappers of the instructions can do, each said once: no effect under a false guard or with no acting lane, a wait
while a source is pending, or the instruction's effect and its retirement (R40, R81, R101, R132, R192).
-/

namespace Sys2Proof.Machine

@[simp] theorem State.setCur_self (s : State) : s.setCur s.cur = s := rfl
@[simp] theorem State.setCur_setCur (s : State) (a b : Group) : (s.setCur a).setCur b = s.setCur b := rfl

/-- A lane instruction on registers: nothing but its retirement, a wait, or its effect. -/
theorem laneExec_cases (len : Nat) (g : BitVec 3) (srcs : List Reg) (s : State) (f : Mask → Group → Group) :
    (s.cur.acting g = 0 ∧ laneExec len g srcs s f = s.retire len) ∨
    (s.cur.acting g ≠ 0 ∧ s.cur.pendingOn srcs = true ∧ laneExec len g srcs s f = s.hold .pending) ∨
    (s.cur.acting g ≠ 0 ∧ s.cur.pendingOn srcs = false ∧
      laneExec len g srcs s f = (s.setCur (f (s.cur.acting g) s.cur)).retire len) := by
  unfold laneExec
  by_cases h : s.cur.acting g = 0
  · exact .inl ⟨h, if_pos h⟩
  · rw [if_neg h]
    cases hp : s.cur.pendingOn srcs
    · exact .inr (.inr ⟨h, rfl, rfl⟩)
    · exact .inr (.inl ⟨h, rfl, rfl⟩)

/-- A lane instruction whose sources are not pending and whose effect on no lane is none. -/
theorem laneExec_eq (len : Nat) (g : BitVec 3) (srcs : List Reg) (s : State) (f : Mask → Group → Group)
    (h : s.cur.pendingOn srcs = false) (h0 : f 0 s.cur = s.cur) :
    laneExec len g srcs s f = (s.setCur (f (s.cur.acting g) s.cur)).retire len := by
  rcases laneExec_cases len g srcs s f with ⟨ha, e⟩ | ⟨_, hp, _⟩ | ⟨_, _, e⟩
  · rw [e, ha, h0, State.setCur_self]
  · rw [h] at hp; contradiction
  · exact e

/-- A uniform instruction on registers: nothing but its retirement, a wait, or its effect. -/
theorem uniExec_cases (len : Nat) (g : BitVec 3) (srcs : List Reg) (s : State) (f : Group → Group) :
    (s.cur.cpred g = false ∧ uniExec len g srcs s f = s.retire len) ∨
    (s.cur.cpred g = true ∧ s.cur.pendingOn srcs = true ∧ uniExec len g srcs s f = s.hold .pending) ∨
    (s.cur.cpred g = true ∧ s.cur.pendingOn srcs = false ∧ uniExec len g srcs s f = (s.setCur (f s.cur)).retire len) := by
  unfold uniExec
  cases hg : s.cur.cpred g <;> cases hp : s.cur.pendingOn srcs <;> simp

/-- A uniform instruction under a true guard with no pending source has its effect. -/
theorem uniExec_eq (len : Nat) (g : BitVec 3) (srcs : List Reg) (s : State) (f : Group → Group)
    (hg : s.cur.cpred g = true) (h : s.cur.pendingOn srcs = false) :
    uniExec len g srcs s f = (s.setCur (f s.cur)).retire len := by
  unfold uniExec; simp [hg, h]

/-- A uniform instruction with a state of its own: nothing but its retirement, a wait, or its effect. -/
theorem uniDo_cases (len : Nat) (g : BitVec 3) (srcs : List Reg) (s : State) (f : State → State) :
    (s.cur.cpred g = false ∧ uniDo len g srcs s f = s.retire len) ∨
    (s.cur.cpred g = true ∧ s.cur.pendingOn srcs = true ∧ uniDo len g srcs s f = s.hold .pending) ∨
    (s.cur.cpred g = true ∧ s.cur.pendingOn srcs = false ∧ uniDo len g srcs s f = f s) := by
  unfold uniDo
  cases hg : s.cur.cpred g <;> cases hp : s.cur.pendingOn srcs <;> simp

theorem uniDo_eq (len : Nat) (g : BitVec 3) (srcs : List Reg) (s : State) (f : State → State)
    (hg : s.cur.cpred g = true) (h : s.cur.pendingOn srcs = false) : uniDo len g srcs s f = f s := by
  unfold uniDo; simp [hg, h]

@[simp] theorem Group.pendingOn_nil (gr : Group) : gr.pendingOn [] = false := rfl

@[simp] theorem Group.todo_none (gr : Group) (g : BitVec 3) (h : gr.unfinished = none) : gr.todo g = gr.acting g := by
  unfold Group.todo; rw [h]; rfl
@[simp] theorem Group.todo_some (gr : Group) (g : BitVec 3) (m : Mask) (h : gr.unfinished = some m) : gr.todo g = m := by
  unfold Group.todo; rw [h]; rfl

/-- A lane instruction with a state of its own (R101, R173, R192, R218): with no lane left to act, its retirement, or where it is in the middle
its end; a wait; or its effect. -/
theorem laneDo_cases (len : Nat) (g : BitVec 3) (srcs : List Reg) (s : State) (f : Mask → State → State) :
    (s.cur.todo g = 0 ∧ s.cur.unfinished = none ∧ laneDo len g srcs s f = s.retire len) ∨
    (s.cur.todo g = 0 ∧ s.cur.unfinished = some 0 ∧ laneDo len g srcs s f = s.finishAccess len false) ∨
    (s.cur.todo g ≠ 0 ∧ s.cur.pendingOn srcs = true ∧ laneDo len g srcs s f = s.hold .pending) ∨
    (s.cur.todo g ≠ 0 ∧ s.cur.pendingOn srcs = false ∧ laneDo len g srcs s f = f (s.cur.todo g) s) := by
  unfold laneDo
  by_cases h : s.cur.todo g = 0
  · cases hu : s.cur.unfinished with
    | none => exact .inl ⟨h, rfl, if_pos h⟩
    | some u =>
      have h0 : u = 0 := (s.cur.todo_some g u hu).symm.trans h
      exact .inr (.inl ⟨h, by rw [h0], if_pos h⟩)
  · cases hp : s.cur.pendingOn srcs
    · exact .inr (.inr (.inr ⟨h, rfl, if_neg h⟩))
    · exact .inr (.inr (.inl ⟨h, rfl, if_neg h⟩))

theorem laneDo_eq (len : Nat) (g : BitVec 3) (srcs : List Reg) (s : State) (f : Mask → State → State)
    (hu : s.cur.unfinished = none) (hm : s.cur.acting g ≠ 0) (h : s.cur.pendingOn srcs = false) :
    laneDo len g srcs s f = f (s.cur.acting g) s := by
  unfold laneDo
  simp only [s.cur.todo_none g hu]
  exact (if_neg hm).trans (by rw [h]; rfl)

/-- A lane float instruction that raises no enabled flag (R60): its writes, its flags, and it retires. -/
theorem laneFloat_eq (len : Nat) (g : BitVec 3) (srcs : List Reg) (s : State) (flags : Nat → FFlags)
    (write : Mask → Group → Group) (hu : s.cur.unfinished = none) (hm : s.cur.acting g ≠ 0) (h : s.cur.pendingOn srcs = false)
    (hq : ∀ l < 64, (s.cur.acting g).getLsbD l = true → s.cur.fpTraps (flags l) = false) :
    laneFloat len g srcs s flags write =
      (s.setCur ((write (s.cur.acting g) s.cur).addFlags
        ((lanesOf (s.cur.acting g)).foldl (fun f l => f ||| flags l) 0))).retire len := by
  have hb : (maskOf fun l => (s.cur.acting g).getLsbD l && s.cur.fpTraps (flags l)) = 0 := by
    apply BitVec.eq_of_getLsbD_eq
    intro i hi
    rw [getLsbD_maskOf]
    by_cases ha : (s.cur.acting g).getLsbD i = true
    · simp [ha, hq i hi ha]
    · simp [ha]
  have hg : s.cur.acting g &&& ~~~(0 : Mask) = s.cur.acting g := by
    rw [show ~~~(0 : Mask) = BitVec.allOnes 64 from rfl, BitVec.and_allOnes]
  unfold laneFloat
  simp only [s.cur.todo_none g hu]
  rw [if_neg hm, h, hb]
  simp only [hg, if_true, Bool.false_eq_true, if_false]

/-- Two vectors made of lanes are equal when the lanes are. -/
theorem lanesFrom_congr {f f' : Nat → Word} (h : ∀ l < 64, f l = f' l) : lanesFrom f = lanesFrom f' :=
  lanes_ext fun l hl => by simp [hl, h l hl]

/-- A lane instruction that writes one v-register. -/
theorem laneExec_setV (len : Nat) (g : BitVec 3) (srcs : List Reg) (s : State) (d : Reg) (f : Mask → Group → Group) (v : Nat → Word)
    (h : s.cur.pendingOn srcs = false) (hf : ∀ m, f m s.cur = s.cur.setV d m (lanesFrom v)) :
    laneExec len g srcs s f = (s.setCur (s.cur.setV d (s.cur.acting g) (lanesFrom v))).retire len := by
  rw [laneExec_eq len g srcs s f h (by rw [hf]; exact Group.setV_zero ..), hf]

theorem laneExec_lane1 (len : Nat) (g : BitVec 3) (srcs : List Reg) (s : State) (d a : Reg) (f : Word → Word) (v : Nat → Word)
    (h : s.cur.pendingOn srcs = false) (hv : ∀ l < 64, f (lane (s.cur.src a) l) = v l) :
    laneExec len g srcs s (lane1 f d a) = (s.setCur (s.cur.setV d (s.cur.acting g) (lanesFrom v))).retire len :=
  laneExec_setV len g srcs s d _ v h fun m => by rw [← lanesFrom_congr hv]; rfl

theorem laneExec_lane2 (len : Nat) (g : BitVec 3) (srcs : List Reg) (s : State) (d a b : Reg) (f : Word → Word → Word)
    (v : Nat → Word) (h : s.cur.pendingOn srcs = false)
    (hv : ∀ l < 64, f (lane (s.cur.src a) l) (lane (s.cur.src b) l) = v l) :
    laneExec len g srcs s (lane2 f d a b) = (s.setCur (s.cur.setV d (s.cur.acting g) (lanesFrom v))).retire len :=
  laneExec_setV len g srcs s d _ v h fun m => by rw [← lanesFrom_congr hv]; rfl

theorem laneExec_lane3 (len : Nat) (g : BitVec 3) (srcs : List Reg) (s : State) (d a b c : Reg) (f : Word → Word → Word → Word)
    (v : Nat → Word) (h : s.cur.pendingOn srcs = false)
    (hv : ∀ l < 64, f (lane (s.cur.src a) l) (lane (s.cur.src b) l) (lane (s.cur.src c) l) = v l) :
    laneExec len g srcs s (lane3 f d a b c) = (s.setCur (s.cur.setV d (s.cur.acting g) (lanesFrom v))).retire len :=
  laneExec_setV len g srcs s d _ v h fun m => by rw [← lanesFrom_congr hv]; rfl

end Sys2Proof.Machine
end

