-- ==== Sys2Proof/Safety.lean ====
section
/-!
DEFINITION. What counts as a safe run: every step from the state answers a next state. The device has no step that the spec
leaves without an effect, so the only stops are a frozen and an unpowered device (R25, R230).
-/

namespace Sys2Proof

/-- The step answers a next state. -/
def Goes (s : Machine.State) : Prop := ∃ t, Machine.step s = .next t

/-- n steps from s all answer next states. -/
def SafeFor : Nat → Machine.State → Prop
  | 0, _ => True
  | n + 1, s => ∃ t, Machine.step s = .next t ∧ SafeFor n t

end Sys2Proof
end

