-- ==== Sys2Proof/Tests/Slice0.lean ====
section
/-!
SUPPORT. Tests: an ill-formed term for each check of WellFormed, words written out from the spec's encodings, single steps on small
states, and for each statement's hypotheses a state and operands that meet them.
-/

namespace Sys2Proof.Tests
open Machine Claims
set_option Elab.async false

/-! ### Small states -/

/-- A group of eight lanes of partition 0 on core 0, at PC 0: virtual addresses below 64 KiB are the Stage, those from 0x10000000 on
are paged memory from IA 0, and its stack lies in the Stage. -/
def demoGroup : Group :=
  { Group.idle with
    key := 1, live := true, xm := 0xFF#64, s0 := ⟨true, 0, 0xFF#64, 0x3FFFFFFF⟩, cohort := 1, rvsb := 0x1000, rvcap := 8
    ranges := [⟨true, 3, true, true, true, 1, 0, stageWindow, 0⟩, ⟨true, 0, true, true, true, 0x8000, 0x10000000, 0, 0⟩]
    stgLines := 512, tileCount := 64, xwords := 4, chain := [0x2000], roletab := 0x8000, rolecnt := 2, faultdom := 0x4000 }

/-- Partition 0 with the first cluster, the first MiB of the Stage and 4 GiB of paged memory, whose page-table root is at 0. -/
def demoPart : Partition := ⟨0, 1, 1, 0, [(0, 2 ^ 32)], 0, false, [], [], [], Shadow.empty⟩

/-- A device with that group and that partition; the first GiB of paged memory is resident at 2^30, the next is not. -/
def demo : State :=
  { State.reset with
    cur := demoGroup, parts := [demoPart], mem := [(0, 2), (6, 1), (0x10000, 4), (0x10007, 0x40)], nextKey := 2, booted := true
    hostUp := true, cohorts := [⟨1, 1, 0, 0, 0, [1], [], 0, 512⟩] }

/-- The demo device with another group in focus. -/
def demoWith (f : Group → Group) : State := { demo with cur := f demoGroup }

/-! ### Ill-formed terms (R80, R97, R98) -/

theorem test_wf_lane_destination : (Instr.add 7 96 1 2).wellFormed = false ∧ (Instr.xld 7 97 0 0).wellFormed = false ∧
    (Instr.tmvV 7 96 0 0).wellFormed = false ∧ (Instr.cnext 7 96 0 1 7).wellFormed = false ∧
    (Instr.cnext 7 1 0 96 7).wellFormed = false := by decide +kernel
theorem test_wf_uniform_destination : (Instr.vred 7 95 1 .add).wellFormed = false ∧ (Instr.vfirst 7 0 0).wellFormed = false ∧
    (Instr.call 7 95 0).wellFormed = false ∧ (Instr.vvoteMask 7 97 0).wellFormed = false ∧
    (Instr.tld 7 0 0 95 0 .plain false 0).wellFormed = false := by decide +kernel
theorem test_wf_shift_amount : (Instr.shlImm 7 1 1 32).wellFormed = false ∧ (Instr.sarImmLong 7 1 1 32).wellFormed = false ∧
    (Instr.gshrImm 7 1 1 127).wellFormed = false ∧ (Instr.shrImmLong 7 1 1 31).wellFormed = true := by decide +kernel
theorem test_wf_bitfield_length : (Instr.bfi 7 1 1 1 1 33).wellFormed = false ∧ (Instr.bfi 7 1 1 1 1 32).wellFormed = true := by
  decide +kernel
theorem test_wf_double_pair : (Instr.faddX 7 1 2 4 .f64 .rne).wellFormed = false ∧ (Instr.faddX 7 2 2 5 .f64 .rne).wellFormed = false ∧
    (Instr.fcmp 7 1 2 3 4 .lt .nrm .f64).wellFormed = false ∧ (Instr.gaddD 7 96 97 98).wellFormed = false := by decide +kernel
theorem test_wf_conversion : (Instr.cvt 7 1 2 .s8 .f32 .rne).wellFormed = false ∧ (Instr.cvt 7 1 2 .f64 .f32 .rne).wellFormed = false ∧
    (Instr.cvtEsc 7 1 2 .i16 .f32 .rne).wellFormed = false ∧ (Instr.tcvt 7 0 1 .f64 .rne).wellFormed = false := by decide +kernel
theorem test_wf_stream_decode : (Instr.vdecGap 7 1 96 2 5).wellFormed = false ∧ (Instr.vdecGap 7 2 95 2 5).wellFormed = false ∧
    (Instr.vdecGap 7 2 96 2 0).wellFormed = false ∧ (Instr.vdecVarint 7 2 96 2 1).wellFormed = false ∧
    (Instr.vdecBitplane 7 2 96 2 33).wellFormed = false := by decide +kernel
theorem test_wf_memory_operand : (Instr.ld 7 1 (.lanes 3) 0 .plain false .w 0).wellFormed = false ∧
    (Instr.ld 7 1 (.lanes 96) 0 .plain false .w 0).wellFormed = false ∧
    (Instr.ld 7 1 (.lanes 2) 0 .plain true .w 0).wellFormed = false := by decide +kernel
theorem test_wf_order : (Instr.ld 7 1 (.base 0) 1 .plain false .w 0).wellFormed = false ∧
    (Instr.ld 7 1 (.base 0) 0 .acq false .w 0).wellFormed = false ∧ (Instr.ld 7 1 (.base 0) 1 .rel false .w 0).wellFormed = false ∧
    (Instr.st 7 1 (.base 0) 1 .acq false .w 0).wellFormed = false ∧ (Instr.fence 7 0).wellFormed = false := by decide +kernel
theorem test_wf_size : (Instr.st 7 1 (.base 0) 0 .plain false .sb 0).wellFormed = false ∧
    (Instr.gst 7 1 (.base 0) 0 .plain false .sh 0).wellFormed = false ∧ (Instr.ld 7 1 (.base 0) 0 .plain false .d 0).wellFormed = false ∧
    (Instr.ld 7 2 (.base 0) 0 .plain false .q 0).wellFormed = false := by decide +kernel
theorem test_wf_atomic : (Instr.atom 7 2 (.base 0) 0 .plain false true .fadd 0).wellFormed = false ∧
    (Instr.atom 7 1 (.base 0) 0 .plain false false .cas 0).wellFormed = false ∧
    (Instr.atom 7 2 (.base 0) 0 .plain false true .cas 0).wellFormed = false ∧
    (Instr.gatom 7 1 (.base 0) 0 .plain false true .add 0).wellFormed = false := by decide +kernel
theorem test_wf_collections : (Instr.cins 7 97 0 0 96 0).wellFormed = false ∧ (Instr.cins 7 96 0 0 95 0).wellFormed = false ∧
    (Instr.wlpop 7 1 97 7).wellFormed = false ∧ (Instr.ccount 7 96 0 0 97).wellFormed = false := by decide +kernel
theorem test_wf_coprocessors : (Instr.qcall 7 0 3 .rast false).wellFormed = false ∧ (Instr.qcall 7 2 0 .rast false).wellFormed = false ∧
    (Instr.qcall 7 84 1 .rast false).wellFormed = false ∧ (Instr.qret 7 4 .trav).wellFormed = false ∧
    (Instr.qretTrap 7 96 .rast).wellFormed = false := by decide +kernel
theorem test_wf_control : (Instr.mfc 7 96 20).wellFormed = false ∧ (Instr.mfc 7 97 0).wellFormed = false ∧
    (Instr.mtc 7 3 96).wellFormed = false ∧ (Instr.mtc 7 17 96).wellFormed = false ∧ (Instr.mtc 7 0 97).wellFormed = false ∧
    (Instr.mtcRvsp 7 97).wellFormed = false := by decide +kernel
theorem test_wf_control_flow : (Instr.sleep 7 64).wellFormed = false ∧ (Instr.sleepLong 7 0x80000000).wellFormed = false ∧
    (Instr.spawn 7 0 121 0).wellFormed = false ∧ (Instr.spawn 7 0 95 0).wellFormed = false ∧ (Instr.rvpush 7 97 96).wellFormed = false ∧
    (Instr.nop 7 0 0 1 none).wellFormed = false := by decide +kernel
theorem test_wf_engines : (Instr.acp 7 97 96 0 0 .plain false false).wellFormed = false ∧
    (Instr.acp 7 96 124 0 0 .plain false false).wellFormed = false ∧ (Instr.acp2 7 96 122 0 0 .plain false false).wellFormed = false ∧
    (Instr.acpg 7 96 122 0 0 .plain false false).wellFormed = false ∧ (Instr.afill 7 96 126 0 0 .plain false).wellFormed = false ∧
    (Instr.acp 7 96 96 1 0 .plain false false).wellFormed = false ∧ (Instr.wload 7 96 97 0 0 .plain 0).wellFormed = false ∧
    (Instr.hwait 7 96 97).wellFormed = false ∧ (Instr.mma 7 0 1 2 97 .rne false).wellFormed = false ∧
    (Instr.mmag 7 0 1 2 96 97 .rne false).wellFormed = false ∧ (Instr.glaunch 7 0 97).wellFormed = false := by decide +kernel

/-! ### Words written out from the spec's encodings (the worked examples of R104 to R155, R193, R196) -/

theorem test_decode_lane_integer : decode 0x4EE0C082 0x0002001C = .ok (.bfx 7 3 1 2 4) ∧
    decode 0x4EE04083 0x00001104 = .ok (.addc 7 1 1 3 1 2) := by decide +kernel
theorem test_decode_lane_short : decode 0x0BE14283 0 = .ok (.sarImm 7 5 5 3) ∧ decode 0x0CE18000 0 = .ok (.movi 7 6 0) := by
  decide +kernel
theorem test_decode_lane_long_immediate : decode 0x4CE24000 0x000186A0 = .ok (.moviLong 7 9 100000) := by decide +kernel
theorem test_decode_compares : decode 0x60E8C17B 0x00000015 = .ok (.cmpImm 7 3 4 2 (-5) .ge .nrm) ∧
    decode 0x62E441E4 0x00400000 = .ok (.tst 7 1 2 3 100 .unc) := by decide +kernel
theorem test_decode_predicates : decode 0x23E0410B 0 = .ok (.por 7 1 2 3) ∧ decode 0x23E14118 0 = .ok (.pmov 7 5 2) := by
  decide +kernel
theorem test_decode_cross_lane : decode 0x28E2858C 0 = .ok (.vperm 7 10 11 12) ∧ decode 0x2AE08085 0 = .ok (.vbcast 7 2 1 5) := by
  decide +kernel
theorem test_decode_shuffle_scan : decode 0x69E0C0E6 2 = .ok (.vshfl 7 3 1 102 .xor) ∧
    decode 0x6BE10180 0x100 = .ok (.vscan 7 4 3 1 .add) := by decide +kernel
theorem test_decode_reductions : decode 0x6CF94100 2 = .ok (.vred 7 101 2 .max) ∧ decode 0x6DFA0180 2 = .ok (.vvoteMask 7 104 3) ∧
    decode 0x2EFA4100 0 = .ok (.vfirst 7 105 2) := by decide +kernel
theorem test_decode_streams : decode 0x71E1B56C 0x00000500 = .ok (.vdecGap 7 6 106 108 5) ∧
    decode 0xF7E03500 0 = .ok (.apGo 7 106) ∧ decode 0xF7E08180 2 = .ok (.qtst 7 2 3) := by decide +kernel
theorem test_decode_register_array : decode 0x3CE1C103 0 = .ok (.xld 7 7 2 3) ∧ decode 0x7DE1C100 0xC8 = .ok (.xstLong 7 7 2 200) := by
  decide +kernel
theorem test_decode_branches : decode 0xD2EC0008 0x00010002 = .ok (.braV 7 3 8 16 .div) ∧
    decode 0x91E0000D 0 = .ok (.jmp 7 13) ∧ decode 0x93E03600 0 = .ok (.brx 7 108) := by decide +kernel
theorem test_decode_calls : decode 0xD4FD0000 0x30 = .ok (.call 7 116 0x30) ∧ decode 0x95E03A00 0 = .ok (.ret 7 116) := by
  decide +kernel
theorem test_decode_stack : decode 0x96E00000 0 = .ok (.rvpop 7) ∧ decode 0x97E0356C 0 = .ok (.rvpush 7 106 108) := by decide +kernel
theorem test_decode_group : decode 0x98E00000 0 = .ok (.yield 7) ∧ decode 0x9AE00000 0 = .ok (.bar 7) ∧
    decode 0x9DE00000 0 = .ok (.exit 7) ∧ decode 0x9CE08002 0 = .ok (.role 7 2 2) := by decide +kernel
theorem test_decode_sleep : decode 0x99E00028 0 = .ok (.sleep 7 40) ∧ decode 0xD9E00000 0x1388 = .ok (.sleepLong 7 5000) := by
  decide +kernel
theorem test_decode_system : decode 0xDEE00180 2 = .ok (.xmset 7 3) ∧ decode 0xDEE00003 3 = .ok (.trap 7 3) ∧
    decode 0xDEE00000 5 = .ok (.brk 7 0) := by decide +kernel
theorem test_decode_hints : decode 0x9FE00000 0 = .ok (.nop 7 0 0 0 none) ∧ decode 0xDF000001 5 = .ok (.prefc 0 0 0 (some 5)) := by
  decide +kernel
theorem test_decode_memory : decode 0x7BE01102 0 = .ok (.pref 7 (.idx 2 2 2) 0) := by decide +kernel
theorem test_decode_illegal : decode 0x1EE00000 0 = .error .unassigned ∧ decode 0x0DE04001 0 = .error .reservedField ∧
    decode 0x00F80000 0 = .error .fieldValue := by decide +kernel

/-! ### Running a word right after reset -/

theorem test_fetch_word_decodes : decodeTableWord 32 0x98E00000 = some (.yield 7) := by decide +kernel
theorem test_fetch_word_runs : (match step (State.reset.withFetchWord 32 0x99E00028) with
    | .next t => decide (t.cur.wait = .sleep 40 ∧ t.cur.path.pc = 1) | _ => false) = true := by decide +kernel
theorem test_fetch_word_two_words : (match step (State.reset.withFetchWord 64 0x00001388D9E00000) with
    | .next t => decide (t.cur.wait = .sleep 5000 ∧ t.cur.path.pc = 2) | _ => false) = true := by decide +kernel

/-! ### Single steps; the expected values are the rules' own or worked by hand from them -/

/-- The instruction answers a next state of which q holds. -/
def runs (i : Instr) (s : State) (q : State → Bool) : Bool := match exec i s with | .next t => q t | _ => false

/-- The demo device with v-registers r and r + 1 of given lanes. -/
def withLanes (r : Reg) (x y : Nat → Word) : State :=
  demoWith fun gr => (gr.setV r 0xFF (lanesFrom x)).setV (r + 1) 0xFF (lanesFrom y)

theorem test_add_wraps : runs (.add 7 3 1 2) (withLanes 1 (fun _ => 0x7FFFFFFF) fun _ => 1) (fun t =>
    lane (t.cur.vreg 3) 7 == 0x80000000 && lane (t.cur.vreg 3) 8 == 0 && t.cur.path.pc == 1) = true := by decide +kernel
theorem test_neg_saturates : runs (.neg 7 3 1 true) (withLanes 1 (fun _ => 0x80000000) fun _ => 0) (fun t =>
    lane (t.cur.vreg 3) 0 == 0x7FFFFFFF && t.cur.path.pc == 2) = true := by decide +kernel
theorem test_sub_unsigned_saturates : runs (.subN32 7 3 1 2 true) (withLanes 1 (fun _ => 1) fun _ => 2) (fun t =>
    lane (t.cur.vreg 3) 0 == 0) = true := by decide +kernel
theorem test_sar_full_width : runs (.sar 7 3 1 2) (withLanes 1 (fun _ => 0x80000000) fun _ => 32) (fun t =>
    lane (t.cur.vreg 3) 0 == 0xFFFFFFFF) = true := by decide +kernel
theorem test_addc_carries : runs (.addc 7 3 1 2 7 1) (withLanes 1 (fun _ => 0xFFFFFFFF) fun _ => 0) (fun t =>
    lane (t.cur.vreg 3) 0 == 0 && t.cur.pred 1 == 0xFF#64) = true := by decide +kernel
theorem test_scan_of_R122 : runs (.vscan 7 4 1 1 .add) (demoWith fun gr =>
      (gr.setV 1 0xFF (lanesFrom fun l => BitVec.ofNat 32 (l + 1))).setPred 1 0xFF 0x49#64) (fun t =>
    (List.range 8).map (fun l => (lane (t.cur.vreg 4) l).toNat) == [1, 3, 6, 4, 9, 15, 7, 15]) = true := by decide +kernel
theorem test_fadd_infinities : runs (.fadd 7 3 1 2) (withLanes 1 (fun _ => 0x7F800000) fun _ => 0xFF800000) (fun t =>
    lane (t.cur.vreg 3) 0 == 0x7FC00000) = true := by decide +kernel
theorem test_fadd_rounds_to_even : runs (.fadd 7 3 1 2) (withLanes 1 (fun _ => 0x3F800000) fun _ => 0x33800000) (fun t =>
    lane (t.cur.vreg 3) 0 == 0x3F800000) = true := by decide +kernel
theorem test_cmp_both_senses : runs (.cmp 7 3 4 1 2 .lt .nrm) (withLanes 1 (fun l => BitVec.ofNat 32 l) fun _ => 4) (fun t =>
    t.cur.pred 3 == 0x0F#64 && t.cur.pred 4 == 0xF0#64) = true := by decide +kernel
theorem test_unc_writes_where_guard_false : runs (.cmpImm 1 3 4 1 0 .eq .unc) (demoWith fun gr =>
      { gr with p := #v[0, 1, 0, 0xFF, 0xFF, 0, 0] }) (fun t =>
    t.cur.pred 3 == 1#64 && t.cur.pred 4 == 0#64) = true := by decide +kernel
theorem test_vred_keeps_destination : runs (.vred 0 101 1 .max) demo (fun t => t.cur.greg 101 == 0 && t.cur.path.pc == 2) = true := by
  decide +kernel
theorem test_leader_source : runs (.gmov 7 100 1) (demoWith fun gr =>
      { (gr.setV 1 0xFF (lanesFrom fun l => BitVec.ofNat 32 (l * 3))) with s0 := ⟨true, 0, 0xF0, 0x3FFFFFFF⟩ }) (fun t =>
    t.cur.greg 100 == 12) = true := by decide +kernel
theorem test_call_links : runs (.call 7 116 0x30) (demoWith fun gr => { gr with s0 := { gr.s0 with pc := 0x10 } }) (fun t =>
    t.cur.greg 116 == 0x12 && t.cur.path.pc == 0x40) = true := by decide +kernel
theorem test_divergence : runs (.braV 7 3 8 16 .div) (demoWith fun gr =>
      { gr with p := #v[0, 0, 0, 0x0F, 0, 0, 0], s0 := { gr.s0 with pc := 0x30 } }) (fun t =>
    decide (t.cur.s0 = ⟨true, 0x32, 0xF0, 0x40⟩ ∧ t.cur.s1 = ⟨true, 0x38, 0x0F, 0x40⟩ ∧ t.cur.rvdepth = 1) &&
      leNat (readBytes t.stage 0x1000 8) == 0xFF) = true := by decide +kernel
theorem test_trap_entry : runs (.trap 7 3) (demoWith fun gr => { gr with trapv := 0x100, s0 := { gr.s0 with pc := 5 } }) (fun t =>
    t.cur.path.pc == 0x100 && t.cur.trapc == 0x10020311 && t.cur.trapm == 0xFF#64 && t.cur.rvdepth == 2) = true := by decide +kernel
theorem test_misaligned_load : runs (.gld 7 100 (.base 0) 0 .plain true .w 2) demo (fun t =>
    t.cur.trapc.extractLsb' 0 8 == 3#8 && t.cur.trapa == 2#64) = true := by decide +kernel
theorem test_store_then_load : runs (.gst 7 100 (.base 0) 0 .plain false .h 0) (demoWith fun gr =>
      (gr.setG 96 0x10000100).setG 100 0x12345678) (fun t =>
    readBytes t.mem (2 ^ 30 + 0x100) 4 == [0x78, 0x56, 0, 0] && t.stage == []) = true := by decide +kernel
theorem test_load_extends : runs (.ld 7 5 (.idx 0 0 1) 0 .plain true .sb 0) { withLanes 1 (fun l => BitVec.ofNat 32 l) (fun _ => 0) with
      stage := [(1, 0x80), (2, 0x7F)] } (fun t =>
    lane (t.cur.vreg 5) 1 == 0xFFFFFF80 && lane (t.cur.vreg 5) 2 == 0x7F && lane (t.cur.vreg 5) 3 == 0) = true := by decide +kernel
theorem test_atomic_order : runs (.atom 7 5 (.base 0) 0 .plain true false .add 0) (demoWith fun gr => gr.setV 5 0xFF (lanesFrom fun _ => 2))
    (fun t => lane (t.cur.vreg 5) 3 == 6 && leNat (readBytes t.stage 0 4) == 16) = true := by decide +kernel
theorem test_unmapped_traps_perm : runs (.gld 7 100 (.base 0) 0 .plain false .w 0) (demoWith fun gr => gr.setG 96 0x20000) (fun t =>
    t.cur.trapc.extractLsb' 0 8 == 4#8) = true := by decide +kernel
theorem test_page_parks : runs (.gld 7 100 (.base 0) 0 .plain false .w 0) (demoWith fun gr => gr.setG 96 0x50000000) (fun t =>
    decide (t.cur.wait = .parked [2 ^ 30] ∧ t.cur.path.pc = 0 ∧ t.out = [.pageFault 0 (2 ^ 30)])) = true := by decide +kernel
theorem test_control_register : runs (.mfc 7 100 1) demo (fun t => t.cur.greg 100 == 8) = true := by decide +kernel
theorem test_xmset : runs (.xmset 7 3) (demoWith fun gr => { gr with p := #v[0, 0, 0, 0x35, 0, 0, 0] }) (fun t =>
    t.cur.xm == 0x35#64) = true := by decide +kernel
theorem test_barrier_alone : runs (.bar 7) demo (fun t => decide (t.cur.wait = .none ∧ t.cur.path.pc = 1)) = true := by decide +kernel
theorem test_exit_frees : runs (.exit 7) demo (fun t => decide (t.cur = Group.idle ∧ t.cohorts = [])) = true := by decide +kernel
theorem test_tile_bound : runs (.tcfgImm 7 0 0x8007) demo (fun t => t.cur.trapc == 0) = true ∧
    runs (.tcfgImm 7 0 0x80218) demo (fun t => t.cur.trapc.extractLsb' 0 8 == 7#8) = true := by decide +kernel
theorem test_handle_is_pending : runs (.acp 7 100 104 0 0 .plain false false) (demoWith fun gr => (gr.setG 108 1).setG 106 0x80) (fun t =>
    t.cur.pend == 4 && t.cur.path.pc == 2) = true := by decide +kernel
theorem test_clave_step : claveStep 8 20 false = 8 + 4 * 2 ^ 32 ∧ claveStep 0 20 true = 20 * 2 ^ 32 + 2 ^ 64 := by decide +kernel
theorem test_ping_reply : (match exec (.ping 9) { demo with requests := [⟨9, .net 5, 0, 0, 3, true, false, Vector.replicate 16 0, none⟩] } with
    | .next t => decide (t.requests = []) && t.out.length == 1 | _ => false) = true := by decide +kernel

/-! ### For each statement with hypotheses: a state and operands that meet them -/

/-! ### For each statement's hypotheses, a state and operands that meet them: a conjunct for each clause -/

/-- The demo device with one pair of g-registers pending, a v-register of words and predicates. -/
def wInts : State := demoWith fun gr =>
  { ((gr.setV 1 0xFF (lanesFrom fun l => BitVec.ofNat 32 (0x80000000 + l))).setV 2 0xFF (lanesFrom fun l => BitVec.ofNat 32 (l * 9))) with
    p := #v[0xA5, 0x0F, 0x33, 0xFE, 0, 0x55, 0x81], c := 0x2D, pend := 0x8000 }

/-- The demo device with float words: infinities, NaNs, zeros, a subnormal and the largest number. -/
def wFloats : State := demoWith fun gr =>
  ((gr.setV 1 0xFF (lanesFrom fun l =>
    [0x7F800000#32, 0x3F800000, 0xBF800001, 0x00000001, 0x7F7FFFFF, 0x7FA00000, 0x80000000, 0x40490FDB].getD l 0)).setV 2 0xFF
    (lanesFrom fun l =>
    [0xFF800000#32, 0x33800000, 0x3F800000, 0x3F000000, 0x7F7FFFFF, 0x3F800000, 0x00000000, 0xC0490FDB].getD l 0)).setV 3 0xFF
    (lanesFrom fun l => BitVec.ofNat 32 l)

/-- The same with every flag enabled and a trap vector. -/
def wTraps : State := { wFloats with cur := { wFloats.cur with fsr := 0x1F00, trapv := 0x100 } }

theorem witness_LaneShortForms : Ready wInts [1, 96] := by decide +kernel
theorem witness_LaneImmediateForms : Ready wInts [1] ∧ (31#32).toNat < 32 := by decide +kernel
theorem witness_LaneExactArithmetic : Ready wInts [1, 2, 124] := by decide +kernel
theorem witness_CarryForms : Ready wInts [1, 2] := by decide +kernel
theorem witness_LaneBitForms : Ready wInts [1, 2, 3] ∧ (32#6).toNat ≤ 32 := by decide +kernel
theorem witness_PredicateForms : Ready wInts [1, 2] := by decide +kernel
theorem witness_FloatShortForms : Ready wFloats [1, 2, 3] ∧ wFloats.cur.fpEnables = 0 := by decide +kernel
theorem witness_FloatWideForms : Ready wFloats (fregs .f32 1 ++ fregs .f32 2 ++ fregs .f32 3) ∧ wFloats.cur.fpEnables = 0 ∧
    Ready wFloats (fregs .f64 2 ++ fregs .f64 4 ++ fregs .f64 6) := by decide +kernel

/-- The lanes of a float operation's two parts, as the trap statement asks of them. -/
abbrev Splits (s : State) (bad good : Mask) (r : Nat → FFlags) : Prop :=
  (bad ≠ 0 ∧ bad ||| good = s.cur.todo 7 ∧ bad &&& good = 0) ∧ (∀ l < 64, bad.getLsbD l = true → r l &&& s.cur.fpEnables ≠ 0) ∧
    ∀ l < 64, good.getLsbD l = true → r l &&& s.cur.fpEnables = 0

/-- The same with operands in v1 whose approximations are exact or special: a signalling and a quiet NaN, zeros, infinities and 1. -/
def wSpecials : State := { wTraps with cur := wTraps.cur.setV 1 0xFF (lanesFrom fun l =>
    [0x7FA00000#32, 0x80000000, 0x3F800000, 0x7F800000, 0x7FC00000, 0xFF800000, 0x00000000, 0x3F800000].getD l 0) }

theorem witness_FloatShortTrap : Ready wTraps [1, 2, 3] ∧ Ready wSpecials [1, 2, 3] ∧
    Splits wTraps 0x3B 0xC4 (fun l => (ieeeF32.addOp .rne (fval wTraps .f32 1 l) (fval wTraps .f32 2 l)).2) ∧
    Splits wTraps 0x20 0xDF (fun l => (ieeeF32.minMax false (fval wTraps .f32 1 l) (fval wTraps .f32 2 l)).2) ∧
    Splits wTraps 0x20 0xDF (fun l => (ieeeF32.minMax true (fval wTraps .f32 1 l) (fval wTraps .f32 2 l)).2) ∧
    Splits wSpecials 0x43 0xBC (fun l => (frcpOp (val wSpecials 1 l)).2) ∧
    Splits wSpecials 0x63 0x9C (fun l => (frsqOp (val wSpecials 1 l)).2) ∧
    Splits wSpecials 0x01 0xFE (fun l => (fexp2Op (val wSpecials 1 l)).2) ∧
    Splits wSpecials 0x63 0x9C (fun l => (flog2Op (val wSpecials 1 l)).2) ∧
    Splits wSpecials 0x29 0xD6 (fun l => (fsinOp (val wSpecials 1 l)).2) ∧
    Splits wSpecials 0x29 0xD6 (fun l => (fcosOp (val wSpecials 1 l)).2) := by and_intros <;> decide +kernel
theorem witness_FloatWideTrap : Ready wTraps (fregs .f32 1 ++ fregs .f32 2 ++ fregs .f32 3) ∧
    Splits wTraps 0x2C 0xD3 (fun l => (ieeeF32.subOp .rne (fval wTraps .f32 1 l) (fval wTraps .f32 2 l)).2) ∧
    Splits wTraps 0xB8 0x47 (fun l => (ieeeF32.mulOp .rne (fval wTraps .f32 1 l) (fval wTraps .f32 2 l)).2) ∧
    Splits wTraps 0xBE 0x41 (fun l => (ieeeF32.fmaOp .rne (fval wTraps .f32 1 l) (fval wTraps .f32 2 l) (fval wTraps .f32 3 l)).2) ∧
    Splits wTraps 0xBC 0x43 (fun l => (ieeeF32.sqrtOp .rne (fval wTraps .f32 1 l)).2) := by and_intros <;> decide +kernel
theorem witness_FloatExactThenRounded : (ieeeF32 = ieeeF32 ∨ ieeeF32 = ieeeF64) ∧ (ieeeF64 = ieeeF32 ∨ ieeeF64 = ieeeF64) ∧
    ((ieeeF32.decode 0x7F7FFFFF).isNan = false ∧ (ieeeF32.decode 0x7F7FFFFF).isInf = false) ∧
    ((ieeeF32.decode 1).isNan = false ∧ (ieeeF32.decode 1).isInf = false) ∧ (ieeeF32.decode 0x7F800001).isNan = true ∧
    (ieeeF32.decode 0x7F800000).isInf = true ∧ (ieeeF32.decode 0xFF800000).isInf = true ∧
    (ieeeF32.decode 0x7F800000).sign ≠ (ieeeF32.decode 0xFF800000).sign ∧ (ieeeF32.decode 0x80000000).isZero = true ∧
    ((ieeeF32.decode 0x80000001).isZero = false ∧ (ieeeF32.decode 0x80000001).isNan = false) ∧
    ((ieeeF32.decode 0xFF800000).sign ≠ xor (ieeeF32.decode 0x7F800000).sign (ieeeF32.decode 1).sign ∧
      (ieeeF32.decode 0xFF800000).sign = xor (ieeeF32.decode 0x7F800000).sign (ieeeF32.decode 0x80000001).sign) :=
  ⟨.inl rfl, .inr rfl, by and_intros <;> decide +kernel⟩
theorem witness_RoundToFormat : (ieeeF32 = ieeeF32 ∨ ieeeF32 = ieeeF64) ∧ ((2 : ℚ) ^ (0 : Int) ≤ 3 / 2 ∧ (3 / 2 : ℚ) < 2 ^ ((0 : Int) + 1)) ∧
    ((12582912 : ℚ) / 1 = 3 / 2 / 2 ^ (max 0 (-126 : Int) - 23)) ∧ ((12582912 : ℚ) / 1 = 3 / 2 / 2 ^ ((0 : Int) - 23)) ∧
    (roundNat .rne false 12582912 1 = (12582912, false) ∧ (12582912 : ℚ) * 2 ^ ((0 : Int) - 23) < 2 ^ (128 : Nat)) ∧
    ((2 : ℚ) ^ (127 : Int) ≤ 2 ^ 128 - 2 ^ 103 ∧ (2 ^ 128 - 2 ^ 103 : ℚ) < 2 ^ ((127 : Int) + 1)) ∧
    ((33554431 : ℚ) / 2 = (2 ^ 128 - 2 ^ 103) / 2 ^ ((127 : Int) - 23)) ∧
    (roundNat .rne false 33554431 2 = (16777216, true) ∧ (2 ^ (128 : Nat) : ℚ) ≤ 16777216 * 2 ^ ((127 : Int) - 23)) ∧
    ((2 : ℚ) ^ (-149 : Int) ≤ 2 ^ (-149 : Int) ∧ (1 : ℚ) / 1 = 2 ^ (-149 : Int) / 2 ^ (max (-149) (-126 : Int) - 23) ∧
      (8388608 : ℚ) / 1 = 2 ^ (-149 : Int) / 2 ^ ((-149 : Int) - 23)) := by
  refine ⟨.inl rfl, by norm_num, by norm_num, by norm_num, ⟨by decide +kernel, by norm_num⟩, by norm_num, by norm_num,
    ⟨by decide +kernel, by norm_num⟩, by norm_num⟩
theorem witness_MinimumAndMaximum : (ieeeF64 = ieeeF32 ∨ ieeeF64 = ieeeF64) ∧ (ieeeF32.decode 0x7FA00000).isNan = true ∧
    (ieeeF32.decode 0x3F800000).isNan = false ∧ (ieeeF32.decode 0x80000000).isZero = true ∧ (ieeeF32.decode 0).isZero = true ∧
    (ieeeF32.decode 0x80000000).sign ≠ (ieeeF32.decode 0).sign ∧ (ieeeF32.decode 0xFF800000).isNan = false :=
  ⟨.inr rfl, by and_intros <;> decide +kernel⟩
theorem witness_SquareRoots : (ieeeF32.decode 0x7FA00000).isNan = true ∧ (ieeeF32.decode 0xFF800000).isInf = true ∧
    ((ieeeF32.decode 0xBF800000).isInf = false ∧ FNum.rat (ieeeF32.decode 0xBF800000) < 0) ∧
    (ieeeF32.decode 0x80000000).isZero = true ∧ ((ieeeF32.decode 0x40000000).isNan = false ∧
      (ieeeF32.decode 0x40000000).isInf = false ∧ 0 < FNum.rat (ieeeF32.decode 0x40000000)) ∧ Rnd.rne = .rne ∨ Rnd.rne = .rna := by
  refine .inl ⟨?_, ?_, ⟨?_, ?_⟩, ?_, ⟨?_, ?_, ?_⟩, rfl⟩ <;> decide +kernel
theorem witness_Approximations : (f32Num 0x7FA00000).isNan = true ∧ (f32Num 0x80000000).isZero = true ∧ (f32Num 0xFF800000).isInf = true ∧
    ((f32Num 0x43000000).isNan = false ∧ (f32Num 0x43000000).isInf = false ∧ 128 ≤ ratOf 0x43000000) ∧ ratOf 0xC3160001 < -150 ∧
    ratOf 0x40000000 = (2 : Int) ∧ ratOf 0x3F000000 = (0 : Int) + 1 / 2 ∧ ratOf 0xC3150000 = (-149 : Int) ∧
    ratOf 0x3E800000 = (2 : ℚ) ^ (-2 : Int) ∧ ratOf 0x40800000 * ratOf 0x3E800000 = 1 ∧
    ((0 : Int) < 3 ∧ (3 / 2 : ℚ) ≤ 3 / 2 ∧ (3 / 2 : ℚ) - 3 / 2 ≤ 1 * 2 ^ (max 0 (-126 : Int) - 23) ∧ (2 : ℚ) ^ (0 : Int) ≤ 3 / 2 ∧
      (3 / 2 : ℚ) < 2 ^ ((0 : Int) + 1)) ∧ (3 / 2 : ℚ) ≤ FNum.rat (ieeeF32.decode 0x7F7FFFFF) := by
  refine ⟨?_, ?_, ?_, ⟨?_, ?_, ?_⟩, ?_, ?_, ?_, ?_, ?_, ?_, by norm_num, ?_⟩ <;> decide +kernel
/-- R114: an exact result of each approximation in a binade of its own, at the ends of what the bound speaks of: 2/3 and 2^126 of `frcp`, 2^74.5
of `frsq`, 2^-150 of `fexp2`, -149 of `flog2`, and 1 of `fsin` and `fcos`; and a reciprocal that overflows. -/
theorem witness_ApproximationBounds : (f32Num 0x3FC00000).isNan = false ∧ (f32Num 0x3FC00000).isInf = false ∧
    (ratOf 0x3FC00000 ≠ 0 ∧ |1 / ratOf 0x3FC00000| < (2 : ℚ) ^ 128) ∧ (2 : ℚ) ^ 128 ≤ |1 / ratOf 0x80200000| ∧
    ((2 : ℝ) ^ (-1 : Int) ≤ |1 / ((3 / 2 : ℚ) : ℝ)| ∧ |1 / ((3 / 2 : ℚ) : ℝ)| < (2 : ℝ) ^ ((-1 : Int) + 1)) ∧ 0 < ratOf 1 ∧
    (-150 ≤ ratOf 0xC3160000 ∧ ratOf 0xC3160000 < 128) ∧ ratOf 1 = 2 ^ (-149 : Int) ∧
    ((2 : ℝ) ^ (7 : Int) ≤ |Real.logb 2 ((2 : ℝ) ^ (-149 : ℝ))| ∧ |Real.logb 2 ((2 : ℝ) ^ (-149 : ℝ))| < (2 : ℝ) ^ ((7 : Int) + 1)) ∧
    ((2 : ℝ) ^ (0 : Int) ≤ |Real.sin (Real.pi * (1 / 2 : ℚ))| ∧ |Real.sin (Real.pi * (1 / 2 : ℚ))| < (2 : ℝ) ^ ((0 : Int) + 1)) ∧
    ((2 : ℝ) ^ (0 : Int) ≤ |Real.cos (Real.pi * (0 : ℚ))| ∧ |Real.cos (Real.pi * (0 : ℚ))| < (2 : ℝ) ^ ((0 : Int) + 1)) := by
  have hs : Real.sin (Real.pi * ((1 / 2 : ℚ) : ℝ)) = 1 := by
    rw [show Real.pi * ((1 / 2 : ℚ) : ℝ) = Real.pi / 2 by push_cast; ring]; exact Real.sin_pi_div_two
  have hl : Real.logb 2 ((2 : ℝ) ^ (-149 : ℝ)) = -149 := Real.logb_rpow (by norm_num) (by norm_num)
  rw [hs, hl]
  refine ⟨by decide +kernel, by decide +kernel, by decide +kernel, by decide +kernel, by norm_num, by decide +kernel, by decide +kernel,
    by decide +kernel, by norm_num, by norm_num, by norm_num⟩
theorem witness_RoundingModes : 0 < 1 ∧ 1 ∣ 7 ∧ ¬ 2 ∣ 7 := by decide
theorem witness_IntegerCompares : Ready wInts [1, 2] ∧ wInts.cur.acting 4 = 0 ∧ wInts.cur.acting 1 ≠ 0 ∧
    (∀ l < 64, decide ((val wInts 1 l).toNat < (val wInts 2 l).toNat) = true ↔ intTest .ltN (val wInts 1 l) (val wInts 2 l)) ∧
    (∀ l < 64, decide ((-64#7).signExtend 32 ≠ val wInts 1 l) = true ↔ intTest .ne ((-64#7).signExtend 32) (val wInts 1 l)) ∧
    (∀ l < 64, decide (val wInts 1 l &&& val wInts 2 l ≠ 0) = true ↔ val wInts 1 l &&& val wInts 2 l ≠ 0) :=
  ⟨by decide +kernel, by decide +kernel, by decide +kernel, fun _ _ => decide_eq_true_iff, fun _ _ => decide_eq_true_iff,
    fun _ _ => decide_eq_true_iff⟩
theorem witness_UniformCompares : Ready wInts [1, 2] ∧ (false = true ↔ intTest .lt (uval wInts 2) (uval wInts 1)) ∧
    (true = true ↔ intTest .lt (uval wInts 1) ((63#7).signExtend 32)) :=
  ⟨by decide +kernel, ⟨fun h => (nomatch h), fun h => absurd h (by decide +kernel : ¬(uval wInts 2).toInt < (uval wInts 1).toInt)⟩,
    fun _ => (by decide +kernel : (uval wInts 1).toInt < ((63#7).signExtend 32).toInt), fun _ => rfl⟩
theorem witness_FloatCompares : Ready wFloats (fregs .f32 1 ++ fregs .f32 2) ∧ wFloats.cur.fpEnables = 0 ∧ wFloats.cur.acting 4 = 0 ∧
    wFloats.cur.acting 7 ≠ 0 ∧ wFloats.cur.unfinished = none ∧ wTraps.cur.unfinished = none ∧
    ((ieeeF32.decode (fval wTraps .f32 1 5)).isSnan = true ∧ (ieeeF32.decode (fval wTraps .f32 2 5)).isSnan = false ∧ (wTraps.cur.acting 7).getLsbD 5 = true ∧
      fNV &&& wTraps.cur.fpEnables ≠ 0) := by and_intros <;> decide +kernel
theorem witness_CrossLaneForms : Ready wInts [1, 2] ∧ (wInts.cur.acting 0).getLsbD 7 = true ∧
    (∀ k < 0, (wInts.cur.acting 0).getLsbD k = false) ∧ (wInts.cur.acting 0).getLsbD 5 = true ∧
    (∀ j, 5 < j → j < 7 → (wInts.cur.acting 0).getLsbD j = false) :=
  ⟨by decide +kernel, by decide +kernel, fun _ h => absurd h (by omega), by decide +kernel, fun j h1 h2 => by
    obtain rfl : j = 6 := by omega
    decide +kernel⟩
theorem witness_ReductionsAndVotes : Ready wInts [1] ∧ isV 95 = true ∧ (97#7).toNat % 2 = 1 ∧ wInts.cur.acting 4 = 0 ∧
    wInts.cur.acting 1 ≠ 0 ∧ wInts.cur.pred 4 &&& wInts.cur.acting 1 = 0 ∧
    (wInts.cur.pred 0 &&& wInts.cur.acting 1).getLsbD 1 = false ∧ (wInts.cur.pred 0 &&& wInts.cur.acting 1).getLsbD 0 = true := by
  and_intros <;> decide +kernel
theorem witness_Conversions : Ready wFloats (cvtRegs .f32 1) ∧ wFloats.cur.fpEnables = 0 ∧ Fmt.t2 ∈ intFormats ∧ Fmt.n16 ∈ intFormats ∧
    (ieeeF32.decode ((0x7F800001#64).toNat % 2 ^ 32)).isNan = true ∧ Ready wTraps (cvtRegs .f32 1) ∧
    Splits wTraps 0xBD 0x42 (fun l => (cvtOp .i8 .f32 .rne false (wTraps.cur.cvtSrc .f32 1 l)).2) ∧
    Splits wTraps 0xBD 0x42 (fun l => (cvtOp .i8 .f32 .rne true (wTraps.cur.cvtSrc .f32 1 l)).2) := by and_intros <;> decide +kernel
/-- A NaN and the greatest of f8, the least f32 that f8 cannot hold, an infinity, and 2.5 and -128.5 as quotients. -/
theorem witness_Conversions_values : (Fmt.f8.isFloat = true ∧ (Fmt.f8.value 0x80).isNan = true) ∧
    (FNum.rat (Fmt.f8.value 0x7F) = 480 ∧ FNum.rat (Fmt.f32.value 0x44000000) = 512) ∧ (Fmt.h16.value 0xFC00).isInf = true ∧
    ((5 : Nat) / (2 : Nat) = |FNum.rat (Fmt.f32.value 0x40200000)| ∧ (257 : Nat) / (2 : Nat) = |FNum.rat (Fmt.f32.value 0xC3008000)|) ∧
    (Fmt.f64, ieeeF64) ∈ [(Fmt.bf16, ieeeBf16), (.h16, ieeeH16), (.f32, ieeeF32), (.f64, ieeeF64)] := by
  and_intros <;> decide +kernel

/-- The demo device with a bit address whose stream of 256 bits ends with the share. -/
def wStream : State := demoWith fun gr => gr.setG 96 (BitVec.ofNat 32 (512 * 1024 - 256))

theorem witness_StreamDecode : Ready wStream (pairRegs 96 ++ [98]) ∧ wStream.cur.unfinished = none ∧ wStream.cur.acting 7 ≠ 0 ∧
    0 < (32#7).toNat ∧ (32#7).toNat ≤ 32 ∧ StreamReadable wStream (512 * 1024 - 256) (8 * 32) ∧ 2 ≤ 2 ∧
    StreamReadable wStream (512 * 1024 - 256) (8 * 2) := by and_intros <;> decide +kernel
theorem witness_StreamDecode_varint : (∀ j < 8, VarintAt 2 (wStream.stageBits (512 * 1024 - 256) (8 * 32 * 2)) (2 * j) 0 1) ∧
    VarintAt 32 (2 ^ 31 + 5) 0 5 2 := by
  have h : wStream.stageBits (512 * 1024 - 256) (8 * 32 * 2) = 0 := by decide +kernel
  refine ⟨fun j _ => ⟨by decide, by decide, fun c hc => absurd hc (by omega), fun _ => ?_, ?_⟩, by decide, by decide, fun c hc => ?_,
    fun h => absurd h (by decide), by decide⟩
  · rw [h]; simp
  · rw [h]; simp
  · obtain rfl : c = 0 := by omega
    decide
/-- A stream that passes the end of the share by a bit, and one at bit address 2^35. -/
def wPast : State := demoWith fun gr => gr.setG 96 (BitVec.ofNat 32 (512 * 1024 - 255))
def wFarStream : State := demoWith fun gr => gr.setG 97 8
theorem witness_StreamDecode_outside : wPast.cur.stgLines * 128 < (512 * 1024 - 255 + 8 * 32 - 1) / 8 + 1 ∧
    Ready wPast (pairRegs 96 ++ [98]) ∧ (pair (wFarStream.cur.greg 96) (wFarStream.cur.greg 97)).toNat = 2 ^ 35 ∧
    (∀ j < 8, VarintAt 2 0 (2 * j) 0 1) ∧ wFarStream.shareRun (2 ^ 35 / 8) (wFarStream.cur.stgLines * 128 - 2 ^ 35 / 8) = none := by
  refine ⟨by decide +kernel, by decide +kernel, by decide +kernel, fun j _ => ⟨by decide, by decide, fun c hc => absurd hc (by omega),
    fun _ => by simp, by simp⟩, by decide +kernel⟩

/-- The demo device with indexes 0 to 3, 4 and −1 in its lanes. -/
def wArray : State := demoWith fun gr => { (gr.setV 1 0xFF (lanesFrom fun l => BitVec.ofNat 32 (l % 4))).setV 2 0xFF
  (lanesFrom fun l => if l = 5 then 4 else BitVec.ofNat 32 l % 4) with xregs := [(xkey 2 1, 7)] }

theorem witness_RegisterArray : Ready wArray [1] ∧ SMap.wf 0 wArray.cur.xregs = true ∧
    (∀ l < 64, (wArray.cur.todo 7).getLsbD l = true → 0 ≤ ((val wArray 1 l).toNat : Int) + ((0#7).signExtend 32).toInt ∧
      ((val wArray 1 l).toNat : Int) + ((0#7).signExtend 32).toInt < wArray.cur.xwords) := by and_intros <;> decide +kernel
theorem witness_RegisterArrayTrap : Ready wArray [2] ∧ SMap.wf 0 wArray.cur.xregs = true ∧ (127#7).signExtend 32 = -1#32 ∧ (0x11 : Mask) ≠ 0 ∧ (∀ l < 64, (0x11 : Mask).getLsbD l = true ↔
    (wArray.cur.todo 7).getLsbD l = true ∧ (((val wArray 2 l).toNat : Int) + (-1#32).toInt < 0 ∨
      (wArray.cur.xwords : Int) ≤ ((val wArray 2 l).toNat : Int) + (-1#32).toInt)) ∧
    (∀ l < 64, (0x20 : Mask).getLsbD l = true ↔ (wArray.cur.todo 7).getLsbD l = true ∧
      (((val wArray 2 l).toNat : Int) + (0#32).toInt < 0 ∨ (wArray.cur.xwords : Int) ≤ ((val wArray 2 l).toNat : Int) + (0#32).toInt)) := by
  and_intros <;> decide +kernel
theorem witness_UniformShortForms : Ready wInts [1, 97] ∧ (31#32).toNat < 32 := by decide +kernel
theorem witness_UniformWideForms : Ready wInts [96, 97] := by decide +kernel
theorem witness_UniformDoubleForms : Ready wInts [96, 97, 1, 2] := by decide +kernel

/-- The demo device with two regions charged for its group, the first in this issue cycle. -/
def wCharged : State := { demo with cur := { demoGroup with chain := [0x2000, 0x3000] }, charged := [(regionKey 0 0x2000, 1)], cycles := [(regionKey 0 0x2000, 10)] }

theorem witness_Retirement : regionKey 0 0x2000 ∈ wCharged.cur.regions ∧ regionKey 0 0x3000 ∈ wCharged.cur.regions ∧
    regionKey 1 0x2000 ∉ wCharged.cur.regions ∧ SMap.wf 0 wCharged.charged = true ∧ SMap.wf 0 wCharged.cycles = true ∧
    SMap.get 0 wCharged.charged (regionKey 0 0x2000) = wCharged.cycle + 1 ∧
    SMap.get 0 wCharged.charged (regionKey 0 0x3000) ≠ wCharged.cycle + 1 := by and_intros <;> decide +kernel
theorem witness_UniformBranches : Ready wInts [1] := by decide +kernel

/-- The demo device with the vote of p3, another path slot, and a stack of a capacity. -/
def wVote (vote : Mask) (o : PathSlot) (cap : BitVec 16) : State := demoWith fun gr =>
  { gr with p := #v[0, 0, 0, vote, 0, 0, 0], s0 := { gr.s0 with pc := 0x30 }, s1 := o, rvcap := cap }

/-- The entries that a divided vote of the demo device pushes. -/
def wEntries (s : State) : List (BitVec 128) :=
  (if s.cur.otherPath.live then [stackEntry .path s.cur.otherPath.join s.cur.otherPath.pc s.cur.otherPath.mask] else []) ++
    [stackEntry .join s.cur.path.join (relative s ((16#20).signExtend 30)) s.cur.path.mask]

theorem witness_DivergentBranch : Enabled (wVote 0x0F PathSlot.empty 1) 7 [] ∧
    (demoWith fun gr => { gr with xm := 0 }).cur.emask = 0 ∧
    ((wVote 0xFF PathSlot.empty 1).cur.emask ≠ 0 ∧ (wVote 0xFF PathSlot.empty 1).cur.emask &&& 0xFF = (wVote 0xFF PathSlot.empty 1).cur.emask) ∧
    (wVote 0xF00 PathSlot.empty 1).cur.emask &&& 0xF00 = 0 ∧
    ((wVote 0x0F PathSlot.empty 1).cur.emask &&& 0x0F ≠ 0 ∧ (wVote 0x0F PathSlot.empty 1).cur.emask &&& 0x0F ≠
      (wVote 0x0F PathSlot.empty 1).cur.emask) ∧
    ((wVote 0x0F PathSlot.empty 1).cur.rvdepth.toNat + (wEntries (wVote 0x0F PathSlot.empty 1)).length ≤
      (wVote 0x0F PathSlot.empty 1).cur.rvcap.toNat ∧
      (wVote 0x0F PathSlot.empty 1).pushFate 0 (wEntries (wVote 0x0F PathSlot.empty 1)) = none) ∧
    (wVote 0x0F ⟨true, 5, 0xF00, 9⟩ 2).pushFate 0 (wEntries (wVote 0x0F ⟨true, 5, 0xF00, 9⟩ 2)) = none ∧
    (wVote 0x0F ⟨true, 5, 0xF00, 9⟩ 1).cur.rvcap.toNat <
      (wVote 0x0F ⟨true, 5, 0xF00, 9⟩ 1).cur.rvdepth.toNat + (wEntries (wVote 0x0F ⟨true, 5, 0xF00, 9⟩ 1)).length := by
  and_intros <;> decide +kernel

/-- The demo device with some entries on its group's stack. -/
def wStack (es : List (BitVec 128)) (f : Group → Group) : State :=
  { demo with
    stage := es.zipIdx.foldl (fun m e => writeBytes m (0x1000 + 16 * e.2) (leBytes 16 e.1.toNat)) []
    cur := { f demoGroup with rvdepth := BitVec.ofNat 16 es.length } }

/-- A JOIN above a PATH entry. -/
def wJoin : State := wStack [stackEntry .path 9 5 0xF0, stackEntry .join 0x3FFFFFFF 0x44 0xFF] id

theorem witness_StackInstructions : Enabled wJoin 7 [] ∧
    wJoin.popFind (wJoin.cur.otherMask wJoin.cur.issuing) wJoin.cur.rvdepth.toNat = .found (stackEntry .join 0x3FFFFFFF 0x44 0xFF) 0xFF 1 ∧
    (stackEntry .join 0x3FFFFFFF 0x44 0xFF).extractLsb' 124 4 ≠ 2#4 ∧
    demo.popFind (demo.cur.otherMask demo.cur.issuing) demo.cur.rvdepth.toNat = .overflow ∧ Enabled demo 7 [100, 101, 102, 103] ∧
    (demoWith fun gr => { gr with rvcap := 1 }).cur.rvdepth.toNat + 1 ≤ (demoWith fun gr => { gr with rvcap := 1 }).cur.rvcap.toNat ∧
    (demoWith fun gr => { gr with rvcap := 1 }).pushFate 0 [stackEntry .mark 0 0 0] = none ∧
    demo.curFate ((0x1000 / 16 * 16 + 16 * 0) % 2 ^ 64) false true false none 16 = .go (.stage 0x1000) ∧
    ((demoWith fun gr => { gr with rvcap := 0 }).cur.rvcap.toNat ≤ 0 ∧ SMap.wf 0 demo.cur.reserve = true) := by
  and_intros <;> decide +kernel
/-- A TRAP entry above its companion JOIN of no lanes, and the demo device whose stack lies on a page that is not mapped. -/
def wTrapped : State := wStack [stackEntry .join 0x3FFFFFFF 0x44 0, stackEntry .trap 0x3FFFFFFF 0x44 0xFF] fun gr => { gr with trapc := 0x20000000 }
def wNoStack : State := demoWith fun gr => { gr with rvsb := 0x20000, rvdepth := 1 }
theorem witness_StackInstructions_pop : wTrapped.serve = false ∧
    wTrapped.curFate ((0x1000 / 16 * 16 + 16 * 1) % 2 ^ 64) true false false none 16 = .go (.stage 0x1010) ∧
    stackEntry .trap 0x3FFFFFFF 0x44 0xFF = BitVec.ofNat 128 (leNat (wTrapped.readOwned wTrapped.cur.part (.stage 0x1010) 16)) ∧
    wTrapped.stackRead 0 = .ok (stackEntry .join 0x3FFFFFFF 0x44 0) ∧
    wTrapped.popFind (wTrapped.cur.otherMask wTrapped.cur.issuing) 2 = .found (stackEntry .trap 0x3FFFFFFF 0x44 0xFF) 0xFF 0 ∧
    4 ≤ ((BitVec.allOnes 128).extractLsb' 124 4).toNat ∧
    (stackEntry .join 0x3FFFFFFF 0x44 0).extractLsb' 0 64 &&& widthMask wTrapped.cur.width &&& ~~~(0#64) = 0 ∧
    wNoStack.popFind (wNoStack.cur.otherMask wNoStack.cur.issuing) wNoStack.cur.rvdepth.toNat = .stuck (.trap 4) 0x20000 := by
  and_intros <;> decide +kernel

/-- A path at its join, beside another. -/
def wAtJoin (o : PathSlot) : State := { wJoin with cur := { wJoin.cur with s0 := ⟨true, 0x55, 0x0F, 0x55⟩, s1 := o } }

theorem witness_PathJoin :
    ((wAtJoin ⟨true, 0x30, 0xF0, 0x55⟩).cur.live = true ∧ (wAtJoin ⟨true, 0x30, 0xF0, 0x55⟩).cur.issuable = true ∧
      ((wAtJoin ⟨true, 0x30, 0xF0, 0x55⟩).cur.slotAt false).live = true ∧
      ((wAtJoin ⟨true, 0x30, 0xF0, 0x55⟩).cur.slotAt false).pc = ((wAtJoin ⟨true, 0x30, 0xF0, 0x55⟩).cur.slotAt false).join) ∧
    ((wAtJoin ⟨true, 0x30, 0xF0, 0x55⟩).cur.slotAt true).join = 0x55#30 ∧
    ((wAtJoin ⟨true, 0x55, 0xF0, 0x55⟩).cur.issuable = true ∧ ((wAtJoin ⟨true, 0x55, 0xF0, 0x55⟩).cur.slotAt (!true)).live = true ∧
      ((wAtJoin ⟨true, 0x55, 0xF0, 0x55⟩).cur.slotAt (!true)).pc = ((wAtJoin ⟨true, 0x55, 0xF0, 0x55⟩).cur.slotAt (!true)).join) ∧
    ¬(((wAtJoin ⟨true, 0x30, 0xF0, 0x66⟩).cur.slotAt true).live = true ∧
      ((wAtJoin ⟨true, 0x30, 0xF0, 0x66⟩).cur.slotAt true).join = ((wAtJoin ⟨true, 0x30, 0xF0, 0x66⟩).cur.slotAt false).join) ∧
    ((wAtJoin ⟨true, 0x30, 0xF0, 0x66⟩).flushLate.setCur { (wAtJoin ⟨true, 0x30, 0xF0, 0x66⟩).flushLate.cur with issuing := false }).popFind
      ((wAtJoin ⟨true, 0x30, 0xF0, 0x66⟩).cur.otherMask false) 2 = .found (stackEntry .join 0x3FFFFFFF 0x44 0xFF) 0x0F 1 := by
  and_intros <;> decide +kernel
theorem witness_TurnsAndSleep : demo.cur.live = true ∧ demo.cur.issuable = true ∧ demo.cur.wait = .none ∧
    ((wAtJoin ⟨true, 0x30, 0xF0, 0x66⟩).cur.slotAt (!(wAtJoin ⟨true, 0x30, 0xF0, 0x66⟩).cur.current)).live = true ∧
    (let gr := { demo.cur with quantum := 0, count := 3 }; gr.quantum = 0 ∨ gr.quantum ≤ gr.count) ∧
    (let gr := { demo.cur with quantum := 3, count := 3 }; gr.quantum = 0 ∨ gr.quantum ≤ gr.count) ∧ Enabled demo 7 [] := by
  and_intros <;> decide +kernel

/-- The demo device with a second group in its cohort. -/
def wTwo (w : Wait) (arrived : List Nat) : State :=
  { demo with
    others := [{ demoGroup with key := 5, octet := 1, gid := 1, wait := w }]
    cohorts := [⟨1, 1, 0, 0, 0, [1, 5], arrived, 0, 512⟩] }

theorem witness_CohortBarrier : Enabled (wTwo .none []) 7 [] ∧ (wTwo .none []).cur.live = true ∧
    (wTwo .none []).cohorts.find? (fun x => x.key == (wTwo .none []).cur.cohort) = some ⟨1, 1, 0, 0, 0, [1, 5], [], 0, 512⟩ ∧
    (wTwo .none []).cur.key ∉ ([] : List Nat) ∧ (∃ m ∈ [1, 5], m ≠ (wTwo .none []).cur.key ∧ m ∉ ([] : List Nat)) ∧
    (wTwo .bar [5]).cohorts.find? (fun x => x.key == (wTwo .bar [5]).cur.cohort) = some ⟨1, 1, 0, 0, 0, [1, 5], [5], 0, 512⟩ ∧
    (wTwo .bar [5]).cur.key ∉ [5] ∧ (wTwo .bar [5]).cur.key ∈ [1, 5] ∧ (∀ m ∈ [1, 5], m = (wTwo .bar [5]).cur.key ∨ m ∈ [5]) ∧
    (∀ x ∈ (wTwo .bar [5]).others, x.cohort = 1 ∧ x.wait = .bar ∧ x.key ∈ [1, 5]) := by and_intros <;> decide +kernel

/-- Bytes at an IA of the demo device. -/
def poke (s : State) (ia : Nat) (bs : List Byte) : State := { s with mem := writeBytes s.mem (2 ^ 30 + ia) bs }

/-- An RCB that admits many contexts of every kind. -/
def wRcb : List Byte := leBytes 128 ((2 ^ 9 - 1) * 2 ^ 64 + (2 ^ 64 - 1) * 2 ^ 128 + 0xFFFF * 2 ^ 192 + 100 * 2 ^ 256)

/-- The demo device whose group has eight tiles and a region with budgets. -/
def wSpawn : State := poke (demoWith fun gr => { gr with tileCount := 8 }) 0x2000 wRcb

theorem witness_Spawning : Enabled wSpawn 7 (blockRegs 120 8) ∧ 96 ≤ (120#7).toNat ∧ (120#7).toNat ≤ 120 ∧
    wSpawn.freeGid wSpawn.cur.cohort = some 1 ∧
    ((placeGroup wSpawn.groups 0 8 4).isSome && (freeTiles wSpawn.groups 0 8).isSome && wSpawn.spawnAllowed wSpawn.cur) = true ∧
    ((placeGroup demo.groups 0 8 4).isSome && (freeTiles demo.groups 0 64).isSome && demo.spawnAllowed demo.cur) = false ∧
    State.freeGid { demo with others := (List.range 15).map fun i => { demoGroup with key := 5 + i, gid := BitVec.ofNat 4 (i + 1) } } 1 = none := by
  and_intros <;> decide +kernel

/-- The demo device with two role entries: two words per lane, and nine. -/
def wRoles : State := poke demo 0x8000 (leBytes 16 (0x123 + 2 * 2 ^ 32 + 2 * 2 ^ 42) ++ leBytes 16 (0x55 + 9 * 2 ^ 32))

theorem witness_RoleSwitch : Enabled wRoles 7 [] ∧ wRoles.replicas = [] ∧ wRoles.watches = [] ∧ wRoles.cur.watched = [] ∧
    wRoles.cur.unfinished = none ∧ wRoles.cur.rolecnt ≤ (2#4).toNat ∧ (1#4).toNat < wRoles.cur.rolecnt ∧
    (wRoles.cur.roletab + 16 * 1) % 16 = 0 ∧ wRoles.classify 0 0x8010 = .ok (.paged 0x8010) ∧
    wRoles.fate 0 (.paged 0x8010) false 16 = .go (.paged 0x8010) ∧
    leNat (wRoles.readOwned 0 (.paged 0x8010) 16) / 2 ^ 32 % 1024 ≤ 928 ∧
    wRoles.cur.xwords < leNat (wRoles.readOwned 0 (.paged 0x8010) 16) / 2 ^ 32 % 1024 ∧ wRoles.roleFits wRoles.cur 9 = true ∧
    State.roleFits { wRoles with others := [{ demoGroup with key := 5, xwords := 920 }] } wRoles.cur 9 = false ∧
    leNat (wRoles.readOwned 0 (.paged 0x8000) 16) / 2 ^ 32 % 1024 ≤ wRoles.cur.xwords := by and_intros <;> decide +kernel
theorem witness_GroupExit : Enabled demo 7 [] ∧ demo.cur.live = true ∧ demo.cur.pushes = [] ∧ demo.cur.sections = [] ∧
    demo.cohorts.find? (fun x => x.key == demo.cur.cohort) = some ⟨1, 1, 0, 0, 0, [1], [], 0, 512⟩ ∧
    (∀ x ∈ demo.others ++ demo.saved, x.cohort ≠ 1) ∧ (∃ x ∈ (wTwo .bar [5]).others ++ (wTwo .bar [5]).saved, x.cohort = 1) ∧
    (wTwo .bar [5]).cur.key ∉ ((wTwo .bar [5]).others ++ (wTwo .bar [5]).saved).map (·.key) := by and_intros <;> decide +kernel
theorem witness_ControlRegisterReads : ((3#7) ≠ 6 ∨ isV 5 = false) ∧ ((6#7) ≠ 6 ∨ isV 100 = false) ∧ isV 95 = true := by
  and_intros <;> decide +kernel

/-- The demo device with wide values in v2 and v3. -/
def wCtl : State := withLanes 2 (fun _ => 0xABCDEF87) fun _ => 0x98765432

theorem witness_ControlRegisterWrites : Enabled wCtl 7 [2, 3] ∧ Enabled wCtl 7 [2] ∧ ((0#7).toNat, widthMask wCtl.cur.width) ∈
    [(0, widthMask wCtl.cur.width), (1, 0xFF#64)] ∧ (18, 0xFFFFF#64) ∈ [(16, widthMask wCtl.cur.width), (18, 0xFFFFF#64)] := by
  and_intros <;> decide +kernel
theorem witness_StackAndMaskRegisters : Enabled wCtl 7 [2, 3] ∧
    (let s := withLanes 2 (fun _ => 0x00080008) fun _ => 0
     (uvalD s 2).toNat % 65536 ≤ (uvalD s 2).toNat / 65536 % 65536 ∧ s.cur.rvdepth.toNat ≤ s.cur.rvcap.toNat) ∧
    (let s := withLanes 2 (fun _ => 0x00080009) fun _ => 0
     (uvalD s 2).toNat / 65536 % 65536 < (uvalD s 2).toNat % 65536 ∧ (uvalD s 2).toNat % 65536 ≠ s.cur.rvdepth.toNat) ∧
    Enabled wCtl 7 [] := by and_intros <;> decide +kernel

/-- The demo device with a trap vector and two traps nested, at PC 5. -/
def wTrap : State := demoWith fun gr => { gr with trapv := 0x100, trapc := 0x20000000, s0 := { gr.s0 with pc := 5 } }

theorem witness_TrapEntry : TrapRoom wTrap ∧ TrapRoom { wTrap with cur := { wTrap.cur with rvcap := 0, rvdepth := 0 } } :=
  ⟨⟨by decide +kernel, by decide +kernel, by decide +kernel, State.pushFate_pair (by decide +kernel)⟩,
    by decide +kernel, by decide +kernel, by decide +kernel, State.pushFate_pair (by decide +kernel)⟩
theorem witness_TrapDeath : (0xF0000000#32).extractLsb' 28 4 = 15 ∧ wTrap.cur.rvcap.toNat + 2 ≤ (9#16).toNat + 1 ∧
    wTrap.cur.sections = [] ∧ wTrap.cur.pushes = [] := by and_intros <;> decide +kernel
theorem witness_TrapInstructions : TrapRoom wTrap ∧ wTrap.cur.cpred 7 = true ∧ wTrap.debugOn = false ∧
    (0x80000000#32).getLsbD 31 = true ∧ (0x7FFFFFFF#32).getLsbD 31 = false ∧ wTrap.cur.emask ≠ 0 ∧
    (demoWith fun gr => { gr with xm := 0 }).cur.emask = 0 := ⟨witness_TrapEntry.1, by and_intros <;> decide +kernel⟩
theorem witness_TrapEvents : TrapRoom wTrap ∧ wTrap.cur.live = true ∧ wTrap.cur.issuable = true ∧
    ({ wTrap.cur with pendingTrap := some ⟨15, 1, 7, 3, 2, true⟩ } : Group).pendingTrap = some ⟨15, 1, 7, 3, 2, true⟩ :=
  ⟨witness_TrapEntry.1, by and_intros <;> decide +kernel⟩

/-- The demo device whose group awaits a reply that has come. -/
def wReply : State :=
  { wTrap with
    cur := { wTrap.cur with wait := .sys 9 }, now := 4
    requests := [⟨9, .sys 1, 3, 0, 0, true, false, Vector.replicate 16 0, some (Vector.replicate 16 7, 4)⟩] }

theorem witness_ServiceRequests : Enabled demo 7 sysRegs ∧ demo.reached demo.cur.horizon allObs = true ∧ wReply.cur.live = true ∧
    wReply.cur.wait = .sys 9 ∧ wReply.requests.find? (fun x => x.id == 9) =
      some ⟨9, .sys 1, 3, 0, 0, true, false, Vector.replicate 16 0, some (Vector.replicate 16 7, 4)⟩ ∧ 4 ≤ wReply.now := by
  and_intros <;> decide +kernel
theorem witness_Hints : (0x9F000000#32).getLsbD 31 = true ∧ (0x9F000000#32).extractLsb' 24 6 = 0x1F ∧
    (0xDFFFFFFF#32).getLsbD 31 = true ∧ (0xDFFFFFFF#32).extractLsb' 24 6 = 0x1F ∧ Ready demo (memRegs (.idx 3 15 95)) := by
  and_intros <;> decide +kernel

/-- No middle of an instruction, and nothing but the owning point in the accesses. -/
theorem demo_plain : Plain demo := by unfold Plain; and_intros <;> decide +kernel

/-- The demo device with the address of a launch entry. -/
def wSubmit : State := demoWith fun gr => gr.setG 100 0x10000080

theorem witness_LaunchSubmission : Enabled wSubmit 7 [100, 101] ∧ Plain wSubmit ∧ (uvalD wSubmit 100).toNat % 128 = 0 ∧
    wSubmit.curFate (uvalD wSubmit 100).toNat true false false none 128 = .go (.paged 0x80) ∧ wSubmit.queueLength 0 < 64 ∧
    64 ≤ State.queueLength { demo with launches := List.replicate 64 ⟨0, 0, 0, 0, 0, false, 0, none, false, 0, 0, true, none⟩ } 0 := by
  unfold Plain; and_intros <;> decide +kernel

/-- The demo device with bytes in the Stage and at an IA, lanes that hold Stage offsets, and lanes that hold virtual addresses. -/
def wAccess : State :=
  { poke (withLanes 1 (fun l => BitVec.ofNat 32 (l * 4)) fun l => BitVec.ofNat 32 (0x10000000 + l * 8)) 0
      ((List.range 90).map fun i => BitVec.ofNat 8 (i + 1)) with
    stage := (List.range 60).map fun i => (i, BitVec.ofNat 8 (i + 1)) }

theorem witness_MemoryBytes : Memory.wf wAccess.mem = true ∧ Memory.wf wAccess.stage = true ∧
    wAccess.walk 0 5 = .resident (2 ^ 30 + 5) false 0 (2 ^ 30) 65536 := by and_intros <;> decide +kernel
theorem wAccess_plain : Plain wAccess := by unfold Plain; and_intros <;> decide +kernel
theorem witness_LaneLoads : Ready wAccess (memRegs (.idx 0 0 1)) ∧ Ready wAccess (memRegs (.lanes 2)) ∧ Plain wAccess ∧
    (92#7).toNat + sizeRegs .q ≤ 96 ∧
    LanesGo wAccess (wAccess.cur.acting 7) true (wAccess.cur.addrOf (.idx 0 0 1) (0#20).toInt true) 4 true false none .plain 0
      (fun l => .stage (l * 4)) ∧
    LanesGo wAccess (wAccess.cur.acting 7) false (wAccess.cur.addrOf (.lanes 2) (8#20).toInt false) 8 true false none .acq 2
      (fun l => .paged (8 + l * 8)) :=
  ⟨by decide +kernel, by decide +kernel, wAccess_plain, by decide, ⟨by decide +kernel, by decide +kernel, by decide +kernel⟩,
    by decide +kernel, by decide +kernel, by decide +kernel⟩
theorem witness_LaneStores : Ready wAccess (memRegs (.idx 0 0 1) ++ blockRegs 92 4) ∧ Plain wAccess ∧
    LanesGo wAccess (wAccess.cur.acting 7) true (wAccess.cur.addrOf (.idx 0 0 1) (0#20).toInt true) 4 false true none .plain 0
      (fun l => .stage (l * 4)) ∧
    LanesGo wAccess (wAccess.cur.acting 7) false (wAccess.cur.addrOf (.lanes 2) (8#20).toInt false) 8 false true none .rel 2
      (fun l => .paged (8 + l * 8)) :=
  ⟨by decide +kernel, wAccess_plain, ⟨by decide +kernel, by decide +kernel, by decide +kernel⟩, by decide +kernel, by decide +kernel,
    by decide +kernel⟩
theorem witness_UniformLoadsAndStores : Enabled wAccess 7 (memRegs (.base 0) ++ blockRegs 100 4) ∧ Plain wAccess ∧
    wAccess.orderWaits .plain 0 [(.stage 65520, 16)] = false ∧
    wAccess.accessFate true (wAccess.cur.addrOf (.base 0) (65520#20).toInt true wAccess.cur.leader) 16 true false none = .go (.stage 65520) ∧
    wAccess.accessFate true (wAccess.cur.addrOf (.base 0) (65520#20).toInt true wAccess.cur.leader) 16 false true none =
      .go (.stage 65520) :=
  ⟨by decide +kernel, wAccess_plain, by and_intros <;> decide +kernel⟩
theorem witness_Atomics : Plain wAccess ∧ Ready wAccess (memRegs (.lanes 2)) ∧
    LanesGo wAccess (wAccess.cur.acting 7) false (wAccess.cur.addrOf (.lanes 2) (8#16).toInt false) 8 true true (some .cas) .plain 0
      (fun l => .paged (8 + l * 8)) ∧
    LanesGo wAccess (wAccess.cur.acting 7) true (wAccess.cur.addrOf (.base 0) (4#16).toInt true) 4 true true (some .fadd) .plain 0
      (fun _ => .stage 4) ∧
    Enabled wAccess 7 (memRegs (.base 0) ++ atomRegs .cas true 100) ∧ wAccess.orderWaits .plain 0 [(.stage 8, 8)] = false ∧
    wAccess.accessFate true (wAccess.cur.addrOf (.base 0) (8#16).toInt true wAccess.cur.leader) 8 true true (some .cas) =
      .go (.stage 8) :=
  ⟨wAccess_plain, by decide +kernel, ⟨by decide +kernel, by decide +kernel, by decide +kernel⟩,
    ⟨by decide +kernel, by decide +kernel, by decide +kernel⟩, by and_intros <;> decide +kernel⟩

/-- The demo device with an address on a page that is not resident. -/
def wAway : State := demoWith fun gr => gr.setG 96 0x50000000

theorem witness_AccessChecks : Enabled wAccess 7 (memRegs (.base 0)) ∧
    wAccess.cur.addrOf (.base 0) (2#20).toInt true wAccess.cur.leader % 4 ≠ 0 ∧
    (wAccess.cur.addrOf (.base 0) (65536#20).toInt true wAccess.cur.leader % 4 = 0 ∧ ((wAccess.cur.stgLines * 128 : Nat) : Int) <
      wAccess.cur.addrOf (.base 0) (65536#20).toInt true wAccess.cur.leader + 4) ∧
    wAccess.cur.addrOf (.base 0) (-4#20).toInt true wAccess.cur.leader < 0 ∧
    wAway.cur.addrOf (.base 0) (0#20).toInt false wAway.cur.leader % 4 = 0 ∧
    wAway.curFate (wAway.cur.addrOf (.base 0) (0#20).toInt false wAway.cur.leader).toNat true false false none 4 = .replay (2 ^ 30) := by
  and_intros <;> decide +kernel

/-- The demo device with lanes that go, wait for a page, and are misaligned. -/
def wMixed : State := withLanes 2 (fun l => [0x10000000#32, 0x50000000, 0x10000001].getD l 0x10000100) fun _ => 0
/-- The fate of each lane's load of a word there. -/
def wFate (l : Nat) : Fate := wMixed.accessFate false (wMixed.cur.addrOf (.lanes 2) (0#20).toInt false l) 4 true false none
theorem witness_AccessChecks_lanes : Plain wMixed ∧ Ready wMixed (memRegs (.lanes 2) ++ blockRegs 5 (sizeRegs .w)) ∧
    (5#7).toNat + sizeRegs .w ≤ 96 ∧ wMixed.cur.acting 7 ≠ 0 ∧
    (∀ l < 64, (wMixed.cur.acting 7).getLsbD l = true → wFate l ≠ .absent) ∧ wFate 1 = .replay (2 ^ 30) ∧ wFate 2 = .trap 3 ∧
    (wFate 0).goes = true ∧
    wMixed.orderWaits .plain 0 ((lanesOf (maskOf fun l => (wMixed.cur.acting 7).getLsbD l && (wFate l).goes)).map fun l =>
      ((wFate l).dest, 4)) = false ∧ wMixed.walk 0 (2 ^ 30) ≠ .moving := by unfold Plain; and_intros <;> decide +kernel
theorem witness_LanesEnd : (∀ l < 64, (0x2 : Mask).getLsbD l = true ↔ (wMixed.cur.acting 7).getLsbD l = true ∧
      (match wFate l with | .replay _ => true | _ => false) = true) ∧
    (∀ l < 64, (0x4 : Mask).getLsbD l = true ↔ (wMixed.cur.acting 7).getLsbD l = true ∧
      (match wFate l with | .trap _ => true | _ => false) = true) ∧ wFate (lowestLane 4) = .trap 3 := by and_intros <;> decide +kernel
/-- The range entries of a group of a Stage range that may not be written and a paged one. -/
def wReadOnly : RangeEnt := ⟨true, 3, true, false, true, 1, 0, stageWindow, 0⟩
theorem witness_AccessFates : (2 : Int) % (4 : Nat) ≠ 0 ∧ ((512 * 128 : Nat) : Int) < 65536 + (4 : Nat) ∧
    (∀ e ∈ demo.cur.ranges, ¬(e.valid = true ∧ e.vbase ≤ 0x20000 ∧ 0x20000 < e.vbase + e.len * 65536)) ∧
    ({ demoGroup with ranges := [wReadOnly] }.ranges = [] ++ wReadOnly :: [] ∧ (wReadOnly.valid = true ∧ wReadOnly.vbase ≤ 4 ∧
      4 < wReadOnly.vbase + wReadOnly.len * 65536) ∧ wReadOnly.w = false) := by and_intros <;> decide +kernel

/-- The demo device with a horizon of observer 2. -/
def wHorizon : State := { demoWith fun gr => { gr with horizon := #v[0, 0, 9, 0, 0, 0] } with now := 8 }

theorem witness_Fence : wHorizon.cur.cpred 7 = true ∧ wHorizon.cur.pushesLeft = false ∧
    (∀ o < 6, (0x3B#6).getLsbD o = true → wHorizon.cur.horizon.toList.getD o 0 ≤ wHorizon.now) ∧
    (∃ o < 6, (0x04#6).getLsbD o = true ∧ wHorizon.now < wHorizon.cur.horizon.toList.getD o 0) ∧
    (demoWith fun gr => { gr.setPort 3 { Port.unbound with bound := true, kind := 2, elems := [5], used := 1, count := 8 } with
      pushes := [3] }).cur.pushesLeft = true := by and_intros <;> decide +kernel
theorem witness_StoreHorizons : 5 < 6 ∧
    (∀ r ∈ ([⟨1, holderOf .n, List.replicate 128 0, 5, 1, 77, [], []⟩] : List Replica), r.line = 0x80 / 128 ∧
      r.holder = holderOf (Obs.all.getD 4 .c)) := by
  and_intros <;> decide +kernel

/-- The demo device with entries of a kind at the root and below it. -/
def wPage (root leaf : Nat) : State := { demo with mem := writeBytes (writeBytes [] 0 (leBytes 16 root)) 0x10000 (leBytes 16 leaf) }

theorem witness_PageWalk : physPresent (0 + 16 * walkIndex 0 5) = true ∧ demo.poisoned false (0 / 128) = false ∧
    leNat (readBytes (wPage 0 0).mem 0 16) / 2 % 4 = 0 ∧ leNat (readBytes (wPage 6 0).mem 0 16) / 2 % 4 = 3 ∧
    leNat (readBytes (wPage 2 0).mem 0 16) / 2 % 4 = 1 ∧
    physPresent (leNat (readBytes demo.mem 0 16) / 2 ^ 48 % 2 ^ 29 * 65536) = true ∧
    (leNat (readBytes demo.mem 0 16) / 32 % 2 = 1 ↔ physTier (leNat (readBytes demo.mem 0 16) / 2 ^ 48 % 2 ^ 29 * 65536) = true) ∧
    demo.walkFrom 5 4 1 0x10000 = .resident (2 ^ 30 + 5) false 0 (2 ^ 30) 65536 ∧
    leNat (readBytes demo.mem (0x10000 + 16 * walkIndex 1 5) 16) / 2 % 4 = 2 := by and_intros <;> decide +kernel

/-- A tile configuration word. -/
def wCfg (f r c : Nat) : Word := BitVec.ofNat 32 (f + 16 * r + 1024 * c)

/-- The demo device with an i32, two i8 and an f32 tile, registers with a tile position and a stride, and a group table at 0x300. -/
def wTiles : State :=
  { demo with
    tileCfg := [(0, wCfg 8 4 6), (1, wCfg 0 4 20), (2, wCfg 0 6 20), (3, wCfg 7 4 6)]
    tiles := (List.range 300).map fun i => (4096 + i, BitVec.ofNat 8 (i % 255 + 1))
    stage := writeBytes [] 0x300 [2, 0, 2, 0]
    cur := (((((demoGroup.setV 2 0xFF (lanesFrom fun _ => 0x00130003)).setV 3 0xFF (lanesFrom fun _ => 48)).setG 98 0x10000000).setG 100
      0x200).setG 102 0x300).setG 103 1 }

theorem witness_TileConfiguration : TilesReady wTiles 7 [63] [3] ∧ SMap.wf 0 wTiles.tileCfg = true ∧ ValidCfg (wCfg 3 32 128) ∧
    ¬ValidCfg (uval wTiles 2 + 0x210) ∧ ValidCfg (wCfg 7 32 32) ∧ ¬ValidCfg (wCfg 7 32 33) ∧ ValidCfg (wCfg 3 16 512) ∧
    ¬ValidCfg (wCfg 3 32 513) ∧ ¬ValidCfg (wCfg 3 33 5) ∧ ¬ValidCfg 11 ∧ TilesReady wTiles 7 [63] [102] ∧ ¬ValidCfg (uval wTiles 102) := by
  unfold TilesReady ValidCfg; and_intros <;> decide +kernel
/-- The demo device with an allotment of eight tiles. -/
def wEight : State := demoWith fun gr => { gr with tileCount := 8 }
theorem witness_TileAllotment : wEight.cur.tileCount ≤ (8#6).toNat ∧ (0 < wEight.cur.width / 8 ∧ wEight.cur.tileCount < (8#6).toNat + wEight.cur.width / 8) ∧
    (0 < 24 ∧ wEight.cur.tileCount < (0#6).toNat + 24) ∧
    (∃ o < demo.cur.width / 8, ∃ j < demo.cur.width / 8, (5#6).toNat + o = (5#6).toNat + j) ∧
    (∃ o < 24, ∃ j < 6, (5#6).toNat + o = (28#6).toNat + j) := by
  refine ⟨?_, ?_, ?_, ⟨0, ?_, 0, ?_⟩, ⟨23, ?_, 0, ?_⟩⟩ <;> decide +kernel
theorem witness_TileElements : ValidCfg (wCfg 3 4 6) ∧ Memory.wf wTiles.tiles = true ∧ 3 < (TileCfg.ofWord (wCfg 3 4 6)).rows ∧
    5 < (TileCfg.ofWord (wCfg 3 4 6)).cols := by unfold ValidCfg; and_intros <;> decide +kernel
theorem witness_TileMoves : Memory.wf wTiles.tiles = true ∧ SMap.wf 0 wTiles.tileCfg = true ∧ TilesReady wTiles 7 [1, 1] [1, 2] ∧
    uval wTiles 2 &&& 0xFC00FFC0 = 0 ∧ (uval wTiles 2).toNat % 64 < (wTiles.tileCfgOf 1).rows ∧
    (uval wTiles 2).toNat / 65536 % 1024 < (wTiles.tileCfgOf 1).cols ∧ ValidCfg (SMap.get 0 wTiles.tileCfg 1) ∧
    ValidCfg (TileCfg.toWord ⟨.f32, (wTiles.tileCfgOf 1).rows, (wTiles.tileCfgOf 1).cols⟩) ∧ Fmt.f32.code.toNat ≤ 10 ∧
    (wTiles.tileCfgOf 1).rows ≤ 32 ∧ (wTiles.tileCfgOf 1).cols ≤ 512 := by
  unfold TilesReady ValidCfg; and_intros <;> decide +kernel
theorem witness_TileLoadsAndStores : TilesReady wTiles 7 [1] (memRegs (.base 1) ++ [3]) ∧ Plain wTiles ∧ Memory.wf wTiles.tiles = true ∧
    ValidCfg (SMap.get 0 wTiles.tileCfg 1) ∧ (wTiles.tileCfgOf 1).rows ≠ 0 ∧ (wTiles.tileCfgOf 1).cols ≠ 0 ∧
    wTiles.cur.addrOf (.base 1) 0 false 0 % 16 = 0 ∧ (16#20).toInt % 16 = 0 ∧ (uval wTiles 3).toInt % 16 = 0 ∧
    wTiles.orderWaits .plain 0 ((unitsOf (wTiles.tileCfgOf 1)).map fun u =>
      (.paged (16 + 48 * u.1 + 16 * u.2), min 16 ((wTiles.tileCfgOf 1).rowBytes - 16 * u.2))) = false ∧
    (∀ u ∈ unitsOf (wTiles.tileCfgOf 1), wTiles.unitFate false
      (unitAddr (wTiles.cur.addrOf (.base 1) (16#20).toInt false 0) (uval wTiles 3).toInt false u)
      (min 16 ((wTiles.tileCfgOf 1).rowBytes - 16 * u.2)) true false = .go (.paged (16 + 48 * u.1 + 16 * u.2))) ∧
    (∀ u ∈ unitsOf (wTiles.tileCfgOf 1), wTiles.unitFate false
      (unitAddr (wTiles.cur.addrOf (.base 1) (16#20).toInt false 0) (uval wTiles 3).toInt false u)
      (min 16 ((wTiles.tileCfgOf 1).rowBytes - 16 * u.2)) false true = .go (.paged (16 + 48 * u.1 + 16 * u.2))) := by
  unfold TilesReady Plain ValidCfg; and_intros <;> decide +kernel

/-- The product of tiles 1 and 2 into a tile. -/
def wProd (c : Nat) : Job1 := wTiles.tileProd c (wTiles.opA 0 1 0) (wTiles.opB 0 2 0) true
/-- The product of two rows of tile 1 and all of tile 2 into tile 3. -/
def wGroupProd : Job1 := wTiles.groupProd 0 3 1 2 true 0 (wTiles.groupEntry 0x300 0).1 (wTiles.groupEntry 0x300 0).2

theorem witness_MatrixForms : wTiles.readBlock 100 = .ok 0 ∧ blockPair 0 = some (32, .int) ∧
    TilesReady wTiles 7 ([3] ++ [1] ++ [2]) (pairRegs 100 ++ pairRegs 102) ∧ (∀ x ∈ [3], x ∉ [1] ∧ x ≠ 2) ∧
    (wTiles.cur.activeOctets = [0] ∧ wTiles.cur.width / 8 = 1) ∧ wTiles.prodStops .int 0 [wProd 3] none none = none ∧
    (uval wTiles 102 = 0x300 ∧ uval wTiles 103 = 1) ∧ extentStop wTiles.cur.share 0x300 4 4 = none ∧
    wTiles.readsStop wTiles.cur.share ((List.range 1).map fun k => (0x300 + 4 * k, 4)) = none ∧ 1 ≤ wTiles.cur.width / 8 ∧
    (0 < (wTiles.groupEntry 0x300 0).2 ∧ (wTiles.groupEntry 0x300 0).2 ≤ 32 ∧
      (wTiles.groupEntry 0x300 0).1 + (wTiles.groupEntry 0x300 0).2 ≤ 32) ∧
    (∀ x ∈ wGroupProd.p.as, x.r < x.o.cfg.rows) ∧ wTiles.prodStops .int 0 [wGroupProd] none none = none := by
  unfold TilesReady; and_intros <;> decide +kernel
theorem witness_ProductElements : ValidCfg (wCfg 7 4 6) ∧ (wProd 3).p.ccfg = TileCfg.ofWord (wCfg 7 4 6) ∧
    Memory.wf wTiles.tiles = true ∧ (wProd 3).p.as.length ≤ (wProd 3).p.ccfg.rows ∧ (wProd 3).p.bs.length ≤ (wProd 3).p.ccfg.cols ∧
    (wProd 3).p.ccfg.fmt.width = 32 ∧ (∀ x ∈ (wProd 3).p.as ++ (wProd 3).p.bs, x.o.tile ≠ (wProd 3).p.c ∧
      x.o.cfg.rows * x.o.cfg.pitch ≤ 4096 ∧ x.r < x.o.cfg.rows ∧ x.o.cfg.cols = (wProd 3).p.kk) ∧
    (3 < (wProd 3).p.as.length ∧ 5 < (wProd 3).p.bs.length) := by unfold ValidCfg; and_intros <;> decide +kernel
theorem witness_IntegerProduct : 0 < 32 ∧ 2 ^ 32 - 1 < 2 ^ 32 ∧ (wTiles.opA 0 1 0).sck = 0 ∧ (wTiles.opB 0 2 0).sck = 0 ∧
    (wTiles.opA 0 1 0).esc = false ∧ (wTiles.opB 0 2 0).esc = false ∧ (wTiles.opA 0 1 0).cmp = false ∧ (wTiles.opB 0 2 0).cmp = false ∧
    (wTiles.opA 0 1 0).fmt ∈ [Fmt.i8, .n8, .i4, .t2] ∧ (wTiles.opB 0x20 2 0).fmt ∈ [Fmt.i8, .n8, .i4, .t2] := by
  and_intros <;> decide +kernel

/-- The demo device with the tiles of an `mmx` and a format block of some cores at 0x200. -/
def wMeet (coop : Nat) : State :=
  { demo with
    tileCfg := ((List.range 24).map fun i => (i, wCfg 8 2 3)) ++ ((List.range 4).map fun i => (24 + i, wCfg 0 2 5)) ++
      ((List.range 6).map fun i => (28 + i, wCfg 0 3 5))
    cur := demoGroup.setG 100 0x200, stage := writeBytes [] 0x200 (leBytes 32 (coop * 2 ^ 216)) }
/-- The record of the demo group in a meeting of some cores. -/
def wJoined (coop : Nat) : Meet := ⟨0, 1, BitVec.ofNat 256 (coop * 2 ^ 216), demo.curve 0 0, demo.curve 0 0, 0, 24, 28, false⟩
/-- The record of a group of core 1 that waits for core 0. -/
def wPartner : Meet := ⟨1, 7, BitVec.ofNat 256 (3 * 2 ^ 216), demo.curve 1 0, demo.curve 1 0, 0, 24, 28, false⟩
/-- The demo device where that group waits. -/
def wMet : State :=
  { wMeet 3 with
    others := [{ demoGroup with key := 7, core := 1, wait := .again .meeting }], meets := [wPartner]
    tileCfg := (wMeet 3).tileCfg ++ (wMeet 3).tileCfg.map fun e => (e.1 + 64, e.2) }

theorem witness_CooperativeProduct :
    TilesReady (wMeet 1) 7 (((List.range 24).map fun o => 0 + o) ++ ((List.range 4).map fun o => 24 + o) ++
      ((List.range 6).map fun o => 28 + o)) (pairRegs 100) ∧
    (wMeet 1).readBlock 100 = .ok (2 ^ 216) ∧ (wMeet 1).cur.live = true ∧ (∀ x ∈ (wMeet 1).meets, x.grp ≠ (wMeet 1).cur.key) ∧
    (wMeet 1).soloStop (wJoined 1) = none ∧ State.meeting { wMeet 1 with meets := [wJoined 1] } (wJoined 1) = some [wJoined 1] ∧
    State.meetStop { wMeet 1 with meets := [wJoined 1] } (wJoined 1) [wJoined 1] = none ∧
    blockPair (wJoined 1).block.toNat = some (32, .int) ∧ (wMeet 3).readBlock 100 = .ok (3 * 2 ^ 216) ∧
    (wMeet 3).soloStop (wJoined 3) = none ∧ State.meeting { wMeet 3 with meets := [wJoined 3] } (wJoined 3) = none := by
  unfold TilesReady; and_intros <;> decide +kernel
theorem witness_CooperativeProduct_met : (∀ x ∈ wMet.meets, x.grp ≠ wMet.cur.key) ∧ wMet.soloStop (wJoined 3) = none ∧
    State.meeting { wMet with meets := [wPartner, wJoined 3] } (wJoined 3) = some [wJoined 3, wPartner] ∧
    (∀ x ∈ [wJoined 3, wPartner],
      (State.focus { wMet with meets := [wPartner, wJoined 3] } x.grp).meetStop x [wJoined 3, wPartner] = none) := by
  and_intros <;> decide +kernel

/-- A format block of i8 codes with escapes, an outlier threshold of 2, and a list at 0x400 of a capacity. -/
def wQuantBlock (trap cap : Nat) : Nat := 2 ^ 8 + trap * 2 ^ 26 + 0x40000000 * 2 ^ 32 + 0x400 * 2 ^ 128 + cap * 2 ^ 200
/-- The demo device with an f32 tile 1 of 24 elements, some past the threshold, and that block at 0x200. -/
def wQuant (trap cap : Nat) : State :=
  { demo with
    tileCfg := [(1, wCfg 7 4 6)], tiles := (List.range 24).map fun i => (4096 + i * 4 + 3, BitVec.ofNat 8 (0x38 + i))
    cur := demoGroup.setG 100 0x200, stage := writeBytes [] 0x200 (leBytes 32 (wQuantBlock trap cap)) }
/-- The outliers of that tile. -/
def wElected (trap cap : Nat) : List (Nat × Nat × FNum) :=
  electedOf ((wQuant trap cap).quantAll ((wQuant trap cap).opA (wQuantBlock trap cap) 1 0)
    (ieeeF32.decode (wQuantBlock trap cap / 2 ^ 32 % 2 ^ 32)) .rne .f32)

theorem witness_Quantising : TilesReady (wQuant 1 8) 7 [0, 1] (pairRegs 100) ∧
    (wQuant 1 8).readBlock 100 = .ok (wQuantBlock 1 8) ∧ quantBad (wQuantBlock 1 8) = false ∧
    scaleStop ((wQuant 1 8).opA (wQuantBlock 1 8) 1 0) = none ∧
    listStop ((wQuant 1 8).opA (wQuantBlock 1 8) 1 0) = none ∧
    (wQuant 1 8).scalesRead ((wQuant 1 8).opA (wQuantBlock 1 8) 1 0).allRows = none ∧
    ((wQuant 1 8).opA (wQuantBlock 1 8) 1 0).cfg.fmt ∈ [Fmt.f32, .bf16, .h16] ∧
    TileCfg.ok ⟨.i8, 4, 6⟩ = true ∧ ((wQuant 1 8).opA (wQuantBlock 1 8) 1 0).esc = true ∧
    ((wQuant 1 8).opA (wQuantBlock 1 8) 1 0).cap < (wElected 1 8).length ∧ wQuantBlock 1 8 / 2 ^ 26 % 2 = 1 ∧
    (wElected 1 24).length ≤ ((wQuant 1 24).opA (wQuantBlock 1 24) 1 0).cap ∧ wQuantBlock 0 8 / 2 ^ 26 % 2 = 0 ∧
    (wQuant 1 24).listWrites ((wQuant 1 24).opA (wQuantBlock 1 24) 1 0) = none := by
  unfold TilesReady; and_intros <;> decide +kernel

/-- The demo device with the 17 breakpoints of a table at 0x300, from −1 to 1, or with a wrong first one. -/
def wCurve (first : Nat) : State :=
  { (demoWith fun gr => gr.setG 100 0x300) with
    stage := writeBytes [] 0x300 ((first :: (List.range 16).map fun k => (ieeeF32.round .rne (.fin false ⟨k, 16⟩)).1).flatMap (leBytes 4)) }
/-- The bytes of its image. -/
def wImage (first : Nat) : List Byte :=
  (first :: (List.range 16).map fun k => (ieeeF32.round .rne (.fin false ⟨k, 16⟩)).1).flatMap (leBytes 4) ++ List.replicate 4 0

theorem witness_CompandingTables : Enabled (wCurve 0xBF800000) 7 (pairRegs 100) ∧ SMap.wf none (wCurve 0xBF800000).compand = true ∧
    (uvalD (wCurve 0xBF800000) 100).toNat % 8 = 0 ∧ (wCurve 0xBF800000).readRun (piecesOf 0x300 72) = .ok (wImage 0xBF800000) ∧
    compandOk ((List.range 18).map fun k => leNat (((wImage 0xBF800000).drop (4 * k)).take 4)) = true ∧
    (wCurve 0x3F800000).readRun (piecesOf 0x300 72) = .ok (wImage 0x3F800000) ∧
    compandOk ((List.range 18).map fun k => leNat (((wImage 0x3F800000).drop (4 * k)).take 4)) = false := by
  and_intros <;> decide +kernel

/-- A free slot of an engine is taken while there is one. -/
theorem chooses (s : State) (mk : Nat → EngineRef) (n : Nat) (h : (s.freeSlots mk n).isEmpty = false) :
    ∃ e, s.chooseSlot mk n = some e := by
  unfold State.chooseSlot
  cases hf : s.freeSlots mk n with
  | nil => simp [hf] at h
  | cons a b => exact ⟨_, rfl⟩

/-- The demo device with the block registers of a copy of 64 bytes, or of as many as given. -/
def wCopy (bytes : Word) : State := demoWith fun gr => ((gr.setG 104 0x100).setG 106 0x40).setG 108 bytes
/-- A command of the demo group that runs. -/
def wBusy : CopyCmd := ⟨demo.cur.cmdBase 0 .plain none, .acp, [], false, false⟩

theorem witness_CopyCommands : Enabled (wCopy 64) 7 (blockRegs 104 8 ++ [112]) ∧ (wCopy 64).cur.live = true ∧
    SMap.wf EngSlot.idle (wCopy 64).copySlots = true ∧ 96 ≤ (126#7).toNat ∧ (126#7).toNat % 2 = 0 ∧
    (∃ e, (wCopy 64).chooseSlot (.copy (wCopy 64).cur.core) 64 = some e) ∧
    ((wCopy 64).copyCheck (copyOf (wCopy 64) .acp 5 104 0 0 .plain true true).1 none = none ∧
      (copyOf (wCopy 64) .acp 5 104 0 0 .plain true true).1.total ≠ 0) ∧
    ((wCopy 0).copyCheck (copyOf (wCopy 0) .acp 5 104 0 0 .plain true true).1 none = none ∧
      (copyOf (wCopy 0) .acp 5 104 0 0 .plain true true).1.total = 0) ∧
    (∃ code, (wCopy 0xFFFFFF).copyCheck (copyOf (wCopy 0xFFFFFF) .acp 5 104 0 0 .plain true true).1 none = some code) ∧
    State.chooseSlot { demo with copySlots := (List.range 64).map fun i => (i, ⟨1, some wBusy, 0⟩) } (.copy 0) 64 = none := by
  refine ⟨?_, ?_, ?_, ?_, ?_, chooses _ _ _ (by decide +kernel), ?_, ?_, Option.isSome_iff_exists.mp (by decide +kernel), ?_⟩ <;>
    decide +kernel
theorem witness_HandleLayout : 191 < 192 ∧ demo.part? demo.cur.part = some demoPart ∧ demoPart.clusters.getLsbD (3 / 4) = true ∧
    (2 = 2 ∧ 63 < 64) ∧ (0 = 3 / 4 ∧ 31 < 32) := by and_intros <;> decide +kernel

/-- The demo device with a handle of slot 3 of core 1's engine in a pair, and that slot. -/
def wHandle (gen : Word) (slot : EngSlot CopyCmd) : State :=
  { (demoWith fun gr => (gr.setG 100 ((handleOf (.copy 1 3) 1 gen).setWidth 32)).setG 101 ((handleOf (.copy 1 3) 1 gen >>> 32).setWidth 32))
    with copySlots := [(64 + 3, slot)] }

theorem witness_HandleInstructions : demo.cur.cpred 7 = true ∧ (uvalD demo 100).getLsbD 63 = false ∧
    demo.handleKind 0x8000000000000000 = .bad ∧
    (wHandle 7 ⟨7, none, 5⟩).handleKind (uvalD (wHandle 7 ⟨7, none, 5⟩) 100) = .handle (.copy 1 3) 7 ∧
    (wHandle 0 ⟨7, none, 5⟩).handleKind (uvalD (wHandle 0 ⟨7, none, 5⟩) 100) = .handle (.copy 1 3) 0 ∧
    ((wHandle 6 ⟨7, none, 5⟩).slotOf (.copy 1 3)).1 ≠ 6 ∧ ((wHandle 7 ⟨7, none, 5⟩).slotOf (.copy 1 3)).1 = 7 ∧
    ((wHandle 7 ⟨7, none, 5⟩).slotOf (.copy 1 3)).2.1 ≠ some 7 ∧ ((wHandle 7 ⟨7, some wBusy, 5⟩).slotOf (.copy 1 3)).1 = 7 ∧
    ((wHandle 7 ⟨7, some (wBusy.numbered 7 1), 5⟩).slotOf (.copy 1 3)).2.1 = some 7 := by and_intros <;> decide +kernel

/-- The demo device with a Clave at the last place of the share and operands for it. -/
def wClave (b : Word) : State :=
  { (demoWith fun gr => (gr.setG 100 65520).setG 102 b) with stage := writeBytes [] 65520 (leBytes 16 (8 + 4 * 2 ^ 32 + 2 ^ 64)) }

theorem witness_Claves : Enabled (wClave 1) 7 [100, 102] ∧
    (wClave 1).accessFate true (uval (wClave 1) 100).toNat 16 true true none = .go (.stage 65520) ∧
    decide (leNat (readBytes (wClave 1).stage 65520 16) / 2 ^ 64 % 2 = 1) = (uval (wClave 1) 102).getLsbD 0 ∧
    decide (leNat (readBytes (wClave 2).stage 65520 16) / 2 ^ 64 % 2 = 1) ≠ (uval (wClave 2) 102).getLsbD 0 := by
  and_intros <;> decide +kernel

/-- A copy of 48 bytes from Stage offset 0x40 to 0x100, with a Clave. -/
def wCmd : CopyCmd := ⟨demo.cur.cmdBase 0x3F .plain (some 0x400), .acp, [0x100, 0, 0x40, 0, 0x30], true, true⟩
/-- The same with two bytes of its chunk moved before, all moved, or cancelled. -/
def wEarly : CopyCmd := { wCmd with base := { wCmd.base with early := [0, 47], cancel := true } }
def wDone : CopyCmd := { wCmd with base := { wCmd.base with result := some (statusWord 0 48), done := 48 } }
def wCancelled : CopyCmd := { wCmd with base := { wCmd.base with cancel := true } }
/-- The demo device with a command in slot 3 and its handle pending in a pair. -/
def wEngine (c : CopyCmd) : State :=
  { demo with
    copySlots := [(3, ⟨7, some c, 0x55⟩)], credits := [⟨0x400, 48, 0⟩]
    cur := { (demoGroup.setG 100 ((handleOf (.copy 0 3) 0 7).setWidth 32)).setG 101 ((handleOf (.copy 0 3) 0 7 >>> 32).setWidth 32) with
      pend := 4 } }

theorem witness_EngineEvents : SMap.wf EngSlot.idle (wEngine wCmd).copySlots = true ∧
    ((SMap.get EngSlot.idle (wEngine wCmd).copySlots (engIndex (.copy 0 3))).cmd = some wCmd ∧ wCmd.base.result = none ∧
      (wEngine wCmd).partHalted wCmd.base.part = false ∧ wCmd.base.notBefore ≤ (wEngine wCmd).now ∧ wCmd.base.cancel = false) ∧
    wCmd.nextChunk = (0x100, 0, 0, 48) ∧ (wEngine wCmd).chunkBytes wCmd 0 0 48 = .ok (List.replicate 48 0) ∧
    (wEngine wCmd).engineDests wCmd.base wCmd.ds (intPieces 0x100 48) = .ok [(.stage 0x100, 48)] ∧
    ((SMap.get EngSlot.idle (wEngine wCancelled).copySlots (engIndex (.copy 0 3))).cmd = some wCancelled ∧
      wCancelled.base.cancel = true ∧ wCancelled.base.early = []) ∧
    ((SMap.get EngSlot.idle (wEngine wEarly).copySlots (engIndex (.copy 0 3))).cmd = some wEarly ∧ wEarly.base.early ≠ [] ∧
      wEarly.nextChunk = (0x100, 0, 0, 48) ∧ (wEngine wEarly).chunkBytes wEarly 0 0 48 = .ok (List.replicate 48 0) ∧
      (wEngine wEarly).engineDests wEarly.base wEarly.ds (intPieces 0x100 48) = .ok [(.stage 0x100, 48)]) ∧
    ((SMap.get EngSlot.idle (wEngine wDone).copySlots (engIndex (.copy 0 3))).cmd = some wDone ∧
      wDone.base.result = some (statusWord 0 48) ∧ wDone.base.order.releases = false ∧
      (wEngine wDone).reached wDone.base.times wDone.base.obs = true) ∧
    ((wEngine wDone).cur.live = true ∧ (wEngine wDone).cur.pend.getLsbD 2 = true ∧
      (wEngine wDone).cur.pairAt 2 = handleOf (.copy 0 3) 0 7) ∧
    (wEngine wDone).credits[0]? = some ⟨0x400, 48, 0⟩ ∧ 0 ≤ (wEngine wDone).now := by and_intros <;> decide +kernel

/-- What has an answer answers. -/
theorem answers {ε α : Type} (x : Except ε α) (h : x.toOption.isSome = true) : ∃ r, x = .ok r := by
  cases x with
  | error e => simp [Except.toOption] at h
  | ok r => exact ⟨r, rfl⟩

/-- An answer that is a next state. -/
theorem answered (o : Host.Outcome State Fault Refusal) (h : (match o with | .next _ => true | _ => false) = true) :
    ∃ t, o = .next t := by
  cases o <;> simp_all

/-- The demo device with the block registers of a `wload` of some records. -/
def wLoad (count : Word) : State := demoWith fun gr => ((gr.setG 104 0).setG 106 3).setG 107 count
/-- A `wload` of two records to tiles from 3, and the demo device where it runs on a first record of an i8 tile of 4 × 16. -/
def wLoadCmd : WloadCmd := ⟨demo.cur.cmdBase 0 .plain none, 0, 0, 64, [0, 0, 3, 2], 7, [0]⟩
def wLoading : State :=
  { demo with
    wloadSlots := [(2, ⟨5, some wLoadCmd, 0⟩)]
    stage := writeBytes [] 0 (leBytes 16 (4 * 2 ^ 2 + 2 * 2 ^ 6 + 5 * 2 ^ 12 + 2 * 2 ^ 22) ++ (List.range 32).map fun i => BitVec.ofNat 8 (i + 1)) }

theorem witness_WeightStreams : Enabled (wLoad 2) 7 (blockRegs 104 4 ++ [0]) ∧ (wLoad 2).cur.live = true ∧
    SMap.wf EngSlot.idle (wLoad 2).wloadSlots = true ∧ 96 ≤ (126#7).toNat ∧ (126#7).toNat % 2 = 0 ∧
    (∃ e, (wLoad 2).chooseSlot (.wload ((wLoad 2).cur.core / 4)) 32 = some e) ∧
    (wLoad 2).cur.wloadCheck [0, 0, 3, 2] none = none ∧ [0, 0, 3, 2].getD 3 0 ≠ 0 ∧
    (∃ code, (wLoad 2).cur.wloadCheck [0, 0, 63, 2] none = some code) ∧
    ((SMap.get EngSlot.idle wLoading.wloadSlots (engIndex (.wload 0 2))).cmd = some wLoadCmd ∧ wLoadCmd.base.result = none ∧
      wLoading.partHalted wLoadCmd.base.part = false ∧ wLoadCmd.base.notBefore ≤ wLoading.now ∧ wLoadCmd.base.cancel = false) ∧
    wLoading.tileBehind wLoadCmd wLoadCmd.nextTile = false ∧ (∃ r, wLoading.readRecord wLoadCmd = .ok r) ∧ (∃ x ∈ wLoading.holders, x.key = wLoadCmd.base.grp) ∧
    SMap.wf EngSlot.idle wLoading.wloadSlots = true := by
  refine ⟨?_, ?_, ?_, ?_, ?_, chooses _ _ _ (by decide +kernel), ?_, ?_, Option.isSome_iff_exists.mp (by decide +kernel), ?_, ?_,
    answers _ (by decide +kernel), ?_, ?_⟩ <;> decide +kernel

/-- A stream descriptor: port, kind, element count, stride 4, base. -/
def wDesc (q kind count base : Nat) : Nat := base + 4 * 2 ^ 128 + count * 2 ^ 160 + q * 2 ^ 192 + kind * 2 ^ 200 + 2 ^ 207
/-- The demo device with a list of one load stream on port 15 at 0x800. -/
def wPorts : State := { (demoWith fun gr => gr.setG 100 0x800) with stage := writeBytes [] 0x800 (leBytes 32 (wDesc 15 0 10 0x200)) }
/-- A load port with nine of ten elements read, and a store port with two of ten pushed. -/
def wLoadPort : Port := { streamPort (wDesc 3 0 10 0x200) with elems := (List.range 9).map fun i => BitVec.ofNat 32 i, pos := 9 }
def wStorePort : Port := { streamPort (wDesc 3 2 10 0x200) with elems := [7, 8], used := 2 }
/-- The demo device with one of them as port 3. -/
def wWithPort (p : Port) (pushes : List Nat) : State := demoWith fun gr => { gr.setPort 3 p with pushes := pushes }

theorem witness_StreamPorts : Enabled wPorts 7 (pairRegs 100) ∧
    wPorts.streamList 16 (uvalD wPorts 100).toNat [] = .ok [(15, wDesc 15 0 10 0x200)] ∧ wPorts.cur.pushes = [] ∧
    wPorts.cur.pushesLeft = false ∧
    ((wWithPort wLoadPort []).cur.unfinished = none ∧ (wWithPort wLoadPort []).cur.acting 7 ≠ 0 ∧
      ((wWithPort wLoadPort []).cur.port 3).bound = true ∧ ((wWithPort wLoadPort []).cur.port 3).kind ≠ 2 ∧
      laneCount ((wWithPort wLoadPort []).cur.acting 7) ≤ ((wWithPort wLoadPort []).cur.port 3).elems.length) ∧
    ((wWithPort wStorePort [3, 3]).cur.unfinished = none ∧ Ready (wWithPort wStorePort [3, 3]) [1] ∧
      ((wWithPort wStorePort [3, 3]).cur.port 3).bound = true ∧ ((wWithPort wStorePort [3, 3]).cur.port 3).kind = 2 ∧
      ((wWithPort wStorePort [3, 3]).cur.port 3).fault = none ∧
      ((wWithPort wStorePort [3, 3]).cur.port 3).used + laneCount ((wWithPort wStorePort [3, 3]).cur.acting 7) ≤
        ((wWithPort wStorePort [3, 3]).cur.port 3).count ∧ ((wWithPort wStorePort [3, 3]).cur.port 3).ring = [] ∧
      ((wWithPort wStorePort [3, 3]).cur.port 3).elems.length + 8 ≤ 256) := by and_intros <;> decide +kernel
theorem witness_StreamPorts_handle : (match ({ wPorts with stage := writeBytes [] 0x800 (leBytes 32 (wDesc 15 3 10 0x200)) } : State).streamList 16
    (uvalD wPorts 100).toNat [] with | .handle _ _ => true | _ => false) = true := by decide +kernel
theorem witness_StreamElements : (wWithPort wLoadPort []).cur.live = true ∧ 15 < 16 ∧ (wWithPort wLoadPort []).cur.late = [] ∧
    (wWithPort wStorePort [3, 3]).cur.late = [] ∧
    (((wWithPort wLoadPort []).cur.port 3).bound = true ∧ ((wWithPort wLoadPort []).cur.port 3).kind = 0 ∧
      ((wWithPort wLoadPort []).cur.port 3).fault = none ∧ wLoadPort.pos < wLoadPort.count ∧ wLoadPort.elems.length < 256) ∧
    (wWithPort wLoadPort []).streamFate (wWithPort wLoadPort []).cur ((wWithPort wLoadPort []).cur.port 3)
      (0x200 + 9 * 4) true false = .go (.stage 0x224) ∧
    (wWithPort wStorePort [3, 3]).nextPush (wWithPort wStorePort [3, 3]).cur = some 3 ∧ wStorePort.elems = [7, 8] ∧
    (wWithPort wStorePort [3, 3]).streamFate (wWithPort wStorePort [3, 3]).cur ((wWithPort wStorePort [3, 3]).cur.port 3)
      0x200 false true = .go (.stage 0x200) ∧ wStorePort.pos + 1 < wStorePort.count := by and_intros <;> decide +kernel
/-- A late store to the next word of a load stream, and a push of another port that waits to be written to it. -/
def wBehindLate : State := demoWith fun gr => { gr.setPort 3 wLoadPort with late := [⟨.stage 0x224, .store [1, 2, 3, 4]⟩] }
def wBehindPush : State := demoWith fun gr => { (gr.setPort 3 wLoadPort).setPort 4 { streamPort (wDesc 4 2 10 0x224) with elems := [7], used := 1 } with pushes := [4] }
theorem witness_StreamElements_behind : (wBehindLate.cur.late.any fun x => x.meets (.stage 0x224) 4) = true ∧
    wBehindLate.streamFate wBehindLate.cur (wBehindLate.cur.port 3) (0x200 + 9 * 4) true false = .go (.stage 0x224) ∧
    wBehindPush.streamFate wBehindPush.cur (wBehindPush.cur.port 3) (0x200 + 9 * 4) true false = .go (.stage 0x224) ∧
    wBehindPush.pushMeets wBehindPush.cur wBehindPush.cur.pushes.length (.stage 0x224) 4 = true ∧
    (wWithPort wLoadPort []).pushMeets (wWithPort wLoadPort []).cur 0 (.stage 0x224) 4 = false := by and_intros <;> decide +kernel
theorem witness_CanonicalBlocks : 256 % 2 ^ 8 = 0 ∧ (∀ e ∈ [(256, 1), (256, 1), (511, 7)], 256 ≤ e.1 ∧ e.1 < 256 + 2 ^ 8) ∧
    [(256, 1), (256, 1), (511, 7)].Pairwise (fun (a b : Nat × Nat) => a.1 ≤ b.1) ∧
    (canonical 8 8 256 [(256, 1), (256, 1), (511, 7)]).isSome = true := by and_intros <;> decide +kernel

/-- The bytes of a collection's descriptor at 0x400: key and value bits, blocks, elements. -/
def wCollDesc (k w n count : Nat) : Nat :=
  k + w * 2 ^ 8 + 0x500 * 2 ^ 64 + 4 * 2 ^ 160 + 0x2000 * 2 ^ 192 + 0x600 * 2 ^ 256 + 4 * 2 ^ 320 + n * 2 ^ 352 + count * 2 ^ 384 +
    3 * 2 ^ 416
/-- A state with a collection of some elements in one block, its descriptor at 0x400. -/
def wColl (k w : Nat) (es : List (Nat × Nat)) (s : State) : State :=
  { s with
    stage := writeBytes (writeBytes (writeBytes (writeBytes s.stage 0x400 (leBytes 64 (wCollDesc k w 1 es.length))) 0x600 [4]) 0x500
      (leBytes 16 (tableEntry ⟨0, k, 2, es⟩))) 0x2200 (leBytes 256 (blockImage w es)) }
/-- The demo device with a collection of 16-bit keys, its address in a pair, and pairs in v1 and v2. -/
def wPairs : State := wColl 16 8 [(5, 1), (5, 1), (9, 2), (300, 7)] { (withLanes 1 (fun l => [5#32, 5, 9, 5, 7, 300, 9, 5].getD l 0)
  fun l => [1#32, 1, 2, 1, 0, 7, 3, 2].getD l 0) with cur := { ((withLanes 1 (fun l => [5#32, 5, 9, 5, 7, 300, 9, 5].getD l 0)
  fun l => [1#32, 1, 2, 1, 0, 7, 3, 2].getD l 0).cur.setG 100 0x400) with p := #v[0x92, 0x90, 0, 0, 0, 0, 0] } }
/-- That collection. -/
def wX : Coll := ⟨wCollDesc 16 8 1 4, [⟨0, 16, 2, [(5, 1), (5, 1), (9, 2), (300, 7)]⟩], 4⟩

theorem wPairs_open : wPairs.openColl wPairs.cur.syncBase 0x400 = .ok wX := by decide +kernel
theorem witness_CollectionCountsAndRemovals : wPairs.pastC = true ∧ (uvalD wPairs 100).toNat = 0x400 ∧
    wPairs.openColl wPairs.cur.syncBase 0x400 = .ok wX ∧ Enabled wPairs 7 (pairRegs 1 ++ pairRegs 2 ++ pairRegs 100) ∧
    KeysSuit wX.k [1, 2] ∧ wPairs.cur.unfinished = none ∧ wPairs.cur.acting 0 ≠ 0 ∧ Ready wPairs (pairRegs 1 ++ [2] ++ pairRegs 100) ∧
    (∃ r, wPairs.changeColl wPairs.cur.syncBase 0x400 wX [(9, 2), (300, 7)] = .ok r) ∧
    (∃ r, wPairs.changeColl wPairs.cur.syncBase 0x400 wX [] = .ok r) := by
  refine ⟨?_, ?_, wPairs_open, ?_, ?_, ?_, ?_, ?_, answers _ (by decide +kernel), answers _ (by decide +kernel)⟩ <;> decide +kernel

/-- The same device with a collection of one element of 33-bit keys. -/
def wLong : State := wColl 33 8 [(5, 1)] wPairs
theorem witness_CollectionCountsAndRemovals_handle : wLong.pastC = true ∧
    wLong.openColl wLong.cur.syncBase 0x400 = .ok ⟨wCollDesc 33 8 1 1, [⟨0, 33, 2, [(5, 1)]⟩], 4⟩ ∧
    Enabled wLong 7 (pairRegs 1 ++ pairRegs 2 ++ pairRegs 100) ∧ ¬KeysSuit 33 [1, 2] ∧ wLong.cur.acting 0 ≠ 0 ∧ KeysSuit 33 [2] := by
  and_intros <;> decide +kernel
/-- An insertion that waits in a slot: of pairs, and whether a key register was odd. -/
def wCins (ps : List (Word × Word)) (odd : Bool) : CinsCmd :=
  ⟨wPairs.cur.cmdBase 0x3F .plain none, 0x400, ps.map fun p => (p.1, p.2, none), odd, false⟩
/-- A device with an insertion in slot 5 into a collection of one element. -/
def wInsert (c : CinsCmd) (k w : Nat) : State := { wColl k w [(5, 1)] demo with cinsSlots := [(5, ⟨3, some c, 0⟩)] }
/-- That collection. -/
def wOne (k w : Nat) : Coll := ⟨wCollDesc k w 1 1, [⟨0, k, 2, [(5, 1)]⟩], 4⟩
/-- More of one key, with 32-bit payloads, than a block holds, and blocks of keys far apart more than there are. -/
def wMany : List (Nat × Nat) := List.replicate 61 (5, 1)
def wFar : List (Nat × Nat) := (List.range 5).flatMap fun i => List.replicate 45 (5 + i * 1000, 1)

theorem witness_CollectionInsertion : Ready wPairs (pairRegs 1 ++ [2] ++ pairRegs 100) ∧ wPairs.cur.live = true ∧
    SMap.wf EngSlot.idle wPairs.cinsSlots = true ∧ 96 ≤ (102#7).toNat ∧ (102#7).toNat % 2 = 0 ∧
    State.chooseSlot { demo with cinsSlots := (List.range 32).map fun i => (i, ⟨1, some (wCins [] false), 0⟩) } (.cins 0) 32 = none ∧
    (∃ e, wPairs.chooseSlot (.cins wPairs.cur.core) 32 = some e) ∧ wPairs.cur.acting 4 = 0 ∧ wPairs.cur.acting 7 ≠ 0 := by
  refine ⟨?_, ?_, ?_, ?_, ?_, ?_, chooses _ _ _ (by decide +kernel), ?_, ?_⟩ <;> decide +kernel
/-- A full engine whose group acts in no lane. -/
theorem witness_CollectionInsertion_full : ({ demo with cinsSlots := (List.range 32).map fun i => (i, ⟨1, some (wCins [] false), 0⟩) } : State).cur.live = true ∧
    SMap.wf EngSlot.idle ((List.range 32).map fun i => (i, (⟨1, some (wCins [] false), 0⟩ : EngSlot CinsCmd))) = true ∧ demo.cur.acting 4 = 0 ∧
    demo.cur.acting 7 ≠ 0 := by and_intros <;> decide +kernel
/-- An insertion of a long key from an even register. -/
def wWideCins : CinsCmd := { wCins [] false with pairs := [(131073, 1, some 0)] }
theorem witness_CollectionInsertion_wide : (SMap.get EngSlot.idle (wInsert wWideCins 33 8).cinsSlots (engIndex (.cins 0 5))).cmd = some wWideCins ∧
    (wInsert wWideCins 33 8).openColl wWideCins.base 0x400 = .ok (wOne 33 8) ∧ wWideCins.oddKey = false ∧ 32 < (wOne 33 8).k ∧
    ((131073#32).toNat + (1#32).toNat * 2 ^ 32 < 2 ^ (wOne 33 8).k ∧ ¬(1#32).toNat + (2#32).toNat * 2 ^ 32 < 2 ^ (wOne 33 8).k) ∧
    (∃ r, (wInsert wWideCins 33 8).changeColl wWideCins.base 0x400 (wOne 33 8) [(5, 1), (131073, 1)] = .ok r) := by
  refine ⟨?_, ?_, ?_, ?_, ?_, answers _ (by decide +kernel)⟩ <;> decide +kernel
theorem witness_CollectionInsertion_applied :
    (SMap.wf EngSlot.idle (wInsert (wCins [(65535, 1)] false) 16 32).cinsSlots = true ∧
      (SMap.get EngSlot.idle (wInsert (wCins [(65535, 1)] false) 16 32).cinsSlots (engIndex (.cins 0 5))).cmd =
        some (wCins [(65535, 1)] false) ∧ (wCins [(65535, 1)] false).base.result = none ∧
      (wCins [(65535, 1)] false).base.cancel = false ∧
      (wCins [(65535, 1)] false).base.notBefore ≤ (wInsert (wCins [(65535, 1)] false) 16 32).now) ∧
    (wInsert (wCins [(65535, 1)] false) 16 32).openColl (wCins [] false).base 0x400 = .ok (wOne 16 32) ∧
    (wInsert (wCins [(65535, 1)] true) 33 8).openColl (wCins [] false).base 0x400 = .ok (wOne 33 8) ∧ 32 < (wOne 33 8).k ∧
    (wOne 16 32).k ≤ 32 ∧ 2 ^ (wOne 16 32).k ≤ (65536#32).toNat ∧
    ((65535#32).toNat < 2 ^ (wOne 16 32).k ∧ (1#32).toNat < 2 ^ (wOne 16 32).w) ∧
    (∃ r, (wInsert (wCins [(65535, 1)] false) 16 32).changeColl (wCins [] false).base 0x400 (wOne 16 32) [(5, 1), (65535, 1)] = .ok r) ∧
    (wInsert (wCins [(65535, 1)] false) 16 32).changeColl (wCins [] false).base 0x400 (wOne 16 32) wMany = .error .keyFull ∧
    (wInsert (wCins [(65535, 1)] false) 16 32).changeColl (wCins [] false).base 0x400 (wOne 16 32) wFar = .error .full := by
  refine ⟨?_, ?_, ?_, ?_, ?_, ?_, ?_, answers _ (by decide +kernel), ?_, ?_⟩
  · and_intros <;> decide +kernel
  all_goals decide +kernel

/-- The demo collection's device with an iterator 7 open from a cursor to a bound. -/
def wIter (cursor hi : Nat) (buf : List (Nat × Nat)) (pos : Nat) : State :=
  { wPairs with cur := { wPairs.cur with iters := wPairs.cur.iters.set 7 ⟨true, 0x400, false, hi, cursor, buf, 0, pos, 8, false⟩ } }

theorem witness_CollectionIterators : Enabled wPairs 7 (pairRegs 1 ++ pairRegs 2 ++ pairRegs 100) ∧
    wPairs.serve = false ∧ wPairs.heldColl (wPairs.descKey wPairs.cur.part wPairs.cur.ranges (uvalD wPairs 100).toNat) = none ∧
    wPairs.openDesc wPairs.cur.syncBase (uvalD wPairs 100).toNat = .ok (wCollDesc 16 8 1 4) ∧
    KeysSuit (wCollDesc 16 8 1 4 % 64) [1, 2] ∧ ukey wPairs 16 2 < ukey wPairs 16 1 ∧ ukey wPairs 16 2 ≤ ukey wPairs 16 2 ∧
    wPairs.cur.unfinished = none ∧ wPairs.cur.acting 0 ≠ 0 ∧ (wPairs.cur.iters[7]?.getD Iter.closed).opened = false ∧
    ((wIter 6 5 [] 0).cur.iters[7]?.getD Iter.closed).opened = true ∧ [((6 : Nat), (1 : Nat)), (7, 2)].Pairwise (fun x y => x.1 ≤ y.1) ∧
    5 < 6 ∧ laneCount (wPairs.cur.acting 0) ≤ [((5 : Nat), (1 : Nat)), (6, 1), (7, 2)].length ∧
    (∃ e ∈ [((6 : Nat), (1 : Nat)), (7, 2)], 6 < e.1) ∧ ([((7 : Nat), (2 : Nat))].drop 0).length < laneCount (wPairs.cur.acting 0) ∧
    300 ≤ 300 ∧ (∀ e ∈ [((7 : Nat), (2 : Nat))], e.1 ≤ 300) ∧ wPairs.pastC = true ∧
    (wIter 300 300 [(7, 2)] 0).openColl (wIter 300 300 [(7, 2)] 0).cur.syncBase 0x400 = .ok wX ∧ SoundColl wX := by
  unfold SoundColl; and_intros <;> decide +kernel
/-- An open iterator of long keys, and a destination that does not suit it. -/
theorem witness_CollectionIterators_handle : (let it : Iter := ⟨true, 0x400, true, 9, 5, [], 0, 0, 8, false⟩; it.opened = true ∧ it.wide = true) ∧
    (1#7).toNat % 2 = 1 := by decide

/-- The descriptor of a work list at 0x700 with its ring at 0x3000. -/
def wListDesc (wide qcap ringcap memb count spilled head : Nat) : Nat :=
  2 ^ 6 + wide * 2 ^ 8 + qcap * 2 ^ 16 + ringcap * 2 ^ 224 + 0x3000 * 2 ^ 256 + memb * 2 ^ 320 + count * 2 ^ 384 + spilled * 2 ^ 416 +
    head * 2 ^ 448
/-- The demo device with a work list of some values, beside a collection of two keys at 0x400, and lane values. -/
def wList (qcap memb : Nat) (chip : List DWord) (s : State) : State :=
  { wColl 32 0 [(5, 0), (77, 0)] s with
    cur := s.cur.setG 100 0x700
    stage := writeBytes (wColl 32 0 [(5, 0), (77, 0)] s).stage 0x700 (leBytes 64 (wListDesc 0 qcap 16 memb chip.length 0 0))
    lists := [(s.descKey 0 demoGroup.ranges 0x700, ⟨chip, false, []⟩)] }
/-- What the engine finds there. -/
def wL (qcap memb : Nat) (chip : List DWord) : WorkList := ⟨wListDesc 0 qcap 16 memb chip.length 0 0, chip, [], []⟩
/-- The demo device with lane values of which some are members, or come twice. -/
def wVals : State := withLanes 1 (fun l => [77#32, 8, 8, 5, 3, 9, 3, 77].getD l 0) fun _ => 0

theorem witness_WorkLists : (wList 16 0 [1, 2, 3] wVals).pastC = true ∧
    (wList 16 0 [1, 2, 3] wVals).openList (wList 16 0 [1, 2, 3] wVals).cur.syncBase 0x700 = .ok (wL 16 0 [1, 2, 3]) ∧
    Enabled (wList 16 0 [1, 2, 3] wVals) 7 (pairRegs 100) ∧ (wL 16 0 [1, 2, 3]).memb = 0 ∧
    (wList 16 0 [1, 2, 3] wVals).cur.unfinished = none ∧ (wList 16 0 [1, 2, 3] wVals).cur.acting 7 ≠ 0 ∧
    Ready (wList 16 0 [1, 2, 3] wVals) (pairRegs 1 ++ pairRegs 100) ∧ 0 < (wL 16 0 [1, 2, 3]).qcap ∧
    ((wL 16 0 [1, 2, 3]).chip ≠ [] ∨ (wL 16 0 [1, 2, 3]).ring = []) ∧
    (∃ r, ((wList 16 0 [1, 2, 3] wVals).noteList (wList 16 0 [1, 2, 3] wVals).cur.syncBase 0x700 (wL 16 0 [1, 2, 3])).storeList
      (wList 16 0 [1, 2, 3] wVals).cur.syncBase 0x700 (wL 16 0 [1, 2, 3])
      (wL 16 0 [1, 2, 3]).cleared = .ok r) ∧
    (∃ n, (wL 16 0 [1, 2, 3]).appendAll [0x2000] (List.replicate 13 7) = some n) ∧
    (wL 1 0 [1]).appendAll [0x2000] (List.replicate 17 7) = none ∧ (∃ n, (wL 1 0 [1]).appendAll [0x2000] (List.replicate 16 7) = some n) := by
  refine ⟨?_, ?_, ?_, ?_, ?_, ?_, ?_, ?_, ?_, answers _ (by decide +kernel), Option.isSome_iff_exists.mp (by decide +kernel), ?_,
    Option.isSome_iff_exists.mp (by decide +kernel)⟩ <;> decide +kernel

/-- A list of 64-bit values, and a device whose region may hold no spilled element. -/
def wWideList : WorkList := ⟨wListDesc 1 16 16 0 0 0 0, [], [], []⟩
def wNoQuota : State := { wList 1 0 [1] wVals with cur := { (wList 1 0 [1] wVals).cur with quotas := [0] } }
theorem witness_WorkLists_stops : (wWideList.wide = true ∧ (1#7).toNat % 2 ≠ 0 ∧ (2#7).toNat % 2 = 0) ∧
    ((wL 16 0 [1, 2, 3]).ringcap ≠ 0 ∧ { (wL 16 0 []) with desc := 0 }.ringcap = 0 ∧ (wL 16 0 [1, 2, 3]).ringVa = 0x3000 ∧
      demoGroup.ranges = [] ++ demoGroup.ranges.getD 0 wReadOnly :: demoGroup.ranges.drop 1 ∧
      (demoGroup.ranges.getD 0 wReadOnly).valid = true ∧ (demoGroup.ranges.getD 0 wReadOnly).vbase ≤ 0x3000 ∧
      0x3000 < (demoGroup.ranges.getD 0 wReadOnly).vbase + (demoGroup.ranges.getD 0 wReadOnly).len * 65536) ∧
    (wL 16 0 [1, 2, 3]).cleared.ring.length ≤ (wL 16 0 [1, 2, 3]).ring.length ∧
    ((wL 1 0 [1]).appendAll (wList 1 0 [1] wVals).cur.regions (List.replicate 8 7)).any (fun n => decide (1 < n.ring.length) && !wNoQuota.listQuotaOk 0x700 n) = true := by
  and_intros <;> decide +kernel

/-- The collection beside the lists. -/
def wMembers : Coll := ⟨wCollDesc 32 0 1 2, [⟨0, 32, 2, [(5, 0), (77, 0)]⟩], 4⟩
/-- The device of a list with a membership once its engine has found both, the list alone and the membership too. -/
def wNoted : State := (wList 16 0x400 [77, 5] wVals).noteList (wList 16 0x400 [77, 5] wVals).cur.syncBase 0x700 (wL 16 0x400 [77, 5])
def wNotedBoth : State := wNoted.noteColl (wList 16 0x400 [77, 5] wVals).cur.syncBase 0x400
theorem witness_ListMembership : (wList 16 0x400 [77, 5] wVals).pastC = true ∧
    (wList 16 0x400 [77, 5] wVals).openList (wList 16 0x400 [77, 5] wVals).cur.syncBase 0x700 = .ok (wL 16 0x400 [77, 5]) ∧
    (wL 16 0x400 [77, 5]).memb ≠ 0 ∧
    wNoted.openColl (wList 16 0x400 [77, 5] wVals).cur.syncBase 0x400 = .ok wMembers ∧ wMembers.k = 32 ∧
    wMembers.w = 0 ∧ (wL 16 0x400 [77, 5]).wide = false ∧
    (∃ n, (wL 16 0x400 [77, 5]).appendAll [0x2000] [8, 3, 9] = some n ∧ n.ring.length ≤ 0 ∧
      (∃ r, wNotedBoth.collDests (wList 16 0x400 [77, 5] wVals).cur.syncBase
        (listWrites 0x700 (wL 16 0x400 [77, 5]) n) = .ok r)) ∧
    (∃ r, wNotedBoth.changeColl (wList 16 0x400 [77, 5] wVals).cur.syncBase 0x400 wMembers
      [(3, 0), (5, 0), (8, 0), (9, 0), (77, 0)] = .ok r) ∧
    (∃ r, wNotedBoth.changeColl (wList 16 0x400 [77, 5] wVals).cur.syncBase 0x400 wMembers [] = .ok r) ∧
    (match wNotedBoth.changeColl (wList 16 0x400 [77, 5] wVals).cur.syncBase 0x400 wMembers [] with
      | .ok r => (r.1.storeList (wList 16 0x400 [77, 5] wVals).cur.syncBase 0x700 (wL 16 0x400 [77, 5])
          (wL 16 0x400 [77, 5]).cleared).toOption.isSome
      | .error _ => false) = true := by
  refine ⟨?_, ?_, ?_, ?_, ?_, ?_, ?_, ⟨((wL 16 0x400 [77, 5]).appendAll [0x2000] [8, 3, 9]).getD (wL 16 0x400 [77, 5]), ?_, ?_,
    answers _ (by decide +kernel)⟩, answers _ (by decide +kernel), answers _ (by decide +kernel), ?_⟩ <;> decide +kernel

/-- The demo device whose group owes calls and has returns of statuses, ready at a time. -/
def wCalls (owed : List Owed) (returns : List Return) : State :=
  { (demoWith fun gr => { (gr.setV 5 0xFF (lanesFrom fun l => BitVec.ofNat 32 l)) with
      p := #v[0x25, 0, 0, 0, 0, 0, 0], owed := owed, returns := returns }) with now := 5 }
/-- The return of a lane's call, with a status. -/
def wReturn (status : Nat → Nat) (ready l : Nat) : Return := ⟨.rast, l, 50 + l, ready, [BitVec.ofNat 32 (status l * 2 ^ 24), 1, 2, 3]⟩
/-- A call owed for each lane. -/
def wOwed : List Owed := (List.range 8).map fun l => ⟨.rast, l, 50 + l, none⟩

theorem witness_CoprocessorCalls : (wCalls [] []).cur.unfinished = none ∧ (wCalls [] []).cur.acting 7 ≠ 0 ∧
    (wCalls [] []).cur.core < 192 ∧
    (∀ l < 64, ((wCalls [] []).cur.acting 7).getLsbD l = true → (lane ((wCalls [] []).cur.vreg 6) l).toNat / 2 ^ 24 = 0 ∧
      (wCalls [] []).cur.owedTo .rast l < 16) ∧ ((wCalls [] []).cluster 0).ring .rast = [] ∧
    (((wCalls [] []).cluster 0).queue .rast).length + laneCount ((wCalls [] []).cur.acting 7) ≤ 256 ∧
    (∃ l < 64, ((wCalls (List.replicate 16 ⟨.rast, 2, 5, none⟩) []).cur.acting 7).getLsbD l = true ∧
      (lane ((wCalls (List.replicate 16 ⟨.rast, 2, 5, none⟩) []).cur.vreg 6) l).toNat / 2 ^ 24 = 0 ∧
      16 ≤ (wCalls (List.replicate 16 ⟨.rast, 2, 5, none⟩) []).cur.owedTo .rast l) := by and_intros <;> decide +kernel
theorem witness_CoprocessorReturns : (wCalls wOwed []).cur.unfinished = none ∧ (wCalls wOwed []).cur.acting 7 ≠ 0 ∧
    ((wCalls wOwed []).cur.owed.map (·.call)).Nodup ∧ (92#7).toNat + returnWords .rast ≤ 96 ∧
    (∃ l < 64, ((wCalls [] []).cur.acting 0).getLsbD l = true ∧ (wCalls [] []).oldest .rast l = none) ∧
    (∀ l < 64, ((wCalls wOwed []).cur.acting 7).getLsbD l = true → (wCalls wOwed []).oldest .rast l ≠ none) ∧
    ((wCalls wOwed ((List.range 8).map (wReturn (fun _ => 0) 6))).oldest .rast 0 =
      some (⟨.rast, 0, 50, none⟩, some (wReturn (fun _ => 0) 6 0)) ∧ (wCalls wOwed []).now < (wReturn (fun _ => 0) 6 0).ready) ∧
    (∀ l < 64, ((wCalls wOwed []).cur.acting 7).getLsbD l = true → (wReturn (fun _ => 0) 5 l).ready ≤ (wCalls wOwed []).now ∧
      (wCalls wOwed ((List.range 8).map (wReturn (fun _ => 0) 5))).oldest .rast l =
        some (⟨.rast, l, 50 + l, none⟩, some (wReturn (fun _ => 0) 5 l))) ∧
    (∀ l < 64, ((wCalls wOwed []).cur.acting 7).getLsbD l = true → returnStatus (wReturn (fun _ => 0) 5 l) = 0) ∧
    (∀ l < 64, (0x88 : Mask).getLsbD l = true ↔ ((wCalls wOwed []).cur.acting 7).getLsbD l = true ∧
      returnStatus (wReturn (fun l => if l = 3 then 1 else if l = 7 then 255 else 0) 5 l) ≠ 0) := by and_intros <;> decide +kernel

/-- The demo device with a `qtok` operand and a counter some way past its base. -/
def wToken (w : Word) (ahead : Nat) : State :=
  { (demoWith fun gr => gr.setV 5 0xFF (lanesFrom fun _ => w)) with
    clusters := demo.clusters.set 0 { demo.cluster 0 with chimes := (demo.cluster 0).chimes.set 3 ⟨BitVec.ofNat 32 (5 + ahead), 5, []⟩ } }
/-- A depth call, its job with two fragments left, and its first turn. -/
def wCall (u : CUnit) (stale : Bool) : Call := ⟨77, 1, 3, 0, 0, u, 0, [0x5, 0, 0, 0], demoGroup.ranges, [0x2000], 0, 0, 1, stale⟩
def wJob : Job := ⟨wCall .depth false, 0, 2, 0, 0, Vector.replicate 6 0, 0, []⟩
def wTurn (token : Word) (began : Option Nat) : Turn := ⟨0, 0, 0, token, .direct 77 ⟨1, 1, 0x3F000000, 0, 0, 0, 0⟩ false, began, 77⟩
/-- The demo device with that job and two turns of one stream and tile. -/
def wTurns (began : Option Nat) : State :=
  { demo with clusters := demo.clusters.set 0 { demo.cluster 0 with jobs := [wJob], turns := [wTurn 0 began, wTurn 1 none] } }

theorem witness_ChimeTokens : Enabled (wToken 0x00100003 7) 7 [5] ∧ (wToken 0x00100003 7).cur.core < 192 ∧
    uval (wToken 0x02000003 7) 5 &&& 0xFE00FFF0 ≠ 0 ∧ 256 < (uval (wToken 0x01010003 7) 5).toNat / 2 ^ 16 % 2 ^ 9 ∧
    (uval (wToken 0x01000003 7) 5 &&& 0xFE00FFF0 = 0 ∧ (uval (wToken 0x01000003 7) 5).toNat / 2 ^ 16 % 2 ^ 9 ≤ 256) ∧
    2 ^ 31 < (((wToken 0x00100003 (2 ^ 31 - 15)).cluster 0).chime 3).reserved + 16 ∧
    (((wToken 0x00100003 (2 ^ 31 - 16)).cluster 0).chime 3).reserved + 16 ≤ 2 ^ 31 := by and_intros <;> decide +kernel
theorem witness_ChimeTokens_turns : ((wTurns none).cluster 0).turns[0]? = some (wTurn 0 none) ∧
    ((wTurns none).cluster 0).turns[1]? = some (wTurn 1 none) ∧ (wTurn 0 none).stream = (wTurn 1 none).stream ∧
    (wTurn 0 none).tx = (wTurn 1 none).tx ∧ (wTurn 0 none).ty = (wTurn 1 none).ty ∧ 0 < 48 ∧
    (wTurn 0 none).body.job = some wJob.call.key ∧ ((wTurns none).cluster 0).jobOf wJob.call.key = some wJob ∧
    (wTurns none).partHalted wJob.call.part = false ∧ ((wTurns (some 1)).cluster 0).turns[0]? = some (wTurn 0 (some 1)) ∧
    (wTurns (some 1)).now < 1 ∧ ((wTurns none).cluster 0).mayBegin 0 (wTurn 0 none) = true ∧
    ((wTurns none).cluster 0).mayBegin 1 (wTurn 1 none) = false ∧ 1 < wJob.left ∧
    (∃ w, (wTurns none).turnStep wJob (wTurn 0 none).body = .ok w) := by
  refine ⟨?_, ?_, ?_, ?_, ?_, ?_, ?_, ?_, ?_, ?_, ?_, ?_, ?_, ?_, answers _ (by decide +kernel)⟩ <;> decide +kernel

/-- The demo device with a queue of records of the rasterizer, the first stale or not. -/
def wQueue (x : Call) : State :=
  { demo with clusters := demo.clusters.set 0 { demo.cluster 0 with queues := (demo.cluster 0).queues.set 0 [x, wCall .rast false] } }
/-- A ray and a triangle that it meets. -/
def wRay : Ray := ⟨fun a => ⟨[1, 1, 0].getD a 0, [5, 5, 1].getD a 1⟩, fun a => ⟨[1, 0, 2].getD a 0, [20, 1, 1].getD a 1⟩,
  ieeeF32.decode 0, ieeeF32.decode 0x7F7FFFFF⟩
def wTri (i a : Nat) : Q :=
  ⟨([[0, 0, 3], [2, 0, 3], [0, 2, -4]].getD i []).getD a 0, ([[1, 1, 1], [1, 1, 1], [1, 1, 3]].getD i []).getD a 1⟩

theorem witness_CoprocessorUnits : 0 < 48 ∧ ((wQueue (wCall .rast true)).cluster 0).jobs.find? (fun j => j.call.unit == .rast && j.left == 0) = none ∧
    ((wQueue (wCall .rast true)).cluster 0).queue .rast = [wCall .rast true, wCall .rast false] ∧
    (wQueue (wCall .rast true)).partHalted 0 = false ∧ (wCall .rast true).route = 0 ∧ Focused (wQueue (wCall .rast true)) 1 ∧
    (wCall .rast true).stale = true ∧ (wCall .rast true).notBefore ≤ (wQueue (wCall .rast true)).now ∧
    256 ≤ ((wQueue { wCall .rast false with words := [256, 0, 0, 0] }).cluster 0).diff
      { wCall .rast false with words := [256, 0, 0, 0] }.stream 256 ∧
    (f32Num 0x7F7FFFFF).isNan = false ∧ (f32Num 0x7F7FFFFF).isInf = false ∧ (f32Num 0x80000000).isInf = false ∧
    (wRay.triangle wTri).isSome = true := by and_intros <;> decide +kernel
theorem witness_CoprocessorUnits_ray : ∀ a, 0 < (wRay.o a).den ∧ 0 < (wRay.d a).den ∧ ∀ i, 0 < (wTri i a).den := by
  have h : ∀ (l : List Nat), (∀ x ∈ l, 0 < x) → ∀ a, 0 < l.getD a 1 := fun l hl a => by
    rw [List.getD_eq_getElem?_getD]
    cases h : l[a]? with
    | none => simp
    | some x => exact hl x (List.mem_of_getElem? h)
  refine fun a => ⟨h _ (by decide) a, h _ (by decide) a, fun i => ?_⟩
  refine h _ ?_ a
  rw [List.getD_eq_getElem?_getD]
  cases hi : ([[1, 1, 1], [1, 1, 1], [1, 1, 3]] : List (List Nat))[i]? with
  | none => simp
  | some l => exact (by decide : ∀ l ∈ [[1, 1, 1], [1, 1, 1], [1, 1, 3]], ∀ x ∈ l, 0 < x) l (List.mem_of_getElem? hi)

/-- The bytes of a collection of 48-bit cells in paged memory: its descriptor at IA 0x4000. -/
def wCells (es : List (Nat × Nat)) (s : State) : State :=
  let at_ := fun n : Nat => 0x10000000 + n
  let desc := 48 + 8 * 2 ^ 8 + at_ 0x4100 * 2 ^ 64 + 4 * 2 ^ 160 + at_ 0x5000 * 2 ^ 192 + at_ 0x4200 * 2 ^ 256 + 4 * 2 ^ 320 + 2 ^ 352 +
    es.length * 2 ^ 384 + 3 * 2 ^ 416
  poke (poke (poke (poke s 0x4000 (leBytes 64 desc)) 0x4100 (leBytes 16 (tableEntry ⟨0, 48, 2, es⟩))) 0x4200 [4]) 0x5200
    (leBytes 256 (blockImage 8 es))
/-- A pass of 3 × 3 pixels with a depth buffer, an f32 colour buffer and a test. -/
def wPassBits (dtest : Nat) (dwrite blends : Bool) : Nat :=
  0x10008000 + 0x1000A000 * 2 ^ 64 + 3 * 2 ^ 128 + 3 * 2 ^ 144 + 2 ^ 160 + dtest * 2 ^ 164 + dwrite.toNat * 2 ^ 167 + blends.toNat * 2 ^ 168 +
    48 * 2 ^ 192 + 12 * 2 ^ 224
/-- A texture of four words on one axis, and a hierarchy of one leaf of two triangles. -/
def wTexBits (linear : Nat) : Nat :=
  0x10009000 + 4 * 2 ^ 64 + 2 ^ 80 + 2 ^ 96 + 2 ^ 112 + 2 ^ 116 + linear * 2 ^ 122
def wTreeBits : Nat := 0x10000B00 + 2 ^ 64 + 2 * 2 ^ 96 + 0x10000C00 * 2 ^ 128
/-- A triangle record at a depth: (0, 0), (2, 0), (0, 2). -/
def wTriWords (z : Nat) (id : Nat) : Nat :=
  leNat ([0, 0, z, 0x40000000, 0, z, 0, 0x40000000, z, id, 0, 0].flatMap fun w => leBytes 4 w)
/-- The demo device with a unit's record, a pass at IA 0x800, a texture at 0x900, a hierarchy at 0xA00, and cells. -/
def wUnit (x : Call) : State :=
  let s := poke (poke (wCells [(0, 1), (1, 9), (7, 2)] demo) 0x800 (leBytes 64 (wPassBits 1 true true))) 0x900 (leBytes 32 (wTexBits 1))
  let s := poke (poke s 0xA00 (leBytes 32 wTreeBits)) 0xB00 (leBytes 32 (2 ^ 223 + 2 * 2 ^ 224))
  let s := poke (poke s 0xC00 (leBytes 48 (wTriWords 0x40000000 5) ++ leBytes 48 (wTriWords 0x3F800000 6))) 0xA000 (leBytes 4 0x3F800000)
  { s with clusters := demo.clusters.set 0 ((demo.cluster 0).setQueue x.unit [x] []) }
/-- A record of a unit with a header's reserved bits, an address and words. -/
def wRec (u : CUnit) (typ head ia : Nat) (ws : List Word) : Call :=
  ⟨77, 1, 3, 0, 0, u, typ, [5, BitVec.ofNat 32 (head * 2 ^ 16 + 7), BitVec.ofNat 32 ia, 0] ++ ws, demoGroup.ranges, [0x2000], 0, 0, 1, false⟩
/-- A triangle of the rasteriser that covers three pixels, or none. -/
def wTriRec (y : Word) : Call := wRec .rast 1 0 0x10000800 [0, 0, 0x3F000000, 0x40400000, 0, 0x3F000000, 0, y, 0x3F000000, 1, 2, 3]
/-- A splat of a shape. -/
def wSplat (a : Word) : Call :=
  wRec .rast 2 0 0x10000800 [0x3F800000, 0x3F800000, 0x3F000000, a, 0, 0x3F800000, 0, 0, 0, 0x3F800000, 0, 0]
theorem witness_PixelRecords : TakesRecord (wUnit (wTriRec 0x40400000)) 0 .rast (wTriRec 0x40400000) [] ∧
    TakesRecord (wUnit (wSplat 0x3F800000)) 0 .rast (wSplat 0x3F800000) [] ∧
    TakesRecord (wUnit (wRec .depth 1 0 0x10000800 [0x20001, 0, 0, 0])) 0 .depth (wRec .depth 1 0 0x10000800 [0x20001, 0, 0, 0]) [] ∧
    TakesRecord (wUnit (wRec .blend 1 0 0x10000800 [0x20001])) 0 .blend (wRec .blend 1 0 0x10000800 [0x20001]) [] ∧
    ((wRec .tess 1 9 0 []).word 1).extractLsb' 16 4 ≠ 0 ∧ ((wTriRec 0).word 1).extractLsb' 16 4 = 0 ∧ (wRec .rast 0 0 0 []).word 2 = 0 ∧
    (wRec .rast 0 0 5 []).word 2 ≠ 0 ∧ ratOf ((wSplat 0).word 7) ≤ 0 ∧ rastBad (wSplat 0x3F800000) = false ∧
    (wUnit (wTriRec 0x40400000)).readPass (wTriRec 0x40400000) = .ok (wPassBits 1 true true) ∧
    (wTriRec 0x40400000).fragments (Pass.ofNat (wPassBits 1 true true)) ≠ [] ∧
    (wTriRec 0).fragments (Pass.ofNat (wPassBits 1 true true)) = [] ∧
    (wUnit (wSplat 0x3F800000)).readPass (wSplat 0x3F800000) = .ok (wPassBits 1 true true) ∧
    ((wRec .depth 1 0 0x10000800 [0x20001, 0, 0, 0]).zeros 6 7 = true ∧ (wRec .depth 1 0 0x10000800 [0, 0, 1]).zeros 6 7 = false) ∧
    ((wRec .blend 1 0 0x10000800 [0x20001]).zeros 9 15 = true ∧ (wRec .blend 1 0 0 [0, 0, 0, 0, 0, 1]).zeros 9 15 = false) ∧
    (Pass.ofNat (wPassBits 1 true true)).width ≤ 3 ∧ 1 < (Pass.ofNat (wPassBits 1 true true)).width := by
  unfold TakesRecord; and_intros <;> decide +kernel
/-- A fragment at pixel (0, 0) of a depth. -/
def wFrag (z : Word) : Frag := ⟨0, 0, z, 0x3F000000, 0, 0x3F800000, 0x3E800000⟩
theorem witness_Fragments : (∀ i < 9, f32Finite ((wTriRec 0x40400000).word (4 + i)) = true) ∧
    { Pass.ofNat (wPassBits 1 true true) with depth := 0 }.depth = 0 ∧ (Pass.ofNat (wPassBits 1 true true)).depth ≠ 0 ∧
    (wUnit (wTriRec 0)).unitRead (wTriRec 0) 0x1000A000 4 4 = .ok 0x3F800000 ∧ depthTest 1 0x3F800000 0x3F800000 = false ∧
    depthTest 1 0x3F000000 0x3F800000 = true ∧ (Pass.ofNat (wPassBits 1 false true)).dwrite = false ∧
    (Pass.ofNat (wPassBits 1 true true)).dwrite = true ∧
    (wUnit (wTriRec 0)).callFate (wTriRec 0) 0x1000A000 4 true = .go (.paged 0xA000) ∧ (Pass.ofNat (wPassBits 1 true true)).f32 = true ∧
    (wUnit (wTriRec 0)).callFate (wTriRec 0) 0x10008000 16 true = .go (.paged 0x8000) ∧
    (wUnit (wTriRec 0)).depthStep (wTriRec 0) (Pass.ofNat (wPassBits 1 true true)) (wFrag 0x3F000000) =
      .ok ⟨[(.paged 0xA000, leBytes 4 0x3F000000)], true⟩ ∧
    (match (wUnit (wTriRec 0)).colourStep (wTriRec 0) (Pass.ofNat (wPassBits 1 true true)) (wFrag 0x3F000000) with
      | .ok w => w.passed | .error _ => false) = true := by and_intros <;> decide +kernel
/-- A tessellator record: the triangle pattern of two levels, at an address with some bytes. -/
def wTess (out cap : Nat) : Call := wRec .tess 1 0 out [0x200, BitVec.ofNat 32 cap, 0, 0]
theorem witness_TessellatorRecords : TakesRecord (wUnit (wTess 0x10008000 72)) 0 .tess (wTess 0x10008000 72) [] ∧
    (wTess 0x10008000 72).typ ≠ 0 ∧ ((wTess 0x10008000 72).word 1).extractLsb' 16 4 = 0 ∧ (wRec .tess 1 0 0 [0x203]).word 4 % 4 = 3 ∧
    ((wTess 0x10008000 72).word 4 &&& 0xFFFF80FC = 0 ∧ (0x200 : Nat) % 4 = 0 ∧ (0x200 : Nat) / 2 ^ 8 % 2 ^ 7 = 2) ∧ 0x10008008 % 16 ≠ 0 ∧
    ((8 * (tessVertices 0 2).length + 15) / 16 * 16 = 48 ∧ ((tessPrims 0 2).flatMap fun p => p.flatMap fun i => leBytes 2 i).length = 24) ∧
    (71 : Nat) < 48 + 24 ∧
    (∃ d, (wUnit (wTess 0x10008000 72)).runDests (wTess 0x10008000 72).base (intPieces (0x10008000 : Nat) 48) = .ok d) ∧
    (∃ d, (wUnit (wTess 0x10008000 72)).runDests (wTess 0x10008000 72).base (intPieces ((0x10008000 + 48 : Nat) : Int) 24) = .ok d) := by
  unfold TakesRecord
  refine ⟨?_, ?_, ?_, ?_, ?_, ?_, ?_, ?_, answers _ (by decide +kernel), answers _ (by decide +kernel)⟩ <;> decide +kernel
/-- A filter record at a coordinate. -/
def wFilt (u : Word) : Call := wRec .filt 1 0 0x10000900 [u, 0, 0, 0]
/-- The texture of a descriptor. -/
def wTexture (linear : Nat) : Texture := Texture.ofNat (wTexBits linear)
theorem witness_FilterRecords : TakesRecord (wUnit (wFilt 0x3F000000)) 0 .filt (wFilt 0x3F000000) [] ∧ (wFilt 0).typ ≠ 0 ∧
    ((wFilt 0).word 1).extractLsb' 16 4 = 0 ∧ (wFilt 0).word 7 = 0 ∧ (wRec .filt 1 0 0x10000900 [0, 0, 0, 1]).word 7 ≠ 0 ∧
    (wUnit (wFilt 0x3F000000)).unitRead (wFilt 0x3F000000) 0x10000900 32 32 = .ok (wTexBits 1) ∧
    ((wTexture 1).fmt ≠ 3 ∧ (wTexture 1).dims = 1 ∧ ∀ a < 3, (wTexture 1).mode a ≠ 3 ∧ (wTexture 1).size a ≠ 0) ∧
    (Texture.ofNat 0).dims = 0 ∧ (f32Num ((wFilt 0x7FC00000).word 4)).isNan = true ∧ (f32Num ((wFilt 0xFF800000).word 4)).isInf = true ∧
    ((wTexture 1).base % (wTexture 1).bytes = 0 ∧ (wTexture 0).linear = false ∧ (wTexture 1).linear = true) ∧
    (Texture.ofNat (wTexBits 1 + 2)).base % (Texture.ofNat (wTexBits 1 + 2)).bytes ≠ 0 ∧
    (∃ ch, (wUnit (wFilt 0x3F000000)).texel (wFilt 0x3F000000) (wTexture 1) ((wTexture 1).index 0 1) (some 0) (some 0) = .ok ch) ∧
    (∃ ch, (wUnit (wFilt 0x3F000000)).texel (wFilt 0x3F000000) (wTexture 1) ((wTexture 1).index 0 2) (some 0) (some 0) = .ok ch) ∧
    0 < (wTexture 1).size 0 ∧ (wTexture 1).mode 0 = 1 := by
  unfold TakesRecord
  refine ⟨?_, ?_, ?_, ?_, ?_, ?_, ?_, ?_, ?_, ?_, ?_, ?_, answers _ (by decide +kernel), answers _ (by decide +kernel), ?_, ?_⟩ <;>
    decide +kernel
theorem witness_FilterRecords_weight : FNum.rat (f32Num 0x3F000000) = ratOf 0x3F000000 * (4 : Nat) - 1 / 2 - ⌊ratOf 0x3F000000 * (4 : Nat) - 1 / 2⌋ ∧
    ⌊ratOf 0x3F000000 * (4 : Nat) - 1 / 2⌋ = 1 ∧ (f32Num 0x3F000000).isNan = false ∧ (f32Num 0x3F000000).sign = false := by
  have h : ratOf 0x3F000000 = 1 / 2 := by decide +kernel
  have h2 : ⌊ratOf 0x3F000000 * (4 : Nat) - 1 / 2⌋ = 1 := by rw [h]; norm_num
  refine ⟨?_, h2, by decide +kernel, by decide +kernel⟩
  rw [h2]
  show ratOf 0x3F000000 = _
  rw [h]; norm_num
/-- A ray record from (1/4, 1/4, 0) along +z, or another direction, on a hierarchy or a collection; and a box record. -/
def wRayRec (typ ia : Nat) (ox dz tmin : Word) : Call :=
  wRec .trav typ 0 ia [ox, 0x3E800000, 0, tmin, 0, 0, dz, 0x7F7FFFFF]
def wBox (hi : Word) : Call := wRec .trav 3 0 0x10004000 [0, 0x00010000, hi]
theorem witness_TraversalRecords : TakesRecord (wUnit (wRayRec 1 0x10000A00 0x3E800000 0x3F800000 0)) 0 .trav
      (wRayRec 1 0x10000A00 0x3E800000 0x3F800000 0) [] ∧ ((wRayRec 1 0x10000A00 0 0 0).word 1).extractLsb' 16 4 = 0 ∧
    (wRayRec 1 0x10000A00 0x3E800000 0x3F800000 0).zeros 12 15 = true ∧ (wRec .trav 1 0 0 (List.replicate 9 1)).zeros 12 15 = false ∧
    (f32Num ((wRayRec 1 0 0x7FC00000 0 0).word 4)).isNan = true ∧ (f32Num ((wRayRec 1 0 0x7F800000 0 0).word 4)).isInf = true ∧
    (∀ a < 3, (f32Num ((wRayRec 1 0 0 0 0).word (8 + a))).isZero = true) ∧ (f32Num ((wRayRec 1 0 0 0 0x7FC00000).word 7)).isNan = true ∧
    ((∀ a < 3, (f32Num ((wRayRec 1 0x10000A00 0x3E800000 0x3F800000 0).word (4 + a))).isNan = false ∧
        (f32Num ((wRayRec 1 0x10000A00 0x3E800000 0x3F800000 0).word (4 + a))).isInf = false) ∧
      (f32Num ((wRayRec 1 0x10000A00 0x3E800000 0x3F800000 0).word 10)).isZero = false ∧
      ¬0 < (f32Num ((wRayRec 1 0x10000A00 0x3E800000 0x3F800000 0).word 7)).cmp
        (f32Num ((wRayRec 1 0x10000A00 0x3E800000 0x3F800000 0).word 11))) ∧
    (let x := wRayRec 1 0x10000A00 0x3E800000 0x3F800000 0
     (wUnit x).unitRead x 0x10000A00 32 1 = .ok wTreeBits ∧ (wUnit x).unitRead x 0x10000B00 32 32 = .ok (2 ^ 223 + 2 * 2 ^ 224) ∧
      (match (wUnit x).testTri x (Hierarchy.ofNat wTreeBits) 1 with | .ok (.hit t _ _ i _) => decide (i = 1 ∧ t.num = t.den) | _ => false) =
        true ∧
      (match (wUnit x).testTri x (Hierarchy.ofNat wTreeBits) 0, (wUnit x).testTri x (Hierarchy.ofNat wTreeBits) 1 with
        | .ok (.hit t _ _ _ _), .ok (.hit t1 _ _ _ _) => t1.lt t | _, _ => false) = true) ∧
    (let x := wRayRec 1 0x10000A00 0x41200000 0x3F800000 0
     ∀ i < 2, (wUnit x).testTri x (Hierarchy.ofNat wTreeBits) i = .ok .miss) ∧
    ((Hierarchy.ofNat (wTreeBits + 2 ^ 64 * 0 + 8)).nodes % 32 ≠ 0 ∧ (Hierarchy.ofNat wTreeBits).triCount < 0 + 3) := by
  unfold TakesRecord; and_intros <;> decide +kernel
theorem witness_TraversalRecords_cells :
    (let x := wRayRec 2 0x10004000 0x3E800000 0x3F800000 0
     (match State.openColl { wUnit x with freeCtr := (wUnit x).freeCtr + 1 } x.base 0x10004000 with
      | .ok c => decide (c.k % 3 = 0 ∧ c.elems = [(0, 1), (1, 9), (7, 2)]) && (x.ray.entersCell c.k 0).isSome &&
          !(x.ray.entersCell c.k 7).isSome
      | .error _ => false) = true) ∧
    ((wBox 1).zeros 7 15 = true ∧ (wRec .trav 3 0 0 [0, 0, 0, 1]).zeros 7 15 = false ∧ (wBox 1).typ = 3) ∧
    (match State.openColl { wUnit (wBox 0x00010001) with freeCtr := (wUnit (wBox 0x00010001)).freeCtr + 1 } (wBox 0x00010001).base
      0x10004000 with | .ok _ => true | .error _ => false) = true := by
  and_intros <;> decide +kernel

/-- The demo device in a tile section's operands, with some sections. -/
def wSect (w : Word) (xs : List Section) : State := demoWith fun gr => { (gr.setG 100 5).setG 101 w with sections := xs, sect := 3 }
def wSection (held : Bool) : Section := ⟨5, 0x03002001, held, some 0⟩
/-- The turn that a section asks for, and cluster 0 with it, another turn of its stream and tile standing before it or none. -/
def wSectTurn : Turn := sectTurn 1 demo.nextKey 5 0x03002001
def wBefore (ts : List Turn) : State :=
  let c := { demo.cluster 0 with turns := ts, chimes := (demo.cluster 0).chimes.set 3 ⟨7, 5, []⟩ }
  { wSect 0x03002001 [] with clusters := demo.clusters.set 0 c }
def wAsked (ts : List Turn) : Cluster :=
  Cluster.settle { (wBefore ts).cluster 0 with turns := ((wBefore ts).cluster 0).turns ++ [wSectTurn] } wSectTurn.stream 5

theorem witness_TileSections : Enabled (wSect 0x03002001 []) 7 [100, 101] ∧ (wSect 0x03002001 []).cur.core < 192 ∧
    (uval (wSect 0x13002001 []) 101).extractLsb' 28 4 ≠ 0 ∧ (uval (wSect 0x03002001 []) 101).extractLsb' 28 4 = 0 ∧
    4 ≤ (wSect 0x03002001 (List.replicate 4 ⟨1, 2, true, none⟩)).cur.sections.length ∧
    ((wBefore []).cluster 0).findSect (wBefore []).cur.key 5 0x03002001 = none ∧
    (wAsked []).mayBegin 0 wSectTurn = true ∧ (wAsked [{ wSectTurn with token := 4 }]).mayBegin 1 wSectTurn = false ∧
    (wSect 0x03002001 [wSection true]).cur.sections.find? (fun x => x.token == 5 && x.b == 0x03002001) = some (wSection true) ∧
    (wSect 0x03002001 [wSection true]).releasable allObs = true ∧
    { wSect 0x03002001 [wSection true] with
      cur := { (wSect 0x03002001 [wSection true]).cur with horizon := #v[9, 0, 0, 0, 0, 0] } }.releasable allObs = false := by
  and_intros <;> decide +kernel
/-- A group waiting for its turn since time 0, at a later time. -/
def wOverdue : State :=
  { wSect 0x03002001 [wSection false] with cur := { (wSect 0x03002001 [wSection false]).cur with wait := .again .turn }, now := 3001 }
theorem witness_TileSections_timeout : Focused wOverdue 1 ∧ wOverdue.cur.wait = .again .turn ∧ wOverdue.partHalted 0 = false ∧
    wOverdue.cur.sect.toNat % 2 ^ 20 * 1000 ≠ 0 ∧ wSection false ∈ wOverdue.cur.sections ∧ (wSection false).held = false ∧
    0 + wOverdue.cur.sect.toNat % 2 ^ 20 * 1000 < wOverdue.now := by and_intros <;> decide +kernel

/-- A consumer of batches of four with a ring of eight entries, and its partition at a time. -/
def wConsumer (held : List (Nat × Nat)) : Consumer := ⟨2, 4, 4, 8, 0x4000, 0x6000, 3, held, []⟩
def wFive : List (Nat × Nat) := (List.range 5).map fun i => (i + 5, 0)
def wConsumers (held : List (Nat × Nat)) (now : Nat) : State :=
  { poke demo 0x6000 (leBytes 128 (0x2000 + 0x123 * 2 ^ 128)) with parts := [{ demoPart with consumers := [wConsumer held] }], now := now }
theorem witness_SpillAndConsumers : Focused demo 1 ∧ 3 < 16 ∧ (demo.cur.port 3).elems.length ≤ 256 ∧ 0 < 48 ∧
    ((demo.cluster 0).queue .rast).length ≤ 256 := by and_intros <;> decide +kernel
theorem witness_SpillAndConsumers_consumer :
    (wConsumers wFive 10).part? 0 = some { demoPart with consumers := [wConsumer wFive] } ∧
    ([wConsumer wFive].find? fun c => c.n == 2) = some (wConsumer wFive) ∧
    (∃ bs, (wConsumers wFive 10).readIA 0 (wConsumer wFive).tmpl 128 = .ok bs) ∧
    (wConsumer wFive).batch ≤ (wConsumer wFive).held.length ∧ (∀ h ∈ (wConsumer wFive).held.take 4, h.2 ≤ (wConsumers wFive 10).now) ∧
    (wConsumer wFive).ringcap < 2 ^ 32 ∧ (wConsumer wFive).tail < (wConsumer wFive).ringcap ∧
    (wConsumer wFive).held.length ≤ (wConsumer wFive).ringcap ∧
    (∃ h, (wConsumer [(5, 0)]).held.head? = some h ∧ h.1 + 10000 ≤ (wConsumers [(5, 0)] 10005).now) ∧
    ¬((wConsumer [(5, 0)]).batch ≤ (wConsumer [(5, 0)]).held.length ∨
      ∃ h, (wConsumer [(5, 0)]).held.head? = some h ∧ h.1 + 10000 ≤ (wConsumers [(5, 0)] 10004).now) := by
  refine ⟨?_, ?_, answers _ (by decide +kernel), ?_, ?_, ?_, ?_, ?_, ⟨(5, 0), rfl, ?_⟩, ?_⟩
  case refine_9 => simp [wConsumer, wConsumers]
  all_goals decide +kernel

/-- A launch entry of two groups a cohort, over a word of extra fields, and its launch. -/
def wEntry (f : Nat) : BitVec 1024 := BitVec.ofNat 1024 (0x2000 + 0x10000000 * 2 ^ 64 + 0x123 * 2 ^ 128 + 3 * 2 ^ 160 + 2 * 2 ^ 192 +
  1 * 2 ^ 208 + 1 * 2 ^ 226 + 4 * 2 ^ 230 + 8 * 2 ^ 237 + 16 * 2 ^ 256 + 8 * 2 ^ 280 + 0x10001000 * 2 ^ 320 + 7 * 2 ^ 512 + f)
def wLaunch (pre : Nat) (el : Bool) (e : BitVec 1024) : Launch := ⟨70, 0, e, 0x80, BitVec.ofNat 256 pre, el, 0, none, false, 0, 0, true, none⟩
/-- A launch of no group, and one whose first cohort is too wide for a slot's tiles. -/
def wNone : Launch := wLaunch 0 true (BitVec.ofNat 1024 ((wEntry 0).toNat - 3 * 2 ^ 160))
def wWide : Launch := wLaunch 0 true (BitVec.ofNat 1024 ((wEntry 0).toNat + 60 * 2 ^ 230))
/-- A launch skipped at time 0. -/
def wSkipped : Launch := { wLaunch 0 true (wEntry 0) with skipped := some 0 }
/-- A precondition on the word at 0x100. -/
def wPre (rel v : Nat) : Launch := wLaunch (rel + 0x100 * 2 ^ 128 + v * 2 ^ 64) false (wEntry 0)
/-- The root resource block of the launches, and the demo device with no group and one launch. -/
def wRoot : List Byte := leBytes 128 ((2 ^ 9 - 1) * 2 ^ 64 + (2 ^ 64 - 1) * 2 ^ 128 + 0xFFFF * 2 ^ 192 + 100 * 2 ^ 256 + 1 * 2 ^ 270 +
  0x4000 * 2 ^ 320 + 0x8000 * 2 ^ 384 + 0x9000 * 2 ^ 448)
def wQueued (l : Launch) (now : Nat) : State :=
  { poke { demo with cur := Group.idle, cohorts := [] } 0x2000 wRoot with launches := [l], now := now }
/-- What is no wait and no fault is a value. -/
theorem reads (x : WordRead) (h : (match x with | .value _ => true | _ => false) = true) : ∃ v, x = .value v := by
  cases x <;> simp_all
theorem witness_LaunchQueue : (wQueued (wPre 1 9) 0).launch? 0 70 = some (wPre 1 9) ∧ (wPre 1 9).eligible = false ∧
    (∃ x, (wPre 1 9).read (wQueued (wPre 1 9) 0) = .value x) ∧ (wQueued wNone 0).launch? 0 70 = some wNone ∧
    (wQueued wNone 0).part? 0 = some demoPart ∧ wNone.pending = true ∧ (wQueued wNone 0).refusal demoPart wNone = some 1 ∧
    wNone.eligible = true ∧ launchTotal wNone.entry = 0 ∧ launchTotal wWide.entry = 6 ∧
    64 < fieldN wWide.entry 236 230 * (fieldN wWide.entry 229 226 + 1) ∧ wSkipped.skipped = some 0 := by
  refine ⟨?_, ?_, reads _ (by decide +kernel), ?_, ?_, ?_, ?_, ?_, ?_, ?_, ?_, ?_⟩ <;> decide +kernel
theorem witness_LaunchQueue_chain : (∃ c, (wQueued wNone 0).launchChain wNone = .ok c) ∧
    ((wQueued wNone 0).launchChain wNone).toOption.any (fun c => (effective c 6 371 320).isSome) = true :=
  ⟨answers _ (by decide +kernel), by decide +kernel⟩
/-- A launch before the dispatcher reads its chain, and after; its head cohort, and the chain of that. -/
def wDispatch : State := wQueued (wLaunch 0 true (wEntry 0)) 0
def wRead : State := wDispatch.readChains demoPart
def wHead : Candidate := (wRead.candidates demoPart).getD 0 ⟨wNone, 0, none⟩
def wChain : List (Nat × BitVec 1024) := wHead.chain.getD []
/-- A list of one entry is that entry. -/
theorem single {α : Type} (l : List α) (d : α) (h : l.length = 1) : l = [l.getD 0 d] := by
  match l, h with
  | [a], _ => rfl
theorem witness_LaunchDispatch : wDispatch.part? 0 = some demoPart ∧ demoPart.halted = false ∧ wRead.candidates demoPart = [wHead] ∧
    wHead.chain = some wChain ∧ wRead.withinBudget 0 2 16 true wChain = true ∧ (wRead.fitAny demoPart wHead.launch.entry).isSome = true ∧
    (∃ r, wRead.loadRanges 0 ((effective wChain 8 499 448).getD 0) = .ok r) := by
  refine ⟨?_, ?_, single _ _ (by decide +kernel), ?_, ?_, ?_, answers _ (by decide +kernel)⟩ <;> decide +kernel
/-- Every tile of the cluster's cores is another group's; a launch whose cohorts need tiles comes before one whose cohorts need none. -/
def wPassing (reserved : Bool) : State :=
  { wQueued { wLaunch 0 true (wEntry 0) with reserved := reserved } 0 with
    others := (List.range 4).map fun c => { demoGroup with key := 20 + c, core := c }
    launches := [{ wLaunch 0 true (wEntry 0) with reserved := reserved },
      { wLaunch 0 true (BitVec.ofNat 1024 ((wEntry 0).toNat - 4 * 2 ^ 230)) with key := 71 }] }
def wPassingRead (reserved : Bool) : State := (wPassing reserved).readChains demoPart
/-- Its candidates. -/
def wCand (reserved : Bool) (i : Nat) : Candidate := ((wPassingRead reserved).candidates demoPart).getD i ⟨wNone, 0, none⟩
/-- A list of two entries is those entries. -/
theorem double {α : Type} (l : List α) (d : α) (h : l.length = 2) : l = [l.getD 0 d] ++ l.getD 1 d :: [] := by
  match l, h with
  | [a, b], _ => rfl
theorem witness_LaunchDispatch_passing : (wPassing false).part? 0 = some demoPart ∧
    (∀ b, (wPassingRead b).candidates demoPart = [wCand b 0] ++ wCand b 1 :: []) ∧
    (∀ b, (wCand b 0).chain ≠ none ∧ (wCand b 0).launch.reserved = b ∧ ((wPassingRead b).fitAny demoPart (wCand b 0).launch.entry).isSome = false) ∧
    (wCand false 0).launch.key ≠ (wCand false 1).launch.key ∧ (wCand false 1).chain.isSome = true ∧
    (wPassingRead false).withinBudget 0 2 16 true ((wCand false 1).chain.getD []) = true ∧
    ((wPassingRead false).fitAny demoPart (wCand false 1).launch.entry).isSome = true := by
  refine ⟨?_, fun b => double _ _ (by cases b <;> decide +kernel), ?_, ?_, ?_, ?_, ?_⟩
  · decide +kernel
  · have h : ∀ b, (wCand b 0).chain.isSome = true ∧ (wCand b 0).launch.reserved = b ∧
        ((wPassingRead b).fitAny demoPart (wCand b 0).launch.entry).isSome = false := by decide +kernel
    exact fun b => ⟨fun e => by simpa [e] using (h b).1, (h b).2⟩
  all_goals decide +kernel

/-- The demo device with tile configurations, tiles, a companding table and copy commands, and a second group on core 2. -/
def wPreempt : State :=
  { demo with
    tileCfg := [(0, 0x8084), (70, 0x8084)], tiles := (List.range 10).map fun i => (i, BitVec.ofNat 8 (i * 5 + 1))
    compand := [(3, some 0x3F000000)], copySlots := [(3, ⟨7, none, 0x55⟩), (70, ⟨2, some wCmd, 0⟩)]
    others := [{ demoGroup with key := 5, octet := 1, gid := 1, core := 2, wait := .bar, agedAt := some 3 }] }
theorem witness_PreemptionAndRestoration : wPreempt.part? 0 = some demoPart ∧ demoPart.halted = false ∧
    wPreempt.settled demoPart = true ∧ (wPreempt.groups.map (·.key)).Nodup ∧ (∀ gr ∈ wPreempt.saved, gr.part ≠ 0) ∧
    (∀ gr ∈ wPreempt.groups, gr.part = 0 → gr.pushes = [] ∧ gr.pushesLeft = false ∧ gr.returns = [] ∧
      (∀ it ∈ gr.iters.toList, it.spilled = false ∧ (it.opened = true → it.buf = [])) ∧ demoPart.hasCore gr.core = true ∧
      (PartKind.core, gr.core) ∉ wPreempt.fenced ∧ gr.late = [] ∧ wPreempt.imagePages gr false = [] ∧
      demoPart.hasShare gr.stgFirst gr.stgLines = true) ∧ wPreempt.groups.length = 2 ∧
    runs (.preempt 0) wPreempt (fun t => t.saved.length == 2 && t.saved.all fun gr => (t.imagePages gr true).isEmpty) = true ∧
    SMap.wf 0 wPreempt.tileCfg = true ∧ Memory.wf wPreempt.tiles = true ∧ SMap.wf none wPreempt.compand = true ∧
    SMap.wf EngSlot.idle wPreempt.copySlots = true ∧ SMap.wf none wPreempt.shadowStore = true ∧
    (∃ k < 12, demoPart.clusters.getLsbD (12 * 0 + k) = true) ∧
    (∀ n < 48, demoPart.clusters.getLsbD n = true → ((wPreempt.cluster n).queues.toList.all fun q => q.isEmpty) = true) := by
  and_intros <;> decide +kernel
theorem witness_IssueCycle : Focused { demo with cycle := 100000 } 1 ∧ demo.cur.ready = true ∧ demo.cur.agedAt = none ∧
    max (demo.cur.lastIssue.getD 0) demo.cur.since + State.ageLimit { demo with cycle := 100000 } 0 0 ≤ 100000 ∧
    0 < max (demo.cur.lastIssue.getD 0) demo.cur.since + demo.ageLimit 0 0 ∧ demo.ranking 0 0 = [demoGroup] ∧
    (demoGroup ∈ demo.groups ∧ demoGroup.core = 0 ∧ demoGroup.slot = 0) ∧
    (demoWith fun gr => { gr with wait := .again .order }).cur.ready = false ∧
    (demoWith fun gr => { gr with wait := .again .order }).ranking 0 0 = [] := by
  and_intros <;> decide +kernel
/-- Six groups of one octet each with a lane instruction at their PC, two of them on one octet; and two uniform ones. -/
def wSlot (code : Nat) (octets : List Nat) : State :=
  { demo with
    cur := Group.idle, stage := writeBytes [] 0 (leBytes 4 code)
    others := (octets.zipIdx).map fun o => { demoGroup with key := 10 + o.2, octet := o.1, gid := BitVec.ofNat 4 o.2 } }
theorem witness_IssueCycle_places :
    ((wSlot 0x00E0C080 [0, 0, 1, 2, 3, 4]).ranking 0 0).map (fun gr => (wSlot 0x00E0C080 [0, 0, 1, 2, 3, 4]).nextIsLane gr.key) =
      List.replicate 6 (some true) ∧
    ((wSlot 0x91E0000D [0, 1]).ranking 0 0).map (fun gr => (wSlot 0x91E0000D [0, 1]).nextIsLane gr.key) = [some false, some false] := by
  and_intros <;> decide +kernel

/-- The demo device with its group waiting, at a time. -/
def wWaiting (w : Wait) (now : Nat) : State := { demo with cur := { demoGroup with wait := w }, now := now }
/-- The demo group and a second one at its cohort's barrier, of whom some have arrived. -/
def wCohort (arrived : List Nat) : Cohort := ⟨1, 1, 0, 0, 0, [1, 5], arrived, 0, 512⟩
def wBarrier (arrived : List Nat) : State :=
  { demo with others := [{ demoGroup with key := 5, octet := 1, wait := .bar }], cohorts := [wCohort arrived] }
theorem witness_WaitsAndRecords : Focused (wWaiting (.sleep 7) 7) 1 ∧ 7 ≤ (wWaiting (.sleep 7) 7).now ∧
    (wWaiting (.sleep 7) 6).now < 7 ∧ (Focused (wWaiting (.parked [5]) 6) 1 ∧ (wWaiting (.parked [5]) 6).cur.wait = .parked [5] ∧
      (wWaiting (.parked [5]) 6).cur.pendingTrap = none ∧ (wWaiting (.parked [5]) 6).walk 0 5 ≠ .replay ∧
      (wWaiting (.parked [5]) 6).walk 0 5 ≠ .moving ∧ (wWaiting (.parked [2 ^ 30]) 6).walk 0 (2 ^ 30) = .replay) ∧
    (∀ a, (wBarrier a).cohorts.find? (fun x => x.key == (wCohort a).key) = some (wCohort a)) ∧
    (5 ∈ (wCohort [1]).members ∧ 5 ∉ (wCohort [1]).arrived) ∧ (∀ m ∈ (wCohort [1, 5]).members, m ∈ (wCohort [1, 5]).arrived) := by
  refine ⟨?_, ?_, ?_, ?_, fun a => rfl, ?_, ?_⟩ <;> decide +kernel
/-- A fault record, and the demo device with it and an area of 62 records, a peer's copy of a line of it until 77 or none. -/
def wRecord (w : Option Nat) : FaultRec := ⟨0, 0x4000, 0x1234567, w⟩
def wFaults (w : Option Nat) : State := poke { demo with faults := [wRecord w], now := 9 } 0x4000 (leBytes 8 62)
def wLent : State := { wFaults none with replicas := [⟨0x4000 / 128 + 31, .peer, List.replicate 128 0, 5, 1, 77, [], []⟩] }
/-- The place of an access that goes. -/
def wGoes (f : Fate) : Dest := match f with | .go d => d | _ => .stage 0
/-- The place a fate goes to. -/
theorem goes (f : Fate) (h : (match f with | .go _ => true | _ => false) = true) : f = .go (wGoes f) := by
  cases f <;> simp_all [wGoes]
def wCountAt : Dest := wGoes ((wFaults none).areaFate (wRecord none) 0 8 true)
def wRecordAt : Dest := wGoes ((wFaults none).areaFate (wRecord none) (64 + 64 * 62) 64 false)
/-- The same device whose partition's memory ends inside the area, after its count, and a record of an area that is not aligned. -/
def wShort : State := { wFaults none with parts := [{ demoPart with ranges := [(0, 0x4080)] }] }
def wNoArea : FaultRec := ⟨0, 0x4040, 0x1234567, none⟩
theorem witness_WaitsAndRecords_record : (∀ w, (wFaults w).faults[0]? = some (wRecord w)) ∧
    (wFaults none).areaFate (wRecord none) 0 8 true = .go wCountAt ∧
    leNat ((wFaults none).readOwned 0 wCountAt 8) % 63 = 62 ∧
    (wFaults none).areaFate (wRecord none) (64 + 64 * 62) 64 false = .go wRecordAt ∧
    ((wFaults none).writeTimes wRecordAt).toList.foldl Nat.max 0 ≤ (wFaults none).now ∧
    wLent.areaFate (wRecord none) 0 8 true = .go wCountAt ∧ wLent.areaFate (wRecord none) (64 + 64 * 62) 64 false = .go wRecordAt ∧
    wLent.now < (wLent.writeTimes wRecordAt).toList.foldl Nat.max 0 ∧ (wFaults (some 10)).now < 10 ∧ 9 ≤ (wFaults (some 9)).now ∧
    (wFaults (some 9)).areaFate (wRecord (some 9)) 0 8 true = .go wCountAt ∧ (wFaults none).areaFate wNoArea 0 8 true = .trap 4 ∧
    wShort.areaFate (wRecord none) 0 8 true = .go wCountAt ∧ wShort.areaFate (wRecord none) (64 + 64 * 62) 64 false = .trap 4 := by
  refine ⟨fun w => rfl, goes _ (by decide +kernel), ?_, goes _ (by decide +kernel), ?_, ?_, ?_, ?_, ?_, ?_, ?_, ?_, ?_, ?_⟩ <;>
    decide +kernel

/-- A table entry or leaf: its kind, frame, home and state. -/
def wLeaf (kind frame home mig : Nat) : Nat := kind * 2 + frame * 2 ^ 48 + home * 2 ^ 96 + mig * 2 ^ 6
/-- The demo device with a page of 64 KiB at `wIA`: tables at 0x100000, 0x140000, 0x150000 and 0x160000, frame 7, home slice 4. -/
def wPaged (mig : Nat) : State :=
  let m := writeBytes (writeBytes [] 0x100000 (leBytes 16 (wLeaf 1 0x14 0 0))) 0x140000 (leBytes 16 (wLeaf 2 (2 ^ 14) 0 0))
  let m := writeBytes (writeBytes m 0x140010 (leBytes 16 (wLeaf 1 0x15 0 0))) 0x150000 (leBytes 16 (wLeaf 1 0x16 0 0))
  { demo with
    mem := writeBytes (writeBytes m 0x160030 (leBytes 16 (wLeaf 2 7 4 mig))) 0x70000 [1, 2, 3]
    parts := [{ demoPart with root := 0x100000 }] }
/-- Its partition. -/
def wPagedPart : Partition := { demoPart with root := 0x100000 }
def wIA : Nat := 2 ^ 30 + 3 * 65536
/-- The same with no leaf, and a report that waits for it. -/
def wMissing : State :=
  { wPaged 0 with mem := writeBytes (wPaged 0).mem 0x160030 (List.replicate 16 0), out := [.pageFault 0 (wIA + 77)] }
def wLeafEntry : List (Nat × BitVec 128) := [(0x160030, BitVec.ofNat 128 (wLeaf 2 7 4 0))]
/-- The migrating page with a peer's copy of its last line until a time. -/
def wCopied (expiry : Nat) : State :=
  { wPaged 1 with replicas := [⟨(wIA + 65536) / 128 - 1, .peer, List.replicate 128 0, 5, 1, expiry, [], []⟩], now := 7 }
/-- The page with a line at another slice and a hot count due. -/
def wMoved : State := { wPaged 0 with moved := [(wIA / 128, some 9)], hotPending := [(0x160030, 3)] }
theorem witness_PagesAndLines : wMissing.part? 0 = some wPagedPart ∧ OutMsg.pageFault 0 (wIA + 77) ∈ wMissing.out ∧
    OutMsg.pageFault 0 (wIA + 77) ∉ (wPaged 0).out ∧ (wMissing.writeEntries wLeafEntry).walk 0 (wIA + 77) ≠ .replay ∧
    (∀ e ∈ wLeafEntry, e.1 % 16 = 0 ∧ physPresent e.1 = true ∧
      (wMissing.writeEntries wLeafEntry).onWalk (wIA + 77) e.1 4 0 wPagedPart.root = true) ∧
    Memory.wf (wPaged 0).mem = true ∧ (wPaged 0).walk 0 (wIA + 77) = .resident (0x70000 + 77) false 4 65536 0x160030 ∧
    (BitVec.ofNat 52 (wIA + 77)).toNat = wIA + 77 ∧
    ((∀ u ∈ wMissing.usesOf wPagedPart, u ∈ (wMissing.writeEntries wLeafEntry).usesOf wPagedPart) ∧
      ∀ u ∈ (wMissing.writeEntries wLeafEntry).usesOf wPagedPart, u ∉ wMissing.usesOf wPagedPart →
        (wMissing.writeEntries wLeafEntry).useOk 0 u = true) ∧ (wMissing.writeEntries wLeafEntry).walk 0 (wIA + 77) ≠ .moving ∧
    (wPaged 0).alone 0x70000 65536 = true ∧ (∀ gr ∈ (wPaged 0).groups, gr.late = []) ∧ ((wPaged 0).leavesOf 0x70000 65536).map (·.slot) = [0x160030] := by
  and_intros <;> decide +kernel
/-- The page shared in part by a second partition's page of 1 GiB. -/
def wShared : State :=
  { wPaged 0 with
    parts := [wPagedPart, { demoPart with n := 1, root := 0x1A0000 }]
    mem := writeBytes (writeBytes (wPaged 0).mem 0x1A0000 (leBytes 16 (wLeaf 1 0x1B 0 0))) 0x1B0000 (leBytes 16 (wLeaf 2 0 0 0)) }
theorem witness_PagesAndLines_start : Memory.wf (wPaged 0).finishChunks.flushAllLate.mem = true ∧
    wShared.walk 0 (wIA + 77) = .resident (0x70000 + 77) false 4 65536 0x160030 ∧ wShared.alone 0x70000 65536 = false ∧
    Memory.wf wShared.mem = true := by and_intros <;> decide +kernel
theorem witness_PagesAndLines_migration : Memory.wf (wPaged 1).mem = true ∧ (wPaged 1).part? 0 = some wPagedPart ∧
    (wPaged 1).migratingFrom (wIA + 77) 4 0 wPagedPart.root = some (0x160030, 65536, wLeaf 2 7 4 1) ∧
    ((wPaged 1).frameOk (9 * 65536) 65536 false = true ∧ (wPaged 1).frameFree 0x70000 (9 * 65536) 65536 = true ∧
      (wPaged 1).frameFree 0x70000 0x140000 65536 = false) ∧ (PartKind.slice, 5) ∉ (wPaged 1).fenced ∧
    (∃ r ∈ (wCopied 8).replicas, (wIA / 128 ≤ r.line ∧ r.line < wIA / 128 + 512) ∧ (wCopied 8).now < r.expiry) ∧
    (∀ r ∈ (wCopied 7).replicas, r.expiry ≤ (wCopied 7).now) := by
  refine ⟨?_, ?_, ?_, ?_, ?_, ⟨_, List.mem_singleton.mpr rfl, ?_⟩, ?_⟩ <;> decide +kernel
theorem witness_PagesAndLines_lines : wMoved.hotPending[0]? = some (0x160030, 3) ∧ Memory.wf wMoved.mem = true ∧
    wMoved.partOfLine (wIA / 128) = some 0 ∧ wMoved.walk 0 (wIA / 128 * 128) = .resident 0x70000 false 4 65536 0x160030 ∧
    SMap.wf none wMoved.moved = true ∧ (PartKind.slice, 5) ∉ wMoved.fenced ∧ SMap.get none wMoved.moved (wIA / 128) ≠ none ∧
    SMap.wf none { wMoved with l2 := [(wIA / 128, some true)] }.l2 = true ∧
    (SMap.get none { wMoved with l2 := [(wIA / 128, some true)] }.l2 (wIA / 128) ≠ none ∧ wMoved.ownerOf (wIA / 128) = some 9 ∧
      wMoved.l2.length < 32768 ∧ SMap.wf none (wMoved.makeRoom 5).moved = true ∧ ∀ gr ∈ demo.groups, gr.late = []) ∧
    ((wCopied 7).replicas[0]?.any fun r => decide (r.expiry ≤ (wCopied 7).now)) = true ∧
    ((wCopied 8).replicas[0]?.any fun r => decide ((wCopied 8).now < r.expiry)) = true ∧ SMap.wf none demo.poison = true ∧
    physPresent (5 * 128) = true ∧ SMap.get none demo.shadowStore 2 = none ∧
    SMap.get none { demo with shadowStore := [(0, some 0)] }.shadowStore 0 = some 0 := by and_intros <;> decide +kernel

/-- The demo device with its debug port enabled, its group changed. -/
def wDebug (f : Group → Group) : State := { demoWith f with debugOn := true, now := 50, saved := [{ demoGroup with key := 9 }] }
theorem witness_DebugPort : Focused (wDebug id) 1 ∧ (∀ x ∈ (wDebug id).saved, x.key ≠ 1) ∧ demo.debugOn = false ∧
    (wDebug id).debugOn = true ∧ (wDebug id).cur.resume = none ∧ ((wDebug id).debugValue (wDebug id).cur (.ctl 5)).isSome = true ∧
    ((wDebug id).savedPart (wDebug id).cur = none ∧ (63 : Nat) < 64 ∧ (135 : Nat) < 136 ∧ wCmd.item .chunk = some 0 ∧
      (SMap.get EngSlot.idle { wDebug id with copySlots := [(63, ⟨7, some wCmd, 0⟩)] }.copySlots (0 * 64 + 63)).cmd = some wCmd ∧
      SMap.get none { wDebug id with compand := [(135, some 0x3F000000)] }.compand (0 * 136 + 135) = some (0x3F000000 : Word)) ∧
    (wDebug id).cur.pend = 0 ∧ Focused (wDebug fun gr => { gr with pend := 0x8000, halted := true, resume := some 44, drain := some 50 }) 1 ∧
    ((0x8000 : BitVec 16).getLsbD (31 / 2) = true ∧ (0x8000 : BitVec 16).getLsbD (29 / 2) = false) ∧ demoGroup.outstanding = [] := by
  and_intros <;> decide +kernel
/-- A group parked in a load of v5: `ld v5, [s + 0]`, as encoded. -/
def wParkedLoad : Group := { demoGroup with wait := .parked [2 ^ 30], unfinished := some 1, held := (encode (.ld 7 5 (.base 0) 0 .plain true .w 0)).flatMap fun w => leBytes 4 w.toNat }
theorem witness_DebugPort_load : instrOf wParkedLoad.held = .ld 7 5 (.base 0) 0 .plain true .w 0 ∧ wParkedLoad.unfinished ≠ none ∧
    wParkedLoad.outstanding = [5] ∧ (∃ y ∈ wParkedLoad.outstanding, y.toNat = 5) ∧ (∀ y ∈ wParkedLoad.outstanding, y.toNat ≠ 6) ∧
    Focused (wDebug fun _ => wParkedLoad) 1 := by and_intros <;> decide +kernel
theorem witness_BootResetAndPower : { demo with frozen := true, agenda := [.tick 3] }.agenda = Sched.tick 3 :: [] ∧
    Sched.tick 3 ≠ .event .deviceReset ∧ Sched.tick 3 ≠ .event .powerLoss ∧ Sched.tick 3 ≠ .power ∧
    { demo with frozen := true, agenda := [.tick 3] }.frozen = true ∧ demo.booted = true ∧ State.reset.booted = false := by
  refine ⟨rfl, ?_, ?_, ?_, rfl, rfl, rfl⟩ <;> exact Sched.noConfusion

/-- A request, and the demo device with it. -/
def wReq (code : Nat) (source : Source) (words : List Word) : Request :=
  ⟨7, source, code, 0, 99, true, true, Vector.ofFn fun i => words.getD i.val 0, none⟩
def wRequest (q : Request) : State := { poke demo 0x2000 wRcb with requests := [q] }
theorem witness_RequestsAndReplies :
    (∀ code, (wRequest (wReq code (.sys 1) [])).requests.find? (fun x => x.id == 7) = some (wReq code (.sys 1) []) ∧
      (wReq code (.sys 1) []).reply = none ∧ (wReq code (.sys 1) []).grp ≠ none) ∧ (wRequest (wReq 0 (.sys 1) [])).booted = true ∧
    (wRequest (wReq 0 (.sys 1) [])).recovery = false ∧
    (wRequest (wReq 0 (.sys 1) [])).orphan (wReq 0 (.sys 1) []) = false ∧ (wRequest (wReq 0 (.sys 44) [])).orphan (wReq 0 (.sys 44) []) = true ∧
    (21 ∈ List.range 9 ++ [17, 18, 19, 20, 21] ∧ (wReq 16 (.net 1) [5]).arg 0 < 6 ∧ 9 ∉ List.range 9 ++ [16, 17, 18, 19, 20, 21] ∧
      255 ∉ List.range 9 ++ [16, 17, 18, 19, 20, 21]) ∧
    { wRequest (wReq 0 (.sys 1) []) with booted := false }.booted = false ∧ (wReq 16 (.sys 1) []).arg 0 = 0 ∧
    { wRequest (wReq 2 (.sys 1) []) with parts := [] }.part? 0 = none ∧ [1#32, 2, 3].length ≤ 15 ∧
    (wReq 1 (.mailbox 15 15) []).source = .mailbox 15 15 ∧ Memory.wf demo.mailbox = true ∧ demo.hostUp = true := by
  refine ⟨fun code => ⟨rfl, rfl, by simp [wReq, Request.grp]⟩, ?_, ?_, ?_, ?_, ?_, ?_, ?_, ?_, ?_, ?_, ?_, ?_⟩ <;> decide +kernel

theorem witness_ProgramRequests : Asked (wRequest (wReq 0 (.net 1) [])) 7 0 (wReq 0 (.net 1) []) demoPart ∧
    Asked (wRequest (wReq 1 (.net 1) [0x2000, 0, 0, 0])) 7 1 (wReq 1 (.net 1) [0x2000, 0, 0, 0]) demoPart ∧
    (∃ ds, (wRequest (wReq 1 (.net 1) [0x2000, 0, 0, 0])).reqBuffer (wReq 1 (.net 1) [0x2000, 0, 0, 0]) demoPart false 0x2000 128 =
      .ok ds) ∧ (wRequest (wReq 1 (.net 1) [0x2000, 0, 0, 0])).queueLength 0 < 64 ∧
    64 ≤ { demo with launches := List.replicate 64 (wLaunch 0 true 0) }.queueLength 0 ∧
    Asked (wRequest (wReq 3 (.sys 1) [0x10000000])) 7 3 (wReq 3 (.sys 1) [0x10000000]) demoPart ∧
    (∃ ds, (wRequest (wReq 3 (.sys 1) [0x10000000])).reqBuffer (wReq 3 (.sys 1) [0x10000000]) demoPart true 0x10000000 2048 = .ok ds) ∧
    (wRequest (wReq 3 (.sys 1) [0x10000000])).recovery = false ∧
    Asked (wRequest (wReq 4 (.net 1) [5])) 7 4 (wReq 4 (.net 1) [5]) demoPart ∧
    Asked (wRequest (wReq 7 (.net 1) [5, 0, 1])) 7 7 (wReq 7 (.net 1) [5, 0, 1]) demoPart ∧ (wReq 7 (.net 1) [5, 0, 1]).arg 2 ≤ 1 ∧
    (∃ ia, (wRequest (wReq 4 (.net 1) [5])).reqPage (wReq 4 (.net 1) [5]) demoPart 5 = .ok ia) ∧
    (∃ ia, (wRequest (wReq 7 (.net 1) [5, 0, 1])).reqPage (wReq 7 (.net 1) [5, 0, 1]) demoPart 5 = .ok ia) ∧
    (wRequest (wReq 4 (.net 1) [5])).walk 0 5 = .resident (2 ^ 30 + 5) false 0 (2 ^ 30) 0x10000 ∧
    (Asked (wRequest (wReq 4 (.sys 1) [5])) 7 4 (wReq 4 (.sys 1) [5]) demoPart ∧
      ((wRequest (wReq 4 (.sys 1) [5])).reqPage (wReq 4 (.sys 1) [5]) demoPart 5).toOption = some none ∧
      Asked (wRequest (wReq 7 (.sys 1) [5])) 7 7 (wReq 7 (.sys 1) [5]) demoPart) := by
  unfold Asked
  refine ⟨?_, ?_, answers _ (by decide +kernel), ?_, ?_, ?_, answers _ (by decide +kernel), ?_, ?_, ?_, ?_, answers _ (by decide +kernel),
    answers _ (by decide +kernel), ?_, ?_⟩ <;> decide +kernel
/-- The demo device in recovery with no partition, and a request. -/
def wRecovery (q : Request) : State := { wRequest q with recovery := true, parts := [] }
/-- The partition that a request of it is served for. -/
def wNoPart (q : Request) : Partition := ((wRecovery q).reqPart q).getD demoPart
theorem witness_ProgramRequests_recovery : (∀ code ∈ [0, 2, 3, 19], Asked (wRecovery (wReq code (.net 1) [0x10000, 0, 5])) 7 code
      (wReq code (.net 1) [0x10000, 0, 5]) (wNoPart (wReq code (.net 1) [0x10000, 0, 5]))) ∧
    (wRecovery (wReq 3 (.net 1) [0x10000])).physRange 0x10000 2048 = true ∧
    (wRecovery (wReq 19 (.net 1) [0x10000, 0, 5])).physRange 0x10000 5 = true := by
  unfold Asked; and_intros <;> decide +kernel
/-- A region block with a range table at 0x9000, and the demo device with a RELOAD of it and a group of the region. -/
def wReload : State :=
  { poke (wRequest (wReq 5 (.net 1) [0x2000])) 0x2000
      (leBytes 128 ((2 ^ 9 - 1) * 2 ^ 64 + (2 ^ 64 - 1) * 2 ^ 128 + 0xFFFF * 2 ^ 192 + 100 * 2 ^ 256 + 0x9000 * 2 ^ 448)) with
    others := [{ demoGroup with key := 5 }] }
theorem witness_ProgramRequests_more : Asked wReload 7 5 (wReq 5 (.net 1) [0x2000]) demoPart ∧ (wReq 5 (.net 1) [0x2000]).grp = none ∧
    covers demoPart.ranges 0x2000 128 = true ∧
    ((wReload.groups.map (·.key)).Nodup ∧ (∀ x ∈ wReload.groups, x.late = [] ∧ x.pushes = [] ∧ x.pushesLeft = false) ∧
      (∀ x ∈ wReload.groups, x.unfinished = none) ∧ { demoGroup with unfinished := some 4 }.wait = .none) ∧ (∃ c, wReload.rcbChain 0 0x2000 = .ok c) ∧
    (∃ r, wReload.loadRanges 0 ((effective (wReload.rcbChain 0 0x2000).toOption.get! 8 499 448).getD 0) = .ok r) ∧
    Asked (wRequest (wReq 6 (.net 1) [2, 1000000, 0x100])) 7 6 (wReq 6 (.net 1) [2, 1000000, 0x100]) demoPart ∧
    pointExists 2 = true ∧ demoPart.ownsPoint 2 = true ∧ 0 < 1000000 ∧
    (∃ ds, (wRequest (wReq 6 (.net 1) [2, 1000000, 0x100])).reqBuffer (wReq 6 (.net 1) [2, 1000000, 0x100]) demoPart true 0x100 128 =
      .ok ds) ∧ Asked (wRequest (wReq 8 (.sys 1) [5])) 7 8 (wReq 8 (.sys 1) [5]) demoPart ∧
    (wReq 8 (.sys 1) [5]).grp.bind (wRequest (wReq 8 (.sys 1) [5])).holder? = some demoGroup ∧ SMap.wf 0 demo.granted = true ∧
    Asked (wRequest (wReq 8 (.net 1) [5])) 7 8 (wReq 8 (.net 1) [5]) demoPart := by
  unfold Asked
  refine ⟨?_, ?_, ?_, ?_, answers _ (by decide +kernel), answers _ (by decide +kernel), ?_, ?_, ?_, ?_,
    answers _ (by decide +kernel), ?_, ?_, ?_, ?_⟩ <;> decide +kernel

/-- A PARTITION request, and the arguments of a description of partition n with some clusters and ranges. -/
def wAsk (op : Nat) (words : List Word) : Request := wReq 16 (.net 1) (BitVec.ofNat 32 op :: words)
def wDescribe (n clusters count : Word) : List Word := [n, clusters, 0, 2, 0, 0, 0, 0, 0, 0, 0, 0x7000, 0, count, 0]
/-- The demo device with a request and no group. -/
def wIdle (q : Request) : State := { wRequest q with cur := Group.idle, cohorts := [] }
theorem witness_AdministrativeRequests : AskedPart (wIdle (wAsk 0 (wDescribe 3 4 0))) 7 0 (wAsk 0 (wDescribe 3 4 0)) ∧
    (PartDesc.of (wAsk 0 (wDescribe 3 4 0))).ok (wAsk 0 (wDescribe 3 4 0)) = true ∧
    (wIdle (wAsk 0 (wDescribe 3 4 0))).part? 3 = none ∧
    (wIdle (wAsk 0 (wDescribe 3 4 0))).overlaps (PartDesc.of (wAsk 0 (wDescribe 3 4 0))) = false ∧
    (wIdle (wAsk 0 (wDescribe 3 1 0))).overlaps (PartDesc.of (wAsk 0 (wDescribe 3 1 0))) = true ∧
    (wIdle (wAsk 0 (wDescribe 3 4 0))).anyBusy (PartDesc.of (wAsk 0 (wDescribe 3 4 0))).clusters = false ∧
    (∃ r, State.rangeList { wIdle (wAsk 0 (wDescribe 3 4 0)) with parts := (wIdle (wAsk 0 (wDescribe 3 4 0))).parts ++
      [(PartDesc.of (wAsk 0 (wDescribe 3 4 0))).fresh []] } (PartDesc.of (wAsk 0 (wDescribe 3 4 0))) = .ok r) ∧
    AskedPart (wIdle (wAsk 1 (wDescribe 0 1 0))) 7 1 (wAsk 1 (wDescribe 0 1 0)) ∧
    (wIdle (wAsk 1 (wDescribe 0 1 0))).part? (PartDesc.of (wAsk 1 (wDescribe 0 1 0))).n = some demoPart ∧
    (PartDesc.of (wAsk 1 (wDescribe 0 1 0))).ok (wAsk 1 (wDescribe 0 1 0)) = true ∧
    (wIdle (wAsk 1 (wDescribe 0 1 0))).overlaps (PartDesc.of (wAsk 1 (wDescribe 0 1 0))) = false ∧
    (wIdle (wAsk 1 (wDescribe 0 1 0))).anyBusy (demoPart.clusters ^^^ (PartDesc.of (wAsk 1 (wDescribe 0 1 0))).clusters) = false ∧
    (wIdle (wAsk 1 (wDescribe 0 1 0))).sharesIn 0 (demoPart.stageMiB &&& ~~~(PartDesc.of (wAsk 1 (wDescribe 0 1 0))).stageMiB) = false ∧
    (wRequest (wAsk 1 (wDescribe 0 1 0))).sharesIn 0 (demoPart.stageMiB &&& ~~~(PartDesc.of (wAsk 1 (wDescribe 0 1 0))).stageMiB) = true ∧
    (∃ r, (wIdle (wAsk 1 (wDescribe 0 1 0))).rangeList (PartDesc.of (wAsk 1 (wDescribe 0 1 0))) = .ok r) ∧
    (covers [] (PartDesc.of (wAsk 0 (wDescribe 3 4 0))).list (16 * (PartDesc.of (wAsk 0 (wDescribe 3 4 0))).count) = true ∧
      covers demoPart.ranges (PartDesc.of (wAsk 1 (wDescribe 0 1 3))).list (16 * (PartDesc.of (wAsk 1 (wDescribe 0 1 3))).count) = true ∧
      covers [(0, 0x7020)] (PartDesc.of (wAsk 1 (wDescribe 0 1 3))).list (16 * (PartDesc.of (wAsk 1 (wDescribe 0 1 3))).count) =
        false) := by
  unfold AskedPart
  refine ⟨?_, ?_, ?_, ?_, ?_, ?_, answers _ (by decide +kernel), ?_, ?_, ?_, ?_, ?_, ?_, ?_, answers _ (by decide +kernel), ?_⟩ <;>
    decide +kernel
theorem witness_AdministrativeRequests_named : (∀ op < 6, 2 ≤ op → AskedPart (wIdle (wAsk op [0])) 7 op (wAsk op [0]) ∧
      (wIdle (wAsk op [0])).namedPart (wAsk op [0]) = some demoPart) ∧
    (wIdle (wAsk 2 [0])).anyBusy demoPart.clusters = false ∧ (wRequest (wAsk 2 [0])).anyBusy demoPart.clusters = true ∧
    demoPart.halted = false ∧ { demoPart with halted := true }.halted = true ∧
    (∃ ds, (wIdle (wAsk 5 [0])).reqBuffer { wAsk 5 [0] with part := 0 } demoPart true demoPart.rangeIA demoPart.listBytes.length =
      .ok ds) := by
  unfold AskedPart
  refine ⟨?_, ?_, ?_, ?_, rfl, answers _ (by decide +kernel)⟩ <;> decide +kernel
/-- A PEERS and an EXPORTS request of one entry at 0x7000. -/
def wPeers : Request := wReq 20 (.net 1) [0x7000, 0, 1]
def wExports : Request := wReq 21 (.net 1) [0x7000, 0, 1]
def wPeerList : State := poke (wRequest wPeers) 0x7000 (leBytes 32 (0x1234 + 3 * 2 ^ 128))
def wExportList : State := poke (wRequest wExports) 0x7000 (leBytes 16 (0x10000 + 3 * 2 ^ 52 + 2 * 2 ^ 64))
theorem witness_AdministrativeRequests_lists : (∀ code ∈ [17, 18, 19], Asked (wRequest (wReq code (.net 1) [0x7000, 0, 5])) 7 code
      (wReq code (.net 1) [0x7000, 0, 5]) demoPart) ∧
    (∃ bs, (wRequest (wReq 17 (.net 1) [0x7000, 0, 5])).reqRead (wReq 17 (.net 1) [0x7000, 0, 5]) demoPart 0x7000 16256 = .ok bs) ∧
    (∃ bs, (wRequest (wReq 19 (.net 1) [0x7000, 0, 5])).reqRead (wReq 19 (.net 1) [0x7000, 0, 5]) demoPart 0x7000 5 = .ok bs) ∧
    Asked wPeerList 7 20 wPeers demoPart ∧ (∃ bs, wPeerList.reqRead wPeers demoPart 0x7000 32 = .ok bs) ∧
    ((wPeerList.reqRead wPeers demoPart 0x7000 32).toOption.bind fun bs => allSome peerOf (listEntries 32 1 bs)).any
      (fun ps => decide (ps.map (·.1)).Nodup) = true ∧
    Asked wExportList 7 21 wExports demoPart ∧ (∃ bs, wExportList.reqRead wExports demoPart 0x7000 16 = .ok bs) ∧
    ((wExportList.reqRead wExports demoPart 0x7000 16).toOption.bind fun bs => allSome exportOf (listEntries 16 1 bs)).any
      (fun es => es.all fun e => covers demoPart.ranges e.1 e.2.1) = true := by
  unfold Asked
  refine ⟨?_, answers _ (by decide +kernel), answers _ (by decide +kernel), ?_, answers _ (by decide +kernel), ?_, ?_,
    answers _ (by decide +kernel), ?_⟩ <;> decide +kernel

theorem witness_HostLink : demo.hostUp = true ∧ { demo with hostUp := false }.hostUp = false ∧ 0xFFF0 + [1#8, 2].length ≤ 0x10000 ∧
    (0x10000 ≤ 0x1F7FF ∧ 0x1F7FF < 0x20000 ∧ 0x1F7FF % 0x1000 < 0x800 ∧ 0x1F7FF % 128 ≠ 6) ∧
    (∀ r ∈ demo.requests, r.source ≠ .mailbox 15 15) ∧ demo.part? 0 = some demoPart ∧ demo.replicas = [] ∧
    (∀ e ∈ demo.arrivals, requesterOf e ≠ some 0) ∧
    (∃ e ∈ { demo with arrivals := [.hostAccess .control 0x40 (.read 8)] }.arrivals, requesterOf e = some 0) := by
  refine ⟨?_, ?_, ?_, ?_, ?_, ?_, ?_, ?_, ⟨_, List.mem_singleton.mpr rfl, ?_⟩⟩ <;> decide +kernel
/-- The demo device with two exports, the first for reads alone. -/
def wPeer : State := { demo with parts := [{ demoPart with exports := [(0x10000, 0x20000, true, false), (0x40000, 0x10000, true, true)] }] }
theorem witness_PeerLinks : wPeer.part? 0 = some (wPeer.parts.getD 0 demoPart) ∧
    (∃ e ∈ (wPeer.parts.getD 0 demoPart).exports, e.1 ≤ 0x10000 ∧ 0x10000 + 5 ≤ e.1 + e.2.1 ∧ e.2.2.1 = true) ∧
    (∀ e ∈ (wPeer.parts.getD 0 demoPart).exports, ¬(e.1 ≤ 0x2FFFE ∧ 0x2FFFE + 5 ≤ e.1 + e.2.1)) ∧
    (∀ e ∈ (wPeer.parts.getD 0 demoPart).exports, ¬(e.1 ≤ 0x10000 ∧ 0x10000 + 2 ≤ e.1 + e.2.1 ∧ e.2.2.2 = true)) ∧
    wPeer.replicas = [] ∧ (∃ ps, wPeer.outerPlaces 0 false (piecesOf 0x10000 5) = .ok ps) ∧
    (∃ ps, wPeer.outerPlaces 0 true (piecesOf 0x4FFFE 2) = .ok ps) ∧
    (match wPeer.outerPlaces 0 false (piecesOf wIA 5) with | .error (.replay page) => decide (page = wIA) | _ => false) = true ∧
    (∀ e ∈ wPeer.arrivals, requesterOf e ≠ some (0 + 1)) ∧
    (∃ e ∈ { wPeer with arrivals := [.peerAccess 0 5 (.read 8)] }.arrivals, requesterOf e = some (0 + 1)) := by
  refine ⟨?_, ?_, ?_, ?_, ?_, answers _ (by decide +kernel), answers _ (by decide +kernel), ?_, ?_,
    ⟨_, List.mem_singleton.mpr rfl, ?_⟩⟩ <;> decide +kernel
/-- The demo device with a second group on another core and two monitors in a window that ends at 7. -/
def wParts (now : Nat) : State :=
  { demo with
    others := [{ demoGroup with key := 5, core := 2 }], now := now, fenced := [(.port, 7)]
    monitors := [⟨2, some ⟨1, 7, 0, 0, 0, []⟩, none⟩, ⟨3, none, none⟩] }
theorem witness_PartsAndWindows : 7 < partCount .port ∧ (PartKind.port, 7) ∈ (wParts 7).fenced ∧ (PartKind.core, 0) ∉ (wParts 7).fenced ∧
    0 < partCount .core ∧ ((wParts 7).groups.map (·.key)).Nodup ∧ ((wParts 7).groups.map (·.core)) = [0, 2] ∧
    ((wParts 7).monitors[0]?.any fun m => m.point == 2 && m.cur.any fun w => decide (w.stop ≤ (wParts 7).now)) = true ∧
    ((wParts 6).monitors[0]?.any fun m => m.cur.any fun w => decide ((wParts 6).now < w.stop)) = true ∧
    (7 < partCount .slice ∧ 7 < partCount .stack ∧ (PartKind.slice, 7) ∉ (wParts 7).fenced ∧ (PartKind.stack, 7) ∉ (wParts 7).fenced) ∧
    (31 < partCount .channel ∧ (PartKind.channel, 31) ∉ (wParts 7).fenced) ∧
    ((List.range 48).all fun k => ((wParts 7).cluster k).turns.isEmpty && ((wParts 7).cluster k).queues.toList.all (·.isEmpty) &&
      ((wParts 7).cluster k).rings.toList.all (·.isEmpty)) = true := by
  and_intros <;> decide +kernel
/-- A slice and a stack that fail: a changed line at slice 9 with no other copy, and a line of stack 0 that the L2 holds. -/
def wHeld : State := { wMoved with l2 := [(wIA / 128, some true)] }
theorem witness_PartsAndWindows_lines : SMap.wf none wHeld.moved = true ∧ SMap.wf none wHeld.l2 = true ∧ SMap.wf none wHeld.poison = true ∧
    (SMap.get none wHeld.moved (wIA / 128) = some 9 ∧ wHeld.partOfLine (wIA / 128) ≠ none) ∧
    (wHeld.flushAllLate.ownerOf (wIA / 128) = some 9 ∧ SMap.get none wHeld.flushAllLate.l2 (wIA / 128) = some true ∧
      wHeld.flushAllLate.copied (wIA / 128) = false ∧ wHeld.flushAllLate.physLine (wIA / 128) = some (0x70000 / 128)) ∧
    (0x70000 / 128 * 128 < 0x8000000000 ∧ 0x70000 / 128 * 128 / 0x1000000000 = 0 ∧ SMap.get none wHeld.flushAllLate.poison (0x70000 / 128) = none) ∧
    ((List.range 48).all fun k => (wHeld.flushAllLate.cluster k).turns.isEmpty && (wHeld.flushAllLate.cluster k).queues.toList.all (·.isEmpty) &&
      (wHeld.flushAllLate.cluster k).rings.toList.all (·.isEmpty)) = true ∧ (∀ p ∈ wHeld.flushAllLate.parts, p.shadow.clusters = []) := by
  and_intros <;> decide +kernel

theorem witness_LaneFrame : Instr.add 7 3 1 2 ∈ [Instr.add 7 3 1 2, .sub 7 3 1 2] ∧
    (∃ t, exec (.add 7 3 1 2) (withLanes 1 (fun _ => 5) fun _ => 6) = .next t) ∧
    ([.fadd 7 3 1 2, .ffmaX 7 4 1 2 6 .f64 .rne, .cvt 7 3 1 .f32 .i32 .rne, .vdecBitplane 7 4 96 2 3, .xld 7 3 1 0].all fun i =>
      runs i (demoWith fun gr => { gr with xwords := 4 }) fun t => t.cur.live && t.cur.trapc == demo.cur.trapc && t.cur.pendingTrap.isNone) =
      true := ⟨by decide, answered _ (by decide +kernel), by decide +kernel⟩
theorem witness_UniformFrame : Instr.gand 7 100 1 2 ∈ [Instr.gand 7 100 1 2, .gor 7 100 1 2] ∧
    (∃ t, exec (.gand 7 100 1 2) (withLanes 1 (fun _ => 5) fun _ => 6) = .next t) ∧ ctlWide 1 = false ∧ ctlWide 2 = true ∧
    (100#7).getLsbD 0 = false ∧ ∃ t, exec (.gmulD 7 100 2 4) demo = .next t :=
  ⟨by decide, answered _ (by decide +kernel), by decide, by decide, by decide, answered _ (by decide +kernel)⟩
theorem witness_AccessFrame : demo.cur.unfinished = none ∧ demo.cur.pushes = [] ∧ demo.cur.late = [] ∧
    (∃ t, exec (.gst 7 100 (.base 0) 0 .plain true .w 0) demo = .next t) ∧
    runs (.gst 7 100 (.base 0) 0 .plain true .w 0) demo (fun t => t.cur.trapc == demo.cur.trapc) = true ∧
    runs (.st 7 5 (.base 0) 0 .plain true .w 0) demo (fun t => t.cur.trapc == demo.cur.trapc) = true ∧
    runs (.atom 7 5 (.base 0) 0 .plain true false .add 0) demo (fun t => t.cur.trapc == demo.cur.trapc) = true ∧
    runs (.gatom 7 100 (.base 0) 0 .plain true false .add 0) demo (fun t => t.cur.trapc == demo.cur.trapc) = true ∧
    runs (.ld 7 5 (.base 0) 0 .plain true .w 0) demo (fun t => t.cur.trapc == demo.cur.trapc) = true := by
  refine ⟨rfl, rfl, rfl, answered _ (by decide +kernel), ?_, ?_, ?_, ?_, ?_⟩ <;> decide +kernel
/-- An issue opportunity of a group whose code is some words. -/
def wIssuing (code : Nat) : State :=
  { demo with
    agenda := [.issue 5 false false], stage := writeBytes [] 0 (leBytes 8 code)
    others := [{ demoGroup with key := 5, octet := 1, ranges := [⟨true, 3, true, true, true, 1, 0, stageWindow, 0⟩] }] }
/-- The group of `wIssuing`. -/
def wIssuer : Group := { demoGroup with key := 5, octet := 1, ranges := [⟨true, 3, true, true, true, 1, 0, stageWindow, 0⟩] }
theorem witness_StepRunsDecoded : (∀ w, (wIssuing w).agenda = .issue 5 false false :: []) ∧ (wIssuing 0).frozen = false ∧
    (wIssuing 0).powered = true ∧ { wIssuing 0 with agenda := [] }.group? 5 = some wIssuer ∧ wIssuer.issuable = true ∧
    wIssuer.atJoin = none ∧ wIssuer.switchDue false = false ∧
    (State.prepare { wIssuing 0x98E00000 with agenda := [] } 5 false false).fetchWord 0 = .ok (leBytes 4 0x98E00000) ∧
    (leBytes 4 0x98E00000).getD 3 0 &&& 0x40 = 0 ∧ decodeBytes (leBytes 4 0x98E00000) = .ok (.yield 7) ∧
    (State.prepare { wIssuing 0x1388D9E00000 with agenda := [] } 5 false false).fetchWord 0 = .ok (leBytes 4 0xD9E00000) ∧
    (State.prepare { wIssuing 0x1388D9E00000 with agenda := [] } 5 false false).fetchWord 1 = .ok (leBytes 4 0x1388) ∧
    decodeBytes (leBytes 4 0xD9E00000 ++ leBytes 4 0x1388) = .ok (.sleepLong 7 5000) ∧ wIssuer.held = [] ∧ wIssuer.pushes = [] ∧ wIssuer.late = [] ∧
    { wIssuer with held := leBytes 4 0x98E00000 }.held ≠ [] ∧ demo.absent = [] := by
  refine ⟨fun w => rfl, ?_, ?_, ?_, ?_, ?_, ?_, ?_, ?_, ?_, ?_, ?_, ?_, ?_, ?_, ?_, ?_, ?_⟩ <;> decide +kernel
theorem witness_DecodeOfEncode : encode (.yield 7) ≠ [] ∧ (Instr.yield 7).wellFormed = true := by decide +kernel
theorem witness_CanonicalMemoryKept : Canonical State.reset ∧ Canonical demo ∧ ∃ t, step State.reset = .next t :=
  ⟨by unfold Canonical; decide +kernel, by unfold Canonical; decide +kernel, answered _ (by decide +kernel)⟩

end Sys2Proof.Tests
end

section

/-!
PROOFS. The execution model: what retirement changes, branches and reconvergence, waits of a group, the extended registers, control
registers, the life of groups, and the launch queue.
-/

namespace Sys2Proof.Execution
open Sys2Proof Sys2Proof.Machine Sys2Proof.Claims

/-! ### Charging issue cycles (R29, R303) -/

/-- The charges of some regions after one issue cycle, once a cycle each: the cycles of their last charges, and the cycles charged. -/
def chargeAll (cycle : Nat) (rs : List Nat) (x : SMap Nat × SMap Nat) : SMap Nat × SMap Nat :=
  rs.foldl (fun x r => if SMap.get 0 x.1 r = cycle + 1 then x
    else (SMap.set 0 x.1 r (cycle + 1), SMap.set 0 x.2 r (SMap.get 0 x.2 r + 1))) x

/-- The state with other charges. -/
def recharge (x : SMap Nat × SMap Nat) (s : State) : State := { s with charged := x.1, cycles := x.2 }

/-- Charging changes the charges alone. -/
theorem chargeCycle_eq (s : State) : s.chargeCycle = recharge (chargeAll s.cycle s.cur.regions (s.charged, s.cycles)) s := by
  unfold State.chargeCycle chargeAll Group.regions
  generalize s.cur.chain.map (regionKey s.cur.part) = rs
  induction rs generalizing s with
  | nil => rfl
  | cons r rs ih =>
    simp only [List.foldl_cons]
    split
    · exact ih s
    · exact ih _

/-- Each region of a list is charged one issue cycle, but for one already charged in this cycle. -/
theorem get_chargeAll (cycle k : Nat) : ∀ (rs : List Nat) (x : SMap Nat × SMap Nat), SMap.wf 0 x.1 = true → SMap.wf 0 x.2 = true →
    (SMap.get 0 (chargeAll cycle rs x).1 k = if k ∈ rs then cycle + 1 else SMap.get 0 x.1 k) ∧
    (SMap.get 0 (chargeAll cycle rs x).2 k =
      if k ∈ rs ∧ SMap.get 0 x.1 k ≠ cycle + 1 then SMap.get 0 x.2 k + 1 else SMap.get 0 x.2 k)
  | [], x, _, _ => by simp [chargeAll]
  | r :: rs, x, hc, hy => by
    by_cases h : SMap.get 0 x.1 r = cycle + 1
    case pos =>
      have hcons : chargeAll cycle (r :: rs) x = chargeAll cycle rs x := by simp [chargeAll, h]
      obtain ⟨ihc, ihy⟩ := get_chargeAll cycle k rs x hc hy
      rw [hcons, ihc, ihy]
      by_cases hk : k = r
      · subst hk; simp [h]
      · simp [hk]
    case neg =>
      let y := (SMap.set 0 x.1 r (cycle + 1), SMap.set 0 x.2 r (SMap.get 0 x.2 r + 1))
      have hcons : chargeAll cycle (r :: rs) x = chargeAll cycle rs y := by simp [chargeAll, h, y]
      obtain ⟨ihc, ihy⟩ := get_chargeAll cycle k rs y (SMap.wf_set 0 _ _ _ hc) (SMap.wf_set 0 _ _ _ hy)
      rw [hcons, ihc, ihy, SMap.get_set_wf 0 _ _ _ _ hc, SMap.get_set_wf 0 _ _ _ _ hy]
      by_cases hk : k = r
      · subst hk; simp [h]
      · simp [hk]

/-- What a charged issue cycle adds (R303): one for each region of the group, once a cycle. -/
theorem get_chargeCycle (s : State) (hc : SMap.wf 0 s.charged = true) (hy : SMap.wf 0 s.cycles = true) (k : Nat) :
    (k ∈ s.cur.regions → SMap.get 0 s.chargeCycle.charged k = s.cycle + 1 ∧ SMap.get 0 s.chargeCycle.cycles k =
      if SMap.get 0 s.charged k = s.cycle + 1 then SMap.get 0 s.cycles k else SMap.get 0 s.cycles k + 1) ∧
    (k ∉ s.cur.regions → SMap.get 0 s.chargeCycle.charged k = SMap.get 0 s.charged k ∧
      SMap.get 0 s.chargeCycle.cycles k = SMap.get 0 s.cycles k) := by
  obtain ⟨h1, h2⟩ := get_chargeAll s.cycle k s.cur.regions (s.charged, s.cycles) hc hy
  rw [chargeCycle_eq]
  dsimp only [recharge]
  rw [h1, h2]
  refine ⟨fun hk => ?_, fun hk => ?_⟩
  · by_cases h : SMap.get 0 s.charged k = s.cycle + 1 <;> simp [hk, h]
  · simp [hk]

/-! ### Path slots (R34) -/

/-- Replacing a slot changes no other field. -/
theorem setSlot_frame (gr : Group) (one : Bool) (p : PathSlot) :
    gr.setSlot one p = { gr with s0 := (gr.setSlot one p).s0, s1 := (gr.setSlot one p).s1 } := by cases one <;> rfl

/-- Moving the issuing path's PC changes that slot alone. -/
theorem setPc_frame (gr : Group) (pc : PC) : gr.setPc pc = { gr with s0 := (gr.setPc pc).s0, s1 := (gr.setPc pc).s1 } :=
  setSlot_frame gr gr.issuing _

theorem setPc_zero {gr : Group} (h : gr.issuing = false) (pc : PC) : gr.setPc pc = { gr with s0 := { gr.s0 with pc := pc } } := by
  simp [Group.setPc, Group.setSlot, Group.path, Group.slotAt, h]

theorem setPc_one {gr : Group} (h : gr.issuing = true) (pc : PC) : gr.setPc pc = { gr with s1 := { gr.s1 with pc := pc } } := by
  simp [Group.setPc, Group.setSlot, Group.path, Group.slotAt, h]

theorem otherPath_setPc (gr : Group) (pc : PC) : (gr.setPc pc).otherPath = gr.otherPath := by
  simp [Group.setPc, Group.otherPath]

/-! ### Retirement (R35, R303, R306) -/

/-- A retirement changes the group in focus and the charges alone. -/
theorem retireWith_kept (s : State) (f : Group → Group) : DeviceKept s (s.retireWith f) := by
  unfold DeviceKept State.retireWith
  rw [chargeCycle_eq]
  rfl

theorem retireTo_kept (s : State) (pc : PC) : DeviceKept s (s.retireTo pc) := retireWith_kept s _

/-- Retirement is bookkeeping: the group's registers, masks and the rest of its paths stay. -/
theorem retireTo_rebook (s : State) (pc : PC) : rebook (s.retireTo pc).cur s.cur = s.cur := by
  rw [State.retireTo_cur]
  cases h : s.cur.issuing
  · rw [setPc_zero (gr := s.cur.issued) h]; rfl
  · rw [setPc_one (gr := s.cur.issued) h]; rfl

@[simp] theorem retireTo_path (s : State) (pc : PC) : (s.retireTo pc).cur.path = { s.cur.path with pc := pc } := by
  rw [State.retireTo_cur]
  exact Group.path_setPc s.cur.issued pc

@[simp] theorem retireTo_otherPath (s : State) (pc : PC) : (s.retireTo pc).cur.otherPath = s.cur.otherPath := by
  rw [State.retireTo_cur]
  exact otherPath_setPc s.cur.issued pc

/-- The bookkeeping of a group whose instruction has issued (R35, R306, R307). -/
theorem retireTo_bookkeeping (s : State) (pc : PC) :
    let t := s.retireTo pc
    t.cur.wait = .none ∧ t.cur.unfinished = none ∧ t.cur.lastIssue = some s.cycle ∧
    t.cur.count = (if s.cur.issuing = s.cur.current then s.cur.count + 1 else s.cur.count) ∧
    t.cur.held = [] ∧ t.cur.watched = [] ∧ t.cur.agedAt = none ∧ t.cur.yielded = false ∧ t.cur.stepping = false ∧
    t.cur.halted = (s.cur.halted || s.cur.stepping) := by
  intro t
  have ht : t.cur = _ := State.retireTo_cur s pc
  rw [ht, setPc_frame]
  exact ⟨rfl, rfl, rfl, rfl, rfl, rfl, rfl, rfl, rfl, rfl⟩

/-- Settles O12: retirement is the group's bookkeeping and one charge of its regions. -/
theorem retirement : Obligations.Retirement := by
  intro s pc
  obtain ⟨hwait, hunf, hlast, hcount, hrest⟩ := retireTo_bookkeeping s pc
  obtain ⟨hheld, hwatched, haged, hyielded, hstepping, hhalted⟩ := hrest
  have hregions : ({ s.cur.issued.setPc pc with lastIssue := some s.cycle } : Group).regions = s.cur.regions := by
    rw [setPc_frame]; rfl
  have hcharge := get_chargeCycle { s with cur := { s.cur.issued.setPc pc with lastIssue := some s.cycle } }
  rw [hregions] at hcharge
  exact ⟨retireTo_kept s pc, retireTo_rebook s pc, retireTo_path s pc, retireTo_otherPath s pc, hwait, hunf, hlast, hcount,
    hheld, hwatched, haged, hyielded, hstepping, hhalted, hcharge⟩

/-! ### Uniform instructions (R81, R132, R192) -/

section
variable {len : Nat} {g : BitVec 3} {srcs : List Reg} {s : State}

/-- A uniform instruction none of whose sources is pending has its effect under a true guard, and else retires. -/
theorem uniDo_ready {f : State → State} (h : s.cur.pendingOn srcs = false) :
    uniDo len g srcs s f = if s.cur.cpred g then f s else s.retire len := by
  rcases uniDo_cases len g srcs s f with ⟨hg, he⟩ | ⟨-, hp, -⟩ | ⟨hg, -, he⟩
  · rw [he, hg]; rfl
  · rw [h] at hp; cases hp
  · rw [he, if_pos hg]

theorem uniDo_enabled {f : State → State} (h : Enabled s g srcs) : uniDo len g srcs s f = f s := uniDo_eq len g srcs s f h.1 h.2

theorem uniExec_ready {f : Group → Group} (h : s.cur.pendingOn srcs = false) :
    uniExec len g srcs s f = (if s.cur.cpred g then s.setCur (f s.cur) else s).retire len := by
  rcases uniExec_cases len g srcs s f with ⟨hg, he⟩ | ⟨-, hp, -⟩ | ⟨hg, -, he⟩
  · rw [he, hg]; rfl
  · rw [h] at hp; cases hp
  · rw [he, if_pos hg]

theorem uniExec_enabled {f : Group → Group} (h : Enabled s g srcs) : uniExec len g srcs s f = (s.setCur (f s.cur)).retire len :=
  uniExec_eq len g srcs s f h.1 h.2

end

/-! ### Branches of the group (R137 to R140) -/

theorem branchTo_ready {len : Nat} {g : BitVec 3} {srcs : List Reg} {s : State} (h : s.cur.pendingOn srcs = false) (dest : PC) :
    branchTo len g srcs s dest = if s.cur.cpred g then s.retireTo dest else s.retire len := uniDo_ready h

theorem uniformBranches : Claims.UniformBranches := by
  intro s g cq a d o18 o21 pc w ha on
  have hnone := Group.pendingOn_nil s.cur
  have htarget : ∀ x : Word, x.setWidth 30 = x.extractLsb' 0 30 := fun x => BitVec.setWidth_eq_extractLsb' (by decide)
  have hlink : ∀ x : PC, x.setWidth 32 = 0#2 ++ x := fun x => BitVec.setWidth_eq_append (by decide)
  refine ⟨?_, ?_, ?_, ?_, ?_, ?_⟩
  · show execBra g cq o18 s = _
    rw [execBra, branchTo_ready hnone]
    cases s.cur.cpred cq
    · rw [Bool.and_false]; rfl
    · rw [Bool.and_true]; rfl
  · exact congrArg Host.Outcome.next (branchTo_ready hnone _)
  · exact congrArg Host.Outcome.next (branchTo_ready hnone _)
  · show execBrx g a s = _
    rw [execBrx, branchTo_ready ha, htarget]
  · show execRet g a s = _
    rw [execRet, branchTo_ready ha, htarget]
  · show execCall g d w s = _
    rw [execCall, uniDo_ready hnone]
    simp only [hlink, htarget]
    rfl

/-! ### What reads and writes of memory leave unchanged -/

/-- Of two states the second differs at most in the lines of the L2 and what is counted and forwarded with them (R164, R171). -/
def L2Kept (s t : State) : Prop := t = { s with l2 := t.l2, hotPending := t.hotPending, moved := t.moved }

/-- Of two states the second differs at most in what a read leaves: the L2, and the marks on copies (R171, R204). -/
def ReadKept (s t : State) : Prop :=
  t = { s with l2 := t.l2, hotPending := t.hotPending, moved := t.moved, replicas := t.replicas, snaps := t.snaps }

/-- Of two states the second differs at most in what a write leaves: bytes, their poison and completion times, the L2, the copies, and
messages to the outside. -/
def WriteKept (s t : State) : Prop :=
  t = { s with
    mem := t.mem, stage := t.stage, poison := t.poison, l2 := t.l2, hotPending := t.hotPending, moved := t.moved
    replicas := t.replicas, snaps := t.snaps, lineTimes := t.lineTimes, peerBytes := t.peerBytes, hostBytes := t.hostBytes, out := t.out }

theorem L2Kept.refl (s : State) : L2Kept s s := rfl
theorem ReadKept.refl (s : State) : ReadKept s s := rfl
theorem WriteKept.refl (s : State) : WriteKept s s := rfl

theorem L2Kept.trans {s t u : State} (h1 : L2Kept s t) (h2 : L2Kept t u) : L2Kept s u :=
  Eq.trans h2 (by rw [h1])
theorem ReadKept.trans {s t u : State} (h1 : ReadKept s t) (h2 : ReadKept t u) : ReadKept s u :=
  Eq.trans h2 (by rw [h1])
theorem WriteKept.trans {s t u : State} (h1 : WriteKept s t) (h2 : WriteKept t u) : WriteKept s u :=
  Eq.trans h2 (by rw [h1])

theorem L2Kept.read {s t : State} (h : L2Kept s t) : ReadKept s t := by
  rw [L2Kept] at h; rw [ReadKept, h]
theorem ReadKept.write {s t : State} (h : ReadKept s t) : WriteKept s t := by
  rw [ReadKept] at h; rw [WriteKept, h]

theorem ReadKept.cur {s t : State} (h : ReadKept s t) : t.cur = s.cur := by rw [h]
theorem WriteKept.cur {s t : State} (h : WriteKept s t) : t.cur = s.cur := by rw [h]
theorem WriteKept.others {s t : State} (h : WriteKept s t) : t.others = s.others := by rw [h]
theorem WriteKept.saved {s t : State} (h : WriteKept s t) : t.saved = s.saved := by rw [h]
theorem WriteKept.cohorts {s t : State} (h : WriteKept s t) : t.cohorts = s.cohorts := by rw [h]
theorem ReadKept.mem {s t : State} (h : ReadKept s t) : t.mem = s.mem := by rw [h]
theorem ReadKept.stage {s t : State} (h : ReadKept s t) : t.stage = s.stage := by rw [h]

/-- A fold over steps each of which keeps a reflexive and transitive relation keeps it. -/
theorem foldl_kept {α β : Type} {R : α → α → Prop} (hrefl : ∀ s, R s s) (htrans : ∀ {s t u}, R s t → R t u → R s u) {f : α → β → α}
    (h : ∀ s x, R s (f s x)) : ∀ (l : List β) (s : α), R s (l.foldl f s)
  | [], s => hrefl s
  | x :: l, s => htrans (h s x) (foldl_kept hrefl htrans h l (f s x))

/-! ### The L2 (R164, R171) -/

theorem countHot_kept (s : State) (part line : Nat) : L2Kept s (s.countHot part line) := by
  unfold State.countHot; split <;> rfl

theorem evictLine_kept (s : State) (part line : Nat) : L2Kept s (s.evictLine part line) := by
  unfold State.evictLine
  dsimp only
  split
  · refine L2Kept.trans ?_ (countHot_kept _ _ _)
    rfl
  · rfl

theorem makeRoom_kept (s : State) (slice : Nat) : L2Kept s (s.makeRoom slice) := by
  unfold State.makeRoom
  dsimp only
  split
  · rfl
  · split
    · rfl
    · split
      · exact evictLine_kept s _ _
      · rfl

theorem touchLine_kept (s : State) (part line : Nat) (wr : Bool) : L2Kept s (s.touchLine part line wr) := by
  unfold State.touchLine
  split
  · split <;> rfl
  · refine L2Kept.trans ?_ (countHot_kept _ _ _)
    split
    case h_1 h _ => exact L2Kept.trans (makeRoom_kept s h.1) rfl
    case h_2 => rfl

theorem touch_kept (s : State) (part : Nat) (d : Dest) (n : Nat) (wr : Bool) : L2Kept s (s.touch part d n wr) :=
  foldl_kept L2Kept.refl L2Kept.trans (fun s line => touchLine_kept s part line wr) _ s

/-! ### Reads -/

theorem markBelow_kept (s : State) (a n reader : Nat) (old : Nat → Bool) : ReadKept s (s.markBelow a n reader old) := rfl

theorem markSeen_kept (s : State) (a n reader : Nat) : ReadKept s (s.markSeen a n reader) := rfl

theorem markCopy_kept (s : State) (a n reader : Nat) (stamp : Option Nat) : ReadKept s (s.markCopy a n reader stamp) := rfl

theorem markRead_kept (s : State) (part : Nat) (d : Dest) (n reader : Nat) : ReadKept s (s.markRead part d n reader) := by
  unfold State.markRead
  have htouch := (touch_kept s part d n false).read
  dsimp only
  split
  · exact htouch
  · exact htouch.trans (foldl_kept ReadKept.refl ReadKept.trans (fun s x => markSeen_kept s _ _ _) _ _)

theorem readAs_kept (s : State) (part : Nat) (d : Dest) (n : Nat) (cls : Obs) (reader : Nat) (served : Bool) :
    ReadKept s (s.readAs part d n cls reader served).2 := by
  unfold State.readAs
  split
  · exact foldl_kept ReadKept.refl ReadKept.trans (fun s x => markCopy_kept s _ _ _ _) _ s
  · exact markRead_kept s part d n reader

/-! ### Writes -/

theorem healByte_kept (s : State) (stage : Bool) (addr : Nat) : WriteKept s (s.healByte stage addr) := by
  unfold State.healByte
  dsimp only
  split <;> rfl

theorem healBytes_kept (stage : Bool) : ∀ (n : Nat) (s : State) (a : Nat), WriteKept s (s.healBytes stage a n)
  | 0, _, _ => rfl
  | n + 1, s, a => (healByte_kept s stage a).trans (healBytes_kept stage n _ (a + 1))

theorem writeDest_kept (s : State) (part : Nat) (d : Dest) (bs : List Byte) (writer : Nat) :
    WriteKept s (s.writeDest part d bs writer) := by
  cases d with
  | paged ia =>
    simp only [State.writeDest]
    split
    case h_1 pa _ _ _ _ _ =>
      generalize h1 : (if s.poison.isEmpty && s.failed.isEmpty then s else s.healBytes false pa bs.length) = s1
      have hheal : WriteKept s s1 := by rw [← h1]; split; exacts [rfl, healBytes_kept _ _ _ _]
      generalize h2 : State.touch _ _ _ _ _ = s2
      have htouch : WriteKept s s2 := by
        rw [← h2]
        refine (hheal.trans ?_).trans (touch_kept { s1 with mem := writeBytes s1.mem pa bs } _ _ _ _).read.write
        rfl
      split
      · exact htouch
      · split
        · exact htouch.trans rfl
        · refine (htouch.trans ?_).trans (markSeen_kept _ _ _ _).write
          rfl
    · rfl
  | stage b =>
    simp only [State.writeDest]
    generalize h1 : (if s.poison.isEmpty then s else s.healBytes true b bs.length) = s1
    have hheal : WriteKept s s1 := by rw [← h1]; split; exacts [rfl, healBytes_kept _ _ _ _]
    split
    · exact hheal.trans rfl
    · refine (hheal.trans ?_).trans (markSeen_kept _ _ _ _).write
      rfl
  | peer q ia => rfl
  | host a => rfl
  | aperture q base off desc => rfl

/-- A report to Carillon is a message. -/
theorem reportFault_kept (s : State) (part ia : Nat) : WriteKept s (s.reportFault part ia) := by
  unfold State.reportFault; split <;> rfl

/-! ### Pushing stack entries (R38, R221) -/

/-- Of two states the second differs at most in what stores of the group in focus leave, and in its trap reserve. -/
def PushKept (s t : State) : Prop :=
  WriteKept { s with cur := { s.cur with reserve := t.cur.reserve, horizon := t.cur.horizon } } t

theorem PushKept.refl (s : State) : PushKept s s := rfl

theorem PushKept.cur {s t : State} (h : PushKept s t) :
    t.cur = { s.cur with reserve := t.cur.reserve, horizon := t.cur.horizon } := WriteKept.cur h

theorem PushKept.trans {s t u : State} (h1 : PushKept s t) (h2 : PushKept t u) : PushKept s u :=
  Eq.trans h2 (by rw [h1])

theorem groupWrite_kept (s : State) (d : Dest) (bs : List Byte) : PushKept s (s.groupWrite d bs) := by
  have h := writeDest_kept s s.cur.part d bs s.cur.key
  unfold State.groupWrite
  generalize s.writeDest s.cur.part d bs s.cur.key = t at h
  rw [WriteKept] at h
  rw [PushKept, WriteKept, h]

theorem pushWrite_kept : ∀ (es : List (BitVec 128)) (s : State) (k : Nat), PushKept s (s.pushWrite k es)
  | [], s, _ => PushKept.refl s
  | e :: es, s, k => by
    rw [State.pushWrite]
    split
    · refine PushKept.trans ?_ (pushWrite_kept es _ (k + 1))
      rfl
    · split
      · exact (groupWrite_kept s _ _).trans (pushWrite_kept es _ (k + 1))
      · exact pushWrite_kept es s (k + 1)

/-- A push raises the depth, and changes of the group nothing but its reserve and its horizons beside. -/
theorem push_cur (s : State) (es : List (BitVec 128)) : (s.push es).cur =
    { s.cur with reserve := (s.push es).cur.reserve, horizon := (s.push es).cur.horizon
                 rvdepth := s.cur.rvdepth + BitVec.ofNat 16 es.length } := by
  have h := (pushWrite_kept es s s.cur.rvdepth.toNat).cur
  unfold State.push
  dsimp only
  generalize (s.pushWrite s.cur.rvdepth.toNat es).cur = gr at h
  rw [h]

theorem pushThen_room {s : State} {len : Nat} {es : List (BitVec 128)} {f : State → State}
    (hroom : s.cur.rvdepth.toNat + es.length ≤ s.cur.rvcap.toNat) (hfate : s.pushFate s.cur.rvdepth.toNat es = none) :
    s.pushThen len es f = f (s.push es) := by
  rw [State.pushThen, if_neg (Nat.not_lt.mpr hroom), hfate]

theorem pushThen_full {s : State} {len : Nat} {es : List (BitVec 128)} {f : State → State}
    (hfull : s.cur.rvcap.toNat < s.cur.rvdepth.toNat + es.length) : s.pushThen len es f = s.stackOverflow len := by
  rw [State.pushThen, if_pos hfull]

/-! ### The divergent branch (R36, R141) -/

/-- The count of a path that has issued while it was current, else a fresh one. -/
theorem issued_count (gr : Group) : (if gr.issuing = gr.current then gr.issued.count else 0) =
    if gr.issuing = gr.current then gr.count + 1 else 0 := by
  by_cases h : gr.issuing = gr.current <;> simp [Group.issued, h]

/-- The slots, the current slot and its count after a divergent branch. -/
theorem diverge_paths (gr : Group) (len : Nat) (taken : Mask) (dest join : PC) :
    let t := gr.diverge len taken dest join
    t.path = ⟨true, gr.path.pc + BitVec.ofNat 30 len, gr.path.mask &&& ~~~taken, join⟩ ∧ t.otherPath = ⟨true, dest, taken, join⟩ ∧
    t.current = gr.issuing ∧ t.count = (if gr.issuing = gr.current then gr.count else 0) ∧ t.rvdepth = gr.rvdepth := by
  unfold Group.diverge Group.makeCurrent Group.setSlot Group.path Group.otherPath Group.slotAt
  cases hi : gr.issuing <;> cases hc : gr.current <;> simp [*]

theorem divergentBranch : Claims.DivergentBranch := by
  intro s g pq o18 jo h hon e t dest join p o es
  have hexec : exec (.braV g pq o18 jo h) s = .next (if e = 0 then s.retire 2 else if t = e then s.retireTo dest
      else if t = 0 then s.retire 2 else s.pushThen 2 es fun u => u.retireWith fun gr => gr.diverge 2 t dest join) :=
    congrArg Host.Outcome.next (uniDo_enabled hon)
  have hsplit : t ≠ 0 → t ≠ e → exec (.braV g pq o18 jo h) s =
      .next (s.pushThen 2 es fun u => u.retireWith fun gr => gr.diverge 2 t dest join) := by
    intro h0 hne
    have he : e ≠ 0 := fun h => h0 (by simp [t, h])
    rw [hexec, if_neg he, if_neg hne, if_neg h0]
  refine ⟨fun he => ?_, fun he ht => ?_, fun he ht => ?_, fun h0 hne hroom hfate => ?_, fun h0 hne hfull => ?_⟩
  · rw [hexec, if_pos he]
  · rw [hexec, if_neg he, if_pos ht]
  · have hne : t ≠ e := fun h => he (h ▸ ht)
    rw [hexec, if_neg he, if_neg hne, if_pos ht]
  · obtain ⟨hpath, hother, hcurrent, hcount, hdepth⟩ := diverge_paths (s.push es).cur.issued 2 t dest join
    have hp : (s.push es).cur.issued.path = p := by rw [push_cur]; rfl
    refine ⟨_, by rw [hsplit h0 hne, pushThen_room hroom hfate], ?_, ?_, ?_, ?_, ?_, State.retireWith_mem _ _, State.retireWith_stage _ _⟩
    all_goals rw [State.retireWith_cur]
    · exact hdepth.trans (by rw [push_cur]; rfl)
    · exact hpath.trans (by rw [hp]; rfl)
    · exact hother
    · exact hcurrent.trans (by rw [push_cur]; rfl)
    · exact hcount.trans (by rw [push_cur]; exact issued_count s.cur)
  · rw [hsplit h0 hne, pushThen_full hfull]; rfl

/-- Settles O13: the branches of the group, and the divergent branch by the cases of its vote. -/
theorem branches : Obligations.Branches := ⟨uniformBranches, divergentBranch⟩

/-! ### Stack entries (R38) -/

theorem stackEntry_fields (k : EntryKind) (join pc : PC) (mask : Mask) :
    (stackEntry k join pc mask).extractLsb' 124 4 = k.code ∧ (stackEntry k join pc mask).extractLsb' 94 30 = join ∧
    (stackEntry k join pc mask).extractLsb' 64 30 = pc ∧ (stackEntry k join pc mask).extractLsb' 0 64 = mask :=
  ⟨(ext_hi _ mask 60 4).trans <| (ext_hi _ pc 30 4).trans <| (ext_hi _ join 0 4).trans (ext_all _),
    (ext_hi _ mask 30 30).trans <| (ext_hi _ pc 0 30).trans (ext_lo _ join),
    (ext_hi _ mask 0 30).trans (ext_lo _ pc), ext_lo _ mask⟩

/-! ### What one push does (R38, R221) -/

theorem push_depth {s : State} (e : BitVec 128) (h : s.cur.rvdepth.toNat + 1 < 2 ^ 16) :
    (s.push [e]).cur.rvdepth.toNat = s.cur.rvdepth.toNat + 1 := by
  rw [push_cur]
  simp only [BitVec.toNat_add, List.length_singleton, BitVec.toNat_ofNat]
  omega

/-- Below cap an entry goes to memory as a store of the group. -/
theorem push_memory {s : State} (e : BitVec 128) {d : Dest} (hcap : s.cur.rvdepth.toNat < s.cur.rvcap.toNat)
    (hgo : s.curFate (s.cur.stackAddr s.cur.rvdepth.toNat) false true false none 16 = .go d) :
    (s.push [e]).mem = (s.groupWrite d (leBytes 16 e.toNat)).mem ∧
    (s.push [e]).stage = (s.groupWrite d (leBytes 16 e.toNat)).stage ∧ (s.push [e]).cur.reserve = s.cur.reserve := by
  have hw : s.pushWrite s.cur.rvdepth.toNat [e] = s.groupWrite d (leBytes 16 e.toNat) := by
    simp only [State.pushWrite, if_neg (Nat.not_le.mpr hcap), hgo]
  have hr : (s.groupWrite d (leBytes 16 e.toNat)).cur.reserve = s.cur.reserve := by
    have h := congrArg Group.reserve (writeDest_kept s s.cur.part d (leBytes 16 e.toNat) s.cur.key).cur
    exact h
  simp only [State.push, hw]
  exact ⟨trivial, trivial, hr⟩

/-- At cap and above an entry goes to the trap reserve. -/
theorem push_reserve {s : State} (e : BitVec 128) (hcap : s.cur.rvcap.toNat ≤ s.cur.rvdepth.toNat) :
    (s.push [e]).mem = s.mem ∧ (s.push [e]).stage = s.stage ∧
    (s.push [e]).cur.reserve = SMap.set 0 s.cur.reserve s.cur.rvdepth.toNat e := by
  simp only [State.push, State.pushWrite, if_pos hcap]
  exact ⟨trivial, trivial, trivial⟩

/-! ### The pop rule (R38, R220) -/

theorem stackRead_memory {s : State} {k : Nat} {d : Dest} (hs : s.serve = false) (hk : k < s.cur.rvcap.toNat)
    (hgo : s.curFate (s.cur.stackAddr k) true false false none 16 = .go d) :
    s.stackRead k = .ok (BitVec.ofNat 128 (leNat (s.readOwned s.cur.part d 16))) := by
  simp [State.stackRead, Nat.not_le.mpr hk, hgo, State.readParty, hs]

theorem stackRead_reserve {s : State} {k : Nat} (hk : s.cur.rvcap.toNat ≤ k) : s.stackRead k = .ok (SMap.get 0 s.cur.reserve k) := by
  rw [State.stackRead, if_pos hk]

/-- The mask that an entry installs beside another path. -/
def cutMask (s : State) (other : Mask) (e : BitVec 128) : Mask := e.extractLsb' 0 64 &&& widthMask s.cur.width &&& ~~~other

theorem popFind_reserved {s : State} {other : Mask} {k : Nat} {e : BitVec 128} (he : s.stackRead k = .ok e)
    (hkind : 4 ≤ (e.extractLsb' 124 4).toNat) : s.popFind other (k + 1) = .overflow := by
  simp only [State.popFind, he, if_pos hkind]

theorem popFind_discard {s : State} {other : Mask} {k : Nat} {e : BitVec 128} (he : s.stackRead k = .ok e)
    (hkind : (e.extractLsb' 124 4).toNat < 4) (hm : cutMask s other e = 0) : s.popFind other (k + 1) = s.popFind other k := by
  rw [State.popFind, he]
  dsimp only
  rw [if_neg (Nat.not_le.mpr hkind)]
  exact if_pos hm

theorem popFind_take {s : State} {other : Mask} {k depth : Nat} {e : BitVec 128} (he : s.stackRead k = .ok e)
    (hkind : (e.extractLsb' 124 4).toNat < 4) (hm : cutMask s other e ≠ 0) (hd : s.depthPopped e k = .ok depth) :
    s.popFind other (k + 1) = .found e (cutMask s other e) depth := by
  rw [State.popFind, he]
  dsimp only
  rw [if_neg (Nat.not_le.mpr hkind)]
  refine (if_neg hm).trans ?_
  rw [hd]
  rfl

theorem depthPopped_plain (s : State) {e : BitVec 128} (k : Nat) (h : (e.extractLsb' 124 4).toNat ≠ 2) : s.depthPopped e k = .ok k := by
  have h2 : e.extractLsb' 124 4 ≠ 2#4 := fun he => h (by rw [he]; rfl)
  simp only [State.depthPopped, h2, decide_false]

theorem depthPopped_bottom (s : State) (e : BitVec 128) : s.depthPopped e 0 = .ok 0 := by
  unfold State.depthPopped
  split
  · contradiction
  · rfl

/-- With a TRAP entry goes an entry of zero mask directly beneath it (R220). -/
theorem depthPopped_trap {s : State} {e b : BitVec 128} {j : Nat} (h : (e.extractLsb' 124 4).toNat = 2) (hb : s.stackRead j = .ok b) :
    s.depthPopped e (j + 1) = .ok (if b.extractLsb' 0 64 &&& widthMask s.cur.width = 0 then j else j + 1) := by
  have h2 : e.extractLsb' 124 4 = 2#4 := BitVec.eq_of_toNat_eq h
  simp only [State.depthPopped, h2, decide_true, hb]

/-! ### Marks of a pop, and installing its entry (R38, R142, R220) -/

theorem markStack_kept (s : State) (k n : Nat) : ReadKept s (s.markStack k n) := by
  refine foldl_kept ReadKept.refl ReadKept.trans (fun s i => ?_) _ s
  split
  · rfl
  · split
    · exact readAs_kept s _ _ _ _ _ _
    · rfl

theorem markPop_kept (s : State) (e : BitVec 128) (depth : Nat) : ReadKept s (s.markPop e depth) := markStack_kept s _ _

theorem markFailedPop_kept (s : State) (other : Mask) : ReadKept s (s.markFailedPop other) := markStack_kept s _ _

/-- The nesting count after an entry is popped: a TRAP entry ends a level (R220). -/
def poppedTrapc (gr : Group) (e : BitVec 128) : Word :=
  if decide (e.extractLsb' 124 4 = 2#4) && decide (gr.trapc.extractLsb' 28 4 ≠ 0) then
    (gr.trapc.extractLsb' 28 4 - 1) ++ gr.trapc.extractLsb' 0 28
  else gr.trapc

theorem install_cur (s : State) (one : Bool) (e : BitVec 128) (mask : Mask) (depth : Nat) : (s.install one e mask depth).cur =
    { (s.cur.setSlot one ⟨true, e.extractLsb' 64 30, mask, e.extractLsb' 94 30⟩).makeCurrent one with
      rvdepth := BitVec.ofNat 16 depth, reserve := dropReserve s.cur.reserve depth, trapc := poppedTrapc s.cur e } := by
  have h := (markPop_kept s e depth).cur
  unfold State.install
  dsimp only
  rw [h]
  rfl

theorem install_mem (s : State) (one : Bool) (e : BitVec 128) (mask : Mask) (depth : Nat) :
    (s.install one e mask depth).mem = s.mem := (markPop_kept s e depth).mem
theorem install_stage (s : State) (one : Bool) (e : BitVec 128) (mask : Mask) (depth : Nat) :
    (s.install one e mask depth).stage = s.stage := (markPop_kept s e depth).stage

/-- The slot that is filled, the other slot, and the path that is current with a fresh count. -/
theorem install_paths (s : State) (one : Bool) (e : BitVec 128) (mask : Mask) (depth : Nat) :
    let t := s.install one e mask depth
    t.cur.slotAt one = ⟨true, e.extractLsb' 64 30, mask, e.extractLsb' 94 30⟩ ∧ t.cur.slotAt (!one) = s.cur.slotAt (!one) ∧
    t.cur.current = one ∧ t.cur.count = 0 ∧ t.cur.issuing = s.cur.issuing ∧ t.cur.rvcap = s.cur.rvcap := by
  intro t
  have ht : t.cur = _ := install_cur s one e mask depth
  rw [ht]
  cases one <;> exact ⟨rfl, rfl, rfl, rfl, rfl, rfl⟩

theorem poppedTrapc_other {gr : Group} {e : BitVec 128} (h : e.extractLsb' 124 4 ≠ 2#4) : poppedTrapc gr e = gr.trapc := by
  simp [poppedTrapc, h]

theorem poppedTrapc_trap {gr : Group} {e : BitVec 128} (h : e.extractLsb' 124 4 = 2#4) :
    (poppedTrapc gr e).extractLsb' 0 28 = gr.trapc.extractLsb' 0 28 ∧ (poppedTrapc gr e).extractLsb' 28 4 =
      if gr.trapc.extractLsb' 28 4 = 0 then 0 else gr.trapc.extractLsb' 28 4 - 1 := by
  by_cases hn : gr.trapc.extractLsb' 28 4 = 0
  · have hp : poppedTrapc gr e = gr.trapc := by simp [poppedTrapc, hn]
    rw [hp, if_pos hn]
    exact ⟨rfl, hn⟩
  · have hp : poppedTrapc gr e = (gr.trapc.extractLsb' 28 4 - 1) ++ gr.trapc.extractLsb' 0 28 :=
      if_pos (by simpa [h] using hn)
    rw [hp, if_neg hn]
    exact ⟨ext_lo _ _, (ext_hi _ (gr.trapc.extractLsb' 0 28) 0 4).trans (ext_all _)⟩

/-! ### `rvpop` and `rvpush` (R142, R143) -/

theorem markFailedPop_overflow (s : State) (other : Mask) (len : Nat) : (s.markFailedPop other).stackOverflow len =
    (s.markFailedPop other).takeTrap ⟨14, 0, s.cur.rvsp, s.cur.path.mask, len, true⟩ := by
  unfold State.stackOverflow State.trapPath
  rw [(markFailedPop_kept s other).cur]
  rfl

/-- The issuing path ends, and its slot takes the entry that the pop rule finds. -/
theorem rvpop_found {s : State} {g : BitVec 3} (hon : Enabled s g []) {e : BitVec 128} {m : Mask} {k : Nat}
    (hpop : s.popFind (s.cur.otherMask s.cur.issuing) s.cur.rvdepth.toNat = .found e m k) :
    ∃ t, exec (.rvpop g) s = .next t ∧ t.cur.path = ⟨true, e.extractLsb' 64 30, m, e.extractLsb' 94 30⟩ ∧
      t.cur.otherPath = s.cur.otherPath ∧ t.cur.current = s.cur.issuing ∧ t.cur.count = 0 ∧ t.mem = s.mem ∧ t.stage = s.stage ∧
      t.cur.rvdepth = BitVec.ofNat 16 k ∧ t.cur.rvcap = s.cur.rvcap ∧ t.cur.trapc = poppedTrapc s.cur e := by
  let u : State := { s with cur := { s.cur.issued with lastIssue := some s.cycle } }
  have hexec : exec (.rvpop g) s = .next (u.install s.cur.issuing e m k).chargeCycle := by
    show execRvpop g s = _
    rw [execRvpop, uniDo_enabled hon]
    simp only [hpop]
    rfl
  obtain ⟨hslot, hother, hcurrent, hcount, hissuing, hcap⟩ := install_paths u s.cur.issuing e m k
  have hi : (u.install s.cur.issuing e m k).cur.issuing = s.cur.issuing := hissuing
  refine ⟨_, hexec, ?_, ?_, ?_, ?_, ?_, ?_, ?_, ?_, ?_⟩
  · rw [State.chargeCycle_cur, Group.path, hi]; exact hslot
  · rw [State.chargeCycle_cur, Group.otherPath, hi]; exact hother
  · rw [State.chargeCycle_cur]; exact hcurrent
  · rw [State.chargeCycle_cur]; exact hcount
  · rw [State.chargeCycle_mem, install_mem]
  · rw [State.chargeCycle_stage, install_stage]
  · rw [State.chargeCycle_cur, install_cur]
  · rw [State.chargeCycle_cur]; exact hcap
  · rw [State.chargeCycle_cur, install_cur]; rfl

theorem rvpop_overflow {s : State} {g : BitVec 3} (hon : Enabled s g [])
    (hpop : s.popFind (s.cur.otherMask s.cur.issuing) s.cur.rvdepth.toNat = .overflow) :
    exec (.rvpop g) s =
      .next ((s.markFailedPop (s.cur.otherMask s.cur.issuing)).takeTrap ⟨14, 0, s.cur.rvsp, s.cur.path.mask, 1, true⟩) := by
  show execRvpop g s = _
  rw [execRvpop, uniDo_enabled hon]
  simp only [hpop, markFailedPop_overflow]

theorem rvpop_stuck {s : State} {g : BitVec 3} (hon : Enabled s g []) {c x : Nat}
    (hpop : s.popFind (s.cur.otherMask s.cur.issuing) s.cur.rvdepth.toNat = .stuck (.trap c) x) :
    exec (.rvpop g) s = .next ((s.markFailedPop (s.cur.otherMask s.cur.issuing)).takeTrap
      ⟨c, 0, BitVec.ofNat 64 x, s.cur.path.mask, 1, false⟩) := by
  show execRvpop g s = _
  rw [execRvpop, uniDo_enabled hon]
  simp only [hpop, Fate.waits, Fate.isAbsent, Bool.or_self, Bool.false_eq_true, if_false, State.uniformStop, State.trapPath]
  rw [(markFailedPop_kept s _).cur]

theorem rvpush_room {s : State} {g : BitVec 3} {a b : Reg} (hon : Enabled s g [a, a + 1, b, b + 1])
    (hroom : s.cur.rvdepth.toNat + 1 ≤ s.cur.rvcap.toNat) :
    let e := stackEntry .mark ((uvalD s a).extractLsb' 32 30) ((uvalD s a).extractLsb' 0 30) (uvalD s b)
    s.pushFate s.cur.rvdepth.toNat [e] = none → exec (.rvpush g a b) s = .next ((s.push [e]).retire 1) := by
  intro e hfate
  show execRvpush g a b s = _
  have hon' : Enabled s g (pairRegs a ++ pairRegs b) := hon
  rw [execRvpush, uniDo_enabled hon']
  exact congrArg Host.Outcome.next (pushThen_room (es := [e]) hroom hfate)

theorem stackInstructions : Claims.StackInstructions := by
  intro s g a b cap depth addr lanes
  refine ⟨stackEntry_fields, fun e hdepth => ⟨push_depth e hdepth, fun hcap d hgo => push_memory e hcap hgo, fun hcap => ?_⟩,
    fun other k e hserve hmem hres => ?_, fun hon e m k hpop => ?_, fun hon hpop => rvpop_overflow hon hpop,
    fun hon c x hpop => rvpop_stuck hon hpop, fun hon hroom => rvpush_room hon hroom⟩
  · obtain ⟨hmem, hstage, hreserve⟩ := push_reserve e hcap
    refine ⟨hmem, hstage, fun hwf => ?_⟩
    rw [hreserve, SMap.get_set_wf 0 _ _ _ _ hwf, if_pos rfl]
  · intro kind m
    have he : s.stackRead k = .ok e := by
      by_cases hk : k < cap
      · obtain ⟨d, hgo, rfl⟩ := hmem hk
        exact stackRead_memory hserve hk hgo
      · rw [hres (Nat.le_of_not_lt hk)]
        exact stackRead_reserve (Nat.le_of_not_lt hk)
    refine ⟨rfl, fun hkind => popFind_reserved he hkind, fun hkind hm => popFind_discard he hkind hm,
      fun hkind h2 hm => popFind_take he hkind hm (depthPopped_plain s k h2), fun h2 hm => ⟨fun hk => ?_, fun j b hk hb => ?_⟩⟩
    · subst hk
      exact popFind_take he (by omega) hm (depthPopped_bottom s e)
    · subst hk
      exact popFind_take he (by omega) hm (depthPopped_trap h2 hb)
  · obtain ⟨t, hexec, hpath, hother, hcurrent, hcount, hmem, hstage, hdepth, hcap, htrapc⟩ := rvpop_found hon hpop
    exact ⟨t, hexec, hpath, hother, hcurrent, hcount, hmem, hstage, hdepth, hcap,
      fun hkind => htrapc.trans (poppedTrapc_other hkind), fun hkind => by rw [htrapc]; exact poppedTrapc_trap hkind⟩

/-! ### Accesses performed late (R183, R327) -/

/-- Of two groups the second differs at most in what its late accesses leave: registers that loads return into, horizons, and what is still
to be performed. -/
def LateKept (a b : Group) : Prop := b = { a with v := b.v, g := b.g, pend := b.pend, horizon := b.horizon, late := b.late }

theorem LateKept.refl (gr : Group) : LateKept gr gr := rfl

theorem LateKept.trans {a b c : Group} (h1 : LateKept a b) (h2 : LateKept b c) : LateKept a c := Eq.trans h2 (by rw [h1])

theorem setU_kept (gr : Group) (r : Reg) (w : Word) : LateKept gr (gr.setU r w) := by
  unfold Group.setU; split <;> rfl

theorem setV_kept (gr : Group) (r : Reg) (m : Mask) (x : LaneVec) : LateKept gr (gr.setV r m x) := rfl

theorem setHorizon_kept (gr : Group) (h : Vector Nat 6) : LateKept gr { gr with horizon := h } := rfl

theorem setLoaded_kept (gr : Group) (z : Size) (d : Reg) (m : Mask) (vals : List (Nat × List Byte)) :
    LateKept gr (gr.setLoaded z d m vals) :=
  foldl_kept LateKept.refl LateKept.trans (fun g _ => setV_kept g _ _ _) _ gr

theorem setWords_kept (gr : Group) (d : Reg) (ws : List Word) : LateKept gr (gr.setWords d ws) :=
  foldl_kept LateKept.refl LateKept.trans (fun g _ => setU_kept g _ _) _ gr

/-- Of two pairs of a state and a group of it, what performing late accesses of the group keeps. -/
def PerformKept (x y : State × Group) : Prop := WriteKept x.1 y.1 ∧ LateKept x.2 y.2

theorem PerformKept.refl (x : State × Group) : PerformKept x x := ⟨rfl, rfl⟩

theorem PerformKept.trans {x y z : State × Group} (h1 : PerformKept x y) (h2 : PerformKept y z) : PerformKept x z :=
  ⟨h1.1.trans h2.1, h1.2.trans h2.2⟩

theorem runLate_kept (s : State) (gr : Group) (x : Late) (served : Bool) : PerformKept (s, gr) (s.runLate gr x served) := by
  unfold State.runLate
  cases x.act with
  | store bs => exact ⟨writeDest_kept _ _ _ _ _, rfl⟩
  | load z d ls => exact ⟨(readAs_kept _ _ _ _ _ _ _).write, setLoaded_kept _ _ _ _ _⟩
  | uload z d => exact ⟨(readAs_kept _ _ _ _ _ _ _).write, setWords_kept _ _ _⟩
  | atom op dbl d v y l =>
    cases l with
    | none => exact ⟨writeDest_kept _ _ _ _ _, (setHorizon_kept gr _).trans (setWords_kept _ _ _)⟩
    | some l => exact ⟨writeDest_kept _ _ _ _ _, (setHorizon_kept gr _).trans (setLoaded_kept _ _ _ _ _)⟩

theorem performLate_kept (s : State) (gr : Group) (k : Nat) (served : Bool) : PerformKept (s, gr) (s.performLate gr k served) := by
  unfold State.performLate
  split
  · exact PerformKept.refl _
  · split
    · exact PerformKept.refl _
    · exact PerformKept.trans (runLate_kept s gr _ served) ⟨rfl, rfl⟩

theorem performAll_kept (s : State) (gr : Group) : PerformKept (s, gr) (s.performAll gr) :=
  foldl_kept PerformKept.refl PerformKept.trans (fun r _ => performLate_kept r.1 r.2 0 false) gr.late (s, gr)

/-- Performing its late accesses changes the group in focus and what stores and reads leave. -/
theorem flushLate_kept (s : State) : WriteKept (s.setCur s.flushLate.cur) s.flushLate ∧ LateKept s.cur s.flushLate.cur := by
  unfold State.flushLate
  split
  · exact ⟨rfl, rfl⟩
  · obtain ⟨hs, hg⟩ := performAll_kept s s.cur
    refine ⟨?_, hg⟩
    generalize s.performAll s.cur = r at hs
    dsimp only at hs
    rw [WriteKept] at hs
    rw [WriteKept, State.setCur, State.setCur, hs]

/-! ### The end of a path at its join (R37) -/

theorem focus_self {s : State} (h : s.cur.live = true) : s.focus s.cur.key = s := by
  simp [State.focus, h]

/-- What PATH_JOIN does where the group in focus may be given an issue opportunity. -/
theorem execPathJoin_self {s : State} {sl : Bool} (hlive : s.cur.live = true) (hissuable : s.cur.issuable = true) :
    exec (.pathJoin s.cur.key sl) s = .next (if s.cur.atJoin = some sl then s.pathJoin sl else s) := by
  show execPathJoin s.cur.key sl s = _
  rw [execPathJoin, focus_self hlive]
  by_cases h : s.cur.atJoin = some sl
  · simp [hlive, hissuable, h]
  · simp [hlive, hissuable, h]

/-- A path at its join is the one that ends, unless that of slot 0 is at its join too. -/
theorem atJoin_iff {gr : Group} {sl : Bool} (hlive : (gr.slotAt sl).live = true) (hpc : (gr.slotAt sl).pc = (gr.slotAt sl).join) :
    gr.atJoin = some sl ↔ sl = false ∨ (gr.slotAt (!sl)).live = false ∨ (gr.slotAt (!sl)).pc ≠ (gr.slotAt (!sl)).join := by
  cases sl
  · have h0 : gr.s0.live = true := hlive
    have h1 : gr.s0.pc = gr.s0.join := hpc
    simp [Group.atJoin, h0, h1]
  · have h0 : gr.s1.live = true := hlive
    have h1 : gr.s1.pc = gr.s1.join := hpc
    simp only [Group.atJoin, Group.slotAt, h0, h1]
    cases h2 : gr.s0.live <;> simp [h2]

theorem flushLate_slotAt (s : State) (sl : Bool) : s.flushLate.cur.slotAt sl = s.cur.slotAt sl := by
  rw [(flushLate_kept s).2]; rfl

theorem flushLate_otherMask (s : State) (sl : Bool) : s.flushLate.cur.otherMask sl = s.cur.otherMask sl := by
  unfold Group.otherMask; rw [flushLate_slotAt]

/-- A group whose path in a slot has ended beside the other path. -/
def endPath (gr : Group) (sl : Bool) : Group :=
  let g1 := { gr with issuing := sl, wait := .none }.setSlot sl PathSlot.empty
  if gr.current = sl then g1.makeCurrent (!sl) else g1

theorem endPath_paths (gr : Group) (sl : Bool) :
    let t := endPath gr sl
    t.slotAt sl = PathSlot.empty ∧ t.slotAt (!sl) = gr.slotAt (!sl) ∧ t.current = (!sl) ∧
    t.count = (if gr.current = sl then 0 else gr.count) ∧ t.rvdepth = gr.rvdepth := by
  unfold endPath
  cases hc : gr.current <;> cases sl <;> simp [Group.makeCurrent, Group.setSlot, Group.slotAt]

/-- Beside a live path of the same join the slot becomes empty, and the other path is current. -/
theorem pathJoin_meet {s : State} {sl : Bool} (ho : (s.cur.slotAt (!sl)).live = true)
    (hj : (s.cur.slotAt (!sl)).join = (s.cur.slotAt sl).join) :
    let t := s.pathJoin sl
    t.cur.slotAt sl = PathSlot.empty ∧ t.cur.slotAt (!sl) = s.cur.slotAt (!sl) ∧ t.cur.current = (!sl) ∧
    t.cur.count = (if s.cur.current = sl then 0 else s.cur.count) ∧ t.cur.rvdepth = s.cur.rvdepth := by
  intro t
  have hmeet : ((s.flushLate.cur.slotAt (!sl)).live && (s.flushLate.cur.slotAt (!sl)).join == (s.flushLate.cur.slotAt sl).join) = true := by
    simp [flushLate_slotAt, ho, hj]
  have ht : t.cur = endPath s.flushLate.cur sl := congrArg State.cur (if_pos hmeet)
  obtain ⟨hempty, hother, hcurrent, hcount, hdepth⟩ := endPath_paths s.flushLate.cur sl
  have hk := (flushLate_kept s).2
  rw [ht]
  exact ⟨hempty, hother.trans (flushLate_slotAt s _), hcurrent, hcount.trans (by rw [hk]), hdepth.trans (by rw [hk])⟩

/-- Else the slot takes the entry that the pop rule finds. -/
theorem pathJoin_found {s : State} {sl : Bool}
    (hmeet : ¬((s.cur.slotAt (!sl)).live = true ∧ (s.cur.slotAt (!sl)).join = (s.cur.slotAt sl).join)) {e : BitVec 128} {m : Mask} {k : Nat}
    (hpop : (s.flushLate.setCur { s.flushLate.cur with issuing := sl }).popFind (s.cur.otherMask sl) s.cur.rvdepth.toNat = .found e m k) :
    let t := s.pathJoin sl
    t.cur.slotAt sl = ⟨true, e.extractLsb' 64 30, m, e.extractLsb' 94 30⟩ ∧
      t.cur.slotAt (!sl) = s.cur.slotAt (!sl) ∧ t.cur.current = sl ∧ t.cur.count = 0 := by
  have hmeet' : ¬((s.flushLate.cur.slotAt (!sl)).live && (s.flushLate.cur.slotAt (!sl)).join == (s.flushLate.cur.slotAt sl).join) = true := by
    simpa [flushLate_slotAt] using hmeet
  have hdepth : s.flushLate.cur.rvdepth = s.cur.rvdepth := by rw [(flushLate_kept s).2]
  rw [← hdepth, ← flushLate_otherMask] at hpop
  let u := s.flushLate.setCur { s.flushLate.cur with issuing := sl, wait := .none }
  have ht : s.pathJoin sl = u.install sl e m k := by
    unfold State.pathJoin
    refine (if_neg hmeet').trans ?_
    split
    case h_1 h => exact absurd (hpop.symm.trans h) (by simp)
    case h_2 h => exact absurd (hpop.symm.trans h) (by simp)
    case h_3 h =>
      obtain ⟨rfl, rfl, rfl⟩ := Pop.found.inj (hpop.symm.trans h)
      rfl
  obtain ⟨hslot, hother, hcurrent, hcount, -, -⟩ := install_paths u sl e m k
  intro t
  have htu : t = u.install sl e m k := ht
  rw [htu]
  exact ⟨hslot, hother.trans (flushLate_slotAt s _), hcurrent, hcount⟩

theorem pathJoin : Claims.PathJoin := by
  intro s sl gr p o first hlive hissuable hp hpc
  have hiff := atJoin_iff hp hpc
  have hexec := execPathJoin_self (sl := sl) hlive hissuable
  refine ⟨fun hfirst => ?_, fun hfirst ho hj => ⟨_, ?_, pathJoin_meet ho hj⟩,
    fun hfirst hmeet e m k hpop => ⟨_, ?_, pathJoin_found hmeet hpop⟩⟩
  · rw [hexec, if_neg (mt hiff.mp hfirst)]
  · rw [hexec, if_pos (hiff.mpr hfirst)]
  · rw [hexec, if_pos (hiff.mpr hfirst)]

/-- Settles O14: the stack instructions by the rules of the stack's operations, and the end of a path by its two cases. -/
theorem reconvergence : Obligations.Reconvergence := ⟨stackInstructions, pathJoin⟩

/-! ### What a retirement keeps -/

theorem retire_key (s : State) (len : Nat) : (s.retire len).cur.key = s.cur.key := by simp
theorem retire_cohort (s : State) (len : Nat) : (s.retire len).cur.cohort = s.cur.cohort := by simp
theorem retire_live (s : State) (len : Nat) : (s.retire len).cur.live = s.cur.live := by simp
theorem retire_wait (s : State) (len : Nat) : (s.retire len).cur.wait = .none := by simp

/-! ### The turn of a path, `yield` and `sleep` (R35, R144, R145) -/

theorem pathSwitch_turn {s : State} (hlive : s.cur.live = true) (hissuable : s.cur.issuable = true) (hwait : s.cur.wait = .none)
    (hother : (s.cur.slotAt (!s.cur.current)).live = true) (hquantum : s.cur.quantum = 0 ∨ s.cur.quantum ≤ s.cur.count) :
    exec (.pathSwitch s.cur.key) s = .next (s.setCur (s.cur.makeCurrent (!s.cur.current))) := by
  show execPathSwitch s.cur.key s = _
  rw [execPathSwitch, focus_self hlive]
  simp [hlive, hissuable, hwait, hother, hquantum]

/-- The maximum of a list and a first number is one of them, and none is above it. -/
theorem foldl_max_spec (l : List Nat) (a : Nat) : l.foldl Nat.max a ∈ a :: l ∧ ∀ x ∈ a :: l, x ≤ l.foldl Nat.max a :=
  List.max?_eq_some_iff.mp List.max?_cons'

/-- A group placed now is younger than every other (R307). -/
theorem lt_nextAge {s : State} {x : Group} (hx : x ∈ s.holders) : x.age < s.nextAge :=
  (foldl_max_spec _ 0).2 (x.age + 1) (List.mem_cons_of_mem _ (List.mem_map.mpr ⟨x, hx, rfl⟩))

/-- A sleep of 0 has no wait. -/
theorem sleepFor_eq (s : State) (len ns : Nat) : s.sleepFor len ns =
    { s.retire len with cur := { (s.retire len).cur with wait := if ns = 0 then .none else .sleep (s.now + ns) } } := by
  unfold State.sleepFor
  dsimp only
  split
  case isTrue h =>
    have hw : (s.retire len).cur.wait = .none := retire_wait _ _
    generalize s.retire len = t at hw
    rw [← hw]
  case isFalse h => rfl

theorem turnsAndSleep : Claims.TurnsAndSleep := by
  intro s g i w gr
  refine ⟨fun hlive hissuable hwait hother hquantum => pathSwitch_turn hlive hissuable hwait hother hquantum, fun hon =>
    ⟨⟨s.nextAge, fun x hx => lt_nextAge hx, ?_⟩, ?_, ?_⟩⟩
  · exact congrArg Host.Outcome.next (uniDo_enabled hon)
  · exact congrArg Host.Outcome.next ((uniDo_enabled hon).trans (sleepFor_eq s 1 _))
  · exact congrArg Host.Outcome.next ((uniDo_enabled hon).trans (sleepFor_eq s 2 _))

/-! ### The cohort barrier (R146) -/

/-- A phase with a member still to arrive goes on. -/
theorem completeOnce_waits {s : State} {key : Nat} {c : Cohort} (hc : s.cohorts.find? (fun x => x.key == key) = some c) {m : Nat}
    (hm : m ∈ c.members) (hna : m ∉ c.arrived) : s.completeOnce key = s := by
  have hall : ¬(c.members.all fun m => c.arrived.contains m) = true := by
    simp only [List.all_eq_true, List.contains_iff_mem]
    exact fun h => hna (h m hm)
  unfold State.completeOnce
  rw [hc]
  exact if_neg hall

/-- What the end of a cohort's phase makes of a group: one that is counted and waits goes on. -/
def wakeIn (c : Cohort) (gr : Group) : Group :=
  if gr.cohort = c.key ∧ gr.wait = .bar ∧ c.members.contains gr.key then { gr with wait := .none } else gr

theorem wakeIn_other {c : Cohort} {gr : Group} (h : gr.wait ≠ .bar) : wakeIn c gr = gr := by simp [wakeIn, h]

theorem wakeIn_member {c : Cohort} {gr : Group} (hc : gr.cohort = c.key) (hw : gr.wait = .bar) (hm : gr.key ∈ c.members) :
    wakeIn c gr = { gr with wait := .none } := by simp [wakeIn, hc, hw, hm]

theorem wakeIn_key (c : Cohort) (gr : Group) : (wakeIn c gr).key = gr.key := by
  unfold wakeIn; split <;> rfl

/-- The end of a cohort's phase: its groups go on, and it counts the live ones anew. -/
def phaseEnd (s : State) (c : Cohort) : State :=
  { s with
    cur := if s.cur.live then wakeIn c s.cur else s.cur, others := s.others.map (wakeIn c), saved := s.saved.map (wakeIn c)
    cohorts := s.cohorts.map fun x =>
      if x.key = c.key then { x with
        members := ((s.groups ++ s.saved).filter fun gr => gr.cohort == c.key).map (·.key)
        arrived := c.arrived.filter fun k => !c.members.contains k }
      else x }

theorem completeOnce_ends {s : State} {c : Cohort} (hc : s.cohorts.find? (fun x => x.key == c.key) = some c)
    (hall : ∀ m ∈ c.members, m ∈ c.arrived) : s.completeOnce c.key = phaseEnd s c := by
  have h : (c.members.all fun m => c.arrived.contains m) = true := by
    simpa only [List.all_eq_true, List.contains_iff_mem] using hall
  unfold State.completeOnce
  rw [hc]
  exact if_pos h

/-- A phase is completed, or nothing changes. -/
theorem completeOnce_cases (s : State) (key : Nat) : s.completeOnce key = s ∨
    ∃ c, c.key = key ∧ s.cohorts.find? (fun x => x.key == key) = some c ∧ s.completeOnce key = phaseEnd s c := by
  cases hc : s.cohorts.find? (fun x => x.key == key) with
  | none => left; unfold State.completeOnce; rw [hc]
  | some c =>
    have hkey : c.key = key := by simpa using List.find?_some hc
    subst hkey
    by_cases hall : ∀ m ∈ c.members, m ∈ c.arrived
    · exact .inr ⟨c, rfl, rfl, completeOnce_ends hc hall⟩
    · simp only [not_forall] at hall
      obtain ⟨m, hm, hna⟩ := hall
      exact .inl (completeOnce_waits hc hm hna)

/-- The group in focus after its `bar` has retired, at the barrier of its cohort. -/
def atBarrier (s : State) : State :=
  { s.retire 1 with
    cur := { (s.retire 1).cur with wait := .bar }
    cohorts := s.cohorts.map fun x => if x.key = s.cur.cohort then { x with arrived := x.arrived ++ [s.cur.key] } else x }

theorem bar_arrives {s : State} {g : BitVec 3} (hon : Enabled s g []) :
    exec (.bar g) s = .next ((atBarrier s).completePhase s.cur.cohort) := by
  show execBar g s = _
  rw [execBar, uniDo_enabled hon, State.arriveAtBarrier, atBarrier]
  dsimp only [State.setCur]
  rw [retire_cohort, retire_key, State.retire_cohorts]

theorem atBarrier_cohort {s : State} {c : Cohort} (hc : s.cohorts.find? (fun x => x.key == s.cur.cohort) = some c) :
    (atBarrier s).cohorts.find? (fun x => x.key == s.cur.cohort) = some { c with arrived := c.arrived ++ [s.cur.key] } := by
  have hkey : c.key = s.cur.cohort := by simpa using List.find?_some hc
  have hsame : ((fun x : Cohort => x.key == s.cur.cohort) ∘ fun x =>
      if x.key = s.cur.cohort then { x with arrived := x.arrived ++ [s.cur.key] } else x) = fun x => x.key == s.cur.cohort := by
    funext x
    dsimp only [Function.comp]
    split <;> rfl
  show (s.cohorts.map _).find? _ = _
  rw [List.find?_map, hsame, hc]
  simp [hkey]

/-- A group that is not the last of its phase waits. -/
theorem bar_waits {s : State} {g : BitVec 3} {c : Cohort} (hon : Enabled s g [])
    (hc : s.cohorts.find? (fun x => x.key == s.cur.cohort) = some c) {m : Nat} (hm : m ∈ c.members) (hself : m ≠ s.cur.key)
    (hna : m ∉ c.arrived) : exec (.bar g) s = .next (atBarrier s) := by
  have hna' : m ∉ c.arrived ++ [s.cur.key] := by simp [hna, hself]
  have h : (atBarrier s).completeOnce s.cur.cohort = atBarrier s := completeOnce_waits (atBarrier_cohort hc) hm hna'
  rw [bar_arrives hon, State.completePhase, h, h]

/-- The last group of its phase goes on, and so does every counted group that waits. -/
theorem bar_completes {s : State} {g : BitVec 3} {c : Cohort} (hon : Enabled s g []) (hlive : s.cur.live = true)
    (hc : s.cohorts.find? (fun x => x.key == s.cur.cohort) = some c) (hself : s.cur.key ∈ c.members)
    (hall : ∀ m ∈ c.members, m = s.cur.key ∨ m ∈ c.arrived) :
    ∃ t, exec (.bar g) s = .next t ∧ t.cur = (s.retire 1).cur ∧ t.mem = s.mem ∧
      ∀ x ∈ s.others, x.cohort = c.key → x.wait = .bar → x.key ∈ c.members → { x with wait := Wait.none } ∈ t.others := by
  have hkey : c.key = s.cur.cohort := by simpa using List.find?_some hc
  let c1 : Cohort := { c with arrived := c.arrived ++ [s.cur.key] }
  let u := phaseEnd (atBarrier s) c1
  have hfirst : (atBarrier s).completeOnce s.cur.cohort = u := by
    have h1 : c1.key = s.cur.cohort := hkey
    rw [← h1]
    refine completeOnce_ends (by rw [h1]; exact atBarrier_cohort hc) fun m hm => ?_
    simpa [c1, or_comm] using hall m hm
  have hcur : u.cur = (s.retire 1).cur := by
    have hw : (s.retire 1).cur.wait = .none := retire_wait _ _
    have hl : (atBarrier s).cur.live = true := (retire_live s _).trans hlive
    have hwake : wakeIn c1 (atBarrier s).cur = { (atBarrier s).cur with wait := .none } :=
      wakeIn_member ((retire_cohort s _).trans hkey.symm) rfl (by rw [show (atBarrier s).cur.key = s.cur.key from retire_key s _]; exact hself)
    show (if (atBarrier s).cur.live then wakeIn c1 (atBarrier s).cur else (atBarrier s).cur) = _
    rw [if_pos hl, hwake]
    show { (s.retire 1).cur with wait := .none } = _
    rw [← hw]
  have hmem : u.mem = s.mem := State.retire_mem s _
  have hothers : ∀ x ∈ s.others, x.cohort = c.key → x.wait = .bar → x.key ∈ c.members → { x with wait := Wait.none } ∈ u.others := by
    intro x hx hxc hxw hxm
    have hx' : x ∈ (atBarrier s).others := by rw [show (atBarrier s).others = s.others from State.retire_others s _]; exact hx
    exact List.mem_map.mpr ⟨x, hx', wakeIn_member hxc hxw hxm⟩
  refine ⟨u.completeOnce s.cur.cohort, by rw [bar_arrives hon, State.completePhase, hfirst], ?_⟩
  rcases completeOnce_cases u s.cur.cohort with h | ⟨d, -, -, h⟩
  · rw [h]; exact ⟨hcur, hmem, hothers⟩
  · rw [h]
    have hidle : u.cur.wait ≠ .bar := by rw [hcur, retire_wait]; simp
    refine ⟨?_, hmem, fun x hx hxc hxw hxm => List.mem_map.mpr ⟨_, hothers x hx hxc hxw hxm, wakeIn_other (by simp)⟩⟩
    show (if u.cur.live then wakeIn d u.cur else u.cur) = _
    rw [wakeIn_other hidle, ite_self, hcur]

theorem cohortBarrier : Claims.CohortBarrier := by
  intro s g c hon hlive hc hna
  have hkey : c.key = s.cur.cohort := by simpa using List.find?_some hc
  refine ⟨fun ⟨m, hm, hself, hma⟩ => ?_, fun hself hall => bar_completes hon hlive hc hself hall⟩
  rw [bar_waits hon hc hm hself hma, hkey]
  rfl

/-- Settles O15: turns of paths, `yield`, `sleep`, and the barrier for the last group to arrive and for the others. -/
theorem groupWaits : Obligations.GroupWaits := ⟨turnsAndSleep, cohortBarrier⟩

/-! ### Masks and lanes (R12, R79, R101) -/

/-- The mask whose bits below 64 are a test's is the mask of that test. -/
theorem eq_maskOf {m : Mask} {q : Nat → Bool} (h : ∀ l < 64, m.getLsbD l = q l) : maskOf q = m :=
  BitVec.eq_of_getLsbD_eq fun l hl => by rw [getLsbD_maskOf, h l hl, decide_eq_true hl, Bool.true_and]

theorem mem_lanesOf {m : Mask} {l : Nat} : l ∈ lanesOf m ↔ l < 64 ∧ m.getLsbD l = true := by simp [lanesOf]

/-! ### The register array (R129, R130) -/

theorem xkey_inj {l m j k : Nat} (hl : l < 64) (hm : m < 64) : xkey l j = xkey m k ↔ l = m ∧ j = k := by
  unfold xkey; omega

/-- What a write of one word in each of some lanes leaves in the register array. -/
theorem get_foldl_xkey (idx : Nat → Nat) (w : Nat → Word) (l k : Nat) : ∀ (ls : List Nat) (r : SMap Word), l < 64 → (∀ j ∈ ls, j < 64) →
    SMap.wf 0 r = true → SMap.wf 0 (ls.foldl (fun r j => SMap.set 0 r (xkey j (idx j)) (w j)) r) = true ∧
      SMap.get 0 (ls.foldl (fun r j => SMap.set 0 r (xkey j (idx j)) (w j)) r) (xkey l k) =
        if l ∈ ls ∧ idx l = k then w l else SMap.get 0 r (xkey l k)
  | [], r, _, _, hwf => ⟨hwf, by simp⟩
  | j :: ls, r, hl, hls, hwf => by
    have hj : j < 64 := hls j (by simp)
    obtain ⟨hwf', hget⟩ := get_foldl_xkey idx w l k ls _ hl (fun i hi => hls i (List.mem_cons_of_mem _ hi))
      (SMap.wf_set 0 r (xkey j (idx j)) (w j) hwf)
    refine ⟨hwf', hget.trans ?_⟩
    simp only [SMap.get_set_wf 0 _ _ _ _ hwf, xkey_inj hl hj]
    by_cases hlj : l = j
    · subst hlj
      by_cases hk : k = idx l
      · simp [hk]
      · simp [hk, Ne.symm hk]
    · simp [hlj]

/-- The index of a lane's access to its register array. -/
abbrev xindex (s : State) (a : Reg) (im : Word) (l : Nat) : Int := ((val s a l).toNat : Int) + im.toInt

/-- The lanes whose index lies outside the allotment. -/
def xoutside (s : State) (g : BitVec 3) (a : Reg) (im : Word) : Mask :=
  maskOf fun l => (s.cur.todo g).getLsbD l && !(decide (0 ≤ xindex s a im l) && decide (xindex s a im l < s.cur.xwords))

theorem xread_none (d : Reg) (idx : Nat → Nat) (gr : Group) : xread d idx 0 gr = gr := Group.setV_zero gr d _

theorem xwrite_none (d : Reg) (idx : Nat → Nat) (gr : Group) : xwrite d idx 0 gr = gr := by
  have h : lanesOf 0 = [] := by decide
  rw [xwrite, h]
  rfl

section
variable {s : State} {g : BitVec 3} {a : Reg} {im : Word}

/-- The lanes outside the allotment, by what a bit of their mask means. -/
theorem xoutside_eq {bad : Mask} (h : ∀ l < 64, bad.getLsbD l = true ↔
    (s.cur.todo g).getLsbD l = true ∧ (xindex s a im l < 0 ∨ (s.cur.xwords : Int) ≤ xindex s a im l)) : xoutside s g a im = bad :=
  eq_maskOf fun l hl => by
    rw [Bool.eq_iff_iff, h l hl]
    simp only [Bool.and_eq_true, Bool.not_eq_true', Bool.and_eq_false_iff, decide_eq_false_iff_not, Int.not_le, Int.not_lt]

theorem xoutside_none (h : ∀ l < 64, (s.cur.todo g).getLsbD l = true → 0 ≤ xindex s a im l ∧ xindex s a im l < s.cur.xwords) :
    xoutside s g a im = 0 :=
  xoutside_eq fun l hl => ⟨fun hz => absurd hz (by simp), fun ⟨ht, hout⟩ => by
    obtain ⟨hlo, hhi⟩ := h l hl ht
    omega⟩

/-- Every acting lane's index lies in the allotment: the form completes in all of them. -/
theorem xarrayExec_inside {len : Nat} {f : (Nat → Nat) → Mask → Group → Group} (ha : Ready s [a]) (hf : ∀ idx, f idx 0 s.cur = s.cur)
    (hbad : xoutside s g a im = 0) :
    xarrayExec len g a im [a] s f = (s.setCur (f (fun l => (xindex s a im l).toNat) (s.cur.todo g) s.cur)).retire len := by
  unfold xarrayExec
  by_cases hm : s.cur.todo g = 0
  · rw [hm, hf]
    exact if_pos rfl
  · have hall : s.cur.todo g &&& ~~~xoutside s g a im = s.cur.todo g := by
      rw [hbad]; exact BitVec.and_allOnes
    refine (if_neg hm).trans ((if_neg (Bool.eq_false_iff.mp ha)).trans ((if_pos hbad).trans ?_))
    exact congrArg (fun m => (s.setCur (f (fun l => (xindex s a im l).toNat) m s.cur)).retire len) hall

/-- Some acting lane's index lies outside: those lanes trap PERM with the index of the lowest of them, and the others complete. -/
theorem xarrayExec_outside {len : Nat} {f : (Nat → Nat) → Mask → Group → Group} {bad : Mask} (ha : Ready s [a])
    (hbad : xoutside s g a im = bad) (hne : bad ≠ 0) :
    xarrayExec len g a im [a] s f = (s.setCur (f (fun l => (xindex s a im l).toNat) (s.cur.todo g &&& ~~~bad) s.cur)).takeTrap
      ⟨4, 0, BitVec.ofInt 64 (xindex s a im (lowestLane bad)), bad, len, false⟩ := by
  subst hbad
  have hm : s.cur.todo g ≠ 0 := fun hm => hne (eq_maskOf fun l _ => by simp [hm])
  unfold xarrayExec
  exact (if_neg hm).trans ((if_neg (Bool.eq_false_iff.mp ha)).trans (if_neg hne))

/-- What a write of the lanes inside leaves in the register array. -/
theorem xwrite_effect (d : Reg) {good : Mask} (hwf : SMap.wf 0 s.cur.xregs = true)
    (hgood : ∀ l < 64, good.getLsbD l = true → 0 ≤ xindex s a im l) :
    ∃ x, xwrite d (fun l => (xindex s a im l).toNat) good s.cur = { s.cur with xregs := x } ∧ SMap.wf 0 x = true ∧
      ∀ l < 64, ∀ k : Nat, SMap.get 0 x (xkey l k) =
        if good.getLsbD l = true ∧ xindex s a im l = k then val s d l else SMap.get 0 s.cur.xregs (xkey l k) := by
  have hlanes : ∀ j ∈ lanesOf good, j < 64 := fun j hj => (mem_lanesOf.mp hj).1
  have heffect := fun l k hl => get_foldl_xkey (fun l => (xindex s a im l).toNat) (lane (s.cur.src d)) l k (lanesOf good)
    s.cur.xregs hl hlanes hwf
  refine ⟨_, rfl, (heffect 0 0 (by decide)).1, fun l hl k => ?_⟩
  rw [(heffect l k hl).2]
  refine if_congr ?_ rfl rfl
  rw [mem_lanesOf]
  constructor
  · rintro ⟨⟨-, hg⟩, hk⟩
    exact ⟨hg, by have := hgood l hl hg; omega⟩
  · rintro ⟨hg, hk⟩
    exact ⟨⟨hl, hg⟩, by omega⟩

end

theorem registerArray : Claims.RegisterArray := by
  intro s g d a i w ha hwf idx inside readTo writeTo
  have hread : ∀ len im, inside im → Host.Outcome.next (xarrayExec len g a im [a] s (xread d)) = readTo len im := fun len im h =>
    congrArg Host.Outcome.next (xarrayExec_inside ha (fun idx => xread_none d idx s.cur) (xoutside_none h))
  have hwrite : ∀ len im, inside im → writeTo len im (.next (xarrayExec len g a im [a] s (xwrite d))) := by
    intro len im h
    obtain ⟨x, hx, hxwf, hget⟩ := xwrite_effect d hwf fun l hl ht => (h l hl ht).1
    refine ⟨x, ?_, hxwf, hget⟩
    rw [xarrayExec_inside ha (fun idx => xwrite_none d idx s.cur) (xoutside_none h), hx]
  exact ⟨hread 1 _, hread 2 w, hwrite 1 _, hwrite 2 w⟩

theorem registerArrayTrap : Claims.RegisterArrayTrap := by
  intro s g d a i w bad ha hwf hne good idx fails traps reads writes
  have hread : ∀ len im, fails im → Host.Outcome.next (xarrayExec len g a im [a] s (xread d)) = traps len im (reads im) :=
    fun len im h => congrArg Host.Outcome.next (xarrayExec_outside ha (xoutside_eq h) hne)
  have hwrite : ∀ len im, fails im → writes len im (.next (xarrayExec len g a im [a] s (xwrite d))) := by
    intro len im h
    have hgood : ∀ l < 64, good.getLsbD l = true → 0 ≤ xindex s a im l := by
      intro l hl hg
      simp only [good, BitVec.getLsbD_and, BitVec.getLsbD_not, hl, decide_true, Bool.true_and, Bool.and_eq_true, Bool.not_eq_true'] at hg
      have hb := (h l hl).not.mp (by simp [hg.2])
      exact Int.not_lt.mp fun hneg => hb ⟨hg.1, .inl hneg⟩
    obtain ⟨x, hx, hxwf, hget⟩ := xwrite_effect d hwf hgood
    refine ⟨x, ?_, hxwf, hget⟩
    rw [xarrayExec_outside ha (xoutside_eq h) hne]
    exact congrArg (fun gr => Host.Outcome.next ((s.setCur gr).takeTrap _)) hx
  exact ⟨fun h => ⟨hread 1 _ h, hwrite 1 _ h⟩, fun h => ⟨hread 2 w h, hwrite 2 w h⟩⟩

/-- Settles O10: both loads and both stores through the one form of the register array. -/
theorem extendedRegisters : Obligations.ExtendedRegisters := ⟨registerArray, registerArrayTrap⟩

/-! ### Reading control registers (R82, R150, R152) -/

theorem toNat_append_add {n m : Nat} (x : BitVec n) (y : BitVec m) : (x ++ y).toNat = x.toNat * 2 ^ m + y.toNat := by
  rw [BitVec.toNat_append, ← Nat.shiftLeft_add_eq_or_of_lt y.isLt, Nat.shiftLeft_eq]

theorem toNat_rvsp (gr : Group) : gr.rvsp.toNat = gr.rvcap.toNat * 65536 + gr.rvdepth.toNat := by
  rw [Group.rvsp, toNat_append_add, toNat_append_add]
  simp

theorem toNat_role (none : Bool) (idx : BitVec 4) :
    ((BitVec.ofBool none ++ idx).setWidth 64).toNat = idx.toNat + if none then 16 else 0 := by
  have hidx := idx.isLt
  rw [BitVec.toNat_setWidth_of_le (by decide), toNat_append_add]
  cases none <;> simp [Nat.add_comm]

/-- The largest horizon is one of them. -/
theorem wct_mem (gr : Group) : gr.wct ∈ gr.horizon.toList ∧ ∀ x ∈ gr.horizon.toList, x ≤ gr.wct := by
  obtain ⟨hmem, hmax⟩ := foldl_max_spec gr.horizon.toList 0
  refine ⟨?_, fun x hx => hmax x (List.mem_cons_of_mem _ hx)⟩
  rcases List.mem_cons.mp hmem with h0 | h
  · have hfirst : gr.horizon[0] ∈ gr.horizon.toList := by simp
    have hle : gr.horizon[0] ≤ gr.wct := hmax _ (List.mem_cons_of_mem _ hfirst)
    have heq : gr.wct = gr.horizon[0] := by rw [show gr.wct = 0 from h0] at hle ⊢; omega
    exact heq ▸ hfirst
  · exact h

theorem controlRegisterReads : Claims.ControlRegisterReads := by
  intro s g d ctl
  have hnone := Group.pendingOn_nil s.cur
  refine ⟨fun hctl => ?_, fun hd => ?_, rfl, rfl, rfl, toNat_rvsp s.cur, rfl, rfl, rfl, rfl, rfl, rfl, rfl, rfl, rfl, rfl, rfl, rfl, rfl,
    toNat_role s.cur.roleNone s.cur.roleIdx, s.cur.wct, rfl, wct_mem s.cur⟩
  · have hlid : ¬(ctl = 6 ∧ isV d) := fun ⟨h6, hd⟩ => hctl.elim (fun h => h h6) fun h => by simp [h] at hd
    show execMfc g d ctl s = _
    rw [execMfc, uniExec_ready hnone, if_neg hlid]
    cases ctlWide ctl <;> rfl
  · show execMfc g d 6 s = _
    have h6 : (6 : BitVec 7) = 6 ∧ isV d = true := ⟨Eq.refl _, hd⟩
    rw [execMfc, uniExec_ready hnone, if_pos h6]

/-! ### Writing control registers (R151, R217, R296) -/

/-- What each field of the group becomes when a control register is written. -/
theorem writeCtl_fields (gr : Group) (n : Nat) (x : DWord) : gr.writeCtl n x = { gr with
    xm := if n = 0 then x &&& widthMask gr.width else gr.xm
    pathq := if n = 1 then x.setWidth 32 &&& 0xFF else gr.pathq
    rvsb := if n = 2 then x &&& ~~~15#64 else gr.rvsb
    fsr := if n = 9 then x.setWidth 32 &&& fsrMask else gr.fsr
    mxc := if n = 10 then x.setWidth 32 else gr.mxc
    prio := if n = 11 then (if gr.prioCap.toNat < (x.extractLsb' 0 2).toNat then gr.prioCap else x.extractLsb' 0 2) else gr.prio
    trapv := if n = 13 then x.setWidth 30 else gr.trapv
    trapc := if n = 14 then x.setWidth 32 &&& 0xF003FFFF else gr.trapc
    trapa := if n = 15 then x else gr.trapa
    trapm := if n = 16 then x &&& widthMask gr.width else gr.trapm
    sect := if n = 18 then x.setWidth 32 &&& 0xFFFFF else gr.sect } := by
  unfold Group.writeCtl
  split
  case h_12 h0 h1 h2 h9 h10 h11 h13 h14 h15 h16 h18 => simp only [if_neg h0, if_neg h1, if_neg h2, if_neg h9, if_neg h10,
    if_neg h11, if_neg h13, if_neg h14, if_neg h15, if_neg h16, if_neg h18]
  all_goals rfl

/-- A write changes the value of no other control register. -/
theorem readCtl_writeCtl_other (s : State) {n k : Nat} (x : DWord) (h : k ≠ n) :
    (s.setCur (s.cur.writeCtl n x)).readCtl k = s.readCtl k := by
  rw [writeCtl_fields]
  match k, h with
  | 0, h | 2, h | 15, h | 16, h => exact if_neg h.symm
  | 1, h | 9, h | 10, h | 11, h | 13, h | 14, h | 18, h => exact congrArg (BitVec.setWidth 64) (if_neg h.symm)
  | 3, _ | 4, _ | 5, _ | 6, _ | 7, _ | 8, _ | 12, _ | 17, _ | _ + 19, _ => rfl

/-- A narrow field keeps the bits of a mask. -/
theorem setWidth_and_setWidth {k : Nat} (x : DWord) (m : BitVec k) :
    (x.setWidth k &&& m).setWidth 64 = x &&& m.setWidth 64 := by
  ext i hi
  by_cases h : i < k
  · simp [h, hi]
  · simp [h, BitVec.getLsbD_of_ge m i (Nat.le_of_not_lt h)]

/-- Reading a written control register back gives the bits that it has. -/
theorem readCtl_writeCtl_same (s : State) (x : DWord) {n : Nat} {m : DWord} (h : (n, m) ∈ [(0, widthMask s.cur.width), (1, 0xFF#64),
    (2, 0xFFFFFFFFFFFFFFF0#64), (9, 0x1F1F#64), (10, 0xFFFFFFFF#64), (13, 0x3FFFFFFF#64), (14, 0xF003FFFF#64),
    (15, 0xFFFFFFFFFFFFFFFF#64), (16, widthMask s.cur.width), (18, 0xFFFFF#64)]) :
    (s.setCur (s.cur.writeCtl n x)).readCtl n = x &&& m := by
  have hwhole : ∀ k, (x.setWidth k).setWidth 64 = x &&& (BitVec.allOnes k).setWidth 64 := fun k => by
    rw [← setWidth_and_setWidth, BitVec.and_allOnes]
  simp only [List.mem_cons, Prod.mk.injEq, List.not_mem_nil, or_false] at h
  rcases h with ⟨rfl, rfl⟩ | ⟨rfl, rfl⟩ | ⟨rfl, rfl⟩ | ⟨rfl, rfl⟩ | ⟨rfl, rfl⟩ | ⟨rfl, rfl⟩ | ⟨rfl, rfl⟩ | ⟨rfl, rfl⟩ |
    ⟨rfl, rfl⟩ | ⟨rfl, rfl⟩
  · rfl
  · exact setWidth_and_setWidth x 0xFF#32
  · rfl
  · exact setWidth_and_setWidth x fsrMask
  · exact hwhole 32
  · exact hwhole 30
  · exact setWidth_and_setWidth x 0xF003FFFF#32
  · exact BitVec.and_allOnes.symm
  · rfl
  · exact setWidth_and_setWidth x 0xFFFFF#32

theorem controlRegisterWrites : Claims.ControlRegisterWrites := by
  intro s g a ctl hon m hm x
  refine ⟨s.cur.writeCtl ctl.toNat x, ?_, readCtl_writeCtl_same s x hm, fun n _ hne => readCtl_writeCtl_other s x hne, ?_⟩
  · exact congrArg Host.Outcome.next (uniExec_enabled hon)
  · rw [writeCtl_fields]
    exact ⟨rfl, rfl, rfl, rfl, rfl, rfl⟩

/-! ### `prio`, `rvsp` and `xm` (R39, R40, R151, R153) -/

theorem writePrio (s : State) (g : BitVec 3) (a : Reg) (hon : Enabled s g [a]) : exec (.mtc g 11 a) s = .next ((s.setCur { s.cur with
    prio := if (uval s a).toNat % 4 ≤ s.cur.prioCap.toNat then BitVec.ofNat 2 (uval s a).toNat else s.cur.prioCap }).retire 2) := by
  have hexec : exec (.mtc g 11 a) s = .next ((s.setCur (s.cur.writeCtl 11 ((uval s a).setWidth 64))).retire 2) :=
    congrArg Host.Outcome.next (uniExec_enabled hon)
  have hbits : ((uval s a).setWidth 64).extractLsb' 0 2 = BitVec.ofNat 2 (uval s a).toNat := by
    apply BitVec.eq_of_toNat_eq
    simp
  have hclass : (BitVec.ofNat 2 (uval s a).toNat).toNat = (uval s a).toNat % 4 := BitVec.toNat_ofNat _ _
  rw [hexec, Group.writeCtl, hbits, hclass]
  simp only [← Nat.not_le, ite_not]

/-- With no entry held above cap, a higher cap puts none into memory. -/
theorem released_nil {gr : Group} (h : gr.rvdepth.toNat ≤ gr.rvcap.toNat) (cap : Nat) : gr.released cap = [] := by
  have hnone : min cap gr.rvdepth.toNat - gr.rvcap.toNat = 0 := by omega
  rw [Group.released, hnone]
  rfl

theorem writeRvsp (s : State) (g : BitVec 3) (a : Reg) (hon : Enabled s g [a, a + 1]) :
    let cap := (uvalD s a).toNat / 65536 % 65536
    let depth := (uvalD s a).toNat % 65536
    (depth ≤ cap → s.cur.rvdepth.toNat ≤ s.cur.rvcap.toNat → ∃ r, exec (.mtcRvsp g a) s = .next ((s.setCur { s.cur with
      rvcap := BitVec.ofNat 16 cap, rvdepth := BitVec.ofNat 16 depth, reserve := r }).retire 2)) ∧
    (cap < depth → depth ≠ s.cur.rvdepth.toNat ∨ cap < s.cur.rvcap.toNat →
      exec (.mtcRvsp g a) s = .next (s.takeTrap ⟨14, 0, s.cur.rvsp, s.cur.path.mask, 2, true⟩)) := by
  intro cap depth
  have hon' : Enabled s g (pairRegs a) := hon
  have hcap : (uvalD s a).extractLsb' 16 16 = BitVec.ofNat 16 cap := by
    apply BitVec.eq_of_toNat_eq
    simp [cap, Nat.shiftRight_eq_div_pow]
  have hdepth : (uvalD s a).extractLsb' 0 16 = BitVec.ofNat 16 depth := by
    apply BitVec.eq_of_toNat_eq
    simp [depth]
  have hcapN : (BitVec.ofNat 16 cap).toNat = cap := (BitVec.toNat_ofNat _ _).trans (Nat.mod_mod _ _)
  have hdepthN : (BitVec.ofNat 16 depth).toNat = depth := (BitVec.toNat_ofNat _ _).trans (Nat.mod_mod _ _)
  refine ⟨fun hle hheld => ⟨SMap.keep (fun k => decide (cap ≤ k) && decide (k < depth)) s.cur.reserve, ?_⟩, fun hlt hchange => ?_⟩
  all_goals
    show execMtcRvsp g a s = _
    rw [execMtcRvsp, uniDo_enabled hon']
    dsimp only
    rw [show s.cur.usrcD a = uvalD s a from rfl, hcap, hdepth, hcapN, hdepthN]
  · rw [if_neg fun h => absurd h.1 (Nat.not_lt.mpr hle), released_nil hheld]
    rfl
  · have hkeeps : (BitVec.ofNat 16 depth == s.cur.rvdepth && decide (s.cur.rvcap.toNat ≤ cap)) = false := by
      rcases hchange with h | h
      · have hne : BitVec.ofNat 16 depth ≠ s.cur.rvdepth := fun heq => h (by rw [← heq, hdepthN])
        simp [hne]
      · simp [h]
    rw [hkeeps, if_pos ⟨hlt, rfl⟩]
    rfl

theorem xmset (s : State) (g pa : BitVec 3) (hon : Enabled s g []) :
    ∃ xm, exec (.xmset g pa) s = .next ((s.setCur { s.cur with xm := xm }).retire 2) ∧ ∀ l < 64,
      xm.getLsbD l = if s.cur.path.mask.getLsbD l then (s.cur.pred pa).getLsbD l else s.cur.xm.getLsbD l := by
  refine ⟨_, congrArg Host.Outcome.next (uniExec_enabled hon), fun l hl => ?_⟩
  rw [BitVec.getLsbD_or, BitVec.getLsbD_and, BitVec.getLsbD_and, BitVec.getLsbD_not, decide_eq_true hl]
  cases s.cur.path.mask.getLsbD l
  · simp only [Bool.not_false, Bool.and_true, Bool.and_false, Bool.or_false, Bool.false_eq_true, if_false]
  · simp only [Bool.not_true, Bool.and_true, Bool.and_false, Bool.false_or, if_true]

theorem stackAndMaskRegisters : Claims.StackAndMaskRegisters := fun s g pa a => ⟨writePrio s g a, writeRvsp s g a, xmset s g pa⟩

/-- Settles O17: each register's value, the bits a write leaves, and the registers with rules of their own. -/
theorem controlRegisters : Obligations.ControlRegisters := ⟨controlRegisterReads, controlRegisterWrites, stackAndMaskRegisters⟩

/-! ### `spawn` (R41, R147) -/

/-- The gid of a child is the lowest that no group of its cohort holds. -/
theorem freeGid_some {s : State} {cohort gid : Nat} (h : s.freeGid cohort = some gid) :
    gid < 16 ∧ (∀ x ∈ s.holders, x.cohort = cohort → x.gid.toNat ≠ gid) ∧
      ∀ n < gid, ∃ x ∈ s.holders, x.cohort = cohort ∧ x.gid.toNat = n := by
  obtain ⟨hfree, hlt, hlow⟩ := List.find?_range_eq_some.mp h
  refine ⟨List.mem_range.mp hlt, fun x hx hc => ?_, fun n hn => ?_⟩
  · have hx' := List.all_eq_true.mp hfree x (List.mem_filter.mpr ⟨hx, by simp [hc]⟩)
    simpa using hx'
  · have hheld := hlow n hn
    simp only [Bool.not_eq_true', List.all_eq_false, List.mem_filter] at hheld
    obtain ⟨x, ⟨hx, hc⟩, hgid⟩ := hheld
    exact ⟨x, hx, by simpa using hc, by simpa using hgid⟩

/-- There are a context, lanes and tiles on the group's core for a child of its width, and its regions' budgets have room. -/
def spawnRoom (s : State) : Bool :=
  (placeGroup s.groups s.cur.core s.cur.width s.cur.xwords).isSome && (freeTiles s.groups s.cur.core s.cur.tileCount).isSome &&
    s.spawnAllowed s.cur

theorem spawnChild_none {s : State} (h : s.freeGid s.cur.cohort = none ∨ spawnRoom s = false) (entry : PC) (args : List Word) :
    s.spawnChild entry args = none := by
  unfold State.spawnChild
  dsimp only
  split
  case h_1 gid slot octet tile hgid hplace htile =>
    have hroom : spawnRoom s = false := h.resolve_left (by simp [hgid])
    have hdenied : ¬s.spawnAllowed s.cur = true := by simpa [spawnRoom, hplace, htile] using hroom
    exact if_neg hdenied
  case h_2 => rfl

/-- What a child takes from its parent and from its call. -/
theorem spawnChild_room {s : State} {gid : Nat} (hgid : s.freeGid s.cur.cohort = some gid) (hroom : spawnRoom s = true) (entry : PC)
    (args : List Word) : ∃ child, s.spawnChild entry args = some child ∧ child.gid = BitVec.ofNat 4 gid ∧ child.live = true ∧
      child.key = s.nextKey ∧ child.cohort = s.cur.cohort ∧ child.part = s.cur.part ∧ child.width = s.cur.width ∧
      child.cid = s.cur.cid ∧ child.prio = s.cur.prio ∧ child.xwords = s.cur.xwords ∧ child.wait = .none ∧
      child.path = ⟨true, entry, widthMask s.cur.width, 0x3FFFFFFF⟩ ∧ child.otherPath.live = false ∧
      child.g = Vector.ofFn fun i => if i.val < 8 then args.getD i.val 0 else 0 := by
  simp only [spawnRoom, Bool.and_eq_true, Option.isSome_iff_exists] at hroom
  obtain ⟨⟨⟨⟨slot, octet⟩, hplace⟩, ⟨tile, htile⟩⟩, hallowed⟩ := hroom
  unfold State.spawnChild
  simp only [hgid, hplace, htile, if_pos hallowed]
  exact ⟨_, rfl, rfl, rfl, rfl, rfl, rfl, rfl, rfl, rfl, rfl, rfl, rfl, rfl, rfl⟩

theorem rebook_setC (gr x : Group) (n : BitVec 3) (b : Bool) : rebook x (gr.setC n b) = rebook x gr := by
  unfold Group.setC; split <;> rfl

/-- Retiring a group whose predicate has been written is bookkeeping beside that write. -/
theorem retire_setC_rebook {s u : State} {n : BitVec 3} {b : Bool} (hu : u.cur = s.cur.setC n b) (len : Nat) :
    rebook (u.retire len).cur s.cur = s.cur.setC n b := by
  rw [← rebook_setC s.cur _ n b, ← hu]
  exact retireTo_rebook u _

theorem spawning : Claims.Spawning := by
  intro s g cq a w hon ha0 ha1 gr room
  have hexec : ∀ o, s.spawnChild (s.cur.target (w.setWidth 30)) ((blockRegs a 8).map s.cur.greg) = o →
      exec (.spawn g cq a w) s = .next (match o with
        | none => (s.setCur (s.cur.setC cq false)).retire 2
        | some child => State.retire { (s.clearTiles child.core child.tileBase child.tileCount) with
            cur := s.cur.setC cq true, others := s.others ++ [child], nextKey := s.nextKey + 1 } 2) := by
    rintro o rfl
    exact congrArg Host.Outcome.next (uniDo_enabled hon)
  refine ⟨fun h => hexec none (spawnChild_none h _ _), fun gid hgid hroom => ?_⟩
  obtain ⟨hlt, hfree, hlow⟩ := freeGid_some hgid
  obtain ⟨child, hchild, hcgid, hlive, hkey, hcohort, hpart, hwidth, hcid, hprio, hxwords, hwait, hpath, hother, hg⟩ :=
    spawnChild_room hgid hroom (s.cur.target (w.setWidth 30)) ((blockRegs a 8).map s.cur.greg)
  refine ⟨_, child, hexec _ hchild, State.retire_others _ _, retire_setC_rebook rfl 2, State.retire_mem _ _, hlt, hcgid, hfree, hlow,
    hlive, hkey, hcohort, hpart, hwidth, hcid, hprio, hxwords, hwait, ?_, hother, fun i hi => ?_⟩
  · rw [hpath, BitVec.setWidth_eq_extractLsb' (by decide)]
    rfl
  · have hindex : (BitVec.ofNat 7 (96 + i)).toNat - 96 = i := by rw [BitVec.toNat_ofNat]; omega
    rw [Group.greg, hindex, hg]
    by_cases h8 : i < 8
    · simp [hi, h8, blockRegs, gr]
    · simp [hi, h8]

/-! ### `role` (R42, R148) -/

/-- Where no replica and no snapshot stands, nothing cached serves a read. -/
theorem cachedBytes_none {s : State} (hr : s.replicas = []) (hs : s.snaps = []) (part : Nat) (d : Dest) (n : Nat) (cls : Obs)
    (reader since : Nat) : s.cachedBytes part d n cls reader since = none := by
  cases d <;> simp [State.cachedBytes, State.replicaFor, State.snapFor, State.via, hr, hs]

/-- There a group reads at the owning point, and leaves what the read does to the L2. -/
theorem groupRead_plain {s : State} (hp : Plain s) (d : Dest) (n : Nat) :
    (s.groupRead d n).1 = s.readOwned s.cur.part d n ∧ L2Kept s (s.groupRead d n).2 := by
  obtain ⟨hr, hs, -⟩ := hp
  have hnone : (if s.serve then s.cachedBytes s.cur.part d n .c s.cur.key 0 else none) = none := by
    rw [cachedBytes_none hr hs, ite_self]
  have hbare : s.bare = true := by simp [State.bare, hr, hs]
  rw [State.groupRead, State.readAs, hnone]
  refine ⟨rfl, ?_⟩
  rw [State.markRead, if_pos hbare]
  exact touch_kept s _ _ _ _

/-- A retirement commutes with what a read leaves in the L2. -/
theorem L2Kept.retireWith {s t : State} (h : L2Kept s t) (f : Group → Group) : L2Kept (s.retireWith f) (t.retireWith f) := by
  unfold State.retireWith
  rw [chargeCycle_eq, chargeCycle_eq, h]
  rfl

theorem L2Kept.setCur {s t : State} (h : L2Kept s t) (gr : Group) : L2Kept (s.setCur gr) (t.setCur gr) := by
  rw [L2Kept, h]
  rfl

theorem L2Kept.same {s t : State} (h : L2Kept s t) : SameButL2 t s := by
  rw [SameButL2, h]

theorem get_keep {α : Type} (x : α) (q : Nat → Bool) (k : Nat) : ∀ m : SMap α,
    SMap.get x (SMap.keep q m) k = if q k then SMap.get x m k else x
  | [] => by simp [SMap.keep, SMap.get]
  | (j, v) :: m => by
    have ih := get_keep x q k m
    unfold SMap.keep at ih ⊢
    rw [List.filter_cons]
    by_cases hk : k = j
    · subst hk
      cases hq : q k <;> simp [hq, SMap.get, ih]
    · cases hq : q j <;> simp [hk, SMap.get, ih]

/-- A word of the register array after a role is applied. -/
theorem get_withRole_xregs (gr : Group) (n : BitVec 4) (new : Nat) (prio : BitVec 2) (vector : PC) {l : Nat} (hl : l < 64) (k : Nat) :
    SMap.get 0 (gr.withRole n new prio vector).xregs (xkey l k) = if k < new then SMap.get 0 gr.xregs (xkey l k) else 0 := by
  have hword : xkey l k / 64 = k := by unfold xkey; omega
  rw [Group.withRole, get_keep, hword]
  simp

/-- A `role` whose entry may be read: what the entry says, after what its read does to the L2. -/
theorem role_read {s : State} {g cq : BitVec 3} {n : BitVec 4} (hon : Enabled s g []) (hp : Plain s) {d : Dest}
    (hcnt : n.toNat < s.cur.rolecnt) (halign : (s.cur.roletab + 16 * n.toNat) % 16 = 0)
    (hclass : s.classify s.cur.part (s.cur.roletab + 16 * n.toNat) = .ok d) (hfate : s.fate s.cur.part d false 16 = .go d) :
    let e := leNat (s.readOwned s.cur.part d 16)
    let new := bitsN e 41 32
    new ≤ 928 → ∃ s1, L2Kept s s1 ∧ exec (.role g cq n) s = .next (
      if s.cur.xwords < new ∧ !s1.roleFits s.cur new then (s1.setCur (s1.cur.setC cq false)).retire 1
      else (s1.setCur ((s1.cur.withRole n new (BitVec.ofNat 2 (bitsN e 43 42)) (BitVec.ofNat 30 (bitsN e 29 0))).setC cq true)).retire 1) := by
  intro e new hnew
  obtain ⟨hread, hl2⟩ := groupRead_plain hp d 16
  refine ⟨_, hl2, ?_⟩
  show execRole g cq n s = _
  rw [execRole, uniDo_enabled hon]
  dsimp only
  rw [if_neg (Nat.not_le.mpr hcnt), if_neg (not_not.mpr halign), hclass]
  dsimp only
  rw [hfate]
  dsimp only
  rw [hread]
  exact congrArg Host.Outcome.next (if_neg (Nat.not_lt.mpr hnew))

/-- A field of a number, as a bit vector of its length. -/
theorem ofNat_bitsN (x hi lo : Nat) : BitVec.ofNat (hi + 1 - lo) (bitsN x hi lo) = BitVec.ofNat (hi + 1 - lo) (x / 2 ^ lo) := by
  apply BitVec.eq_of_toNat_eq
  rw [BitVec.toNat_ofNat, BitVec.toNat_ofNat, bitsN, Nat.mod_mod]

/-- What an instruction keeps of a state after a read at the owning point, it keeps of the state before, but for the L2. -/
theorem DeviceKept.before_read {s s1 t : State} {gr : Group} (hl2 : L2Kept s s1) (h : DeviceKept (s1.setCur gr) t) :
    DeviceKept s { t with l2 := s.l2, hotPending := s.hotPending, moved := s.moved } := by
  have ht : t = { s1 with cur := t.cur, charged := t.charged, cycles := t.cycles } :=
    congrArg (fun u : State => { u with cur := t.cur, charged := t.charged, cycles := t.cycles }) h
  rw [L2Kept] at hl2
  rw [ht, hl2]
  rfl

/-- Writing a predicate after a role's fields is writing it before them. -/
theorem setC_withRole (gr : Group) (n : BitVec 4) (new : Nat) (prio : BitVec 2) (vector : PC) (cq : BitVec 3) :
    (gr.withRole n new prio vector).setC cq true = { (gr.setC cq true) with
      roleNone := false, roleIdx := n, prio := prio, prioCap := prio, trapv := vector, xwords := new
      xregs := (gr.withRole n new prio vector).xregs } := by
  unfold Group.setC
  split <;> rfl

theorem roleSwitch : Claims.RoleSwitch := by
  intro s g cq n hon hp gr ia
  refine ⟨fun hcnt => ?_, ?_⟩
  · exact congrArg Host.Outcome.next ((uniDo_enabled hon).trans (if_pos hcnt))
  · intro hcnt halign d hclass hfate e new hnew
    have hnewbits : bitsN e 41 32 = new := rfl
    obtain ⟨s1, hl2, hexec⟩ := role_read (cq := cq) hon hp hcnt halign hclass hfate hnew
    have hcur : s1.cur = s.cur := hl2.read.cur
    have hfits : s1.roleFits s.cur (bitsN e 41 32) = s.roleFits s.cur new := by rw [hl2]; rfl
    rw [hfits, hcur] at hexec
    refine ⟨fun hmore hnofit => ⟨_, hexec.trans (congrArg Host.Outcome.next (if_pos ⟨hmore, by simp [gr, hnofit]⟩)), ?_⟩,
      fun hroom => ?_⟩
    · exact ((hl2.setCur _).retireWith _).same
    · let role := s.cur.withRole n (bitsN e 41 32) (BitVec.ofNat 2 (bitsN e 43 42)) (BitVec.ofNat 30 (bitsN e 29 0))
      let u := s1.setCur (role.setC cq true)
      have hrole : rebook (u.retire 1).cur s.cur = role.setC cq true := retire_setC_rebook (s := s.setCur role) rfl 1
      have hxregs : (u.retire 1).cur.xregs = role.xregs := by
        rw [← congrArg Group.xregs (setC_withRole s.cur n _ _ _ cq), ← hrole]
        rfl
      have hprio : BitVec.ofNat 2 (bitsN e 43 42) = BitVec.ofNat 2 (e / 2 ^ 42) := ofNat_bitsN e 43 42
      have hvector : BitVec.ofNat 30 (bitsN e 29 0) = BitVec.ofNat 30 e :=
        (ofNat_bitsN e 29 0).trans (by rw [Nat.pow_zero, Nat.div_one])
      have hno : ¬(s.cur.xwords < bitsN e 41 32 ∧ !s.roleFits s.cur new) := by
        rintro ⟨hmore, hnofit⟩
        rcases hroom with h | h
        · exact absurd hmore (Nat.not_lt.mpr h)
        · simp [gr, h] at hnofit
      refine ⟨u.retire 1, hexec.trans (congrArg Host.Outcome.next (if_neg hno)), DeviceKept.before_read hl2 (retireTo_kept u _),
        hrole.trans ?_, fun l hl k => ?_⟩
      · rw [setC_withRole, hxregs, hprio, hvector]
        rfl
      · rw [hxregs]
        exact get_withRole_xregs s.cur n _ _ _ hl k

/-! ### Late accesses do not depend on the charges (R303, R327) -/

section
variable (x : SMap Nat × SMap Nat) (s : State)

theorem countHot_recharge (part line : Nat) : (recharge x s).countHot part line = recharge x (s.countHot part line) := by
  unfold State.countHot
  rw [show (recharge x s).homeLeaf part line = s.homeLeaf part line from rfl]
  split <;> rfl

theorem evictLine_recharge (part line : Nat) : (recharge x s).evictLine part line = recharge x (s.evictLine part line) := by
  unfold State.evictLine
  rw [show (recharge x s).l2 = s.l2 from rfl, show (recharge x s).moved = s.moved from rfl]
  dsimp only
  split
  · exact countHot_recharge x { s with l2 := SMap.set none s.l2 line none, moved := SMap.set none s.moved line none } part line
  · rfl

theorem makeRoom_recharge (slice : Nat) : (recharge x s).makeRoom slice = recharge x (s.makeRoom slice) := by
  unfold State.makeRoom
  rw [show (recharge x s).l2 = s.l2 from rfl, show (recharge x s).now = s.now from rfl,
    show (recharge x s).ownerOf = s.ownerOf from rfl, show (recharge x s).partOfLine = s.partOfLine from rfl]
  dsimp only
  split
  · rfl
  · split
    · rfl
    · split
      · exact evictLine_recharge x s _ _
      · rfl

theorem touchLine_recharge (part line : Nat) (wr : Bool) : (recharge x s).touchLine part line wr = recharge x (s.touchLine part line wr) := by
  unfold State.touchLine
  rw [show (recharge x s).l2 = s.l2 from rfl, show (recharge x s).homeLeaf part line = s.homeLeaf part line from rfl]
  dsimp only
  split
  · split <;> rfl
  · cases s.homeLeaf part line with
    | none => exact countHot_recharge x { s with l2 := SMap.set none s.l2 line (some wr) } part line
    | some h =>
      dsimp only
      rw [makeRoom_recharge]
      exact countHot_recharge x { s.makeRoom h.1 with l2 := SMap.set none (s.makeRoom h.1).l2 line (some wr) } part line

theorem touch_recharge (part : Nat) (d : Dest) (n : Nat) (wr : Bool) : (recharge x s).touch part d n wr = recharge x (s.touch part d n wr) :=
  List.foldl_hom (recharge x) fun s line => touchLine_recharge x s part line wr

theorem markRead_recharge (part : Nat) (d : Dest) (n reader : Nat) :
    (recharge x s).markRead part d n reader = recharge x (s.markRead part d n reader) := by
  unfold State.markRead
  rw [touch_recharge]
  dsimp only
  rw [show (recharge x s).bare = s.bare from rfl, show (recharge x s).runsOf part d n = s.runsOf part d n from rfl]
  split
  · rfl
  · exact List.foldl_hom (recharge x) fun _ _ => rfl

theorem healByte_recharge (stage : Bool) (addr : Nat) : (recharge x s).healByte stage addr = recharge x (s.healByte stage addr) := by
  unfold State.healByte
  rw [show (recharge x s).poisoned = s.poisoned from rfl]
  dsimp only
  split <;> rfl

theorem healBytes_recharge (stage : Bool) : ∀ (n : Nat) (s : State) (a : Nat),
    (recharge x s).healBytes stage a n = recharge x (s.healBytes stage a n)
  | 0, _, _ => rfl
  | n + 1, s, a => by
    rw [State.healBytes, healByte_recharge]
    exact healBytes_recharge stage n _ (a + 1)

/-- Poison that a write heals where there is any. -/
theorem heal_recharge (c stage : Bool) (a n : Nat) : (if c then recharge x s else (recharge x s).healBytes stage a n) =
    recharge x (if c then s else s.healBytes stage a n) := by
  cases c
  · exact healBytes_recharge x stage n s a
  · rfl

theorem writeDest_recharge (part : Nat) (d : Dest) (bs : List Byte) (writer : Nat) :
    (recharge x s).writeDest part d bs writer = recharge x (s.writeDest part d bs writer) := by
  cases d with
  | paged ia =>
    simp only [State.writeDest]
    rw [show (recharge x s).walk part ia = s.walk part ia from rfl]
    split
    case h_1 pa _ _ _ _ _ =>
      have hheal := heal_recharge x s (s.poison.isEmpty && s.failed.isEmpty) false pa bs.length
      rw [show (if ((recharge x s).poison.isEmpty && (recharge x s).failed.isEmpty) = true then recharge x s
        else (recharge x s).healBytes false pa bs.length) = _ from hheal]
      generalize (if (s.poison.isEmpty && s.failed.isEmpty) = true then s else _) = s1
      have htouch := touch_recharge x { s1 with mem := writeBytes s1.mem pa bs } part (.paged ia) bs.length true
      rw [show State.touch { recharge x s1 with mem := writeBytes (recharge x s1).mem pa bs } part (.paged ia) bs.length true = _ from htouch,
        show (recharge x s).bare = s.bare from rfl]
      generalize State.touch _ part (.paged ia) bs.length true = s2
      split
      · rfl
      · split <;> rfl
    · rfl
  | stage b =>
    simp only [State.writeDest]
    have hheal := heal_recharge x s s.poison.isEmpty true b bs.length
    rw [show (if (recharge x s).poison.isEmpty = true then recharge x s else (recharge x s).healBytes true b bs.length) = _ from hheal,
      show (recharge x s).bare = s.bare from rfl]
    split <;> rfl
  | peer q ia => rfl
  | host a => rfl
  | aperture q base off desc => rfl

/-- A pair of a state with other charges, and a group. -/
def rechargeFst (r : State × Group) : State × Group := (recharge x r.1, r.2)

theorem runLate_recharge (gr : Group) (y : Late) : (recharge x s).runLate gr y false = rechargeFst x (s.runLate gr y false) := by
  unfold State.runLate
  cases y.act with
  | store bs => exact Prod.ext (writeDest_recharge x s _ _ _ _) rfl
  | load z d ls => exact Prod.ext (markRead_recharge x s _ _ _ _) rfl
  | uload z d => exact Prod.ext (markRead_recharge x s _ _ _ _) rfl
  | atom op dbl d v y l =>
    refine Prod.ext (writeDest_recharge x s _ _ _ _) ?_
    cases l <;> rfl

theorem performLate_recharge (gr : Group) (k : Nat) : (recharge x s).performLate gr k false = rechargeFst x (s.performLate gr k false) := by
  unfold State.performLate
  split
  · rfl
  · split
    · rfl
    · rw [runLate_recharge]
      rfl

theorem performAll_recharge (gr : Group) : (recharge x s).performAll gr = rechargeFst x (s.performAll gr) :=
  List.foldl_hom (rechargeFst x) (g₁ := fun r _ => r.1.performLate r.2 0 false) (g₂ := fun r _ => r.1.performLate r.2 0 false)
    (init := (s, gr)) fun r _ => performLate_recharge x r.1 r.2 0

/-- Performing the late accesses after another charge is charging after performing them. -/
theorem flushLate_recharge : (recharge x s).flushLate = recharge x s.flushLate := by
  unfold State.flushLate
  rw [show (recharge x s).cur = s.cur from rfl]
  split
  · rfl
  · dsimp only
    rw [performAll_recharge]
    rfl

end

/-! ### The streams of a group that has pushed nothing (R183, R197) -/

/-- Of two states the second differs at most in messages to the outside. -/
def OutKept (s t : State) : Prop := t = { s with out := t.out }

theorem OutKept.refl (s : State) : OutKept s s := rfl

theorem OutKept.trans {s t u : State} (h1 : OutKept s t) (h2 : OutKept t u) : OutKept s u := Eq.trans h2 (by rw [h1])

theorem reportFault_out (s : State) (part ia : Nat) : OutKept s (s.reportFault part ia) := by
  unfold State.reportFault; split <;> rfl

/-- Writing the oldest element of a port where it waits is no more than a report of the page it waits for. -/
theorem streamStore_waits {s : State} {gr : Group} {p : Port} (h : ∀ d, s.streamFate gr p (p.elemAddr p.pos) false true ≠ .go d) :
    OutKept s (s.streamStore gr p).1 := by
  unfold State.streamStore
  split
  · rfl
  · dsimp only
    split
    case h_1 d hd => exact absurd hd (h d)
    case h_2 => rfl
    case h_3 => exact reportFault_out s _ _
    case h_4 => rfl

theorem pushedFate_some {s : State} {gr : Group} {q : Nat} {f : Fate} (h : s.pushedFate gr q = some f) :
    s.streamFate gr (gr.port q).refilled ((gr.port q).refilled.elemAddr (gr.port q).refilled.pos) false true = f := by
  unfold State.pushedFate at h
  dsimp only at h
  split at h
  · exact Option.some.inj h
  · cases h

theorem writePush_waits {s : State} {gr : Group} {q : Nat} (h : s.pushWaits gr q = true) : OutKept s (s.writePush gr q).1 := by
  have hsame : ∀ f, s.pushedFate gr q = some f → (∀ d, f ≠ .go d) →
      OutKept s (s.streamStore gr (gr.port q).refilled).1 := by
    rintro f hf hgo
    exact streamStore_waits fun d hd => hgo d ((pushedFate_some hf).symm.trans hd)
  unfold State.pushWaits at h
  unfold State.writePush
  dsimp only
  split at h
  case h_1 ia hf => rw [hf]; exact hsame _ hf (by simp)
  case h_2 hf => rw [hf]; exact hsame _ hf (by simp)
  case h_3 => cases h

theorem flushPorts_out {s : State} {gr : Group} (h : gr.pushes = []) : OutKept s (s.flushPorts gr).1 := by
  unfold State.flushPorts
  rw [h]
  refine foldl_kept (R := fun a b : State × Group => OutKept a.1 b.1) (fun a => OutKept.refl a.1) (fun h1 h2 => h1.trans h2)
    (fun a q => ?_) _ (s, gr)
  split
  case isTrue h => exact writePush_waits h
  case isFalse => rfl

/-! ### `exit` (R44, R149) -/

/-- Of two states the second differs at most in launches, consumers, and messages to the outside. -/
def LaunchKept (s t : State) : Prop := t = { s with launches := t.launches, parts := t.parts, nextKey := t.nextKey, out := t.out }

theorem consumerLaunch_kept (s : State) (part n : Nat) : LaunchKept s (s.consumerLaunch part n) := by
  unfold State.consumerLaunch
  split
  · rfl
  · refine iteInduction (fun _ => rfl) fun _ => ?_
    split
    · rw [LaunchKept, reportFault_out s part _]
    · rfl
    · rfl

theorem consumerFree_kept (s : State) (part n first : Nat) : LaunchKept s (s.consumerFree part n first) := by
  unfold State.consumerFree
  rw [LaunchKept, consumerLaunch_kept]

theorem dropLaunch_kept (s : State) (key : Nat) : LaunchKept s (s.dropLaunch key) := by
  unfold State.dropLaunch
  split
  · rfl
  · split
    · rfl
    · dsimp only
      split
      · rfl
      · rw [LaunchKept, consumerFree_kept]

theorem endSections_kept (s : State) (key core : Nat) : s.endSections key core = { s with clusters := (s.endSections key core).clusters } := by
  unfold State.endSections
  dsimp only
  split <;> rfl

/-- While the context in focus is free, the end of a phase leaves it so, and keeps the keys of every group. -/
theorem completeOnce_idle {s : State} (hidle : s.cur = Group.idle) (cohort : Nat) : (s.completeOnce cohort).cur = Group.idle ∧
    (s.completeOnce cohort).others.map (·.key) = s.others.map (·.key) ∧ (s.completeOnce cohort).saved.map (·.key) = s.saved.map (·.key) := by
  rcases completeOnce_cases s cohort with hs | ⟨c, -, -, hs⟩
  · rw [hs]; exact ⟨hidle, rfl, rfl⟩
  · have hlive : s.cur.live = false := by rw [hidle]; rfl
    have hkeys : ∀ l : List Group, (l.map (wakeIn c)).map (·.key) = l.map (·.key) := fun l => by
      rw [List.map_map]; exact List.map_congr_left fun x _ => wakeIn_key c x
    rw [hs]
    exact ⟨by rw [phaseEnd, hlive]; exact hidle, hkeys _, hkeys _⟩

/-- No group of a key is a member of the cohort, or has arrived at its barrier. -/
def Uncounted (key cohort : Nat) (s : State) : Prop := ∀ x ∈ s.cohorts, x.key = cohort → key ∉ x.members ∧ key ∉ x.arrived

/-- The next phase counts no group that is there no more. -/
theorem completeOnce_uncounted {key cohort : Nat} {s : State} (hidle : s.cur = Group.idle)
    (hgone : key ∉ (s.others ++ s.saved).map (·.key)) (h : Uncounted key cohort s) : Uncounted key cohort (s.completeOnce cohort) := by
  rcases completeOnce_cases s cohort with hs | ⟨c, hkey, hc, hs⟩
  · rwa [hs]
  · subst hkey
    rw [hs]
    intro x hx hxk
    obtain ⟨y, hy, rfl⟩ := List.mem_map.mp hx
    by_cases hyk : y.key = c.key
    · rw [if_pos hyk]
      refine ⟨fun hmem => ?_, fun harr => (h c (List.mem_of_find?_eq_some hc) rfl).2 (List.mem_of_mem_filter harr)⟩
      obtain ⟨gr, hgr, hgk⟩ := List.mem_map.mp hmem
      have hheld : gr ∈ s.others ++ s.saved := by simpa [State.groups, hidle, Group.idle] using List.mem_of_mem_filter hgr
      exact hgone (List.mem_map.mpr ⟨gr, hheld, hgk⟩)
    · rw [if_neg hyk] at hxk
      exact absurd hxk hyk

/-- With its last group the cohort is gone. -/
theorem leaveCohort_last {s : State} {key : Nat} {c : Cohort} (hc : s.cohorts.find? (fun x => x.key == c.key) = some c)
    (h : ∀ x ∈ s.groups ++ s.saved, x.cohort ≠ c.key) :
    LaunchKept { s with cohorts := s.cohorts.filter fun x => x.key != c.key } (s.leaveCohort key c.key) := by
  have hnone : ¬((s.groups ++ s.saved).any fun gr => gr.cohort == c.key) = true := by
    simp only [List.any_eq_true, beq_iff_eq]
    exact fun ⟨x, hx, hxc⟩ => h x hx hxc
  unfold State.leaveCohort
  rw [hc]
  dsimp only
  rw [if_neg hnone]
  exact dropLaunch_kept _ _

/-- A cohort with another group counts the group no more. -/
theorem leaveCohort_stays {s : State} {key : Nat} {c : Cohort} (hc : s.cohorts.find? (fun x => x.key == c.key) = some c)
    (hidle : s.cur = Group.idle) (h : ∃ x ∈ s.groups ++ s.saved, x.cohort = c.key) :
    (s.leaveCohort key c.key).cur = Group.idle ∧ (s.leaveCohort key c.key).others.map (·.key) = s.others.map (·.key) ∧
      (key ∉ (s.others ++ s.saved).map (·.key) → Uncounted key c.key (s.leaveCohort key c.key)) := by
  have hsome : ((s.groups ++ s.saved).any fun gr => gr.cohort == c.key) = true := by
    simpa only [List.any_eq_true, beq_iff_eq] using h
  let s1 : State := { s with cohorts := s.cohorts.map fun x => if x.key = c.key then
    { x with members := x.members.filter fun k => k != key, arrived := x.arrived.filter fun k => k != key } else x }
  have hleave : s.leaveCohort key c.key = (s1.completeOnce c.key).completeOnce c.key := by
    unfold State.leaveCohort
    rw [hc]
    exact if_pos hsome
  have huncounted : Uncounted key c.key s1 := by
    intro x hx hxk
    obtain ⟨y, hy, rfl⟩ := List.mem_map.mp hx
    by_cases hyk : y.key = c.key
    · simp [hyk]
    · rw [if_neg hyk] at hxk
      exact absurd hxk hyk
  have hidle1 : s1.cur = Group.idle := hidle
  obtain ⟨hidle2, hothers1, hsaved1⟩ := completeOnce_idle hidle1 c.key
  obtain ⟨hidle3, hothers2, -⟩ := completeOnce_idle hidle2 c.key
  rw [hleave]
  refine ⟨hidle3, hothers2.trans hothers1, fun hgone => ?_⟩
  have hgone2 : key ∉ ((s1.completeOnce c.key).others ++ (s1.completeOnce c.key).saved).map (·.key) := by
    rwa [List.map_append, hothers1, hsaved1, ← List.map_append]
  exact completeOnce_uncounted hidle2 hgone2 (completeOnce_uncounted hidle1 hgone huncounted)

/-- The state in which a group's context is free, its cohort still to lose it: nothing else changes but streams and sections. -/
def Freed (s t : State) : Prop := t = { s with cur := Group.idle, draining := t.draining, clusters := t.clusters, out := t.out }

theorem endGroup_frees {s : State} (hp : s.flushLate.cur.pushes = []) (hs : s.flushLate.cur.sections = []) (pc : PC) :
    ∃ t : State, s.endGroup pc = t.leaveCohort s.flushLate.cur.key s.flushLate.cur.cohort ∧ Freed s.flushLate t := by
  obtain ⟨u, hu⟩ : ∃ u, s.flushLate.endSections s.flushLate.cur.key s.flushLate.cur.core = u := ⟨_, rfl⟩
  obtain ⟨v, gr, hd⟩ : ∃ v gr, u.endStreams s.flushLate.cur = (v, gr) := ⟨_, _, rfl⟩
  have hsections : u = { s.flushLate with clusters := u.clusters } := hu ▸ endSections_kept _ _ _
  have hout : v = { u with out := v.out } := by
    have hfst : (u.flushPorts s.flushLate.cur).1 = v := by rw [← State.endStreams_fst, hd]
    exact hfst ▸ flushPorts_out hp
  refine ⟨{ v with cur := Group.idle, draining := if gr.pushesLeft then v.draining ++ [gr] else v.draining }, ?_, ?_⟩
  · unfold State.endGroup
    dsimp only
    rw [hs, List.foldl_nil, hu, hd]
  · rw [Freed]
    dsimp only
    rw [hout, hsections]

/-- The context of a group that exits is free, with its stores performed; its cohort is still to lose it. -/
theorem exit_frees {s : State} {g : BitVec 3} (hon : Enabled s g []) (hp : s.cur.pushes = []) (hs : s.cur.sections = []) :
    ∃ t : State, exec (.exit g) s = .next (t.leaveCohort s.cur.key s.cur.cohort) ∧ t.cur = Group.idle ∧ t.others = s.others ∧
      t.saved = s.saved ∧ t.cohorts = s.cohorts ∧ t.mem = s.flushLate.mem ∧ t.stage = s.flushLate.stage := by
  have hexec : exec (.exit g) s = .next (s.chargeCycle.endGroup s.cur.path.pc) := congrArg Host.Outcome.next (uniDo_enabled hon)
  have hflush : s.chargeCycle.flushLate = recharge (chargeAll s.cycle s.cur.regions (s.charged, s.cycles)) s.flushLate := by
    rw [chargeCycle_eq]
    exact flushLate_recharge _ s
  obtain ⟨hwrite, hlate⟩ := flushLate_kept s
  have hothers : s.flushLate.others = s.others := hwrite.others
  have hsaved : s.flushLate.saved = s.saved := hwrite.saved
  have hcohorts : s.flushLate.cohorts = s.cohorts := hwrite.cohorts
  have hcur : s.chargeCycle.flushLate.cur = s.flushLate.cur := by rw [hflush]; rfl
  obtain ⟨t, hend, hfreed⟩ := endGroup_frees (s := s.chargeCycle) (by rw [hcur, hlate]; exact hp) (by rw [hcur, hlate]; exact hs)
    s.cur.path.pc
  rw [hcur, show s.flushLate.cur.key = s.cur.key by rw [hlate], show s.flushLate.cur.cohort = s.cur.cohort by rw [hlate]] at hend
  rw [Freed, hflush] at hfreed
  refine ⟨t, by rw [hexec, hend], ?_, ?_, ?_, ?_, ?_, ?_⟩
  all_goals rw [hfreed]
  · exact hothers
  · exact hsaved
  · exact hcohorts
  · rfl
  · rfl

theorem groupExit : Claims.GroupExit := by
  intro s g c hon hlive hp hs hc
  obtain ⟨t, hexec, hidle, hothers, hsaved, hcohorts, hmem, hstage⟩ := exit_frees hon hp hs
  have hkey : c.key = s.cur.cohort := by simpa using List.find?_some hc
  have hheld : t.groups ++ t.saved = s.others ++ s.saved := by simp [State.groups, hidle, Group.idle, hothers, hsaved]
  have hc' : t.cohorts.find? (fun x => x.key == c.key) = some c := by rw [hcohorts, hkey, hc]
  have hstores := State.leaveCohort_stores t s.cur.key c.key
  refine ⟨_, hexec, ?_⟩
  rw [← hkey]
  by_cases hlast : ∃ x ∈ s.others ++ s.saved, x.cohort = c.key
  · obtain ⟨hcur, hkeys, huncounted⟩ := leaveCohort_stays (key := s.cur.key) hc' hidle (by rwa [hheld])
    refine ⟨hcur, by rw [hkeys, hothers], hstores.mem.trans hmem, hstores.stage.trans hstage, fun hnone => ?_, fun _ hgone => ?_⟩
    · obtain ⟨x, hx, hxc⟩ := hlast
      exact absurd hxc (hnone x hx)
    · exact huncounted (by rwa [hothers, hsaved])
  · have hnone : ∀ x ∈ t.groups ++ t.saved, x.cohort ≠ c.key := by
      rw [hheld]
      exact fun x hx hxc => hlast ⟨x, hx, hxc⟩
    have hleft := leaveCohort_last (key := s.cur.key) hc' hnone
    rw [LaunchKept] at hleft
    refine ⟨?_, ?_, hstores.mem.trans hmem, hstores.stage.trans hstage, fun _ => ?_, fun hsome => absurd hsome hlast⟩
    all_goals rw [hleft]
    · exact hidle
    · rw [hothers]
    · rw [hcohorts]

/-- Settles O16: a child for a parent, the entry of a role, and the end of a group, each through the operations of its instruction. -/
theorem groupLife : Obligations.GroupLife := ⟨spawning, roleSwitch, groupExit⟩

/-! ### A refused launch of a consumer (R277, R300, R302) -/

/-- A consumer whose one held record is due, its template in the Stage. -/
def dueConsumer : Consumer :=
  { n := 0, batch := 1, rsz := 0, ringcap := 1, ring := 0, tmpl := stageWindow, tail := 0, held := [(0, 0)], batches := [(0, 1, false)] }

/-- A partition that owns the first lines of the Stage, with that consumer. -/
def consumerPart : Partition :=
  { n := 0, clusters := 1, stageMiB := 1, rangeIA := 0, ranges := [], root := 0, halted := false, consumers := [dueConsumer]
    peers := [], exports := [], shadow := Shadow.empty }

/-- A batch launch of the consumer, whose entry names no group at all: refusal reason 1. -/
def emptyBatch : Launch :=
  { key := 1, part := 0, entry := 0, addr := 0, precond := 0, eligible := true, nextCid := 0, skipped := none, reserved := false
    cls := 0, lastRead := 0, queued := true, consumer := some (0, 0, 1) }

/-- The device with that launch, whose key is also the next free key. -/
def staleKey : State := { State.reset with parts := [consumerPart], launches := [emptyBatch], nextKey := 1 }

theorem staleKey_launch : staleKey.launch? 0 1 = some emptyBatch := by decide +kernel

theorem staleKey_part : staleKey.part? 0 = some consumerPart := by decide +kernel

theorem emptyBatch_pending : emptyBatch.pending = true := by decide +kernel

theorem staleKey_refusal : staleKey.refusal consumerPart emptyBatch = some 1 := by decide +kernel

/-- The next state holds a launch of key 1 that has cohorts to dispatch. -/
def keepsPending (o : Out) : Bool :=
  match o with
  | .next t => t.launches.any fun x : Launch => x.key == 1 && x.pending
  | _ => false

/-- The refusal frees the consumer's batch, and its next batch is launched under the key of the refused launch. -/
theorem staleKey_refused : keepsPending (execLaunchRefused 0 1 staleKey) = true := by decide +kernel

/-- Refutes O43: where the next free key is that of a refused launch which is a consumer's, freeing its batch launches the consumer's next
batch under the same key (R277), and that launch is pending. -/
theorem not_launchScheduling : ¬ Obligations.LaunchScheduling := by
  rintro ⟨hqueue, -⟩
  obtain ⟨-, hrefused, -⟩ := hqueue staleKey 0 1 emptyBatch staleKey_launch
  obtain ⟨t, ht, -, -, -, hclosed, -⟩ := hrefused consumerPart 1 staleKey_part emptyBatch_pending staleKey_refusal
  have hpending : keepsPending (.next t) = true := ht ▸ staleKey_refused
  obtain ⟨x, hx, hkey⟩ := List.any_eq_true.mp hpending
  obtain ⟨hone, hx_pending⟩ := Bool.and_eq_true_iff.mp hkey
  have hdone := (hclosed x hx (beq_iff_eq.mp hone)).2
  rw [hx_pending] at hdone
  exact absurd hdone (by decide)

end Sys2Proof.Execution
end

section

/-!
PROOFS. The number formats: the device right after reset, lane float forms, compares and conversions, rounding, tiles and their products,
and the frames of the register instructions.
-/

namespace Sys2Proof.Numbers
open Sys2Proof Sys2Proof.Machine Sys2Proof.Claims

/-! ### The device right after reset (R64, R191, R230, R320) -/

/-- Breakpoint k of the default curve is a fraction equal to k / 8 - 1 (R64). -/
theorem defaultBreak_fraction : ∀ k < 17, let q := (ieeeF32.decode (defaultBreak k).toNat).toQ
    q.num * 8 = ((k : Int) - 8) * q.den ∧ q.den ≠ 0 := by decide +kernel

theorem rat_defaultBreak {k : Nat} (hk : k ≤ 16) : FNum.rat (ieeeF32.decode (defaultBreak k).toNat) = (k : ℚ) / 8 - 1 := by
  obtain ⟨hnum, hden⟩ := defaultBreak_fraction k (by omega)
  unfold FNum.rat
  generalize (ieeeF32.decode (defaultBreak k).toNat).toQ = q at hnum hden
  have hden' : (q.den : ℚ) ≠ 0 := by exact_mod_cast hden
  have hnum' : (q.num : ℚ) * 8 = ((k : ℚ) - 8) * q.den := by exact_mod_cast hnum
  field_simp
  linear_combination hnum'

/-- Settles O60: every field of the reset state is its own, and every table holds the default curve. -/
theorem resetState : Obligations.ResetState := by
  refine ⟨?canonical, rfl, rfl, rfl, rfl, rfl, rfl, rfl, rfl, rfl, rfl, rfl, fun a => ⟨rfl, rfl, rfl, rfl⟩, ?slots, ?curves⟩
  case canonical => exact ⟨rfl, rfl, rfl⟩
  case slots => intro e; cases e <;> rfl
  case curves => exact fun core n k hk => rat_defaultBreak hk

/-! ### Lane float instructions (R60) -/

theorem addFlags_zero (gr : Group) : gr.addFlags 0 = gr := by
  have h : gr.fsr ||| (0 : FFlags).setWidth 32 = gr.fsr := BitVec.or_zero
  rw [Group.addFlags, h]

section
variable {s : State} {g : BitVec 3} {len : Nat} {srcs : List Reg} {flags : Nat → FFlags} {write : Mask → Group → Group}

/-- With no flag enabled a lane float instruction writes in all its lanes, adds their flags and retires. -/
theorem laneFloat_quiet (hr : s.cur.pendingOn srcs = false) (he : s.cur.fpEnables = 0) 
    (h0 : s.cur.todo g = 0 → write 0 s.cur = s.cur) :
    laneFloat len g srcs s flags write =
      (s.setCur ((write (s.cur.todo g) s.cur).addFlags (raised (s.cur.todo g) fun l => ((), flags l)))).retire len := by
  have hbad : (maskOf fun l => (s.cur.todo g).getLsbD l && s.cur.fpTraps (flags l)) = 0 :=
    Execution.eq_maskOf fun l _ => by simp [Group.fpTraps, he]
  unfold laneFloat
  by_cases hm : s.cur.todo g = 0
  · have hraised : raised 0 (fun l => ((), flags l)) = 0 := rfl
    simp only [hm, if_true, h0 hm]
    rw [hraised, addFlags_zero, State.setCur_self]
  · have hgood : s.cur.todo g &&& ~~~(0 : Mask) = s.cur.todo g := by
      rw [show ~~~(0 : Mask) = BitVec.allOnes 64 from rfl, BitVec.and_allOnes]
    simp only [if_neg hm, hr, hbad, hgood, Bool.false_eq_true, if_false, if_true]
    rfl

/-- Lanes that raise an enabled flag trap FP, and the others complete. -/
theorem laneFloat_traps (hr : s.cur.pendingOn srcs = false) :
    TrapsTo s len g flags (fun good => write good s.cur) (.next (laneFloat len g srcs s flags write)) := by
  intro bad good hbad hall hapart htrap hquiet
  have hin : ∀ l, (s.cur.todo g).getLsbD l = (bad.getLsbD l || good.getLsbD l) := fun l => by rw [← hall, BitVec.getLsbD_or]
  have hbits : ∀ l, (bad.getLsbD l && good.getLsbD l) = false := fun l => by
    rw [← BitVec.getLsbD_and, hapart]; exact BitVec.getLsbD_zero
  have hm : s.cur.todo g ≠ 0 := fun h0 => hbad (BitVec.or_eq_zero_iff.mp (hall.trans h0)).1
  have hmask : (maskOf fun l => (s.cur.todo g).getLsbD l && s.cur.fpTraps (flags l)) = bad :=
    Execution.eq_maskOf fun l hl => by
      have hb := hbits l
      rw [hin l]
      cases hx : bad.getLsbD l with
      | true => simpa [Group.fpTraps] using htrap l hl hx
      | false => cases hy : good.getLsbD l with
        | true => simpa [Group.fpTraps] using hquiet l hl hy
        | false => rfl
  have hgood : s.cur.todo g &&& ~~~bad = good := BitVec.eq_of_getLsbD_eq fun l hl => by
    have hb := hbits l
    rw [BitVec.getLsbD_and, BitVec.getLsbD_not, hin l, decide_eq_true hl]
    revert hb
    cases bad.getLsbD l <;> cases good.getLsbD l <;> decide
  unfold laneFloat
  simp only [if_neg hm, hr, hmask, hgood, if_neg hbad, Bool.false_eq_true, if_false]
  rfl

end

/-! ### Float compares (R116, R118) -/

theorem newPd_combine (ct : CType) (g c old : Bool) : ((combine ct g c).1).getD old = newPd ct g c old := by
  cases ct <;> revert g c old <;> decide

theorem newPe_combine (ct : CType) (g c old : Bool) : ((combine ct g c).2).getD old = newPe ct g c old := by
  cases ct <;> revert g c old <;> decide

/-- A lane predicate after what a compare gives it. -/
theorem getLsbD_setPredWhere (gr : Group) (n k : BitVec 3) (f : Nat → Option Bool) (hk : k ≠ 7) {l : Nat} (hl : l < 64) :
    ((gr.setPredWhere n f).pred k).getLsbD l = if k = n then (f l).getD ((gr.pred n).getLsbD l) else (gr.pred k).getLsbD l := by
  unfold Group.setPredWhere
  by_cases hn : n = 7
  · subst hn
    rw [if_neg hk]
    rfl
  · rw [Group.pred_setPred gr n k _ _ hn]
    by_cases hkn : k = n
    · rw [if_pos hkn, if_pos hkn, BitVec.getLsbD_or, BitVec.getLsbD_and, BitVec.getLsbD_and, BitVec.getLsbD_not, getLsbD_maskOf,
        getLsbD_maskOf, decide_eq_true hl]
      cases f l <;> simp
    · rw [if_neg hkn, if_neg hkn]

/-- A compare changes predicates alone. -/
theorem compare_eq (gr : Group) (m gm c : Mask) (pd pe : BitVec 3) (ct : CType) :
    gr.compare m gm c pd pe ct = { gr with p := (gr.compare m gm c pd pe ct).p } := by
  unfold Group.compare Group.setPredWhere Group.setPred
  split <;> split <;> rfl

/-- What a compare under the group's guard leaves in the predicates, in the lanes it compares (R116): pe after pd. -/
theorem compare_in (s : State) (g pd pe : BitVec 3) (ct : CType) (lanes : Mask) (test : Nat → Bool) :
    ComparedIn s g pd pe ct lanes test (s.cur.compare lanes (s.cur.pred g) (maskOf test) pd pe ct) := by
  intro n hn l hl old gd mid
  let f := fun l => if lanes.getLsbD l then combine ct ((s.cur.pred g).getLsbD l) ((maskOf test).getLsbD l) else (none, none)
  have hf : f l = if lanes.getLsbD l then combine ct gd (test l) else (none, none) := by simp only [f, gd, getLsbD_maskOf, hl, decide_true, Bool.true_and]
  have hpd : ((s.cur.setPredWhere pd fun l => (f l).1).pred n).getLsbD l = if lanes.getLsbD l then mid else old := by
    rw [getLsbD_setPredWhere _ pd n _ hn hl, hf]
    by_cases hp : n = pd
    · cases lanes.getLsbD l <;> simp [mid, hp, ← newPd_combine, old]
    · simp [mid, hp, old]
  show (((s.cur.setPredWhere pd fun l => (f l).1).setPredWhere pe fun l => (f l).2).pred n).getLsbD l = _
  rw [getLsbD_setPredWhere _ pe n _ hn hl]
  by_cases he : n = pe
  · rw [if_pos he, ← he, hpd, hf, if_pos rfl, ← newPe_combine]
    cases lanes.getLsbD l <;> rfl
  · rw [if_neg he, hpd, if_neg he]

/-! ### Exact rationals -/

/-- The value of an exact rational. -/
def ratQ (q : Q) : ℚ := (q.num : ℚ) / q.den

theorem rat_eq (x : FNum) : FNum.rat x = ratQ x.toQ := rfl

theorem ratQ_ofInt (n : Int) : ratQ (Q.ofInt n) = n := by simp [ratQ, Q.ofInt]

theorem ratQ_zero : ratQ Q.zero = 0 := by simp [ratQ, Q.zero]

theorem ratQ_neg (q : Q) : ratQ q.neg = -ratQ q := by simp [ratQ, Q.neg, neg_div]

/-- A scaled integer is that integer times the power of two. -/
theorem ratQ_scale (m e : Int) : ratQ (Q.scale m e) = m * (2 : ℚ) ^ e := by
  unfold Q.scale ratQ
  by_cases h : 0 ≤ e
  · obtain ⟨k, rfl⟩ := Int.eq_ofNat_of_zero_le h
    simp
  · obtain ⟨k, hk⟩ := Int.eq_ofNat_of_zero_le (show 0 ≤ -e by omega)
    rw [if_neg h, hk]
    have he : e = -(k : Int) := by omega
    simp [he, div_eq_mul_inv]

theorem den_scale (m e : Int) : 0 < (Q.scale m e).den := by
  unfold Q.scale; split <;> positivity

theorem ratQ_mul (a b : Q) : ratQ (a.mul b) = ratQ a * ratQ b := by
  simp [ratQ, Q.mul, div_mul_div_comm]

theorem den_mul {a b : Q} (ha : 0 < a.den) (hb : 0 < b.den) : 0 < (a.mul b).den := Nat.mul_pos ha hb

/-- The three ways of adding give the same sum. -/
theorem ratQ_add {a b : Q} (ha : 0 < a.den) (hb : 0 < b.den) : ratQ (a.add b) = ratQ a + ratQ b := by
  have ha' : (a.den : ℚ) ≠ 0 := by positivity
  have hb' : (b.den : ℚ) ≠ 0 := by positivity
  unfold Q.add ratQ
  split
  · rename_i h
    obtain ⟨k, hk⟩ := Nat.dvd_of_mod_eq_zero h
    have hk' : a.den / b.den = k := by rw [hk, Nat.mul_div_cancel_left _ hb]
    have hkq : (a.den : ℚ) = b.den * k := by exact_mod_cast hk
    have hk0 : (k : ℚ) ≠ 0 := fun h0 => ha' (by rw [hkq, h0, mul_zero])
    simp only [hk']
    push_cast
    rw [hkq]
    field_simp
  · split
    · rename_i h
      obtain ⟨k, hk⟩ := Nat.dvd_of_mod_eq_zero h
      have hk' : b.den / a.den = k := by rw [hk, Nat.mul_div_cancel_left _ ha]
      have hkq : (b.den : ℚ) = a.den * k := by exact_mod_cast hk
      have hk0 : (k : ℚ) ≠ 0 := fun h0 => hb' (by rw [hkq, h0, mul_zero])
      simp only [hk']
      push_cast
      rw [hkq]
      field_simp
    · push_cast
      field_simp

theorem den_add {a b : Q} (ha : 0 < a.den) (hb : 0 < b.den) : 0 < (a.add b).den := by
  unfold Q.add
  split
  · exact ha
  · split
    · exact hb
    · exact Nat.mul_pos ha hb

theorem den_neg {a : Q} (ha : 0 < a.den) : 0 < a.neg.den := ha

theorem ratQ_sub {a b : Q} (ha : 0 < a.den) (hb : 0 < b.den) : ratQ (a.sub b) = ratQ a - ratQ b := by
  rw [Q.sub, ratQ_add ha (den_neg hb), ratQ_neg, sub_eq_add_neg]

theorem den_sub {a b : Q} (ha : 0 < a.den) (hb : 0 < b.den) : 0 < (a.sub b).den := den_add ha (den_neg hb)

theorem ratQ_div (a b : Q) : ratQ (a.div b) = ratQ a / ratQ b := by
  have habs : ((b.num.natAbs : ℕ) : ℚ) = |(b.num : ℚ)| := by rw [Nat.cast_natAbs, Int.cast_abs]
  unfold Q.div ratQ
  rw [div_div_div_eq]
  split
  · rename_i h
    have h' : (b.num : ℚ) < 0 := by exact_mod_cast h
    push_cast
    rw [habs, abs_of_neg h', mul_neg, neg_div_neg_eq]
  · rename_i h
    have h' : (0 : ℚ) ≤ b.num := by exact_mod_cast not_lt.mp h
    push_cast
    rw [habs, abs_of_nonneg h']

theorem den_div {a b : Q} (ha : 0 < a.den) (hb : b.num ≠ 0) : 0 < (a.div b).den := by
  unfold Q.div
  split <;> exact Nat.mul_pos ha (Int.natAbs_pos.mpr hb)

section
variable {a b : Q}

theorem lt_iff (ha : 0 < a.den) (hb : 0 < b.den) : a.lt b = true ↔ ratQ a < ratQ b := by
  have ha' : (0 : ℚ) < a.den := by positivity
  have hb' : (0 : ℚ) < b.den := by positivity
  unfold Q.lt ratQ
  rw [decide_eq_true_iff, div_lt_div_iff₀ ha' hb']
  exact_mod_cast Iff.rfl

theorem le_iff (ha : 0 < a.den) (hb : 0 < b.den) : a.le b = true ↔ ratQ a ≤ ratQ b := by
  have ha' : (0 : ℚ) < a.den := by positivity
  have hb' : (0 : ℚ) < b.den := by positivity
  unfold Q.le ratQ
  rw [decide_eq_true_iff, div_le_div_iff₀ ha' hb']
  exact_mod_cast Iff.rfl

theorem eqv_iff (ha : 0 < a.den) (hb : 0 < b.den) : a.eqv b = true ↔ ratQ a = ratQ b := by
  have ha' : (a.den : ℚ) ≠ 0 := by positivity
  have hb' : (b.den : ℚ) ≠ 0 := by positivity
  unfold Q.eqv ratQ
  rw [decide_eq_true_iff, div_eq_div_iff ha' hb']
  exact_mod_cast Iff.rfl

theorem num_eq_zero (ha : 0 < a.den) : a.num = 0 ↔ ratQ a = 0 := by
  have ha' : (a.den : ℚ) ≠ 0 := by positivity
  unfold ratQ
  rw [div_eq_zero_iff, or_iff_left ha']
  exact_mod_cast Iff.rfl

theorem num_nonneg (ha : 0 < a.den) : 0 ≤ a.num ↔ 0 ≤ ratQ a := by
  have ha' : (0 : ℚ) < a.den := by positivity
  unfold ratQ
  rw [le_div_iff₀ ha', zero_mul]
  exact_mod_cast Iff.rfl

theorem num_pos (ha : 0 < a.den) : 0 < a.num ↔ 0 < ratQ a := by
  have ha' : (0 : ℚ) < a.den := by positivity
  unfold ratQ
  rw [lt_div_iff₀ ha', zero_mul]
  exact_mod_cast Iff.rfl

theorem floor_eq (a : Q) : a.floor = ⌊ratQ a⌋ := by
  rw [Q.floor, ratQ, Rat.floor_intCast_div_natCast]

end

/-! ### Numbers of a format -/

/-- A finite number has a positive denominator and no negative magnitude: what every decoded code has. -/
def SoundNum : FNum → Prop
  | .fin _ m => 0 ≤ m.num ∧ 0 < m.den
  | _ => True

theorem soundNum_scale (neg : Bool) (m : Nat) (e : Int) : SoundNum (.fin neg (Q.scale m e)) := by
  refine ⟨?_, den_scale _ _⟩
  unfold Q.scale
  split <;> simp

theorem soundNum_decode (p : IEEE) (c : Nat) : SoundNum (p.decode c) := by
  unfold IEEE.decode
  simp only []
  split
  · split <;> trivial
  · split
    · exact soundNum_scale _ _ _
    · exact soundNum_scale _ _ _

theorem rat_fin (neg : Bool) (m : Q) : FNum.rat (.fin neg m) = if neg then -ratQ m else ratQ m := by
  rw [rat_eq, FNum.toQ]
  split
  · exact ratQ_neg m
  · rfl

theorem den_toQ {x : FNum} (h : SoundNum x) : 0 < x.toQ.den := by
  cases x with
  | nan | inf => exact Nat.one_pos
  | fin neg m => cases neg <;> exact h.2

/-! ### The order of numbers (R113, R118) -/

section
variable {x y : FNum}

theorem cmp_fin (na nb : Bool) (ma mb : Q) : (FNum.fin na ma).cmp (.fin nb mb) =
    if (FNum.fin na ma).toQ.eqv (FNum.fin nb mb).toQ then 0 else if (FNum.fin na ma).toQ.lt (FNum.fin nb mb).toQ then -1 else 1 := rfl

/-- Two numbers compare equal where they are one infinity, or finite and of one value. -/
theorem cmp_eq_zero (hx : SoundNum x) (hy : SoundNum y) (hxn : x.isNan = false) (hyn : y.isNan = false) :
    x.cmp y = 0 ↔ x.isInf = true ∧ x = y ∨ (x.isInf = false ∧ y.isInf = false) ∧ FNum.rat x = FNum.rat y := by
  match x, y with
  | .nan _, _ => cases hxn
  | .inf _, .nan _ | .fin _ _, .nan _ => cases hyn
  | .inf na, .inf nb => cases na <;> cases nb <;> decide
  | .inf na, .fin _ _ => cases na <;> simp [FNum.cmp, FNum.isInf]
  | .fin _ _, .inf nb => cases nb <;> simp [FNum.cmp, FNum.isInf]
  | .fin na ma, .fin nb mb =>
    rw [cmp_fin, rat_eq, rat_eq, ← eqv_iff (den_toQ hx) (den_toQ hy)]
    cases (FNum.fin na ma).toQ.eqv (FNum.fin nb mb).toQ <;> cases (FNum.fin na ma).toQ.lt (FNum.fin nb mb).toQ <;> simp [FNum.isInf]

/-- One number compares below another where it is −∞ or the other +∞, or by their values. -/
theorem cmp_neg (hx : SoundNum x) (hy : SoundNum y) (hxn : x.isNan = false) (hyn : y.isNan = false) :
    x.cmp y < 0 ↔ x ≠ y ∧ (x = .inf true ∨ y = .inf false) ∨ (x.isInf = false ∧ y.isInf = false) ∧ FNum.rat x < FNum.rat y := by
  match x, y with
  | .nan _, _ => cases hxn
  | .inf _, .nan _ | .fin _ _, .nan _ => cases hyn
  | .inf na, .inf nb => cases na <;> cases nb <;> decide
  | .inf na, .fin _ _ => cases na <;> simp [FNum.cmp, FNum.isInf]
  | .fin _ _, .inf nb => cases nb <;> simp [FNum.cmp, FNum.isInf]
  | .fin na ma, .fin nb mb =>
    have hne : (FNum.fin na ma).toQ.eqv (FNum.fin nb mb).toQ = true → ¬FNum.rat (.fin na ma) < FNum.rat (.fin nb mb) := fun h =>
      not_lt_of_ge ((eqv_iff (den_toQ hx) (den_toQ hy)).mp h).ge
    rw [cmp_fin]
    rw [rat_eq, rat_eq, ← lt_iff (den_toQ hx) (den_toQ hy)] at hne ⊢
    cases he : (FNum.fin na ma).toQ.eqv (FNum.fin nb mb).toQ
    · cases (FNum.fin na ma).toQ.lt (FNum.fin nb mb).toQ <;> simp [FNum.isInf]
    · simpa [FNum.isInf] using hne he

end

/-- What `fcmp` tests and raises (R118). -/
theorem fcmpTest_means (p : IEEE) (o : FcmpOp) (a b : Nat) : fcmpMeans p o a b (fcmpTest p o a b).1 (fcmpTest p o a b).2 := by
  have hsx := soundNum_decode p a
  have hsy := soundNum_decode p b
  unfold fcmpMeans fcmpTest
  generalize p.decode a = x at hsx
  generalize p.decode b = y at hsy
  by_cases hun : x.isNan = true ∨ y.isNan = true
  · have hun' : (x.isNan || y.isNan) = true := by simpa using hun
    simp only [if_pos hun, hun']
    cases o <;> simp [flagIf]
  · obtain ⟨hx, hy⟩ : x.isNan = false ∧ y.isNan = false := by simpa using hun
    have hsig : x.isSnan = false ∧ y.isSnan = false := by
      cases x <;> cases y <;> simp_all [FNum.isNan, FNum.isSnan]
    have heq := cmp_eq_zero hsx hsy hx hy
    have hlt := cmp_neg hsx hsy hx hy
    simp only [if_neg hun]
    rw [← heq, ← hlt]
    cases o <;> simp [flagIf, hx, hy, hsig] <;> omega

/-- Settles O6: an `fcmp` tests as R118 says, and in the lanes that do not trap it writes its predicates by its combining type. -/
theorem floatCompares : Obligations.FloatCompares := by
  intro s g pd pe a b op ct ff hready hu m out
  let r := fun l => fcmpTest (ieeeOf ff) op (fval s ff a l) (fval s ff b l)
  let write := fun (good : Mask) (gr : Group) => gr.compare (gr.fcmpLanes g good).1 (gr.fcmpLanes g good).2
    (maskOf fun l => (r l).1) pd pe ct
  have hout : out = .next (laneFloat 2 g (fregs ff a ++ fregs ff b) s (fun l => (r l).2) write) := rfl
  have htodo : s.cur.todo g = m := s.cur.todo_none g hu
  have hlanes : ∀ good, s.cur.fcmpLanes g good = (s.cur.emask &&& (~~~(s.cur.pred g) ||| good), s.cur.pred g) := fun good => by
    unfold Group.fcmpLanes; rw [hu]; rfl
  have hwrite : ∀ good lanes, s.cur.emask &&& (~~~(s.cur.pred g) ||| good) = lanes →
      write good s.cur = { s.cur with p := (write good s.cur).p } ∧ ComparedIn s g pd pe ct lanes (fun l => (r l).1) (write good s.cur) := by
    intro good lanes hgood
    refine ⟨compare_eq _ _ _ _ _ _ _, ?_⟩
    simp only [write, hlanes, hgood]
    exact compare_in s g pd pe ct lanes _
  refine ⟨fun h0 => ?_, fun hm => ⟨fun l => (r l).1, fun l => (r l).2, fun l _ => fcmpTest_means _ _ _ _, fun he => ?_, fun bad hbad hall => ?_⟩⟩
  · rw [hout, laneFloat, htodo, if_pos h0]
  · refine ⟨(write m s.cur).p, ?_, ?_⟩
    · rw [hout, laneFloat_quiet hready he fun h0 => absurd (htodo.symm.trans h0) hm, htodo, ← (hwrite m _ rfl).1]
    · have hm' : s.cur.emask &&& (~~~(s.cur.pred g) ||| m) = s.cur.emask := BitVec.eq_of_getLsbD_eq fun l hl => by
        simp only [m, Group.acting, BitVec.getLsbD_and, BitVec.getLsbD_or, BitVec.getLsbD_not, decide_eq_true hl]
        cases s.cur.emask.getLsbD l <;> cases (s.cur.pred g).getLsbD l <;> rfl
      rw [← (hwrite m _ rfl).1]
      exact (hwrite m _ hm').2
  · have hunion : bad ||| m &&& ~~~bad = m := BitVec.eq_of_getLsbD_eq fun l hl => by
      have hsub : bad.getLsbD l = true → m.getLsbD l = true := fun h => ((hall l hl).mp h).1
      simp only [BitVec.getLsbD_and, BitVec.getLsbD_or, BitVec.getLsbD_not, decide_eq_true hl]
      revert hsub
      cases bad.getLsbD l <;> cases m.getLsbD l <;> decide
    have hapart : bad &&& (m &&& ~~~bad) = 0 := BitVec.eq_of_getLsbD_eq fun l hl => by
      simp only [BitVec.getLsbD_and, BitVec.getLsbD_not, decide_eq_true hl]
      cases bad.getLsbD l <;> simp
    have hgood : s.cur.emask &&& (~~~(s.cur.pred g) ||| m &&& ~~~bad) = s.cur.emask &&& ~~~bad :=
      BitVec.eq_of_getLsbD_eq fun l hl => by
        have hsub : bad.getLsbD l = true → m.getLsbD l = true := fun h => ((hall l hl).mp h).1
        simp only [m, Group.acting, BitVec.getLsbD_and, BitVec.getLsbD_or, BitVec.getLsbD_not, decide_eq_true hl] at hsub ⊢
        revert hsub
        cases bad.getLsbD l <;> cases s.cur.emask.getLsbD l <;> cases (s.cur.pred g).getLsbD l <;> decide
    refine ⟨(write (m &&& ~~~bad) s.cur).p, ?_, ?_⟩
    · rw [← (hwrite (m &&& ~~~bad) _ rfl).1, hout]
      refine laneFloat_traps hready bad (m &&& ~~~bad) hbad (hunion.trans htodo.symm) hapart (fun l hl h => ((hall l hl).mp h).2)
        fun l hl h => ?_
      by_contra hne
      rw [BitVec.getLsbD_and, BitVec.getLsbD_not, Bool.and_eq_true] at h
      have hb := (hall l hl).mpr ⟨h.1, hne⟩
      simp [hb] at h
    · rw [← (hwrite (m &&& ~~~bad) _ rfl).1]
      exact (hwrite _ _ hgood).2

/-! ### Frames: a reissue acts in the lanes it left unfinished (R101, R173, R225) -/

/-- A live group without an acting lane whose instruction has lane 0 still to do. -/
def midway : State := { State.reset with cur := { Group.idle with live := true, unfinished := some 1 } }

/-- An `fclass` of the group in focus. -/
def classify : Instr := .fclass 7 0 1 .f32

/-- The state after it. -/
def classified : State := floatExec 2 7 .f32 0 [1] midway fun gr l => (2 ^ classBit ieeeF32 (gr.fsrc .f32 1 l), 0)

theorem exec_classify : exec classify midway = .next classified := rfl

theorem midway_acting : (midway.cur.acting 7).getLsbD 0 = false := by decide +kernel

theorem classified_runs : classified.cur.live = true ∧ classified.cur.trapc = midway.cur.trapc ∧ classified.cur.pendingTrap = none := by
  decide +kernel

/-- Lane 0 does not act, and its register has changed. -/
theorem classified_lane : lane (classified.cur.vreg 0) 0 = 64 ∧ lane (midway.cur.vreg 0) 0 = 0 := by decide +kernel

/-- Refutes O55: a lane float form in the middle of its lanes acts in those it left unfinished (R173, R225), whatever its guard, and the
frame speaks of a group in any state, so also of one whose unfinished lanes are no acting lanes. -/
theorem not_registerFrames : ¬ Obligations.RegisterFrames := by
  rintro ⟨hlane, -, -⟩
  obtain ⟨-, hfloat⟩ := hlane midway classified 7 0 0 1 0 0 0 0 0 0 .up false .add .f32 .rne .f32 .f32 classify exec_classify
  obtain ⟨hshort, -⟩ := hfloat classified_runs
  obtain ⟨-, -, hkept⟩ := hshort (by simp [classify])
  have hsame := hkept 0 0 (by decide) (.inr midway_acting)
  rw [classified_lane.1, classified_lane.2] at hsame
  exact absurd hsame (by decide)

/-! ### Tile instructions (R98, R231, R251) -/

section
variable {s : State} {g : BitVec 3} {len : Nat} {i : Instr} {tiles : List Nat} {srcs rs : List Reg} {f : State → State}

/-- A tile instruction that is ready has its effect. -/
theorem tileDo_ready (h : TilesReady s g tiles rs) (hr : s.cur.pendingOn srcs = false) : tileDo i len g tiles srcs s f = f s := by
  obtain ⟨⟨hg, -⟩, htiles⟩ := h
  have hin : (tiles.any fun t => decide (s.cur.tileCount ≤ t)) = false := by
    simpa using fun t ht => (htiles t ht).1
  have hfree : (tiles.any fun t => s.tileAwaited (s.cur.tile t)) = false := by
    simpa using fun t ht => (htiles t ht).2
  unfold tileDo
  rw [hin, if_neg Bool.false_ne_true, uniDo_eq len g srcs s _ hg hr, hfree, if_neg Bool.false_ne_true]

/-- A tile beyond the allotment is ILL, whatever the guard. -/
theorem tileDo_beyond {t : Nat} (ht : t ∈ tiles) (h : s.cur.tileCount ≤ t) : tileDo i len g tiles srcs s f = s.illegalInstr i := by
  have hout : (tiles.any fun t => decide (s.cur.tileCount ≤ t)) = true := List.any_eq_true.mpr ⟨t, ht, decide_eq_true h⟩
  unfold tileDo
  rw [hout, if_pos rfl]

end

/-! ### Tile configurations (R231, R232, R236) -/

theorem ofCode_code_le : ∀ c : BitVec 4, c.toNat ≤ 10 → (Fmt.ofCode c).code.toNat ≤ 10 := by decide

/-- A configuration word passes the checks where R231 and R232 say it is valid. -/
theorem cfgWordOk_iff (w : Word) : cfgWordOk w = true ↔ ValidCfg w := by
  have hcode : (w.extractLsb' 0 4).toNat = w.toNat % 16 := by simp [BitVec.extractLsb'_toNat]
  have hrows : (w.extractLsb' 4 6).toNat = w.toNat / 2 ^ 4 % 2 ^ 6 := by simp [BitVec.extractLsb'_toNat, Nat.shiftRight_eq_div_pow]
  have hcols : (w.extractLsb' 10 10).toNat = w.toNat / 2 ^ 10 % 2 ^ 10 := by simp [BitVec.extractLsb'_toNat, Nat.shiftRight_eq_div_pow]
  unfold cfgWordOk TileCfg.ok ValidCfg TileCfg.ofWord TileCfg.pitch TileCfg.rowBytes
  simp only [hcode, hrows, hcols, Bool.and_eq_true, decide_eq_true_eq]
  constructor
  · rintro ⟨hc, ⟨⟨-, hr⟩, hk⟩, hp⟩
    exact ⟨hc, hr, hk, hp⟩
  · rintro ⟨hc, hr, hk, hp⟩
    exact ⟨hc, ⟨⟨ofCode_code_le _ (by rw [hcode]; exact hc), hr⟩, hk⟩, hp⟩

section
variable {s : State} {k : Nat} {w : Word}

/-- Replacing a tile's data leaves the bytes of every other tile. -/
theorem get_setTile_tiles (bs : List Byte) (a : Nat) (hwf : Memory.wf s.tiles = true) : SMap.get 0 (s.setTile k w bs).tiles a =
    if k * 4096 ≤ a ∧ a < k * 4096 + bs.length then bs.getD (a - k * 4096) 0
    else if a < k * 4096 ∨ (k + 1) * 4096 ≤ a then SMap.get 0 s.tiles a else 0 := by
  have hkeep : Memory.wf (SMap.keep (fun e => decide (e < k * 4096) || decide ((k + 1) * 4096 ≤ e)) s.tiles) = true := SMap.wf_keep 0 _ _ hwf
  show SMap.get 0 (writeBytes (SMap.keep (fun e => decide (e < k * 4096) || decide ((k + 1) * 4096 ≤ e)) s.tiles) (k * 4096) bs) a = _
  rw [get_writeBytes bs _ _ _ hkeep, Execution.get_keep]
  simp

/-- A tile that is cleared reads zero, and every other tile as before. -/
theorem get_clearTile (a : Nat) : SMap.get 0 (s.setTile k w []).tiles a =
    if a < k * 4096 ∨ (k + 1) * 4096 ≤ a then SMap.get 0 s.tiles a else 0 := by
  show SMap.get 0 (SMap.keep (fun e => decide (e < k * 4096) || decide ((k + 1) * 4096 ≤ e)) s.tiles) a = _
  rw [Execution.get_keep]
  simp

theorem get_setTile_cfg (bs : List Byte) (j : Nat) (hwf : SMap.wf 0 s.tileCfg = true) : SMap.get 0 (s.setTile k w bs).tileCfg j =
    if j = k then w else SMap.get 0 s.tileCfg j := SMap.get_set_wf 0 _ _ _ _ hwf

/-- Retirement is the same for states with equal groups and issue cycles. -/
theorem retire_cur_congr {t : State} (hcur : t.cur = s.cur) (hcycle : t.cycle = s.cycle) (len : Nat) :
    (t.retire len).cur = (s.retire len).cur := by
  rw [State.retire_cur, State.retire_cur, hcur, hcycle]

/-- The state without what a tile instruction may change. -/
def untiled (s t : State) : State :=
  { t with cur := s.cur, charged := s.charged, cycles := s.cycles, tileCfg := s.tileCfg, tiles := s.tiles }

/-- A tile instruction that retires after changing tiles and the group in focus changes nothing else. -/
theorem tilesOnly_retire {x : State} (hx : untiled s x = s) (len : Nat) : TilesOnly s (x.retire len) := by
  have hkept : { x.retire len with cur := x.cur, charged := x.charged, cycles := x.cycles } = x := Execution.retireTo_kept x _
  have huntiled := congrArg (untiled s) hkept
  exact Eq.trans huntiled hx

/-- A tile that is configured and cleared, as its instruction leaves it. -/
theorem clearTile_leaves (len : Nat) (hwf : SMap.wf 0 s.tileCfg = true) : let u := (s.setTile k w []).retire len
    TilesOnly s u ∧ OtherTilesKept s u k ∧ SMap.get 0 u.tileCfg k = w ∧ (∀ i < 4096, SMap.get 0 u.tiles (k * 4096 + i) = 0) ∧
      u.cur = (s.retire len).cur := by
  refine ⟨tilesOnly_retire rfl len, fun j hj => ⟨?_, fun o ho => ?_⟩, ?_, fun i hi => ?_,
    retire_cur_congr (s := s) (t := s.setTile k w []) rfl rfl len⟩
  · rw [State.retire_tileCfg, get_setTile_cfg _ _ hwf, if_neg hj]
  · rw [State.retire_tiles, get_clearTile, if_pos (by omega)]
  · rw [State.retire_tileCfg, get_setTile_cfg _ _ hwf, if_pos rfl]
  · rw [State.retire_tiles, get_clearTile, if_neg (by omega)]

end

theorem tileConfiguration : Claims.TileConfiguration := by
  intro s g t b w hready hwf k leaves
  have hcfg : ∀ (x : Word) (len : Nat), (ValidCfg x → leaves (.next (s.configure t.toNat x len)) len (x &&& 0xFFFFF)) ∧
      (¬ValidCfg x → s.configure t.toNat x len = s.takeTrap ⟨7, 0, 0, s.cur.path.mask, len, true⟩) := by
    intro x len
    unfold State.configure
    refine ⟨fun hx => ?_, fun hx => ?_⟩
    · rw [if_pos ((cfgWordOk_iff x).mpr hx)]
      exact ⟨_, rfl, clearTile_leaves len hwf⟩
    · rw [if_neg fun h => hx ((cfgWordOk_iff x).mp h)]
      rfl
  have hreg : exec (.tcfg g t b) s = .next (s.configure t.toNat (uval s b) 1) := congrArg Host.Outcome.next (tileDo_ready hready hready.1.2)
  have himm : exec (.tcfgImm g t w) s = .next (s.configure t.toNat w 2) :=
    congrArg Host.Outcome.next (tileDo_ready hready (Group.pendingOn_nil _))
  have hzero : exec (.tzero g t) s = .next ((s.setTile k (SMap.get 0 s.tileCfg k) []).retire 1) :=
    congrArg Host.Outcome.next (tileDo_ready hready (Group.pendingOn_nil _))
  refine ⟨fun h => ?_, fun h => ?_, fun h => ?_, fun h => ?_, ?_⟩
  · rw [hreg]; exact (hcfg _ 1).1 h
  · rw [himm]; exact (hcfg w 2).1 h
  · rw [hreg, (hcfg _ 1).2 h]
  · rw [himm, (hcfg w 2).2 h]
  · rw [hzero]; exact ⟨_, rfl, clearTile_leaves 1 hwf⟩

/-! ### Tiles beyond the allotment (R98, R231, R241) -/

/-- The words of an ILL instruction of the uniform set, in `trapa` (R98, R218). -/
theorem illegalInstr_uniform (s : State) (i : Instr) (h : Head) (w : Word) (hu : h.uni = true) (hw : h.ext = true ∨ w = 0)
    (hi : i.trapWords = pair h.toWord w) :
    s.illegalInstr i = s.takeTrap ⟨1, 0, i.trapWords, s.cur.path.mask, if h.ext then 2 else 1, false⟩ := by
  have hlo : loWord (pair h.toWord w) = h.toWord := ext_lo _ _
  have hhi : hiWord (pair h.toWord w) = w := (ext_hi w h.toWord 0 32).trans (ext_all w)
  have hext : h.toWord.getLsbD 30 = h.ext := congrArg Head.ext h.ofWord_toWord
  have huni : h.toWord.getLsbD 31 = h.uni := congrArg Head.uni h.ofWord_toWord
  unfold State.illegalInstr State.illegal wordLen
  rw [hi, hlo, hhi]
  simp only [hext, huni, hu, if_true]
  have hword : (if h.ext = true then w else 0) = w := by
    rcases hw with hw | hw
    · rw [if_pos hw]
    · rw [hw, ite_self]
  rw [hword]
  rfl

/-- An ILL of the uniform set with one word or two. -/
def TrapsIll (s : State) (i : Instr) (len : Nat) : Prop :=
  s.illegalInstr i = s.takeTrap ⟨1, 0, i.trapWords, s.cur.path.mask, len, false⟩

theorem trapsIll_one (s : State) (prim : BitVec 6) (g : BitVec 3) (d a b : BitVec 7) {i : Instr}
    (hi : i.trapWords = pair (Head.toWord ⟨true, false, prim, g, d, a, b⟩) 0) : TrapsIll s i 1 :=
  (illegalInstr_uniform s i _ 0 rfl (.inr rfl) hi).trans (by rw [if_neg Bool.false_ne_true])

theorem trapsIll_two (s : State) (prim : BitVec 6) (g : BitVec 3) (d a b : BitVec 7) (w : Word) {i : Instr}
    (hi : i.trapWords = pair (Head.toWord ⟨true, true, prim, g, d, a, b⟩) w) : TrapsIll s i 2 :=
  (illegalInstr_uniform s i _ w rfl (.inl rfl) hi).trans (by rw [if_pos rfl])

theorem mem_tilesFrom {t : BitVec 6} {n x : Nat} : x ∈ tilesFrom t n ↔ ∃ o < n, t.toNat + o = x := by simp [tilesFrom]

/-- A product whose C tiles meet an operand, or one of whose tiles lies beyond the allotment, is ILL. -/
theorem productTiles_ill {s : State} {g : BitVec 3} {i : Instr} {cs as bs : List Nat} {srcs : List Reg} {f : State → State}
    (h : (∃ x ∈ cs, x ∈ as ∨ x ∈ bs) ∨ ∃ x ∈ cs ++ as ++ bs, s.cur.tileCount ≤ x) :
    (if cs.any fun t => as.contains t || bs.contains t then s.illegalInstr i else tileDo i 2 g (cs ++ as ++ bs) srcs s f) =
      s.illegalInstr i := by
  rcases h with ⟨x, hx, hmeet⟩ | ⟨x, hx, hout⟩
  · refine if_pos (List.any_eq_true.mpr ⟨x, hx, ?_⟩)
    simpa using hmeet
  · rw [tileDo_beyond hx hout, ite_self]

/-- The runs of tiles of a product that are ILL, as lists of tiles. -/
theorem productTiles_bad {n q qa qb : Nat} {t ta tb : BitVec 6}
    (h : (0 < q ∧ n < t.toNat + q) ∨ (0 < qa ∧ n < ta.toNat + qa) ∨ (0 < qb ∧ n < tb.toNat + qb) ∨
      (∃ o < q, ∃ j < qa, t.toNat + o = ta.toNat + j) ∨ ∃ o < q, ∃ j < qb, t.toNat + o = tb.toNat + j) :
    (∃ x ∈ tilesFrom t q, x ∈ tilesFrom ta qa ∨ x ∈ tilesFrom tb qb) ∨
      ∃ x ∈ tilesFrom t q ++ tilesFrom ta qa ++ tilesFrom tb qb, n ≤ x := by
  have hlast : ∀ {x : BitVec 6} {run : Nat}, 0 < run ∧ n < x.toNat + run → ∃ y ∈ tilesFrom x run, n ≤ y := fun {x run} h =>
    ⟨x.toNat + (run - 1), mem_tilesFrom.mpr ⟨run - 1, by omega, rfl⟩, by omega⟩
  rcases h with h | h | h | ⟨o, ho, j, hj, he⟩ | ⟨o, ho, j, hj, he⟩
  · obtain ⟨y, hy, hn⟩ := hlast h
    exact .inr ⟨y, by simp [hy], hn⟩
  · obtain ⟨y, hy, hn⟩ := hlast h
    exact .inr ⟨y, by simp [hy], hn⟩
  · obtain ⟨y, hy, hn⟩ := hlast h
    exact .inr ⟨y, by simp [hy], hn⟩
  · exact .inl ⟨_, mem_tilesFrom.mpr ⟨o, ho, rfl⟩, .inl (mem_tilesFrom.mpr ⟨j, hj, he.symm⟩)⟩
  · exact .inl ⟨_, mem_tilesFrom.mpr ⟨o, ho, rfl⟩, .inr (mem_tilesFrom.mpr ⟨j, hj, he.symm⟩)⟩

theorem tilesFrom_one (t : BitVec 6) : tilesFrom t 1 = [t.toNat] := rfl

theorem tileAllotment : Claims.TileAllotment := by
  intro s g t ta tb d a b c gx w k obs order stage off dst rnd z i n q beyond octets meets ill
  have hone : ∀ {x : BitVec 6}, n ≤ x.toNat → 0 < 1 ∧ n < x.toNat + 1 := fun h => ⟨Nat.one_pos, Nat.lt_succ_of_le h⟩
  refine ⟨fun ht hi => ?_, fun ht hi => ?_, fun ht hi => ?_, fun h hi => ?_, fun h hi => ?_, fun h hi => ?_, fun h hi => ?_⟩
  · simp only [List.mem_cons, List.not_mem_nil, or_false] at hi
    have hout : ∀ {srcs f}, tileDo i 1 g [t.toNat] srcs s f = s.illegalInstr i := tileDo_beyond (by simp) ht
    have htrap : TrapsIll s i 1 := by rcases hi with rfl | rfl <;> exact trapsIll_one s _ _ _ _ _ rfl
    rcases hi with rfl | rfl <;> exact congrArg Host.Outcome.next (hout.trans htrap)
  · simp only [List.mem_cons, List.not_mem_nil, or_false] at hi
    have hout : ∀ {srcs f}, tileDo i 2 g [t.toNat] srcs s f = s.illegalInstr i := tileDo_beyond (by simp) ht
    have htrap : TrapsIll s i 2 := by
      rcases hi with rfl | rfl | rfl | rfl | rfl <;> exact trapsIll_two s _ _ _ _ _ _ rfl
    rcases hi with rfl | rfl | rfl | rfl | rfl <;> exact congrArg Host.Outcome.next (hout.trans htrap)
  · simp only [List.mem_cons, List.not_mem_nil, or_false] at hi
    have hout : ∀ {srcs f}, tileDo i 2 g [t.toNat, ta.toNat] srcs s f = s.illegalInstr i := by
      rcases ht with ht | ht <;> exact tileDo_beyond (by simp) ht
    have htrap : TrapsIll s i 2 := by rcases hi with rfl | rfl <;> exact trapsIll_two s _ _ _ _ _ _ rfl
    rcases hi with rfl | rfl <;> exact congrArg Host.Outcome.next (hout.trans htrap)
  · subst hi
    have hbad := productTiles_bad (qb := 1) (h.imp_right (Or.imp_right (Or.imp_left hone)))
    exact congrArg Host.Outcome.next ((productTiles_ill hbad).trans (trapsIll_two s _ _ _ _ _ _ rfl))
  · subst hi
    have hbad := productTiles_bad (qa := 1) (h.imp_right (Or.imp_left hone))
    exact congrArg Host.Outcome.next ((productTiles_ill hbad).trans (trapsIll_two s _ _ _ _ _ _ rfl))
  · subst hi
    exact congrArg Host.Outcome.next ((productTiles_ill (productTiles_bad h)).trans (trapsIll_two s _ _ _ _ _ _ rfl))
  · subst hi
    exact congrArg Host.Outcome.next ((productTiles_ill (productTiles_bad h)).trans (trapsIll_two s _ _ _ _ _ _ rfl))

/-! ### Elements of tiles (R50, R232) -/

theorem leNat_lt : ∀ bs : List Byte, leNat bs < 256 ^ bs.length
  | [] => Nat.one_pos
  | b :: bs => by
    have ih := leNat_lt bs
    have hb : b.toNat < 256 := b.isLt
    rw [leNat, List.length_cons, pow_succ]
    omega

/-- A width divides a byte or is a whole number of bytes. -/
theorem width_cases (f : Fmt) : f.width = 2 ∨ f.width = 4 ∨ f.width = 8 ∨ f.width = 16 ∨ f.width = 32 ∨ f.width = 64 := by
  cases f <;> decide

/-- The byte at which element (r, k) of a tile begins, and the bytes it lies in. -/
def elemOff (c : TileCfg) (r k : Nat) : Nat := r * c.pitch + k * c.fmt.width / 8
def elemLen (c : TileCfg) : Nat := (c.fmt.width + 7) / 8

theorem tileElem_eq (s : State) (t : Nat) (c : TileCfg) (r k : Nat) : s.tileElem t c r k =
    leNat (readBytes s.tiles (t * 4096 + elemOff c r k) (elemLen c)) / 2 ^ (k * c.fmt.width % 8) % 2 ^ c.fmt.width := rfl

section
variable {c : TileCfg} {r k i j : Nat}

/-- An element lies in its row. -/
theorem elem_in_row (hk : k < c.cols) : r * c.pitch ≤ elemOff c r k ∧ elemOff c r k + elemLen c ≤ (r + 1) * c.pitch := by
  have hpitch : c.rowBytes ≤ c.pitch := by unfold TileCfg.pitch; omega
  have hrow : k * c.fmt.width / 8 + elemLen c ≤ c.rowBytes := by
    unfold elemLen TileCfg.rowBytes
    rcases width_cases c.fmt with h | h | h | h | h | h <;> rw [h] <;> omega
  rw [Nat.add_mul, Nat.one_mul]
  unfold elemOff
  omega

/-- An element lies in its tile. -/
theorem elem_in_tile (hr : r < c.rows) (hk : k < c.cols) (hc : c.rows * c.pitch ≤ 4096) : elemOff c r k + elemLen c ≤ 4096 :=
  ((elem_in_row hk).2.trans (Nat.mul_le_mul_right _ hr)).trans hc

/-- Elements of different rows lie in different bytes. -/
theorem elem_apart_rows (hir : i < r) (hj : j < c.cols) (hk : k < c.cols) : elemOff c i j + elemLen c ≤ elemOff c r k :=
  ((elem_in_row hj).2.trans (Nat.mul_le_mul_right _ hir)).trans (elem_in_row hk).1

/-- Two elements lie in different bytes, or in one byte at different bits. -/
theorem elem_apart (hj : j < c.cols) (hk : k < c.cols) (hne : ¬(i = r ∧ j = k)) :
    elemOff c i j + elemLen c ≤ elemOff c r k ∨ elemOff c r k + elemLen c ≤ elemOff c i j ∨
      (elemOff c i j = elemOff c r k ∧ (c.fmt.width = 2 ∨ c.fmt.width = 4) ∧ j * c.fmt.width % 8 ≠ k * c.fmt.width % 8) := by
  rcases Nat.lt_trichotomy i r with h | rfl | h
  · exact .inl (elem_apart_rows h hj hk)
  · have hjk : j ≠ k := fun h => hne ⟨rfl, h⟩
    unfold elemOff elemLen
    generalize i * c.pitch = row
    rcases width_cases c.fmt with h | h | h | h | h | h <;> rw [h] <;> omega
  · exact .inr (.inl (elem_apart_rows h hk hj))

end

/-- A field of a number after another field, or the same, is replaced: fields of 2 or 4 bits in a byte. -/
theorem replaced_field {x w a b v : Nat} (hw : w = 2 ∨ w = 4) (hx : x < 256) (hv : v < 2 ^ w) (ha : a < 8) (hb : b < 8)
    (haw : a % w = 0) (hbw : b % w = 0) :
    (x - x / 2 ^ a % 2 ^ w * 2 ^ a + v * 2 ^ a) % 256 / 2 ^ b % 2 ^ w = if b = a then v else x / 2 ^ b % 2 ^ w := by
  rcases hw with rfl | rfl
  · obtain rfl | rfl | rfl | rfl : a = 0 ∨ a = 2 ∨ a = 4 ∨ a = 6 := by omega
    all_goals
      obtain rfl | rfl | rfl | rfl : b = 0 ∨ b = 2 ∨ b = 4 ∨ b = 6 := by omega
      all_goals
        simp only [Nat.reducePow, Nat.reduceEqDiff, Nat.div_one, Nat.mul_one, reduceIte] at hv ⊢
        omega
  · obtain rfl | rfl : a = 0 ∨ a = 4 := by omega
    all_goals
      obtain rfl | rfl : b = 0 ∨ b = 4 := by omega
      all_goals
        simp only [Nat.reducePow, Nat.reduceEqDiff, Nat.div_one, Nat.mul_one, reduceIte] at hv ⊢
        omega

/-- The bytes that a write of an element's code puts in its place. -/
def elemBytes (s : State) (t : Nat) (c : TileCfg) (r k code : Nat) : List Byte :=
  let old := leNat (readBytes s.tiles (t * 4096 + elemOff c r k) (elemLen c))
  let lo := 2 ^ (k * c.fmt.width % 8)
  leBytes (elemLen c) (old - old / lo % 2 ^ c.fmt.width * lo + code % 2 ^ c.fmt.width * lo)

section
variable {s : State} {t : Nat} {c : TileCfg} {r k code : Nat}

theorem setTileElem_tiles : (s.setTileElem t c r k code).tiles =
    writeBytes s.tiles (t * 4096 + elemOff c r k) (elemBytes s t c r k code) := rfl

theorem setTileElem_wf (hwf : Memory.wf s.tiles = true) : Memory.wf (s.setTileElem t c r k code).tiles = true :=
  wf_writeBytes _ _ _ hwf

theorem elemBytes_length : (elemBytes s t c r k code).length = elemLen c := length_leBytes _ _

/-- A byte outside an element's place is as before its write. -/
theorem get_setTileElem {a : Nat} (hwf : Memory.wf s.tiles = true)
    (ha : a < t * 4096 + elemOff c r k ∨ t * 4096 + elemOff c r k + elemLen c ≤ a) :
    SMap.get 0 (s.setTileElem t c r k code).tiles a = SMap.get 0 s.tiles a := by
  rw [setTileElem_tiles, get_writeBytes _ _ _ _ hwf, elemBytes_length, if_neg (by omega)]

theorem setTileElem_others (hr : r < c.rows) (hk : k < c.cols) (hc : c.rows * c.pitch ≤ 4096) (hwf : Memory.wf s.tiles = true) :
    OtherTilesKept s (s.setTileElem t c r k code) t := by
  intro j hj
  refine ⟨rfl, fun o ho => get_setTileElem hwf ?_⟩
  have := elem_in_tile hr hk hc
  omega

/-- An element after a write of one: the written code in its place, every other as it was. -/
theorem tileElem_setTileElem {i j : Nat} (hk : k < c.cols) (hj : j < c.cols) (hwf : Memory.wf s.tiles = true) :
    (s.setTileElem t c r k code).tileElem t c i j =
      if i = r ∧ j = k then code % 2 ^ c.fmt.width else s.tileElem t c i j := by
  have hlen := elemBytes_length (s := s) (t := t) (c := c) (r := r) (k := k) (code := code)
  have hsame : leNat (readBytes (s.setTileElem t c r k code).tiles (t * 4096 + elemOff c r k) (elemLen c)) =
      (leNat (readBytes s.tiles (t * 4096 + elemOff c r k) (elemLen c)) -
        leNat (readBytes s.tiles (t * 4096 + elemOff c r k) (elemLen c)) / 2 ^ (k * c.fmt.width % 8) % 2 ^ c.fmt.width *
          2 ^ (k * c.fmt.width % 8) + code % 2 ^ c.fmt.width * 2 ^ (k * c.fmt.width % 8)) % 256 ^ elemLen c := by
    rw [setTileElem_tiles]
    have hread := readBytes_writeBytes_same s.tiles (t * 4096 + elemOff c r k) (elemBytes s t c r k code) hwf
    rw [hlen] at hread
    rw [hread, elemBytes, leNat_leBytes]
  have hold := leNat_lt (readBytes s.tiles (t * 4096 + elemOff c r k) (elemLen c))
  rw [length_readBytes] at hold
  have hnew : code % 2 ^ c.fmt.width < 2 ^ c.fmt.width := Nat.mod_lt _ (by positivity)
  rw [tileElem_eq, tileElem_eq]
  by_cases hsmall : c.fmt.width = 2 ∨ c.fmt.width = 4
  case pos =>
    have hone : elemLen c = 1 := by unfold elemLen; rcases hsmall with h | h <;> rw [h]
    have hmod : ∀ k, k * c.fmt.width % 8 % c.fmt.width = 0 := fun k => by rcases hsmall with h | h <;> rw [h] <;> omega
    by_cases hplace : elemOff c i j = elemOff c r k
    · have hsamebit : j * c.fmt.width % 8 = k * c.fmt.width % 8 ↔ i = r ∧ j = k := by
        constructor
        · intro hbit
          by_contra hne
          rcases elem_apart hj hk hne with h | h | ⟨-, -, h⟩ <;> omega
        · rintro ⟨-, rfl⟩; rfl
      rw [hplace, hsame, hone, pow_one]
      rw [hone, pow_one] at hold
      rw [replaced_field hsmall hold hnew (Nat.mod_lt _ (by decide)) (Nat.mod_lt _ (by decide)) (hmod k) (hmod j)]
      exact if_congr hsamebit rfl rfl
    · have hne : ¬(i = r ∧ j = k) := by rintro ⟨rfl, rfl⟩; exact hplace rfl
      rw [if_neg hne, setTileElem_tiles, readBytes_writeBytes_of_disjoint _ _ _ _ _ hwf (by rw [hlen]; omega)]
  case neg =>
    by_cases heq : i = r ∧ j = k
    · obtain ⟨rfl, rfl⟩ := heq
      have hbits : j * c.fmt.width % 8 = 0 ∧ (256 : Nat) ^ elemLen c = 2 ^ c.fmt.width := by
        unfold elemLen
        rcases width_cases c.fmt with h | h | h | h | h | h
        · exact absurd (.inl h) hsmall
        · exact absurd (.inr h) hsmall
        all_goals rw [h]; exact ⟨by omega, by norm_num⟩
      rw [if_pos ⟨rfl, rfl⟩, hsame, hbits.1, hbits.2, pow_zero, Nat.div_one, Nat.div_one, Nat.mul_one, Nat.mul_one]
      rw [hbits.2] at hold
      rw [Nat.mod_eq_of_lt hold, Nat.sub_self, Nat.zero_add, Nat.mod_mod, Nat.mod_mod]
    · rw [if_neg heq, setTileElem_tiles, readBytes_writeBytes_of_disjoint _ _ _ _ _ hwf]
      rw [hlen]
      rcases elem_apart hj hk heq with h | h | ⟨-, h, -⟩
      · omega
      · omega
      · exact absurd h hsmall

end

theorem validCfg_fits {w : Word} (h : ValidCfg w) : (TileCfg.ofWord w).rows * (TileCfg.ofWord w).pitch ≤ 4096 := by
  have hok := (cfgWordOk_iff w).mpr h
  unfold cfgWordOk TileCfg.ok at hok
  simp only [Bool.and_eq_true, decide_eq_true_eq] at hok
  exact hok.2.2

theorem tileElements : Claims.TileElements := by
  intro s k r c code w hw hwf cfg hr hc t
  refine ⟨setTileElem_wf hwf, setTileElem_others hr hc (validCfg_fits hw) hwf, fun i _ j hj => ?_⟩
  exact tileElem_setTileElem hc hj hwf

/-- Settles O29: configuring and clearing a tile, what is ILL, and the writing of an element, each by the bytes it changes. -/
theorem tiles : Obligations.Tiles := ⟨tileConfiguration, tileAllotment, tileElements⟩

/-! ### Packed tiles (R50, R232, R246) -/

/-- The number whose fields of w bits are the codes d 0, d 1, …, d (n − 1). -/
def fieldSum (w : Nat) (d : Nat → Nat) (n : Nat) : Nat := (List.range n).foldl (fun x m => x + d m % 2 ^ w * 2 ^ (m * w)) 0

theorem fieldSum_succ (w : Nat) (d : Nat → Nat) (n : Nat) : fieldSum w d (n + 1) = fieldSum w d n + d n % 2 ^ w * 2 ^ (n * w) := by
  unfold fieldSum
  rw [List.range_succ, List.foldl_append]
  rfl

theorem fieldSum_lt (w : Nat) (d : Nat → Nat) : ∀ n, fieldSum w d n < 2 ^ (n * w)
  | 0 => by simp [fieldSum]
  | n + 1 => by
    have ih := fieldSum_lt w d n
    have hd : d n % 2 ^ w < 2 ^ w := Nat.mod_lt _ (by positivity)
    rw [fieldSum_succ]
    calc fieldSum w d n + d n % 2 ^ w * 2 ^ (n * w) < (d n % 2 ^ w + 1) * 2 ^ (n * w) := by rw [Nat.add_mul]; omega
      _ ≤ 2 ^ w * 2 ^ (n * w) := Nat.mul_le_mul_right _ hd
      _ = 2 ^ ((n + 1) * w) := by rw [← pow_add]; congr 1; ring

/-- A field of the sum is its code. -/
theorem fieldSum_field (w : Nat) (d : Nat → Nat) (k : Nat) : ∀ n, k < n → fieldSum w d n / 2 ^ (k * w) % 2 ^ w = d k % 2 ^ w
  | n + 1, hk => by
    have hpos : 0 < 2 ^ (k * w) := by positivity
    rw [fieldSum_succ]
    rcases Nat.lt_succ_iff_lt_or_eq.mp hk with h | rfl
    · have hsplit : d n % 2 ^ w * 2 ^ (n * w) = d n % 2 ^ w * 2 ^ ((n - k - 1) * w) * 2 ^ w * 2 ^ (k * w) := by
        obtain ⟨m, rfl⟩ := Nat.exists_eq_add_of_lt h
        rw [show k + m + 1 - k - 1 = m by omega, Nat.mul_assoc, Nat.mul_assoc, ← pow_add, ← pow_add]
        congr 2
        ring
      rw [hsplit, Nat.add_mul_div_right _ _ hpos, Nat.add_mul_mod_self_right]
      exact fieldSum_field w d k n h
    · rw [Nat.add_mul_div_right _ _ hpos, Nat.div_eq_of_lt (fieldSum_lt w d k), Nat.zero_add, Nat.mod_mod]

/-- A packed row is the bytes of the number whose fields are its codes. -/
theorem packRow_eq (w n : Nat) (d : Nat → Nat) :
    packRow w ((List.range n).map d) = leBytes ((n * w + 7) / 8) (fieldSum w d n) := by
  have hzip : ((List.range n).map d).zip (List.range n) = (List.range n).map fun m => (d m, m) := by
    conv_lhs => rw [← List.map_id' (List.range n), List.map_map, List.zip_map']
    rfl
  unfold packRow fieldSum
  rw [List.length_map, List.length_range, hzip, List.foldl_map]

theorem getD_leBytes : ∀ (n x i : Nat), i < n → (leBytes n x).getD i 0 = BitVec.ofNat 8 (x / 256 ^ i)
  | n + 1, x, 0, _ => by rw [pow_zero, Nat.div_one]; rfl
  | n + 1, x, i + 1, h => by
    rw [leBytes, List.getD_cons_succ, getD_leBytes n (x / 256) i (by omega), Nat.div_div_eq_div_mul, pow_succ']

/-- Bytes of a number in a row are the bytes of its part there. -/
theorem leBytes_of_getD (bs : List Byte) (n x off : Nat) (hlen : bs.length = n) (h : ∀ i < n, bs.getD i 0 = BitVec.ofNat 8 (x / 256 ^ (off + i))) :
    bs = leBytes n (x / 256 ^ off) := by
  refine List.ext_getElem (by rw [hlen, length_leBytes]) fun i hi hi' => ?_
  have hn : i < n := hlen ▸ hi
  have hl := h i hn
  have hr := getD_leBytes n (x / 256 ^ off) i hn
  rw [List.getD_eq_getElem?_getD, List.getElem?_eq_getElem hi, Option.getD_some] at hl
  rw [List.getD_eq_getElem?_getD, List.getElem?_eq_getElem hi', Option.getD_some] at hr
  rw [hl, hr, Nat.div_div_eq_div_mul, pow_add]

theorem length_flatMap_range {f : Nat → List Byte} {p : Nat} (hf : ∀ r, (f r).length = p) (n : Nat) :
    ((List.range n).flatMap f).length = n * p := by
  simp [List.length_flatMap, hf]

/-- Lists of one length, joined: the place of an entry. -/
theorem getD_flatMap_range {f : Nat → List Byte} {p r x : Nat} (hf : ∀ r, (f r).length = p) (hx : x < p) :
    ∀ n, r < n → ((List.range n).flatMap f).getD (r * p + x) 0 = (f r).getD x 0
  | n + 1, hr => by
    have hlen := length_flatMap_range hf n
    rw [List.range_succ, List.flatMap_append, List.getD_eq_getElem?_getD, List.getD_eq_getElem?_getD]
    rcases Nat.lt_succ_iff_lt_or_eq.mp hr with h | rfl
    · have hin : r * p + x < n * p := by
        calc r * p + x < (r + 1) * p := by rw [Nat.add_mul]; omega
          _ ≤ n * p := Nat.mul_le_mul_right _ h
      have ih := getD_flatMap_range hf hx n h
      rw [List.getD_eq_getElem?_getD, List.getD_eq_getElem?_getD] at ih
      rw [List.getElem?_append_left (by omega), ih]
    · rw [List.getElem?_append_right (by omega), hlen, Nat.add_sub_cancel_left]
      simp

/-- A field within the low bits of a number. -/
theorem field_mod {y a w n : Nat} (h : a + w ≤ n) : y % 2 ^ n / 2 ^ a % 2 ^ w = y / 2 ^ a % 2 ^ w := by
  obtain ⟨m, rfl⟩ := Nat.exists_eq_add_of_le h
  rw [Nat.add_assoc, pow_add, Nat.mod_mul_right_div_self, pow_add, Nat.mod_mul_right_mod]

section
variable {s : State} {t : Nat} {c : TileCfg} {w : Word} {code : Nat → Nat → Nat}

/-- The row of a packed tile, with its padding. -/
def paddedRow (c : TileCfg) (code : Nat → Nat → Nat) (r : Nat) : List Byte :=
  leBytes c.rowBytes (fieldSum c.fmt.width (code r) c.cols) ++ List.replicate (c.pitch - c.rowBytes) 0

theorem packTile_eq : packTile c code = (List.range c.rows).flatMap (paddedRow c code) := by
  unfold packTile paddedRow TileCfg.rowBytes
  simp only [packRow_eq, length_leBytes]

theorem length_paddedRow (r : Nat) : (paddedRow c code r).length = c.pitch := by
  have hpitch : c.rowBytes ≤ c.pitch := by unfold TileCfg.pitch; omega
  simp only [paddedRow, List.length_append, length_leBytes, List.length_replicate]
  omega

/-- An element of a tile that was packed is its code. -/
theorem tileElem_packTile {r k : Nat} (hr : r < c.rows) (hk : k < c.cols) (hc : c.rows * c.pitch ≤ 4096) (hwf : Memory.wf s.tiles = true) :
    (s.setTile t w (packTile c code)).tileElem t c r k = code r k % 2 ^ c.fmt.width := by
  have hlen : (packTile c code).length = c.rows * c.pitch := by rw [packTile_eq, length_flatMap_range length_paddedRow]
  have hin : k * c.fmt.width / 8 + elemLen c ≤ c.rowBytes := by
    unfold elemLen TileCfg.rowBytes
    rcases width_cases c.fmt with h | h | h | h | h | h <;> rw [h] <;> omega
  have hpitch : c.rowBytes ≤ c.pitch := by unfold TileCfg.pitch; omega
  have hplace := elem_in_tile hr hk hc
  have hend := (elem_in_row (c := c) (r := r) hk).2.trans (Nat.mul_le_mul_right _ hr)
  have hread : readBytes (s.setTile t w (packTile c code)).tiles (t * 4096 + elemOff c r k) (elemLen c) =
      leBytes (elemLen c) (fieldSum c.fmt.width (code r) c.cols / 256 ^ (k * c.fmt.width / 8)) := by
    refine leBytes_of_getD _ _ _ _ (length_readBytes _ _ _) fun i hi => ?_
    have hget : (readBytes (s.setTile t w (packTile c code)).tiles (t * 4096 + elemOff c r k) (elemLen c)).getD i 0 =
        SMap.get 0 (s.setTile t w (packTile c code)).tiles (t * 4096 + elemOff c r k + i) := by
      rw [readBytes, List.getD_eq_getElem?_getD, List.getElem?_map, List.getElem?_range hi]
      rfl
    have hoff : t * 4096 + elemOff c r k + i - t * 4096 = r * c.pitch + (k * c.fmt.width / 8 + i) := by unfold elemOff; omega
    rw [hget, get_setTile_tiles _ _ hwf, if_pos (by omega), hoff, packTile_eq,
      getD_flatMap_range length_paddedRow (by omega) _ hr, paddedRow, List.getD_append _ _ _ _ (by rw [length_leBytes]; omega),
      getD_leBytes _ _ _ (by omega)]
  rw [tileElem_eq, hread, leNat_leBytes, ← fieldSum_field c.fmt.width (code r) k c.cols hk]
  generalize fieldSum c.fmt.width (code r) c.cols = x
  have h256 : ∀ n, (256 : Nat) ^ n = 2 ^ (8 * n) := fun n => by rw [pow_mul]; rfl
  have hsplit : k * c.fmt.width = 8 * (k * c.fmt.width / 8) + k * c.fmt.width % 8 := (Nat.div_add_mod _ _).symm
  have hfit : k * c.fmt.width % 8 + c.fmt.width ≤ 8 * elemLen c := by
    unfold elemLen
    rcases width_cases c.fmt with h | h | h | h | h | h <;> rw [h] <;> omega
  rw [h256, h256, field_mod hfit, Nat.div_div_eq_div_mul, ← pow_add, ← hsplit]

end

/-! ### `quant` (R246, R247) -/

/-- Of two states the second has the first's memory and tiles. -/
def TilesKept (s t : State) : Prop := t.mem = s.mem ∧ t.tiles = s.tiles ∧ t.tileCfg = s.tileCfg

theorem TilesKept.refl (s : State) : TilesKept s s := ⟨rfl, rfl, rfl⟩
theorem TilesKept.trans {s t u : State} (h : TilesKept s t) (k : TilesKept t u) : TilesKept s u :=
  ⟨k.1.trans h.1, k.2.1.trans h.2.1, k.2.2.trans h.2.2⟩

/-- A store to the Stage leaves memory and the tiles. -/
theorem stageWrite_kept (s : State) (a : Nat) (bs : List Byte) : TilesKept s (s.groupWrite (.stage a) bs) := by
  have hpush := Execution.groupWrite_kept s (.stage a) bs
  rw [Execution.PushKept, Execution.WriteKept] at hpush
  refine ⟨?_, (congrArg State.tiles hpush).trans rfl, (congrArg State.tileCfg hpush).trans rfl⟩
  have hheal : (if s.poison.isEmpty then s else s.healBytes true a bs.length).mem = s.mem := by
    split
    · rfl
    · exact (State.healBytes_stores true bs.length s a).mem
  unfold State.groupWrite
  simp only [State.writeDest]
  split <;> exact hheal

theorem writeList_kept (s : State) (first : Nat) (es : List Nat) : TilesKept s (s.writeList first es) :=
  Execution.foldl_kept TilesKept.refl TilesKept.trans (fun s j => stageWrite_kept s (first + 8 * j) _) _ s

/-- The code that `quant` stores for an element, as its elements name it. -/
def quantCode (o : Operand) (qs : List (Nat × Nat × Quantised)) (i k : Nat) : Nat :=
  match qs.find? fun q => q.1 == i && q.2.1 == k with
  | some (_, _, .code c _) => c
  | some (_, _, .elected x) =>
    if ((electedOf qs).take o.cap).any fun e => e.1 == i && e.2.1 == k then escapeCode o.fmt else clampCode o.fmt x.sign
  | none => 0

/-- What `quant` leaves of memory, Stage and tiles. -/
theorem runQuant_leaves (s : State) (t : BitVec 6) (o : Operand) (qs : List (Nat × Nat × Quantised)) :
    let d : TileCfg := ⟨o.fmt, o.cfg.rows, o.cfg.cols⟩
    TilesKept (s.setTile (s.cur.tile t.toNat) d.toWord (packTile d (quantCode o qs))) (s.runQuant t o qs) ∧
      (o.esc = false → (s.runQuant t o qs).stage = s.stage) := by
  intro d
  unfold State.runQuant TilesKept
  simp only [State.retire_mem, State.retire_tiles, State.retire_tileCfg, State.retire_stage, State.setCur_mem, State.setCur_tiles,
    State.setCur_tileCfg, State.setCur_stage]
  constructor
  · split
    · exact writeList_kept _ _ _
    · exact ⟨rfl, rfl, rfl⟩
  · intro he
    rw [if_neg (he ▸ Bool.false_ne_true)]
    rfl

/-- The one entry of a list that passes a test is the one found. -/
theorem find?_eq_some_of_unique {α : Type} {p : α → Bool} {x : α} {l : List α} (hx : x ∈ l) (hp : p x = true)
    (huniq : ∀ y ∈ l, p y = true → y = x) : l.find? p = some x := by
  cases hf : l.find? p with
  | none => exact absurd hp (List.find?_eq_none.mp hf x hx)
  | some y => rw [huniq y (List.mem_of_find?_eq_some hf) (List.find?_some hf)]

section
variable {s : State} {o : Operand} {thr : FNum} {mode : Rnd} {src : Fmt} {i k : Nat}

theorem find_quantAll (hi : i < o.cfg.rows) (hk : k < o.cfg.cols) :
    ((s.quantAll o thr mode src).find? fun q => q.1 == i && q.2.1 == k) = some (i, k, s.quantElem o thr mode src i k) := by
  refine find?_eq_some_of_unique ?_ (by simp) fun y hy hyp => ?_
  · simp only [State.quantAll, List.mem_flatMap, List.mem_map, List.mem_range]
    exact ⟨i, hi, k, hk, rfl⟩
  · simp only [State.quantAll, List.mem_flatMap, List.mem_map, List.mem_range] at hy
    obtain ⟨i', -, k', -, rfl⟩ := hy
    simp only [Bool.and_eq_true, beq_iff_eq] at hyp
    obtain ⟨rfl, rfl⟩ := hyp
    rfl

/-- Membership of an element's place in a list of the elected. -/
theorem any_place (el : List (Nat × Nat × FNum)) :
    (el.any fun e => e.1 == i && e.2.1 == k) = true ↔ (i, k) ∈ el.map fun e => (e.1, e.2.1) := by
  simp [List.any_eq_true, Prod.ext_iff]

/-- The code of an element is that of its quantisation. -/
theorem quantCode_quantAll (hi : i < o.cfg.rows) (hk : k < o.cfg.cols) : quantCode o (s.quantAll o thr mode src) i k =
    match s.quantElem o thr mode src i k with
    | .code x _ => x
    | .elected x => if (i, k) ∈ ((electedOf (s.quantAll o thr mode src)).take o.cap).map fun e => (e.1, e.2.1) then escapeCode o.fmt
      else clampCode o.fmt x.sign := by
  unfold quantCode
  rw [find_quantAll hi hk]
  cases s.quantElem o thr mode src i k with
  | code x f => rfl
  | elected x => exact if_congr (any_place _) rfl rfl

end

/-- A `quant` whose checks have passed carries its work out, or traps where its block asks for it. -/
theorem execQuant_checked {s : State} {g : BitVec 3} {t ta : BitVec 6} {c : Reg} {rnd : Rnd} {b : Nat} {o : Operand}
    {qs : List (Nat × Nat × Quantised)} (ho : s.opA b ta.toNat 0 = o)
    (hqs : s.quantAll o (ieeeF32.decode (b / 2 ^ 32 % 2 ^ 32)) rnd o.cfg.fmt = qs)
    (hready : TilesReady s g [t.toNat, ta.toNat] (pairRegs c)) (hb : s.readBlock c = .ok b) (hbad : quantBad b = false)
    (hscale : scaleStop o = none) (hlist : listStop o = none) (hread : s.scalesRead o.allRows = none)
    (hsrc : o.cfg.fmt ∈ [Fmt.f32, .bf16, .h16]) (hd : TileCfg.ok ⟨o.fmt, o.cfg.rows, o.cfg.cols⟩ = true) :
    exec (.quant g t ta c rnd) s = .next (
      if o.esc && decide (o.cap < (electedOf qs).length) && decide (b / 2 ^ 26 % 2 = 1) then
        s.takeTrap ⟨8, o.cap, BitVec.ofNat 64 (electedOf qs).length, s.cur.path.mask, 2, true⟩
      else match s.listWrites o with
        | some x => s.stopWith (.quant g t ta c rnd) x
        | none => s.runQuant t o qs) := by
  subst ho hqs
  have hok : (!(decide ((s.opA b ta.toNat 0).cfg.fmt = .f32) || decide ((s.opA b ta.toNat 0).cfg.fmt = .bf16) ||
      decide ((s.opA b ta.toNat 0).cfg.fmt = .h16)) ||
      !TileCfg.ok ⟨(s.opA b ta.toNat 0).fmt, (s.opA b ta.toNat 0).cfg.rows, (s.opA b ta.toNat 0).cfg.cols⟩) = false := by
    simp only [List.mem_cons, List.not_mem_nil, or_false] at hsrc
    rw [hd]
    rcases hsrc with h | h | h <;> rw [h] <;> rfl
  show execQuant g t ta c rnd s = _
  unfold execQuant
  rw [tileDo_ready hready hready.1.2, hb]
  dsimp only
  rw [hbad, if_neg Bool.false_ne_true, hscale, hlist, hread, hok]
  rfl

theorem quantising : Claims.Quantising := by
  intro s g t ta c rnd b hready hb hbad o d qs el hscale hlist hread hsrc hd
  have hexec := execQuant_checked (o := o) (qs := qs) rfl rfl hready hb hbad hscale hlist hread hsrc hd
  refine ⟨fun he hcap htrap => ?_, fun hgo hw => ?_⟩
  · rw [hexec, if_pos (by simp only [Bool.and_eq_true, decide_eq_true_eq]; exact ⟨⟨he, hcap⟩, htrap⟩)]
  · have hnot : ¬(o.esc && decide (o.cap < el.length) && decide (b / 2 ^ 26 % 2 = 1)) = true := by
      simp only [Bool.and_eq_true, decide_eq_true_eq]
      rintro ⟨⟨he, hcap⟩, htrap⟩
      rcases hgo with h | h | h
      · exact Bool.false_ne_true (h ▸ he)
      · omega
      · omega
    rw [if_neg hnot, hw] at hexec
    obtain ⟨⟨hmem, htiles, hcfg⟩, hstage⟩ := runQuant_leaves s t o qs
    refine ⟨s.runQuant t o qs, hexec, hmem, hstage, fun hwf => ?_, fun hwf i hi k hk => ?_⟩
    · rw [hcfg, get_setTile_cfg _ _ hwf, if_pos rfl]
    · have hfits : d.rows * d.pitch ≤ 4096 := by
        unfold TileCfg.ok at hd
        simp only [Bool.and_eq_true, decide_eq_true_eq] at hd
        exact hd.2
      have helem := tileElem_packTile (s := s) (t := s.cur.tile t.toNat) (w := d.toWord) (code := quantCode o qs) hi hk hfits hwf
      have hcode := quantCode_quantAll (s := s) (thr := ieeeF32.decode (b / 2 ^ 32 % 2 ^ 32)) (mode := rnd) (src := o.cfg.fmt) hi hk
      refine Eq.trans ?_ (congrArg (· % 2 ^ o.fmt.width) hcode)
      rw [tileElem_eq, htiles, ← tileElem_eq, helem]
      exact Nat.mod_mod _ _

/-! ### `ctld` (R64, R240) -/

/-- A table's breakpoints stored one after another. -/
def loadRun (m : List (Nat × Option Word)) (base : Nat) (f : Nat → Word) (n : Nat) : List (Nat × Option Word) :=
  (List.range n).foldl (fun m k => SMap.set none m (base + k) (some (f k))) m

theorem loadRun_succ (m : List (Nat × Option Word)) (base : Nat) (f : Nat → Word) (n : Nat) :
    loadRun m base f (n + 1) = SMap.set none (loadRun m base f n) (base + n) (some (f n)) := by
  unfold loadRun
  rw [List.range_succ, List.foldl_append]
  rfl

theorem loadRun_wf {m : List (Nat × Option Word)} (base : Nat) (f : Nat → Word) (hwf : SMap.wf none m = true) :
    ∀ n, SMap.wf none (loadRun m base f n) = true
  | 0 => hwf
  | n + 1 => by rw [loadRun_succ]; exact SMap.wf_set none _ _ _ (loadRun_wf base f hwf n)

/-- What a run of stored breakpoints reads as. -/
theorem get_loadRun {m : List (Nat × Option Word)} (base : Nat) (f : Nat → Word) (hwf : SMap.wf none m = true) (a : Nat) :
    ∀ n, SMap.get none (loadRun m base f n) a = if base ≤ a ∧ a < base + n then some (f (a - base)) else SMap.get none m a
  | 0 => by rw [if_neg (by omega)]; rfl
  | n + 1 => by
    rw [loadRun_succ, SMap.get_set_wf none _ _ _ _ (loadRun_wf base f hwf n), get_loadRun base f hwf a n]
    by_cases ha : a = base + n
    · rw [if_pos ha, if_pos (by omega), ha, Nat.add_sub_cancel_left]
    · rw [if_neg ha]
      exact if_congr (by omega) rfl rfl

theorem markRun_kept (s : State) (ps : List (Nat × Nat)) : Execution.ReadKept s (s.markRun ps) := by
  refine Execution.foldl_kept Execution.ReadKept.refl Execution.ReadKept.trans (fun s p => ?_) ps s
  split
  · exact Execution.readAs_kept s _ _ _ _ _ _
  · exact Execution.ReadKept.refl s

theorem markRun_compand (s : State) (ps : List (Nat × Nat)) : (s.markRun ps).compand = s.compand := by
  have h := markRun_kept s ps
  rw [Execution.ReadKept] at h
  rw [h]

/-- Retirement does not look at the companding tables. -/
theorem retire_compand (s : State) (m : List (Nat × Option Word)) (len : Nat) :
    State.retire { s with compand := m } len = { s.retire len with compand := m } := by
  unfold State.retire State.retireTo State.retireWith
  rw [Execution.chargeCycle_eq, Execution.chargeCycle_eq]
  rfl

theorem retire_uncompand (s : State) (m : List (Nat × Option Word)) (len : Nat) :
    { State.retire { s with compand := m } len with compand := s.compand } = s.retire len := by
  rw [retire_compand]
  exact (retire_compand s s.compand len).symm

theorem breakCode_congr {s : State} {m : List (Nat × Option Word)} (h : s.compand = m) (core j k : Nat) :
    s.breakCode core j k = (SMap.get none m ((core * 8 + j) * 17 + k)).getD (defaultBreak k) := by
  rw [State.breakCode, h]

/-- The word of an image that breakpoint k is read from. -/
def imageWord (bs : List Byte) (k : Nat) : Nat := leNat ((bs.drop (4 * k)).take 4)

theorem execCtld_ready {s : State} {g n : BitVec 3} {a : Reg} {bs : List Byte} (hg : Enabled s g (pairRegs a))
    (hva : (uvalD s a).toNat % 8 = 0) (hread : s.readRun (piecesOf (uvalD s a).toNat 72) = .ok bs) :
    exec (.ctld g n a) s = .next (
      let s1 := s.markRun (piecesOf (uvalD s a).toNat 72)
      let ws := (List.range 18).map (imageWord bs)
      if !compandOk ws then s1.matrixBound 1
      else State.retire { s1 with
        compand := loadRun s1.compand ((s1.cur.core * 8 + n.toNat) * 17) (fun k => BitVec.ofNat 32 (ws.getD k 0)) 17 } 1) := by
  show execCtld g n a s = _
  unfold execCtld
  rw [uniDo_eq 1 g (pairRegs a) s _ hg.1 hg.2]
  change Host.Outcome.next (if (uvalD s a).toNat % 8 ≠ 0 then _ else match s.readRun (piecesOf (uvalD s a).toNat 72) with
    | .error (f, x) => _ | .ok bs => _) = _
  rw [if_neg (not_not.mpr hva), hread]
  rfl

theorem compandingTables : Claims.CompandingTables := by
  intro s g n a bs hg hwf va word hva hread s1
  have hexec := execCtld_ready (n := n) hg hva hread
  have hcur : s1.cur = s.cur := (markRun_kept s _).cur
  refine ⟨fun hbad => ?_, fun hok => ?_⟩
  · change compandOk ((List.range 18).map (imageWord bs)) = false at hbad
    dsimp only at hexec
    rw [hexec, hbad, Bool.not_false, if_pos rfl, ← hcur]
    rfl
  · change compandOk ((List.range 18).map (imageWord bs)) = true at hok
    dsimp only at hexec
    rw [hok, Bool.not_true, if_neg Bool.false_ne_true] at hexec
    refine ⟨_, hexec, ?_, fun core j k hj hk => ?_⟩
    · have hcompand : s.compand = s1.compand := (markRun_compand s _).symm
      rw [hcompand]
      exact retire_uncompand s1 _ 1
    · have hwf1 : SMap.wf none s1.compand = true := (markRun_compand s _).symm ▸ hwf
      rw [breakCode_congr (congrArg State.compand (retire_compand s1 _ 1)), get_loadRun _ _ hwf1, hcur]
      have hn : n.toNat < 8 := n.isLt
      by_cases hplace : core = s.cur.core ∧ j = n.toNat
      · obtain ⟨rfl, rfl⟩ := hplace
        rw [if_pos (by omega), if_pos ⟨rfl, rfl⟩, Nat.add_sub_cancel_left]
        have hword : ((List.range 18).map (imageWord bs)).getD k 0 = imageWord bs k := by
          rw [List.getD_eq_getElem?_getD, List.getElem?_map, List.getElem?_range (by omega)]
          rfl
        rw [hword]
        rfl
      · rw [if_neg (by omega), if_neg hplace]
        exact (breakCode_congr (markRun_compand s _).symm core j k).symm

/-- Settles O32: `quant` by the packing of its codes into rows, `ctld` by the places its breakpoints are stored in. -/
theorem tileQuantisation : Obligations.TileQuantisation := ⟨quantising, compandingTables⟩

/-! ### Products of tiles (R241, R242, R244) -/

/-- A matrix instruction whose tiles are apart and ready, and whose block names a pair, goes on to its products. -/
theorem matrixDo_ready {s : State} {g : BitVec 3} {i : Instr} {cs as bs : List Nat} {c : Reg} {srcs : List Reg} {b chunk : Nat}
    {kind : PairKind} {f : Nat → Nat → PairKind → State → State} (hready : TilesReady s g (cs ++ as ++ bs) (pairRegs c ++ srcs))
    (hapart : ∀ x ∈ cs, x ∉ as ∧ x ∉ bs) (hb : s.readBlock c = .ok b) (hpair : blockPair b = some (chunk, kind)) :
    matrixDo i g cs as bs c srcs s f = f b chunk kind s := by
  have hno : (cs.any fun t => as.contains t || bs.contains t) = false := by
    simpa only [List.any_eq_false, Bool.or_eq_true, List.contains_iff_mem, not_or] using hapart
  unfold matrixDo
  rw [hno, if_neg Bool.false_ne_true, tileDo_ready hready hready.1.2, hb]
  dsimp only
  rw [hpair]

theorem checkAndRun_none {s : State} {i : Instr} {b chunk : Nat} {kind : PairKind} {js : List Job1} {e5 e6 : Option Stop}
    (h : s.prodStops kind b js e5 e6 = none) : s.checkAndRun i b chunk kind js e5 e6 =
      ((s.runProds chunk kind js).1.addTotals (s.runProds chunk kind js).2).retire 2 := by
  unfold State.checkAndRun
  rw [h]

theorem any_decide_false {α : Type} {l : List α} {p : α → Prop} [DecidablePred p] (h : ∀ x ∈ l, ¬p x) :
    (l.any fun x => decide (p x)) = false := List.any_eq_false.mpr fun x hx => by simpa using h x hx

theorem matrixForms : Claims.MatrixForms := by
  intro s g t ta tb c gx rnd z b chunk kind q from_ runs hb hpair
  refine ⟨?_, ?_, ?_⟩
  · intro js hready hapart hstops
    rw [← List.append_nil (pairRegs c)] at hready
    have happ : ∀ x ∈ tilesFrom t q, x ∉ tilesFrom ta q ∧ x ∉ [tb.toNat] := fun x hx =>
      ⟨(hapart x hx).1, by simpa using (hapart x hx).2⟩
    exact congrArg Host.Outcome.next ((matrixDo_ready hready happ hb hpair).trans (checkAndRun_none hstops))
  · intro js hready hapart hstops
    rw [← List.append_nil (pairRegs c)] at hready
    have happ : ∀ x ∈ tilesFrom t q, x ∉ [ta.toNat] ∧ x ∉ tilesFrom tb q := fun x hx =>
      ⟨by simpa using (hapart x hx).1, (hapart x hx).2⟩
    exact congrArg Host.Outcome.next ((matrixDo_ready hready happ hb hpair).trans (checkAndRun_none hstops))
  · intro off n entry on js hready hapart
    have hdo := fun f => matrixDo_ready (i := .mmag g t ta tb c gx rnd z) (f := f) hready hapart hb hpair
    refine ⟨fun hidle => ?_, fun hoct htable hread hn hcnt hsum hroom hrows hstops => ?_⟩
    · refine congrArg Host.Outcome.next ((hdo _).trans ?_)
      exact if_pos (by rw [hidle]; rfl)
    · refine congrArg Host.Outcome.next ((hdo _).trans ?_)
      have hmin : min (s.cur.usrc (gx + 1)).toNat (s.cur.width / 8) = (s.cur.usrc (gx + 1)).toNat := Nat.min_eq_left hn
      have hsome : s.cur.activeOctets.isEmpty = false := by simpa using hoct
      have htable' : extentStop s.cur.share (s.cur.usrc gx).toNat (4 * (s.cur.usrc (gx + 1)).toNat) 4 = none := htable
      have hread' : s.readsStop s.cur.share ((List.range (s.cur.usrc (gx + 1)).toNat).map fun k => ((s.cur.usrc gx).toNat + 4 * k, 4)) =
        none := hread
      dsimp only
      rw [hsome, if_neg Bool.false_ne_true, htable', hmin]
      simp only [Option.isSome_none, Bool.false_eq_true, if_false, hread', List.filter_map, List.map_map]
      have hjs : (List.map ((fun e : Nat × Nat × Nat => s.groupProd b t.toNat ta.toNat tb.toNat z e.1 e.2.1 e.2.2) ∘ fun k => (k, s.groupEntry (s.cur.usrc gx).toNat k))
        (List.filter ((fun e : Nat × Nat × Nat => s.cur.activeOctets.contains e.1 && decide (0 < e.2.2)) ∘ fun k => (k, s.groupEntry (s.cur.usrc gx).toNat k))
          (List.range (s.cur.usrc (gx + 1)).toNat))) = js := rfl
      rw [hjs]
      refine checkAndRun_none ((congrArg (s.prodStops kind b js none) (if_neg ?_)).trans hstops)
      rw [Bool.not_eq_true, Bool.or_eq_false_iff, Bool.or_eq_false_iff, Bool.or_eq_false_iff, Bool.or_eq_false_iff]
      refine ⟨⟨⟨⟨decide_eq_false (Nat.not_lt.mpr hn), ?_⟩, decide_eq_false (Nat.not_lt.mpr ?_)⟩, ?_⟩, ?_⟩
      · rw [List.any_map]
        exact any_decide_false fun j hj => Nat.not_lt.mpr (hcnt j (List.mem_range.mp hj))
      · exact hsum
      · rw [List.any_map]
        exact any_decide_false fun j hj => Nat.not_lt.mpr (hroom j hj)
      · refine List.any_eq_false.mpr fun p hp => Bool.not_eq_true _ ▸ any_decide_false fun x hx => Nat.not_le.mpr (hrows p hp x hx)

/-- Elements of a tile written one after another. -/
def setElems (t : Nat) (c : TileCfg) (v : Nat × Nat → Nat) (es : List (Nat × Nat)) (s : State) : State :=
  es.foldl (fun s e => s.setTileElem t c e.1 e.2 (v e)) s

section
variable {t : Nat} {c : TileCfg} {v : Nat × Nat → Nat}

theorem setElems_stage_mem (es : List (Nat × Nat)) (s : State) :
    (setElems t c v es s).stage = s.stage ∧ (setElems t c v es s).mem = s.mem := by
  induction es generalizing s with
  | nil => exact ⟨rfl, rfl⟩
  | cons e es ih => exact ih (s.setTileElem t c e.1 e.2 (v e))

theorem setElems_others (hc : c.rows * c.pitch ≤ 4096) (es : List (Nat × Nat)) (s : State) (hin : ∀ e ∈ es, e.1 < c.rows ∧ e.2 < c.cols)
    (hwf : Memory.wf s.tiles = true) : OtherTilesKept s (setElems t c v es s) t := by
  induction es generalizing s with
  | nil => exact fun j _ => ⟨rfl, fun _ _ => rfl⟩
  | cons e es ih =>
    obtain ⟨hr, hk⟩ := hin e List.mem_cons_self
    have hone := setTileElem_others (t := t) (code := v e) hr hk hc hwf
    have hrest := ih (s.setTileElem t c e.1 e.2 (v e)) (fun x hx => hin x (List.mem_cons_of_mem _ hx)) (setTileElem_wf hwf)
    exact fun j hj => ⟨(hrest j hj).1.trans (hone j hj).1, fun o ho => ((hrest j hj).2 o ho).trans ((hone j hj).2 o ho)⟩

theorem tileElem_setElems {i n : Nat} (hn : n < c.cols) (es : List (Nat × Nat)) (s : State) (hin : ∀ e ∈ es, e.2 < c.cols)
    (hwf : Memory.wf s.tiles = true) : (setElems t c v es s).tileElem t c i n =
      if (i, n) ∈ es then v (i, n) % 2 ^ c.fmt.width else s.tileElem t c i n := by
  induction es generalizing s with
  | nil => rw [if_neg List.not_mem_nil]; rfl
  | cons e es ih =>
    have hrest := ih (s.setTileElem t c e.1 e.2 (v e)) (fun x hx => hin x (List.mem_cons_of_mem _ hx)) (setTileElem_wf hwf)
    refine Eq.trans hrest ?_
    rw [tileElem_setTileElem (hin e List.mem_cons_self) hn hwf]
    by_cases hmem : (i, n) ∈ es
    · rw [if_pos hmem, if_pos (List.mem_cons_of_mem _ hmem)]
    · rw [if_neg hmem]
      by_cases he : i = e.1 ∧ n = e.2
      · obtain ⟨rfl, rfl⟩ := he
        rw [if_pos ⟨rfl, rfl⟩, if_pos List.mem_cons_self]
      · rw [if_neg he, if_neg]
        rintro (_ | ⟨_, h⟩)
        · exact he ⟨rfl, rfl⟩
        · exact hmem h

end

/-- The state part of a fold that carries totals along. -/
theorem foldl_fst {α β σ : Type} {f : σ × α → β → σ × α} {g : σ → β → σ} {l : List β} (h : ∀ x, ∀ e ∈ l, (f x e).1 = g x.1 e) (x : σ × α) :
    (l.foldl f x).1 = l.foldl g x.1 := by
  induction l generalizing x with
  | nil => rfl
  | cons e l ih =>
    rw [List.foldl_cons, List.foldl_cons, ih (fun x e he => h x e (List.mem_cons_of_mem _ he)), h x e List.mem_cons_self]

/-- The elements of a product of M rows and N columns. -/
def prodPlaces (m n : Nat) : List (Nat × Nat) := (List.range m).flatMap fun i => (List.range n).map fun k => (i, k)

theorem mem_prodPlaces {m n : Nat} {e : Nat × Nat} : e ∈ prodPlaces m n ↔ e.1 < m ∧ e.2 < n := by
  obtain ⟨i, k⟩ := e
  simp [prodPlaces]

/-- The value that a product gives an element of its tile. -/
def prodValue (s : State) (chunk : Nat) (kind : PairKind) (p : Prod) (e : Nat × Nat) : Nat :=
  match p.as[e.1]?, p.bs[e.2]? with
  | some a, some b =>
    (s.prodElem chunk kind (decide (p.ccfg.fmt = .i32)) a b p.kk (if p.z then 0 else s.tileElem p.c p.ccfg e.1 e.2)).c
  | _, _ => 0

/-- A product writes its elements one after another, each with the value it has at the product's start. -/
theorem runProd_tiles (s : State) (chunk : Nat) (kind : PairKind) (p : Prod) (tot : Totals) :
    (s.runProd chunk kind p tot).1 = setElems p.c p.ccfg (prodValue s chunk kind p) (prodPlaces p.as.length p.bs.length) s := by
  refine foldl_fst (fun x e he => ?_) (s, tot)
  obtain ⟨hi, hn⟩ := mem_prodPlaces.mp he
  unfold prodValue
  rw [List.getElem?_eq_getElem hi, List.getElem?_eq_getElem hn]

theorem productElements : Claims.ProductElements := by
  intro s chunk kind p tot w hw hcfg hwf hrows hcols hwidth _ t
  have ht : t = _ := runProd_tiles s chunk kind p tot
  have hin : ∀ e ∈ prodPlaces p.as.length p.bs.length, e.1 < p.ccfg.rows ∧ e.2 < p.ccfg.cols := fun e he =>
    ⟨(mem_prodPlaces.mp he).1.trans_le hrows, (mem_prodPlaces.mp he).2.trans_le hcols⟩
  have hkept := setElems_stage_mem (t := p.c) (c := p.ccfg) (v := prodValue s chunk kind p) (prodPlaces p.as.length p.bs.length) s
  rw [ht]
  refine ⟨setElems_others (hcfg ▸ validCfg_fits hw) _ s hin hwf, hkept.1, hkept.2, fun i n hi hn => ?_⟩
  rw [tileElem_setElems (hn.trans_le hcols) _ s (fun e he => (hin e he).2) hwf, if_pos (mem_prodPlaces.mpr ⟨hi, hn⟩), hwidth]
  unfold prodValue
  rw [List.getElem?_eq_getElem hi, List.getElem?_eq_getElem hn]

/-! ### Products of integers (R67, R68) -/

/-- A finite number whose value is a rational. -/
def HasValue (x : FNum) (q : ℚ) : Prop := ∃ neg m, x = .fin neg m ∧ SoundNum x ∧ FNum.rat x = q

theorem ratQ_ofQ {q : Q} (hq : 0 < q.den) : HasValue (FNum.ofQ q) (ratQ q) := by
  refine ⟨_, _, rfl, ⟨Int.natCast_nonneg _, hq⟩, ?_⟩
  rw [FNum.ofQ, rat_fin]
  unfold ratQ
  by_cases h : q.num < 0
  · have habs : ((q.num.natAbs : Int) : ℚ) = -q.num := by rw [Int.ofNat_natAbs_of_nonpos h.le]; push_cast; rfl
    rw [decide_eq_true h, if_pos rfl, habs, neg_div, neg_neg]
  · have habs : ((q.num.natAbs : Int) : ℚ) = q.num := by rw [Int.natAbs_of_nonneg (not_lt.mp h)]
    rw [decide_eq_false h, if_neg Bool.false_ne_true, habs]

theorem hasValue_mul {x y : FNum} {a b : ℚ} (hx : HasValue x a) (hy : HasValue y b) : HasValue (x.mul y).1 (a * b) := by
  obtain ⟨n, m, rfl, ⟨hm, hmd⟩, rfl⟩ := hx
  obtain ⟨n', m', rfl, ⟨hm', hmd'⟩, rfl⟩ := hy
  refine ⟨xor n n', m.mul m', rfl, ⟨mul_nonneg hm hm', den_mul hmd hmd'⟩, ?_⟩
  rw [FNum.mul, rat_fin, rat_fin, rat_fin, ratQ_mul]
  cases n <;> cases n' <;> simp

/-- Sums of exact rationals. -/
theorem foldl_add (ps : List FNum) (vs : List ℚ) (h : List.Forall₂ HasValue ps vs) : ∀ q : Q, 0 < q.den →
    let r := ps.foldl (fun q p => q.add p.toQ) q
    0 < r.den ∧ ratQ r = ratQ q + vs.sum := by
  induction h with
  | nil => intro q hq; exact ⟨hq, by simp⟩
  | @cons p v ps vs hp _ ih =>
    intro q hq
    obtain ⟨n, m, rfl, hsound, rfl⟩ := hp
    have hden := den_toQ hsound
    obtain ⟨hd, hr⟩ := ih (q.add _) (den_add hq hden)
    exact ⟨hd, by rw [List.foldl_cons, hr, ratQ_add hq hden, List.sum_cons, ← rat_eq, add_assoc]⟩

theorem any_forall₂_false {f : FNum → Bool} (hf : ∀ n m, f (.fin n m) = false) {ps : List FNum} {vs : List ℚ}
    (h : List.Forall₂ HasValue ps vs) : ps.any f = false := by
  induction h with
  | nil => rfl
  | cons hp _ ih =>
    obtain ⟨n, m, rfl, -, -⟩ := hp
    rw [List.any_cons, hf, ih, Bool.or_false]

/-- The exact sum of products of finite numbers. -/
theorem exactSum_finite {ts : List (FNum × FNum)} {vs : List ℚ} (h : List.Forall₂ HasValue (ts.map fun t => (t.1.mul t.2).1) vs) :
    (exactSum ts).2 = 0 ∧ HasValue (exactSum ts).1 vs.sum := by
  obtain ⟨hden, hsum⟩ := foldl_add _ _ h Q.zero Nat.one_pos
  rw [ratQ_zero, zero_add] at hsum
  unfold exactSum
  dsimp only
  rw [any_forall₂_false (fun _ _ => rfl) h, any_forall₂_false (fun _ _ => rfl) h, any_forall₂_false (fun _ _ => rfl) h]
  exact ⟨rfl, hsum ▸ ratQ_ofQ hden⟩

theorem hasValue_intFormat {f : Fmt} (hf : f ∈ [Fmt.i8, .n8, .i4, .t2]) (c : Nat) : HasValue (f.value c) (f.intValue c) := by
  rw [← ratQ_ofInt]
  simp only [List.mem_cons, List.not_mem_nil, or_false] at hf
  rcases hf with rfl | rfl | rfl | rfl <;> exact ratQ_ofQ (q := Q.ofInt _) Nat.one_pos

section
variable {s : State} {a b : OpRow}

/-- The product of a chunk of integers, without scale, curve or escape. -/
theorem chunkSum_int (ha : a.o.sck = 0) (hb : b.o.sck = 0) (hea : a.o.esc = false) (heb : b.o.esc = false) (ks : List Nat) :
    s.chunkSum .int a b ks = exactSum (ks.map fun k => (s.opValue a.o a.r k, s.opValue b.o b.r k)) := by
  have hescape : ∀ k, (s.escaped a.o a.r k || s.escaped b.o b.r k) = false := fun k => by
    unfold State.escaped
    rw [hea, heb, Bool.false_and, Bool.false_and]
    rfl
  unfold State.chunkSum State.scaleAt
  simp only [ha, hb, if_true, hescape, Bool.not_false, List.filter_true, List.filter_false, List.isEmpty_nil]

theorem chunkSum_value (ha : a.o.sck = 0) (hb : b.o.sck = 0) (hea : a.o.esc = false) (heb : b.o.esc = false)
    (hca : a.o.cmp = false) (hcb : b.o.cmp = false) (hfa : a.o.fmt ∈ [Fmt.i8, .n8, .i4, .t2]) (hfb : b.o.fmt ∈ [Fmt.i8, .n8, .i4, .t2])
    (ks : List Nat) : (s.chunkSum .int a b ks).2 = 0 ∧ (s.chunkSum .int a b ks).1.toQ.floor =
      (ks.map fun k => a.o.fmt.intValue (s.opCode a.o a.r k) * b.o.fmt.intValue (s.opCode b.o b.r k)).sum := by
  have hvalue : ∀ (x : OpRow) (k : Nat), x.o.cmp = false → s.opValue x.o x.r k = x.o.fmt.value (s.opCode x.o x.r k) := fun x k hx => by
    rw [State.opValue, hx, if_neg Bool.false_ne_true]
  have hall : List.Forall₂ HasValue
      ((ks.map fun k => (s.opValue a.o a.r k, s.opValue b.o b.r k)).map fun t => (t.1.mul t.2).1)
      (ks.map fun k => ((a.o.fmt.intValue (s.opCode a.o a.r k) : ℚ) * (b.o.fmt.intValue (s.opCode b.o b.r k) : ℚ))) := by
    rw [List.map_map, List.forall₂_map_left_iff, List.forall₂_map_right_iff, List.forall₂_same]
    intro k _
    have hmul := hasValue_mul (hasValue_intFormat hfa (s.opCode a.o a.r k)) (hasValue_intFormat hfb (s.opCode b.o b.r k))
    rwa [← hvalue a k hca, ← hvalue b k hcb] at hmul
  obtain ⟨hflags, n, m, hx, -, hrat⟩ := exactSum_finite hall
  rw [chunkSum_int ha hb hea heb]
  refine ⟨hflags, ?_⟩
  rw [floor_eq, ← rat_eq, hrat, ← Int.floor_intCast (R := ℚ) (List.sum _)]
  congr 1
  push_cast
  rw [List.map_map]
  congr 1
  exact List.map_congr_left fun k _ => by simp

end

/-- The signed value of a code of 32 bits. -/
theorem toInt_ofNat (c : Nat) : (BitVec.ofNat 32 c).toInt = sextN c 32 := by
  unfold sextN
  rw [BitVec.toInt_eq_toNat_cond, BitVec.toNat_ofNat]
  norm_num
  split <;> split <;> omega

/-- A number in range is the signed value of its code. -/
theorem sextN_codeN {m : Int} (hlo : -2147483648 ≤ m) (hhi : m ≤ 2147483647) : sextN (codeN m 32) 32 = m := by
  unfold sextN codeN
  norm_num
  split <;> omega

/-- An accumulator after a chunk: clamped, with no flag where the chunk raises none. -/
theorem promote_int (x : Acc) (t : FNum) : sextN (promote true x t 0).c 32 = max (-2147483648) (min 2147483647 (sextN x.c 32 + t.toQ.floor)) ∧
    (promote true x t 0).flags = x.flags := by
  unfold promote
  rw [if_pos rfl]
  refine ⟨?_, BitVec.or_zero⟩
  rw [add_comm]
  exact sextN_codeN (by omega) (by omega)

/-- The positions of chunk j, and what an accumulator does with it. -/
def chunkPlaces (chunk kk j : Nat) : List Nat := (List.range (min chunk (kk - j * chunk))).map fun k => j * chunk + k
def chunkStep (s : State) (chunk kk : Nat) (a b : OpRow) (x : Acc) (j : Nat) : Acc :=
  promote true x (s.chunkSum .int a b (chunkPlaces chunk kk j)).1 (s.chunkSum .int a b (chunkPlaces chunk kk j)).2

section
variable {s : State} {chunk kk : Nat} {a b : OpRow}

/-- A product of integers takes its chunks one after another. -/
theorem prodElem_int (ha : a.o.sck = 0) (hb : b.o.sck = 0) (c0 : Nat) : s.prodElem chunk .int true a b kk c0 =
    { (List.range ((kk + chunk - 1) / chunk)).foldl (chunkStep s chunk kk a b) ⟨c0, 0, 0, 0, 0⟩ with code := s.t2Codes a b kk } := by
  have hlen : subLength chunk a.o b.o = chunk := by
    unfold subLength
    rw [if_pos ha, if_pos hb, min_self, min_self]
  unfold State.prodElem
  rw [hlen]
  rfl

theorem chunkSteps_int (ha : a.o.sck = 0) (hb : b.o.sck = 0) (hea : a.o.esc = false) (heb : b.o.esc = false)
    (hca : a.o.cmp = false) (hcb : b.o.cmp = false) (hfa : a.o.fmt ∈ [Fmt.i8, .n8, .i4, .t2]) (hfb : b.o.fmt ∈ [Fmt.i8, .n8, .i4, .t2]) :
    ∀ (js : List Nat) (x : Acc), x.flags = 0 →
      sextN (js.foldl (chunkStep s chunk kk a b) x).c 32 = js.foldl (fun c j => max (-2147483648) (min 2147483647
        (c + ((List.range (min chunk (kk - j * chunk))).map fun i =>
          a.o.fmt.intValue (s.opCode a.o a.r (j * chunk + i)) * b.o.fmt.intValue (s.opCode b.o b.r (j * chunk + i))).sum))) (sextN x.c 32) ∧
      (js.foldl (chunkStep s chunk kk a b) x).flags = 0
  | [], x, hx => ⟨rfl, hx⟩
  | j :: js, x, hx => by
    obtain ⟨hflags, hsum⟩ := chunkSum_value (s := s) ha hb hea heb hca hcb hfa hfb (chunkPlaces chunk kk j)
    obtain ⟨hpc, hpf⟩ := promote_int x (s.chunkSum .int a b (chunkPlaces chunk kk j)).1
    rw [hsum, chunkPlaces, List.map_map] at hpc
    rw [List.foldl_cons, List.foldl_cons]
    obtain ⟨hc, hf⟩ := chunkSteps_int ha hb hea heb hca hcb hfa hfb js (chunkStep s chunk kk a b x j)
      (by rw [chunkStep, hflags]; exact hpf.trans hx)
    refine ⟨hc.trans (congrArg (fun c0 => List.foldl _ c0 js) ?_), hf⟩
    rw [chunkStep, hflags]
    exact hpc

end

theorem integerProduct : Claims.IntegerProduct := by
  intro s chunk kk c0 a b hchunk _ ha hb hea heb hca hcb hfa hfb r
  obtain ⟨hc, hf⟩ := chunkSteps_int (s := s) (chunk := chunk) (kk := kk) ha hb hea heb hca hcb hfa hfb
    (List.range ((kk + chunk - 1) / chunk)) ⟨c0, 0, 0, 0, 0⟩ rfl
  have hr : r = _ := prodElem_int ha hb c0
  rw [hr, toInt_ofNat, toInt_ofNat]
  exact ⟨hc, hf⟩

/-! ### Cooperative products (R245) -/

theorem setElems_meets (t : Nat) (c : TileCfg) (v : Nat × Nat → Nat) (es : List (Nat × Nat)) (s : State) :
    (setElems t c v es s).meets = s.meets := by
  induction es generalizing s with
  | nil => rfl
  | cons e es ih => exact ih (s.setTileElem t c e.1 e.2 (v e))

theorem runProds_meets (s : State) (chunk : Nat) (kind : PairKind) (js : List Job1) : (s.runProds chunk kind js).1.meets = s.meets := by
  unfold State.runProds
  generalize (⟨0, 0, 0, 0⟩ : Totals) = tot
  induction js generalizing s tot with
  | nil => rfl
  | cons j js ih =>
    refine (ih (s.runProd chunk kind j.p tot).1 (s.runProd chunk kind j.p tot).2).trans ?_
    rw [runProd_tiles, setElems_meets]

theorem leaveMeet_tiles (s : State) (key : Nat) : (s.leaveMeet key).tiles = s.tiles := rfl
theorem leaveMeet_cur (s : State) (key : Nat) : (s.leaveMeet key).cur = s.cur := rfl
theorem leaveMeet_meets (s : State) (key : Nat) : (s.leaveMeet key).meets = s.meets.filter fun x => x.grp != key := rfl

theorem addTotals_meets (s : State) (t : Totals) : (s.addTotals t).meets = s.meets := rfl
theorem addTotals_tiles (s : State) (t : Totals) : (s.addTotals t).tiles = s.tiles := rfl

/-- The `mmx` instructions that wait once those of some groups do no more. -/
theorem mem_leaveMeets {y : Meet} : ∀ (ps : List Meet) (s : State),
    y ∈ (ps.foldl (fun s x => s.leaveMeet x.grp) s).meets ↔ y ∈ s.meets ∧ ∀ x ∈ ps, y.grp ≠ x.grp
  | [], s => by simp
  | x :: ps, s => by
    rw [List.foldl_cons, mem_leaveMeets ps]
    simp [State.leaveMeet, and_assoc]

section
variable {s : State} {m : Meet} {ps : List Meet}

/-- Those that meet wait, each for the others. -/
theorem mem_of_meeting (h : s.meeting m = some ps) {x : Meet} (hx : x ∈ ps) : x ∈ s.meets := by
  unfold State.meeting at h
  dsimp only at h
  split at h
  · injection h with h
    rw [← h, List.mem_filterMap] at hx
    obtain ⟨c, -, hc⟩ := hx
    exact List.mem_of_find?_eq_some hc
  · cases h

theorem own_of_meeting (h : s.meeting m = some ps) : ∃ x ∈ ps, x.grp = m.grp := by
  unfold State.meeting at h
  dsimp only at h
  split at h
  case isTrue hc =>
    injection h with h
    rw [← h]
    obtain ⟨x, hx, hg⟩ := List.any_eq_true.mp hc.2
    exact ⟨x, hx, beq_iff_eq.mp hg⟩
  · cases h

/-- A core that meets itself alone is the one core that takes part. -/
theorem cores_of_meeting_self (h : s.meeting m = some [m]) : m.cores = [m.core] := by
  unfold State.meeting at h
  dsimp only at h
  split at h
  case isTrue hc =>
    injection h with h
    obtain ⟨hlen, -⟩ := hc
    rw [h, List.length_singleton] at hlen
    obtain ⟨c, hcores⟩ := List.length_eq_one_iff.mp hlen.symm
    rw [hcores] at h ⊢
    have hmem : m ∈ [c].filterMap (s.partner m) := h ▸ List.mem_singleton_self m
    obtain ⟨c', hc', hp⟩ := List.mem_filterMap.mp hmem
    have hcore := List.find?_some hp
    simp only [Bool.and_eq_true, beq_iff_eq] at hcore
    rw [List.mem_singleton.mp hc'] at hcore
    rw [hcore.1.1]
  · cases h

theorem group?_self (hlive : s.cur.live = true) : s.group? s.cur.key = some s.cur := by
  unfold State.group?
  rw [hlive, Bool.true_and, beq_self_eq_true, if_pos rfl]

/-- A core that meets itself alone supplies B to itself. -/
theorem supplierOf_self (hlive : s.cur.live = true) (hm : m.grp = s.cur.key) (h : s.meeting m = some [m]) :
    s.supplierOf m [m] = some (m, s.cur) := by
  have hsup : m.supplier = m.core := by
    unfold Meet.supplier
    rw [cores_of_meeting_self h, List.find?_singleton, beq_self_eq_true, if_pos rfl, Option.getD_some]
  unfold State.supplierOf
  rw [hsup, List.find?_singleton, beq_self_eq_true, if_pos rfl]
  dsimp only
  rw [hm, group?_self hlive, Option.map_some]

/-- A participant that has joined while another is to come waits. -/
theorem meetGo_none {i : Instr} (h : s.meeting m = none) : s.meetGo i m = s.hold .meeting := by
  unfold State.meetGo
  rw [h]

/-- Where all have met and no check fails, the others carry out their products, then the one in focus, and none waits any more. -/
theorem meetGo_some {i : Instr} (h : s.meeting m = some ps) (hown : s.meetStop m ps = none)
    (hall : ∀ x ∈ ps, (s.focus x.grp).meetStop x ps = none) : s.meetGo i m =
      ps.foldl (fun s x => s.leaveMeet x.grp)
        (((ps.filter fun x => x.grp != m.grp).foldl (fun s x => s.meetRun x ps) s).meetRun m ps) := by
  have hany : (ps.any fun x => ((s.focus x.grp).meetStop x ps).isSome) = false :=
    List.any_eq_false.mpr fun x hx => by rw [hall x hx]; exact Bool.false_ne_true
  unfold State.meetGo
  rw [h]
  dsimp only
  rw [hown, hany, if_neg Bool.false_ne_true]

end

/-- An `mmx` that no check of its own stops joins, and goes where all have met. -/
theorem execMmx_joins {s : State} {g : BitVec 3} {t ta tb : BitVec 6} {c : Reg} {rnd : Rnd} {z : Bool} {b : Nat} {m : Meet}
    (hready : TilesReady s g (tilesFrom t 24 ++ tilesFrom ta 4 ++ tilesFrom tb 6) (pairRegs c)) (hb : s.readBlock c = .ok b)
    (hapart : ∀ x ∈ tilesFrom t 24, x ∉ tilesFrom ta 4 ∧ x ∉ tilesFrom tb 6) (hnew : ∀ x ∈ s.meets, x.grp ≠ s.cur.key)
    (hm : m = ⟨s.cur.core, s.cur.key, BitVec.ofNat 256 b, s.curve s.cur.core (bitsN b 22 20), s.curve s.cur.core (bitsN b 25 23), t, ta, tb, z⟩)
    (hsolo : s.soloStop m = none) :
    exec (.mmx g t ta tb c rnd z) s = .next (State.meetGo { s with meets := s.meets ++ [m] } (.mmx g t ta tb c rnd z) m) := by
  have hno : ((tilesFrom t 24).any fun x => (tilesFrom ta 4).contains x || (tilesFrom tb 6).contains x) = false := by
    simpa only [List.any_eq_false, Bool.or_eq_true, List.contains_iff_mem, not_or] using hapart
  have hfind : (s.meets.find? fun x => x.grp == s.cur.key) = none :=
    List.find?_eq_none.mpr fun x hx => by simpa using hnew x hx
  show execMmx g t ta tb c rnd z s = _
  unfold execMmx
  dsimp only
  rw [hno, if_neg Bool.false_ne_true, tileDo_ready hready hready.1.2, hfind, hb]
  dsimp only
  rw [← hm, hsolo]

theorem cooperativeProduct : Claims.CooperativeProduct := by
  intro s g t ta tb c rnd z b from_ m joined hready hb hlive hapart hnew hsolo
  have hexec : exec (.mmx g t ta tb c rnd z) s = .next (joined.meetGo (.mmx g t ta tb c rnd z) m) :=
    execMmx_joins hready hb hapart hnew rfl hsolo
  have hself : joined.focus m.grp = joined := Execution.focus_self (s := joined) hlive
  have hmeets : ∀ x ∈ joined.meets, x.grp = m.grp → x = m := by
    intro x hx hg
    rcases List.mem_append.mp hx with h | h
    · exact absurd hg (hnew x h)
    · exact List.mem_singleton.mp h
  refine ⟨fun hnone => ?_, fun chunk kind hmeet hstop hpair => ?_, fun ps hmeet hall => ?_⟩
  · rw [hexec, meetGo_none hnone]
    rfl
  · intro r
    have hsup := supplierOf_self (s := joined) (m := m) hlive rfl hmeet
    have hrun : joined.meetRun m [m] = (r.1.addTotals r.2).retire 2 := by
      unfold State.meetRun
      rw [hself, hpair]
      dsimp only
      rw [hsup]
    have hgo := meetGo_some (i := .mmx g t ta tb c rnd z) hmeet hstop fun x hx => by
      rw [List.mem_singleton.mp hx, hself, hstop]
    have hfilter : ([m].filter fun x => x.grp != m.grp) = [] := by simp
    rw [hgo, hfilter, List.foldl_nil, hrun, List.foldl_cons, List.foldl_nil] at hexec
    refine ⟨_, hexec, ?_, ?_, leaveMeet_cur _ _⟩
    · rw [leaveMeet_meets, State.retire_meets, addTotals_meets, runProds_meets, List.filter_append,
        List.filter_eq_self.mpr fun x hx => by simpa using hnew x hx]
      simp
    · rw [leaveMeet_tiles, State.retire_tiles, addTotals_tiles]
  · obtain ⟨x, hx, hgrp⟩ := own_of_meeting hmeet
    have hxm : x = m := hmeets x (mem_of_meeting hmeet hx) hgrp
    have hown : joined.meetStop m ps = none := by
      have h := hall x hx
      rwa [hxm, hself] at h
    rw [hexec, meetGo_some hmeet hown hall]
    exact ⟨_, rfl, fun x hx y hy => (mem_leaveMeets ps _).mp hy |>.2 x hx⟩

/-- Settles O31: the products an instruction carries out, the writing of a product's elements one after another, the exact chunks of
integers, and how the `mmx` of a cluster meet. -/
theorem matrixProducts : Obligations.MatrixProducts := ⟨matrixForms, productElements, integerProduct, cooperativeProduct⟩

/-! ### Rounding a magnitude to an integer (R56) -/

/-- The rounded integer is the floor, or one more. -/
theorem roundNat_floor (mode : Rnd) (neg : Bool) (n d : Nat) :
    (roundNat mode neg n d).1 = n / d ∨ ((roundNat mode neg n d).1 = n / d + 1 ∧ n % d ≠ 0) ∨ d = 0 := by
  rcases Nat.eq_zero_or_pos d with rfl | hd
  · exact .inr (.inr rfl)
  have hlt : n % d < d := Nat.mod_lt n hd
  have hcases : ∀ up : Bool, (up = true → n % d ≠ 0) → (if up then n / d + 1 else n / d) = n / d ∨
      ((if up then n / d + 1 else n / d) = n / d + 1 ∧ n % d ≠ 0) ∨ d = 0 := by
    rintro (_ | _) hup
    · exact .inl rfl
    · exact .inr (.inl ⟨rfl, hup rfl⟩)
  refine hcases _ ?_
  cases mode <;> simp only [Bool.or_eq_true, Bool.and_eq_true, decide_eq_true_eq, Bool.false_eq_true, false_implies] <;> omega

theorem roundNat_snd (mode : Rnd) (neg : Bool) (n d : Nat) : (roundNat mode neg n d).2 = decide (n % d ≠ 0) := rfl

/-- The ceiling, by the remainder. -/
theorem ceil_eq {n d : Nat} (hd : 0 < d) : (n + d - 1) / d = if n % d = 0 then n / d else n / d + 1 := by
  have hdiv : d * (n / d) + n % d = n := Nat.div_add_mod n d
  have hlt : n % d < d := Nat.mod_lt n hd
  have hmul : d * (n / d + 1) = d * (n / d) + d := Nat.mul_succ _ _
  split
  · exact Nat.div_eq_of_lt_le (by rw [Nat.mul_comm]; omega) (by rw [Nat.mul_comm, hmul]; omega)
  · exact Nat.div_eq_of_lt_le (by rw [Nat.mul_comm, hmul]; omega) (by rw [Nat.mul_comm, Nat.mul_succ, hmul]; omega)

theorem roundNat_rtz (neg : Bool) (n d : Nat) : (roundNat .rtz neg n d).1 = n / d := rfl

theorem roundNat_rdn (neg : Bool) {n d : Nat} (hd : 0 < d) :
    (roundNat .rdn neg n d).1 = if neg then (n + d - 1) / d else n / d := by
  rw [ceil_eq hd]
  unfold roundNat
  cases neg <;> by_cases h : n % d = 0 <;> simp [h]

theorem roundNat_rup (neg : Bool) {n d : Nat} (hd : 0 < d) :
    (roundNat .rup neg n d).1 = if neg then n / d else (n + d - 1) / d := by
  rw [ceil_eq hd]
  unfold roundNat
  cases neg <;> by_cases h : n % d = 0 <;> simp [h]

section
variable {neg : Bool} {n d : Nat}

/-- Twice a rounded integer lies within half a unit: to nearest, ties to even. -/
theorem roundNat_rne (hd : 0 < d) : let r := (roundNat .rne neg n d).1
    2 * r * d ≤ 2 * n + d ∧ 2 * n ≤ 2 * r * d + d ∧ (2 * r * d = 2 * n + d ∨ 2 * n = 2 * r * d + d → r % 2 = 0) := by
  have hdiv : d * (n / d) + n % d = n := Nat.div_add_mod n d
  have hlt : n % d < d := Nat.mod_lt n hd
  have hlow : 2 * (n / d) * d = 2 * (d * (n / d)) := by ring
  have hhigh : 2 * (n / d + 1) * d = 2 * (d * (n / d)) + 2 * d := by ring
  unfold roundNat
  dsimp only
  by_cases hup : (decide (d < 2 * (n % d)) || decide (2 * (n % d) = d) && decide (n / d % 2 = 1)) = true
  · rw [if_pos hup, hhigh]
    simp only [Bool.or_eq_true, Bool.and_eq_true, decide_eq_true_eq] at hup
    omega
  · rw [if_neg hup, hlow]
    simp only [Bool.or_eq_true, Bool.and_eq_true, decide_eq_true_eq] at hup
    omega

theorem roundNat_rna (hd : 0 < d) : let r := (roundNat .rna neg n d).1
    2 * r * d ≤ 2 * n + d ∧ 2 * n < 2 * r * d + d := by
  have hdiv : d * (n / d) + n % d = n := Nat.div_add_mod n d
  have hlt : n % d < d := Nat.mod_lt n hd
  have hlow : 2 * (n / d) * d = 2 * (d * (n / d)) := by ring
  have hhigh : 2 * (n / d + 1) * d = 2 * (d * (n / d)) + 2 * d := by ring
  unfold roundNat
  dsimp only
  by_cases hup : decide (d ≤ 2 * (n % d)) = true
  · rw [if_pos hup, hhigh]
    simp only [decide_eq_true_eq] at hup
    omega
  · rw [if_neg hup, hlow]
    simp only [decide_eq_true_eq] at hup
    omega

end

theorem roundingModes : Claims.RoundingModes := by
  intro neg n d hd
  refine ⟨fun mode => ?_, roundNat_rne hd, roundNat_rna hd, roundNat_rtz neg n d, roundNat_rdn neg hd, roundNat_rup neg hd⟩
  have hdiv : n / d * d + n % d = n := Nat.div_add_mod' n d
  have hexact : d ∣ n ↔ n % d = 0 := Nat.dvd_iff_mod_eq_zero
  rw [roundNat_snd, hexact, decide_eq_true_eq]
  rcases roundNat_floor mode neg n d with h | ⟨h, hr⟩ | h
  · exact ⟨by omega, by omega, Iff.rfl, fun h0 => by rw [h]; omega⟩
  · exact ⟨by omega, by omega, Iff.rfl, fun h0 => absurd h0 hr⟩
  · omega

/-- Rounding depends on the fraction alone. -/
theorem roundNat_mul (mode : Rnd) (neg : Bool) (n d : Nat) {k : Nat} (hk : 0 < k) :
    roundNat mode neg (n * k) (d * k) = roundNat mode neg n d := by
  have hdiv : n * k / (d * k) = n / d := Nat.mul_div_mul_right n d hk
  have hmod : n * k % (d * k) = n % d * k := Nat.mul_mod_mul_right k n d
  have hlt : d * k < 2 * (n % d * k) ↔ d < 2 * (n % d) := by rw [← Nat.mul_assoc]; exact Nat.mul_lt_mul_right hk
  have heq : 2 * (n % d * k) = d * k ↔ 2 * (n % d) = d := by rw [← Nat.mul_assoc]; exact Nat.mul_left_inj hk.ne'
  have hle : d * k ≤ 2 * (n % d * k) ↔ d ≤ 2 * (n % d) := by rw [← Nat.mul_assoc]; exact Nat.mul_le_mul_right_iff hk
  have hzero : n % d * k ≠ 0 ↔ n % d ≠ 0 := by simp [hk.ne']
  unfold roundNat
  simp only [hdiv, hmod, hlt, heq, hle, hzero]

theorem roundNat_congr (mode : Rnd) (neg : Bool) {n d n' d' : Nat} (hd : 0 < d) (hd' : 0 < d') (h : (n : ℚ) / d = (n' : ℚ) / d') :
    roundNat mode neg n d = roundNat mode neg n' d' := by
  have hcross : n * d' = n' * d := by
    rw [div_eq_div_iff (by positivity) (by positivity)] at h
    exact_mod_cast h
  rw [← roundNat_mul mode neg n d hd', hcross, Nat.mul_comm d d', roundNat_mul mode neg n' d' hd]

/-! ### Powers of two -/

/-- The exponent of the leading bit of a positive fraction. -/
theorem floorLog2_spec {n d : Nat} (hn : 0 < n) (hd : 0 < d) :
    (2 : ℚ) ^ floorLog2 n d ≤ (n : ℚ) / d ∧ (n : ℚ) / d < (2 : ℚ) ^ (floorLog2 n d + 1) := by
  have hd' : (0 : ℚ) < d := by positivity
  have hn1 : (2 : ℚ) ^ Nat.log2 n ≤ n := by exact_mod_cast Nat.log2_self_le hn.ne'
  have hn2 : (n : ℚ) < 2 ^ (Nat.log2 n + 1) := by exact_mod_cast Nat.lt_log2_self
  have hd1 : (2 : ℚ) ^ Nat.log2 d ≤ d := by exact_mod_cast Nat.log2_self_le hd.ne'
  have hd2 : (d : ℚ) < 2 ^ (Nat.log2 d + 1) := by exact_mod_cast Nat.lt_log2_self
  have hexp : (2 : ℚ) ^ ((Nat.log2 n : Int) - Nat.log2 d) = 2 ^ Nat.log2 n / 2 ^ Nat.log2 d := by
    rw [zpow_sub₀ two_ne_zero, zpow_natCast, zpow_natCast]
  have hle : Q.le (Q.scale 1 ((Nat.log2 n : Int) - Nat.log2 d)) ⟨n, d⟩ = true ↔ (2 : ℚ) ^ ((Nat.log2 n : Int) - Nat.log2 d) ≤ (n : ℚ) / d := by
    rw [le_iff (den_scale _ _) hd, ratQ_scale, Int.cast_one, one_mul]
    simp [ratQ]
  have hup : (n : ℚ) / d < (2 : ℚ) ^ ((Nat.log2 n : Int) - Nat.log2 d + 1) := by
    rw [zpow_add_one₀ two_ne_zero, hexp, div_lt_iff₀ hd']
    calc (n : ℚ) < 2 ^ (Nat.log2 n + 1) := hn2
      _ = 2 ^ Nat.log2 n / 2 ^ Nat.log2 d * 2 * 2 ^ Nat.log2 d := by rw [pow_succ]; field_simp
      _ ≤ 2 ^ Nat.log2 n / 2 ^ Nat.log2 d * 2 * d := by gcongr
  have hlow : (2 : ℚ) ^ ((Nat.log2 n : Int) - Nat.log2 d - 1) ≤ (n : ℚ) / d := by
    rw [zpow_sub_one₀ two_ne_zero, hexp, le_div_iff₀ hd']
    calc (2 : ℚ) ^ Nat.log2 n / 2 ^ Nat.log2 d * 2⁻¹ * d ≤ 2 ^ Nat.log2 n / 2 ^ Nat.log2 d * 2⁻¹ * 2 ^ (Nat.log2 d + 1) := by gcongr
      _ = 2 ^ Nat.log2 n := by rw [pow_succ]; field_simp
      _ ≤ n := hn1
  unfold floorLog2
  dsimp only
  by_cases h : Q.le (Q.scale 1 ((Nat.log2 n : Int) - Nat.log2 d)) ⟨n, d⟩ = true
  · rw [if_pos h]
    exact ⟨hle.mp h, hup⟩
  · rw [if_neg h]
    refine ⟨hlow, ?_⟩
    rw [sub_add_cancel]
    exact not_le.mp fun hc => h (hle.mpr hc)

/-- The exponent is the one between whose powers the number lies. -/
theorem log2_unique {v : ℚ} {e f : Int} (he : (2 : ℚ) ^ e ≤ v) (he' : v < (2 : ℚ) ^ (e + 1)) (hf : (2 : ℚ) ^ f ≤ v)
    (hf' : v < (2 : ℚ) ^ (f + 1)) : e = f := by
  have h1 : e < f + 1 := (zpow_lt_zpow_iff_right₀ one_lt_two).mp (he.trans_lt hf')
  have h2 : f < e + 1 := (zpow_lt_zpow_iff_right₀ one_lt_two).mp (hf.trans_lt he')
  omega

/-- A magnitude in units of a power of two. -/
theorem inUnits_spec {m : Q} (hm : 0 ≤ m.num) (hd : 0 < m.den) (qe : Int) :
    0 < (inUnits m qe).2 ∧ ((inUnits m qe).1 : ℚ) / (inUnits m qe).2 = ratQ m / (2 : ℚ) ^ qe := by
  have hnum : ((m.num.toNat : Nat) : ℚ) = m.num := by exact_mod_cast Int.toNat_of_nonneg hm
  have hden : (m.den : ℚ) ≠ 0 := by positivity
  unfold inUnits ratQ
  by_cases h : 0 ≤ qe
  · obtain ⟨k, rfl⟩ := Int.eq_ofNat_of_zero_le h
    rw [if_pos h]
    refine ⟨by positivity, ?_⟩
    push_cast
    rw [hnum, zpow_natCast]
    simp only [Int.toNat_natCast]
    field_simp
  · obtain ⟨k, hk⟩ := Int.eq_ofNat_of_zero_le (show 0 ≤ -qe by omega)
    have hqe : qe = -(k : Int) := by omega
    rw [if_neg h]
    refine ⟨hd, ?_⟩
    rw [hqe, zpow_neg, zpow_natCast]
    push_cast
    rw [hnum]
    simp only [neg_neg, Int.toNat_natCast]
    field_simp

/-! ### The magnitudes of a binary format (R53, R54) -/

/-- The magnitude of a code of b mantissa bits, counted from the smallest subnormal, whose unit is 2^(emin − b). -/
def gridVal (b : Nat) (emin : Int) (c : Nat) : ℚ :=
  if c / 2 ^ b = 0 then ((c % 2 ^ b : Nat) : ℚ) * 2 ^ (emin - b)
  else ((c % 2 ^ b + 2 ^ b : Nat) : ℚ) * 2 ^ ((c / 2 ^ b : Nat) - 1 + emin - b)

section
variable {b : Nat} {emin : Int}

/-- The code of K units of the last place at j places above the subnormals. -/
theorem gridVal_place {j K : Nat} (hlow : K < 2 ^ b → j = 0) (hhigh : K ≤ 2 ^ (b + 1)) :
    gridVal b emin (j * 2 ^ b + K) = K * (2 : ℚ) ^ (emin + j - b) := by
  have hpos : 0 < 2 ^ b := by positivity
  have hpow : 2 ^ (b + 1) = 2 ^ b + 2 ^ b := by rw [pow_succ]; omega
  unfold gridVal
  rcases lt_or_ge K (2 ^ b) with hK | hK
  · rw [hlow hK, Nat.zero_mul, Nat.zero_add, Nat.div_eq_of_lt hK, if_pos rfl, Nat.mod_eq_of_lt hK, Nat.cast_zero, add_zero]
  · rcases hhigh.lt_or_eq with hK' | rfl
    · have hdiv : (j * 2 ^ b + K) / 2 ^ b = j + 1 := by
        rw [Nat.add_comm, Nat.add_mul_div_right _ _ hpos, Nat.div_eq_of_lt_le (k := 1) (by omega) (by omega)]
        omega
      have hmod : (j * 2 ^ b + K) % 2 ^ b + 2 ^ b = K := by
        rw [Nat.mul_add_mod', Nat.mod_eq_sub_mod hK, Nat.mod_eq_of_lt (by omega)]
        omega
      rw [hdiv, hmod, if_neg (Nat.succ_ne_zero j)]
      congr 2
      push_cast
      ring
    · have hcode : j * 2 ^ b + 2 ^ (b + 1) = (j + 2) * 2 ^ b := by rw [pow_succ]; ring
      rw [hcode, Nat.mul_div_cancel _ hpos, Nat.mul_mod_left, if_neg (by omega), Nat.zero_add]
      push_cast
      rw [show (j : Int) + 2 - 1 + emin - b = (emin + j - b) + 1 by ring, zpow_add_one₀ two_ne_zero, pow_succ]
      ring

/-- Every code is a number of units at its place. -/
theorem code_place (b c : Nat) : ∃ j K, c = j * 2 ^ b + K ∧ (K < 2 ^ b → j = 0) ∧ K < 2 ^ (b + 1) := by
  have hdiv : c / 2 ^ b * 2 ^ b + c % 2 ^ b = c := Nat.div_add_mod' c _
  have hlt : c % 2 ^ b < 2 ^ b := Nat.mod_lt c (by positivity)
  have hpow : 2 ^ (b + 1) = 2 ^ b + 2 ^ b := by rw [pow_succ]; omega
  rcases Nat.eq_zero_or_pos (c / 2 ^ b) with h | h
  · exact ⟨0, c, by omega, fun _ => rfl, by rw [h] at hdiv; omega⟩
  · obtain ⟨j, hj⟩ := Nat.exists_eq_add_of_lt h
    rw [Nat.zero_add] at hj
    rw [hj, Nat.add_mul] at hdiv
    exact ⟨j, c % 2 ^ b + 2 ^ b, by omega, fun _ => by omega, by omega⟩

/-- A greater code has a greater magnitude. -/
theorem gridVal_strictMono (b : Nat) (emin : Int) : StrictMono (gridVal b emin) := by
  refine strictMono_nat_of_lt_succ fun c => ?_
  obtain ⟨j, K, rfl, hlow, hhigh⟩ := code_place b c
  rw [Nat.add_assoc, gridVal_place hlow hhigh.le, gridVal_place (fun h => hlow (by omega)) hhigh]
  have hunit : (0 : ℚ) < 2 ^ (emin + j - b) := by positivity
  push_cast
  linarith

theorem gridVal_zero : gridVal b emin 0 = 0 := by simp [gridVal]

theorem gridVal_nonneg (c : Nat) : 0 ≤ gridVal b emin c := gridVal_zero (b := b) (emin := emin) ▸ (gridVal_strictMono b emin).monotone c.zero_le

/-- A magnitude lies below a power of two, or is a whole number of the units of that exponent. -/
theorem gridVal_units (c : Nat) (X : Int) :
    (X ≠ emin ∧ gridVal b emin c < (2 : ℚ) ^ X) ∨ ∃ J : Nat, gridVal b emin c = J * (2 : ℚ) ^ (X - b) := by
  obtain ⟨j, K, rfl, hlow, hhigh⟩ := code_place b c
  rw [gridVal_place hlow hhigh.le]
  rcases le_or_gt X (emin + j) with h | h
  · obtain ⟨i, hi⟩ := Int.eq_ofNat_of_zero_le (show 0 ≤ emin + j - X by omega)
    refine .inr ⟨K * 2 ^ i, ?_⟩
    rw [show emin + j - b = (i : Int) + (X - b) by omega, zpow_add₀ two_ne_zero, zpow_natCast]
    push_cast
    ring
  · refine .inl ⟨by omega, ?_⟩
    have hunit : (0 : ℚ) < 2 ^ (emin + j - b) := by positivity
    have hK : (K : ℚ) < 2 ^ (b + 1) := by exact_mod_cast hhigh
    calc (K : ℚ) * 2 ^ (emin + j - b) < 2 ^ (b + 1) * 2 ^ (emin + j - b) := mul_lt_mul_of_pos_right hK hunit
      _ = (2 : ℚ) ^ (emin + j + 1) := by rw [← zpow_natCast, ← zpow_add₀ two_ne_zero]; congr 1; push_cast; ring
      _ ≤ (2 : ℚ) ^ X := zpow_le_zpow_right₀ one_le_two (by omega)

end

/-! ### The code nearest to a real, below it and above it -/

section
variable {b : Nat} {emin X : Int} {v : ℝ} {K : Nat}

/-- The magnitudes as reals, in units of the last place of an exponent. -/
theorem gridVal_real (c : Nat) : (X ≠ emin ∧ (gridVal b emin c : ℝ) < (2 : ℝ) ^ X) ∨
    ∃ J : Nat, (gridVal b emin c : ℝ) = J * (2 : ℝ) ^ (X - b) := by
  rcases gridVal_units (b := b) (emin := emin) c X with ⟨h, hlt⟩ | ⟨J, hJ⟩
  · have hreal := (Rat.cast_lt (K := ℝ)).mpr hlt
    push_cast at hreal
    exact .inl ⟨h, hreal⟩
  · refine .inr ⟨J, ?_⟩
    rw [hJ]
    push_cast
    rfl

theorem two_zpow_units (b : Nat) (X : Int) : (2 : ℝ) ^ X = (2 ^ b : Nat) * (2 : ℝ) ^ (X - b) := by
  push_cast
  rw [← zpow_natCast, ← zpow_add₀ two_ne_zero]
  congr 1
  ring

/-- The greatest whole number of units below a real is the greatest magnitude below it. -/
theorem grid_below (hv : X = emin ∨ (2 : ℝ) ^ X ≤ v) (hK : v < (K + 1) * (2 : ℝ) ^ (X - b)) (c : Nat)
    (hc : (gridVal b emin c : ℝ) ≤ v) : (gridVal b emin c : ℝ) ≤ K * (2 : ℝ) ^ (X - b) := by
  have hunit : (0 : ℝ) < 2 ^ (X - b) := by positivity
  have hle : ∀ J : Nat, (J : ℝ) * 2 ^ (X - b) ≤ v → J ≤ K := fun J hJ => by
    have h : (J : ℝ) < K + 1 := lt_of_mul_lt_mul_right (hJ.trans_lt hK) hunit.le
    have : J < K + 1 := by exact_mod_cast h
    omega
  rcases gridVal_real (b := b) (emin := emin) (X := X) c with ⟨hne, hlt⟩ | ⟨J, hJ⟩
  · have hpow := hv.resolve_left hne
    rw [two_zpow_units b X] at hpow hlt
    have h : ((2 ^ b : Nat) : ℝ) ≤ K := by exact_mod_cast hle _ hpow
    exact hlt.le.trans (mul_le_mul_of_nonneg_right h hunit.le)
  · rw [hJ] at hc ⊢
    have h : (J : ℝ) ≤ K := by exact_mod_cast hle J hc
    exact mul_le_mul_of_nonneg_right h hunit.le

/-- The least whole number of units above a real is the least magnitude above it. -/
theorem grid_above (hv : X = emin ∨ (2 : ℝ) ^ X ≤ v) (hK : (K - 1) * (2 : ℝ) ^ (X - b) < v) (c : Nat)
    (hc : v ≤ gridVal b emin c) : K * (2 : ℝ) ^ (X - b) ≤ gridVal b emin c := by
  have hunit : (0 : ℝ) < 2 ^ (X - b) := by positivity
  rcases gridVal_real (b := b) (emin := emin) (X := X) c with ⟨hne, hlt⟩ | ⟨J, hJ⟩
  · exact absurd hlt (not_lt.mpr ((hv.resolve_left hne).trans hc))
  · rw [hJ] at hc ⊢
    have h : (K : ℝ) - 1 < J := lt_of_mul_lt_mul_right (hK.trans_le hc) hunit.le
    have hlt : K < J + 1 := by exact_mod_cast (by linarith : (K : ℝ) < J + 1)
    have hle : (K : ℝ) ≤ J := by exact_mod_cast Nat.lt_succ_iff.mp hlt
    exact mul_le_mul_of_nonneg_right hle hunit.le

/-- A whole number of units within half a unit of a real is nearest to it among the magnitudes. -/
theorem grid_nearest (hv : X = emin ∨ (2 : ℝ) ^ X ≤ v) (hK : |(K : ℝ) * (2 : ℝ) ^ (X - b) - v| ≤ (2 : ℝ) ^ (X - b) / 2)
    (c : Nat) : |(K : ℝ) * (2 : ℝ) ^ (X - b) - v| ≤ |(gridVal b emin c : ℝ) - v| := by
  have hunit : (0 : ℝ) < 2 ^ (X - b) := by positivity
  have hunits : ∀ J : Nat, |(K : ℝ) * (2 : ℝ) ^ (X - b) - v| ≤ |(J : ℝ) * 2 ^ (X - b) - v| := fun J => by
    rcases eq_or_ne J K with rfl | hne
    · exact le_rfl
    · have hone : (1 : ℝ) ≤ |(J : ℝ) - K| := by
        have h : (1 : Int) ≤ |(J : Int) - K| := Int.one_le_abs (by omega)
        exact_mod_cast h
      have hapart : (2 : ℝ) ^ (X - b) ≤ |(J : ℝ) * 2 ^ (X - b) - K * 2 ^ (X - b)| := by
        rw [← sub_mul, abs_mul, abs_of_pos hunit]
        exact le_mul_of_one_le_left hunit.le hone
      have htri := abs_sub_le ((J : ℝ) * 2 ^ (X - b)) v (K * 2 ^ (X - b))
      rw [abs_sub_comm v] at htri
      linarith
  rcases gridVal_real (b := b) (emin := emin) (X := X) c with ⟨hne, hlt⟩ | ⟨J, hJ⟩
  · have hpow := hv.resolve_left hne
    have hnear := hunits (2 ^ b)
    rw [← two_zpow_units, abs_of_nonpos (by linarith : (2 : ℝ) ^ X - v ≤ 0)] at hnear
    rw [abs_of_nonpos (by linarith : (gridVal b emin c : ℝ) - v ≤ 0)]
    linarith
  · rw [hJ]
    exact hunits J

end

/-! ### Rounding on the grid of a format (R54, R57, R58) -/

section
variable {b : Nat} {emin e : Int} {mode : Rnd} {neg : Bool} {m : Q} {n d : Nat}

/-- A rounded fraction lies between whole bounds of the fraction. -/
theorem roundNat_le_of_lt {B : Nat} (hd : 0 < d) (h : (n : ℚ) / d < B) : (roundNat mode neg n d).1 ≤ B := by
  have hd' : (0 : ℚ) < d := by positivity
  have hn : n < B * d := by rw [div_lt_iff₀ hd'] at h; exact_mod_cast h
  have hfloor : n / d < B := (Nat.div_lt_iff_lt_mul hd).mpr hn
  rcases roundNat_floor mode neg n d with h | ⟨h, -⟩ | h <;> omega

theorem le_roundNat_of_le {B : Nat} (hd : 0 < d) (h : (B : ℚ) ≤ (n : ℚ) / d) : B ≤ (roundNat mode neg n d).1 := by
  have hd' : (0 : ℚ) < d := by positivity
  have hn : B * d ≤ n := by rw [le_div_iff₀ hd'] at h; exact_mod_cast h
  have hfloor : B ≤ n / d := (Nat.le_div_iff_mul_le hd).mpr hn
  rcases roundNat_floor mode neg n d with h | ⟨h, -⟩ | h <;> omega

theorem ratQ_pos_toNat (hm : 0 < m.num) : ratQ m = (m.num.toNat : ℚ) / m.den ∧ 0 < m.num.toNat := by
  refine ⟨?_, by omega⟩
  have hnum : ((m.num.toNat : Nat) : ℚ) = m.num := by exact_mod_cast Int.toNat_of_nonneg hm.le
  rw [ratQ, hnum]

theorem floorLog2_eq (hm : 0 < m.num) (hd : 0 < m.den) (he : (2 : ℚ) ^ e ≤ ratQ m) (he' : ratQ m < (2 : ℚ) ^ (e + 1)) :
    floorLog2 m.num.toNat m.den = e := by
  obtain ⟨hq, hpos⟩ := ratQ_pos_toNat hm
  obtain ⟨h1, h2⟩ := floorLog2_spec hpos hd
  exact log2_unique h1 h2 (hq ▸ he) (hq ▸ he')

/-- What rounding on a grid does: a whole number of units of the last place, no lower than that of the subnormals. -/
theorem roundGrid_spec (hm : 0 < m.num) (hd : 0 < m.den) (he : (2 : ℚ) ^ e ≤ ratQ m) (he' : ratQ m < (2 : ℚ) ^ (e + 1))
    (hd0 : 0 < d) (hn : (n : ℚ) / d = ratQ m / (2 : ℚ) ^ (max e emin - b)) :
    gridVal b emin (roundGrid b emin mode neg m).1 = (roundNat mode neg n d).1 * (2 : ℚ) ^ (max e emin - b) ∧
      (roundGrid b emin mode neg m).2.1 = (roundNat mode neg n d).2 := by
  obtain ⟨hu, hunits⟩ := inUnits_spec hm.le hd (max e emin - b)
  have hround := roundNat_congr mode neg hu hd0 (hunits.trans hn.symm)
  have hunit : (0 : ℚ) < 2 ^ (max e emin - b) := by positivity
  have hexp : ∀ k : Nat, ∀ x : Int, (2 : ℚ) ^ (x + k) / 2 ^ (x - b) = (2 ^ (b + k) : Nat) := fun k x => by
    rw [← zpow_sub₀ two_ne_zero, Nat.cast_pow, Nat.cast_ofNat, ← zpow_natCast]
    congr 1
    push_cast
    ring
  unfold roundGrid
  rw [floorLog2_eq hm hd he he']
  dsimp only
  rw [hround]
  refine ⟨?_, rfl⟩
  have hplace : ((max e emin - b - (emin - b)).toNat : Int) = max e emin - emin := by omega
  have hhigh : (roundNat mode neg n d).1 ≤ 2 ^ (b + 1) := by
    refine roundNat_le_of_lt hd0 ?_
    rw [hn, ← hexp 1 (max e emin)]
    refine div_lt_div_of_pos_right (he'.trans_le (zpow_le_zpow_right₀ one_le_two ?_)) hunit
    push_cast
    omega
  have hlow : (roundNat mode neg n d).1 < 2 ^ b → (max e emin - b - (emin - b)).toNat = 0 := by
    intro h
    by_contra hne
    have hmax : max e emin = e := by omega
    have hle : 2 ^ b ≤ (roundNat mode neg n d).1 := by
      refine le_roundNat_of_le hd0 ?_
      have h0 := hexp 0 (max e emin)
      rw [Nat.add_zero, Nat.cast_zero, add_zero] at h0
      rw [hn, ← h0, hmax]
      exact div_le_div_of_nonneg_right he (by positivity)
    omega
  rw [gridVal_place hlow hhigh, hplace]
  congr 2
  ring

/-- A result is tiny after rounding where it would be, on the grid of its own exponent. -/
theorem roundGrid_tiny (hm : 0 < m.num) (hd : 0 < m.den) (he : (2 : ℚ) ^ e ≤ ratQ m) (he' : ratQ m < (2 : ℚ) ^ (e + 1))
    (hd0 : 0 < d) (hn : (n : ℚ) / d = ratQ m / (2 : ℚ) ^ (e - b)) : (roundGrid b emin mode neg m).2.2 = true ↔
      e < emin ∧ ((roundNat mode neg n d).1 : ℚ) * (2 : ℚ) ^ (e - b) < (2 : ℚ) ^ emin := by
  obtain ⟨hu, hunits⟩ := inUnits_spec hm.le hd (e - b)
  have hround := roundNat_congr mode neg hu hd0 (hunits.trans hn.symm)
  unfold roundGrid
  rw [floorLog2_eq hm hd he he']
  dsimp only
  rw [hround, Bool.and_eq_true, decide_eq_true_eq, lt_iff (den_scale _ _) (den_scale _ _), ratQ_scale, ratQ_scale, Int.cast_natCast,
    Int.cast_one, one_mul]

/-- The exponent of a positive number. -/
theorem exists_exponent (hm : 0 < m.num) (hd : 0 < m.den) : ∃ e : Int, (2 : ℚ) ^ e ≤ ratQ m ∧ ratQ m < (2 : ℚ) ^ (e + 1) := by
  obtain ⟨hq, hpos⟩ := ratQ_pos_toNat hm
  rw [hq]
  exact ⟨_, floorLog2_spec hpos hd⟩

end

/-! ### Codes of the IEEE formats (R54) -/

/-- A format whose infinity lies past its largest finite number, 2^(bias + 1). -/
def SoundFormat (p : IEEE) : Prop := 0 < p.ebits ∧ 0 < p.mbits ∧ (2 ^ p.ebits : Int) = 2 * p.bias + 2

theorem soundFormat_mem {p : IEEE} (h : p = ieeeF32 ∨ p = ieeeF64) : SoundFormat p := by
  rcases h with rfl | rfl <;> exact ⟨by decide, by decide, by decide⟩

section
variable {p : IEEE}

theorem infCode_lt (p : IEEE) : p.infCode + 2 ^ p.mbits = p.signBit := by
  have hpos : 1 ≤ 2 ^ p.ebits := Nat.one_le_two_pow
  rw [IEEE.infCode, IEEE.signBit, pow_add, ← Nat.succ_mul]
  congr 1
  omega

/-- A code below infinity, with a sign, is finite: its magnitude is that of the grid. -/
theorem decode_finite {c : Nat} (hc : c < p.infCode) (neg : Bool) : ∃ q, p.decode ((if neg then p.signBit else 0) + c) = .fin neg q ∧
    ratQ q = gridVal p.mbits p.emin c := by
  have hmpos : 0 < 2 ^ p.mbits := by positivity
  have hinf := infCode_lt p
  have hsign : p.signBit = 2 ^ p.ebits * 2 ^ p.mbits := pow_add _ _ _
  have hlt : c < p.signBit := by omega
  have hneg : ((if neg then p.signBit else 0) + c) / p.signBit % 2 = if neg then 1 else 0 := by
    cases neg
    · rw [if_neg Bool.false_ne_true, Nat.zero_add, Nat.div_eq_of_lt hlt]; rfl
    · rw [if_pos rfl, Nat.add_div_left _ (by omega), Nat.div_eq_of_lt hlt]; rfl
  have hexp : ((if neg then p.signBit else 0) + c) / 2 ^ p.mbits % 2 ^ p.ebits = c / 2 ^ p.mbits := by
    have hsmall : c / 2 ^ p.mbits < 2 ^ p.ebits := (Nat.div_lt_iff_lt_mul hmpos).mpr (hsign ▸ hlt)
    cases neg
    · rw [if_neg Bool.false_ne_true, Nat.zero_add, Nat.mod_eq_of_lt hsmall]
    · rw [if_pos rfl, hsign, Nat.add_comm, Nat.add_mul_div_right _ _ hmpos, Nat.add_mod_right, Nat.mod_eq_of_lt hsmall]
  have hman : ((if neg then p.signBit else 0) + c) % 2 ^ p.mbits = c % 2 ^ p.mbits := by
    cases neg
    · rw [if_neg Bool.false_ne_true, Nat.zero_add]
    · rw [if_pos rfl, hsign, Nat.mul_add_mod']
  have hfin : c / 2 ^ p.mbits ≠ 2 ^ p.ebits - 1 := by
    intro h
    have hle := Nat.div_mul_le_self c (2 ^ p.mbits)
    rw [h] at hle
    exact absurd hc (not_lt.mpr hle)
  have hbool : decide ((if neg then 1 else 0) = 1) = neg := by cases neg <;> rfl
  unfold IEEE.decode gridVal
  dsimp only
  rw [hneg, hexp, hman, if_neg hfin, hbool]
  by_cases h0 : c / 2 ^ p.mbits = 0
  · rw [if_pos h0, if_pos h0]
    exact ⟨_, rfl, by rw [ratQ_scale]; rfl⟩
  · rw [if_neg h0, if_neg h0]
    refine ⟨_, rfl, ?_⟩
    rw [ratQ_scale, Int.cast_natCast, IEEE.emin]
    congr 2
    ring

theorem gridVal_infCode (hp : SoundFormat p) : gridVal p.mbits p.emin p.infCode = (2 : ℚ) ^ (p.bias + 1) := by
  obtain ⟨hebits, -, hbias⟩ := hp
  have hpos : 0 < 2 ^ p.mbits := by positivity
  have htwo : 2 ≤ 2 ^ p.ebits := Nat.le_self_pow hebits.ne' 2
  have hcast : ((2 ^ p.ebits - 1 : Nat) : Int) = 2 * p.bias + 1 := by
    rw [Nat.cast_sub (by omega)]
    push_cast
    omega
  unfold gridVal IEEE.infCode
  rw [Nat.mul_div_cancel _ hpos, Nat.mul_mod_left, if_neg (by omega), Nat.zero_add, hcast, IEEE.emin]
  push_cast
  rw [← zpow_natCast, ← zpow_add₀ two_ne_zero]
  congr 1
  ring

/-- The rounding of a nonzero number, by the code on the grid. -/
theorem round_fin (mode : Rnd) (neg : Bool) {m : Q} (hm : m.num ≠ 0) : p.round mode (.fin neg m) =
    if p.infCode ≤ (roundGrid p.mbits p.emin mode neg m).1 then
      ((if neg then p.signBit else 0) + (if overflowInf mode neg then p.infCode else p.infCode - 1), fOF ||| fNX)
    else ((if neg then p.signBit else 0) + (roundGrid p.mbits p.emin mode neg m).1,
      flagIf (roundGrid p.mbits p.emin mode neg m).2.1 fNX |||
        flagIf ((roundGrid p.mbits p.emin mode neg m).2.1 && (roundGrid p.mbits p.emin mode neg m).2.2) fUF) := by
  show (if m.num = 0 then _ else _) = _
  rw [if_neg hm]

end

theorem roundToFormat : Claims.RoundToFormat := by
  intro p mode neg m e hp sign r
  have hsound := soundFormat_mem hp
  refine ⟨fun h0 => ?_, ?_, rfl, ?_⟩
  · show (if m.num = 0 then _ else _) = _
    rw [if_pos h0]
  · show (p.infCode + sign, _) = _
    rw [Nat.add_comm]
  · intro hm hd v he he' unit n d n1 d1 hd0 hd1 hn hn1 k top tiny x
    obtain ⟨hval, hinexact⟩ := roundGrid_spec (mode := mode) (neg := neg) hm hd he he' hd0 hn
    have htiny := roundGrid_tiny (emin := p.emin) (mode := mode) (neg := neg) hm hd he he' hd1 hn1
    have hr := round_fin (p := p) mode neg (m := m) hm.ne'
    have htop : p.infCode ≤ (roundGrid p.mbits p.emin mode neg m).1 ↔ top ≤ k.1 * unit (max e p.emin) := by
      rw [← hval, ← (gridVal_strictMono p.mbits p.emin).le_iff_le, gridVal_infCode hsound]
    refine ⟨fun hlt => ?_, fun hge => ?_⟩
    · have hfinite : (roundGrid p.mbits p.emin mode neg m).1 < p.infCode := not_le.mp fun h => absurd hlt (not_lt.mpr (htop.mp h))
      rw [if_neg (not_le.mpr hfinite)] at hr
      obtain ⟨q, hq, hrat⟩ := decode_finite hfinite neg
      have hx : x = .fin neg q := by rw [← hq]; exact congrArg (fun r => p.decode r.1) hr
      have hr2 : r.2 = _ := congrArg Prod.snd hr
      rw [hx]
      refine ⟨rfl, rfl, rfl, ?_, ?_⟩
      · have hpos : 0 ≤ ratQ q := hrat ▸ gridVal_nonneg _
        rw [rat_fin]
        cases neg
        · rw [if_neg Bool.false_ne_true, abs_of_nonneg hpos, hrat, hval]
        · rw [if_pos rfl, abs_neg, abs_of_nonneg hpos, hrat, hval]
      · rw [hr2, hinexact]
        have hflag : ((roundNat mode neg n d).2 && (roundGrid p.mbits p.emin mode neg m).2.2) = true ↔ k.2 = true ∧ tiny := by
          rw [Bool.and_eq_true, htiny]
        exact congrArg (flagIf _ fNX ||| ·) (if_congr hflag rfl rfl)
    · rw [if_pos (htop.mpr hge)] at hr
      refine ⟨congrArg Prod.snd hr, (congrArg Prod.fst hr).trans (congrArg (sign + ·) (if_congr ?_ rfl rfl))⟩
      cases mode <;> cases neg <;> decide

/-! ### Sums and products of numbers (R55, R112) -/

theorem fin_iff {x : FNum} : (x.isNan = false ∧ x.isInf = false) ↔ ∃ neg m, x = .fin neg m := by
  cases x <;> simp [FNum.isNan, FNum.isInf]

theorem isInf_iff {x : FNum} : x.isInf = true ↔ ∃ neg, x = .inf neg := by
  cases x <;> simp [FNum.isInf]

theorem hasValue_fin {x : FNum} (h : SoundNum x) (hfin : x.isNan = false ∧ x.isInf = false) : HasValue x (FNum.rat x) := by
  obtain ⟨neg, m, rfl⟩ := fin_iff.mp hfin
  exact ⟨neg, m, rfl, h, rfl⟩

theorem finite_hasValue {x : FNum} {q : ℚ} (h : HasValue x q) : (x.isNan = false ∧ x.isInf = false) ∧ FNum.rat x = q := by
  obtain ⟨neg, m, rfl, -, hq⟩ := h
  exact ⟨⟨rfl, rfl⟩, hq⟩

theorem hasValue_flip {x : FNum} {q : ℚ} (h : HasValue x q) : HasValue x.flip (-q) := by
  obtain ⟨neg, m, rfl, hsound, rfl⟩ := h
  refine ⟨!neg, m, rfl, hsound, ?_⟩
  rw [FNum.flip, rat_fin, rat_fin]
  cases neg <;> simp

/-- The sum of two finite numbers is exact, and where it is zero its sign is IEEE's. -/
theorem add_finite (mode : Rnd) {x y : FNum} {q r : ℚ} (hx : HasValue x q) (hy : HasValue y r) : ∃ z, x.add mode y = (z, 0) ∧
    HasValue z (q + r) ∧ (FNum.rat z = 0 → z.sign = if x.sign = y.sign then x.sign else decide (mode = .rdn)) := by
  obtain ⟨na, ma, rfl, hsx, rfl⟩ := hx
  obtain ⟨nb, mb, rfl, hsy, rfl⟩ := hy
  have hden := den_add (den_toQ hsx) (den_toQ hsy)
  have hsum := ratQ_add (den_toQ hsx) (den_toQ hsy)
  rw [← rat_eq, ← rat_eq] at hsum
  unfold FNum.add
  dsimp only
  by_cases h0 : ((FNum.fin na ma).toQ.add (FNum.fin nb mb).toQ).num = 0
  · rw [if_pos h0]
    refine ⟨_, rfl, ⟨_, _, rfl, ⟨le_rfl, Nat.one_pos⟩, ?_⟩, fun _ => ?_⟩
    · rw [rat_fin, ratQ_zero, neg_zero, ite_self, ← hsum, (num_eq_zero hden).mp h0]
    · unfold zeroSumSign
      cases mode <;> rfl
  · rw [if_neg h0]
    refine ⟨_, rfl, hsum ▸ ratQ_ofQ hden, fun hz => ?_⟩
    obtain ⟨-, hval⟩ := finite_hasValue (ratQ_ofQ hden)
    exact absurd ((num_eq_zero hden).mpr (hval.symm.trans hz)) h0

theorem add_nan (mode : Rnd) {x y : FNum} (h : x.isNan = true ∨ y.isNan = true) :
    x.add mode y = (.nan false, flagIf (x.isSnan || y.isSnan) fNV) := by
  cases x <;> cases y <;> simp [FNum.isNan] at h <;> rfl

theorem add_inf_inf (mode : Rnd) (na nb : Bool) : (FNum.inf na).add mode (.inf nb) = if na = nb then (.inf na, 0) else (.nan false, fNV) := rfl

theorem mul_nan {x y : FNum} (h : x.isNan = true ∨ y.isNan = true) : x.mul y = (.nan false, flagIf (x.isSnan || y.isSnan) fNV) := by
  cases x <;> cases y <;> simp [FNum.isNan] at h <;> rfl

theorem isZero_fin {x : FNum} (h : x.isZero = true) : ∃ neg m, x = .fin neg m ∧ m.num = 0 := by
  cases x with
  | fin neg m => exact ⟨neg, m, rfl, of_decide_eq_true h⟩
  | nan | inf => cases h

/-- Zero times infinity, either way round, is invalid. -/
theorem mul_zero_inf {x y : FNum} (h : x.isInf = true ∧ y.isZero = true ∨ x.isZero = true ∧ y.isInf = true) :
    x.mul y = (.nan false, fNV) := by
  rcases h with ⟨hx, hy⟩ | ⟨hx, hy⟩
  · obtain ⟨na, rfl⟩ := isInf_iff.mp hx
    obtain ⟨nb, m, rfl, hm⟩ := isZero_fin hy
    exact if_pos hy
  · obtain ⟨nb, rfl⟩ := isInf_iff.mp hy
    obtain ⟨na, m, rfl, hm⟩ := isZero_fin hx
    exact if_pos hx

/-- Infinity times a number that is no zero is infinity. -/
theorem mul_inf {x y : FNum} (h : (x.isInf = true ∧ y.isNan = false ∧ y.isZero = false) ∨ (y.isInf = true ∧ x.isNan = false ∧ x.isZero = false)) :
    x.mul y = (.inf (xor x.sign y.sign), 0) := by
  rcases h with ⟨hx, hy, hz⟩ | ⟨hy, hx, hz⟩
  · obtain ⟨na, rfl⟩ := isInf_iff.mp hx
    cases y with
    | nan => cases hy
    | inf nb => rfl
    | fin nb m => exact if_neg (hz ▸ Bool.false_ne_true)
  · obtain ⟨nb, rfl⟩ := isInf_iff.mp hy
    cases x with
    | nan => cases hx
    | inf na => rfl
    | fin na m => exact if_neg (hz ▸ Bool.false_ne_true)

theorem flip_nan {x : FNum} : x.flip.isNan = x.isNan ∧ x.flip.isSnan = x.isSnan := by cases x <;> exact ⟨rfl, rfl⟩

section
variable (p : IEEE) (mode : Rnd)

theorem roundWith_zero (r : FNum) : p.roundWith mode (r, 0) = p.round mode r := Prod.ext rfl BitVec.or_zero
theorem roundWith_nan (f : FFlags) : p.roundWith mode (.nan false, f) = (p.nanCode, f) := Prod.ext rfl BitVec.zero_or
theorem roundWith_inf (neg : Bool) : p.roundWith mode (.inf neg, 0) = (p.infCode + if neg then p.signBit else 0, 0) :=
  roundWith_zero p mode (.inf neg)

end

/-- The flag of the signalling NaNs among some numbers. -/
theorem sig_pair (x y : FNum) : (if [x, y].any FNum.isSnan then fNV else 0) = flagIf (x.isSnan || y.isSnan) fNV := by
  rw [List.any_cons, List.any_cons, List.any_nil, Bool.or_false]; rfl

theorem sig_triple (x y z : FNum) : (if [x, y, z].any FNum.isSnan then fNV else 0) = flagIf (x.isSnan || y.isSnan) fNV ||| flagIf z.isSnan fNV := by
  rw [List.any_cons, List.any_cons, List.any_cons, List.any_nil, Bool.or_false]
  cases x.isSnan <;> cases y.isSnan <;> cases z.isSnan <;> decide

/-- A product and sum whose product is a number. -/
theorem fma_add {mode : Rnd} {x y z r : FNum} (hz : z.isNan = false) (h : x.mul y = (r, 0)) (hr : r.isNan = false) :
    x.fma mode y z = r.add mode z := by
  unfold FNum.fma
  rw [h, hz, if_neg Bool.false_ne_true]
  exact if_neg (hr ▸ Bool.false_ne_true)

theorem floatExactThenRounded : Claims.FloatExactThenRounded := by
  intro p mode a b c _ x y z fin infOf invalid sig grows neg
  have hsx : SoundNum x := soundNum_decode p a
  have hsy : SoundNum y := soundNum_decode p b
  have hsz : SoundNum z := soundNum_decode p c
  have hadd : p.addOp mode a b = p.roundWith mode (x.add mode y) := rfl
  have hsub : p.subOp mode a b = p.roundWith mode (x.add mode y.flip) := rfl
  have hmul : p.mulOp mode a b = p.roundWith mode (x.mul y) := rfl
  have hfma : p.fmaOp mode a b c = p.roundWith mode (x.fma mode y z) := rfl
  rw [hadd, hsub, hmul, hfma]
  have hprod : fin x → fin y → ∃ r, x.mul y = (r, 0) ∧ HasValue r (FNum.rat x * FNum.rat y) ∧ r.sign = xor x.sign y.sign := by
    intro hx hy
    obtain ⟨na, ma, hxe⟩ := fin_iff.mp hx
    obtain ⟨nb, mb, hye⟩ := fin_iff.mp hy
    have hval := hasValue_mul (hasValue_fin hsx hx) (hasValue_fin hsy hy)
    rw [hxe, hye] at hval ⊢
    exact ⟨_, rfl, hval, rfl⟩
  clear_value x y z
  refine ⟨fun hx hy => ?add, fun hx hy => ?sub, fun hx hy => ?mul, fun hx hy hz => ?fma, fun h => ?nans, fun hx hy => ?infs,
    fun hx hy => ?infAdd, fun hx hy => ?addInf, fun h => ?grow, fun h => ?zeroInf, fun hno h => ?fmaNan, fun h => ?fmaGrow,
    fun hx hy hz => ?fmaInf⟩
  case add =>
    obtain ⟨r, hr, hval, hzero⟩ := add_finite mode (hasValue_fin hsx hx) (hasValue_fin hsy hy)
    obtain ⟨hfin, hrat⟩ := finite_hasValue hval
    exact ⟨r, by rw [hr, roundWith_zero], hfin, hrat, hzero⟩
  case sub =>
    obtain ⟨r, hr, hval, hzero⟩ := add_finite mode (hasValue_fin hsx hx) (hasValue_flip (hasValue_fin hsy hy))
    obtain ⟨hfin, hrat⟩ := finite_hasValue hval
    obtain ⟨nb, mb, rfl⟩ := fin_iff.mp hy
    exact ⟨r, by rw [hr, roundWith_zero], hfin, by rw [hrat, sub_eq_add_neg], hzero⟩
  case mul =>
    obtain ⟨r, hr, hval, hsign⟩ := hprod hx hy
    obtain ⟨hfin, hrat⟩ := finite_hasValue hval
    exact ⟨r, by rw [hr, roundWith_zero], hfin, hrat, hsign⟩
  case fma =>
    obtain ⟨q, hq, hqval, hsign⟩ := hprod hx hy
    obtain ⟨r, hr, hval, hzero⟩ := add_finite mode hqval (hasValue_fin hsz hz)
    obtain ⟨hfin, hrat⟩ := finite_hasValue hval
    refine ⟨r, by rw [fma_add hz.1 hq (finite_hasValue hqval).1.1, hr, roundWith_zero], hfin, hrat, fun h0 => ?_⟩
    rw [hzero h0, hsign]
    by_cases h : xor x.sign y.sign = z.sign
    · rw [if_pos h, if_pos (show neg = z.sign from h), h]
    · rw [if_neg h, if_neg (show ¬neg = z.sign from h)]
  case nans =>
    have hflip := flip_nan (x := y)
    refine ⟨?_, ?_, ?_⟩
    · rw [add_nan mode h, roundWith_nan]
      exact congrArg _ (sig_pair x y).symm
    · rw [add_nan mode (hflip.1.symm ▸ h), roundWith_nan, hflip.2]
      exact congrArg _ (sig_pair x y).symm
    · rw [mul_nan h, roundWith_nan]
      exact congrArg _ (sig_pair x y).symm
  case infs =>
    obtain ⟨na, rfl⟩ := isInf_iff.mp hx
    obtain ⟨nb, rfl⟩ := isInf_iff.mp hy
    have hflip : (FNum.inf nb).flip = .inf (!nb) := rfl
    rw [hflip, add_inf_inf, add_inf_inf]
    refine ⟨fun hne => ?_, fun heq => ?_⟩
    · have hsame : na = !nb := Bool.eq_not_of_ne hne
      rw [if_neg (show na ≠ nb from hne), if_pos hsame, roundWith_nan, roundWith_inf]
      exact ⟨rfl, rfl⟩
    · have hdiff : na ≠ !nb := by rw [show na = nb from heq]; cases nb <;> decide
      rw [if_pos (show na = nb from heq), if_neg hdiff, roundWith_nan, roundWith_inf]
      exact ⟨rfl, rfl⟩
  case infAdd =>
    obtain ⟨na, rfl⟩ := isInf_iff.mp hx
    obtain ⟨nb, m, rfl⟩ := fin_iff.mp hy
    exact ⟨roundWith_inf p mode _, roundWith_inf p mode _⟩
  case addInf =>
    obtain ⟨na, m, rfl⟩ := fin_iff.mp hx
    obtain ⟨nb, rfl⟩ := isInf_iff.mp hy
    exact ⟨roundWith_inf p mode _, roundWith_inf p mode _⟩
  case grow => rw [mul_inf h, roundWith_inf]
  case zeroInf =>
    refine ⟨by rw [mul_zero_inf h, roundWith_nan], ?_⟩
    have hflag : ∀ s : Bool, fNV ||| flagIf s fNV = fNV := by decide
    unfold FNum.fma
    rw [mul_zero_inf h]
    split
    · rw [roundWith_nan, hflag]
    · exact roundWith_nan p mode fNV
  case fmaNan =>
    have hflags : (if [x, y, z].any FNum.isSnan then fNV else 0) = _ := sig_triple x y z
    show _ = (p.nanCode, if [x, y, z].any FNum.isSnan then fNV else 0)
    rw [hflags]
    unfold FNum.fma
    cases hz : z.isNan with
    | true =>
      have hflag : (x.mul y).2 = flagIf (x.isSnan || y.isSnan) fNV := by
        cases x with
        | nan s => cases y <;> rfl
        | inf na =>
          cases y with
          | nan s => rfl
          | inf nb => rfl
          | fin nb m => exact congrArg Prod.snd (if_neg fun h0 => hno (.inl ⟨rfl, h0⟩))
        | fin na m =>
          cases y with
          | nan s => rfl
          | inf nb => exact congrArg Prod.snd (if_neg fun h0 => hno (.inr ⟨h0, rfl⟩))
          | fin nb m' => rfl
      rw [if_pos rfl, hflag, roundWith_nan]
    | false =>
      have hxy : x.isNan = true ∨ y.isNan = true := by
        rcases h with h | h | h
        · exact .inl h
        · exact .inr h
        · rw [hz] at h; cases h
      have hzs : z.isSnan = false := by cases z <;> first | rfl | cases hz
      rw [if_neg Bool.false_ne_true, mul_nan hxy, hzs]
      exact (roundWith_nan p mode _).trans (Prod.ext rfl BitVec.or_zero.symm)
  case fmaGrow =>
    have hinf := mul_inf h
    refine ⟨fun hz hne => ?_, fun hz => ?_⟩
    · obtain ⟨nc, rfl⟩ := isInf_iff.mp hz
      rw [fma_add rfl hinf rfl, add_inf_inf, if_neg (fun heq => hne heq.symm), roundWith_nan]
    · rcases hz with hz | ⟨hz, hs⟩
      · obtain ⟨nc, m, rfl⟩ := fin_iff.mp hz
        rw [fma_add rfl hinf rfl]
        exact roundWith_inf p mode _
      · obtain ⟨nc, rfl⟩ := isInf_iff.mp hz
        rw [fma_add rfl hinf rfl, add_inf_inf, if_pos (show xor x.sign y.sign = nc from hs.symm)]
        exact roundWith_inf p mode _
  case fmaInf =>
    obtain ⟨q, hq, hqval, -⟩ := hprod hx hy
    obtain ⟨nq, mq, rfl, -, -⟩ := hqval
    obtain ⟨nc, rfl⟩ := isInf_iff.mp hz
    rw [fma_add rfl hq rfl]
    exact roundWith_inf p mode _

/-! ### Minimum and maximum (R113) -/

/-- Of two numbers that are no NaN the first is not above the second, the infinities beyond all others. -/
def NotAbove (u v : FNum) : Prop :=
  (u.isInf = true ∧ u.sign = true) ∨ (v.isInf = true ∧ v.sign = false) ∨ (u.isInf = false ∧ v.isInf = false ∧ FNum.rat u ≤ FNum.rat v)

/-- The first of two operands is the one to take as the lesser. -/
def lessFirst (x y : FNum) : Bool := decide (x.cmp y < 0) || (decide (x.cmp y = 0) && x.sign)

section
variable {x y : FNum}

theorem notAbove_refl (hx : x.isNan = false) : NotAbove x x := by
  match x with
  | .nan _ => cases hx
  | .inf true => exact .inl ⟨rfl, rfl⟩
  | .inf false => exact .inr (.inl ⟨rfl, rfl⟩)
  | .fin _ _ => exact .inr (.inr ⟨rfl, rfl, le_rfl⟩)

theorem notAbove_of_cmp_eq (hx : SoundNum x) (hy : SoundNum y) (hxn : x.isNan = false) (hyn : y.isNan = false) (h : x.cmp y = 0) :
    NotAbove x y ∧ NotAbove y x := by
  rcases (cmp_eq_zero hx hy hxn hyn).mp h with ⟨-, rfl⟩ | ⟨⟨h1, h2⟩, heq⟩
  · exact ⟨notAbove_refl hxn, notAbove_refl hxn⟩
  · exact ⟨.inr (.inr ⟨h1, h2, heq.le⟩), .inr (.inr ⟨h2, h1, heq.ge⟩)⟩

theorem notAbove_of_cmp_neg (hx : SoundNum x) (hy : SoundNum y) (hxn : x.isNan = false) (hyn : y.isNan = false) (h : x.cmp y < 0) :
    NotAbove x y := by
  rcases (cmp_neg hx hy hxn hyn).mp h with ⟨-, rfl | rfl⟩ | ⟨⟨h1, h2⟩, hlt⟩
  · exact .inl ⟨rfl, rfl⟩
  · exact .inr (.inl ⟨rfl, rfl⟩)
  · exact .inr (.inr ⟨h1, h2, hlt.le⟩)

theorem notAbove_of_not_cmp_neg (hx : SoundNum x) (hy : SoundNum y) (hxn : x.isNan = false) (hyn : y.isNan = false) (h : ¬x.cmp y < 0) :
    NotAbove y x := by
  by_cases heq : x.cmp y = 0
  · exact (notAbove_of_cmp_eq hx hy hxn hyn heq).2
  · rw [cmp_neg hx hy hxn hyn] at h
    rw [cmp_eq_zero hx hy hxn hyn] at heq
    match x, y with
    | .nan _, _ => cases hxn
    | .inf _, .nan _ | .fin _ _, .nan _ => cases hyn
    | .inf false, _ => exact .inr (.inl ⟨rfl, rfl⟩)
    | .inf true, y => exact absurd (.inl ⟨fun hxy => heq (.inl ⟨rfl, hxy⟩), .inl rfl⟩) h
    | .fin _ _, .inf true => exact .inl ⟨rfl, rfl⟩
    | .fin _ _, .inf false => exact absurd (.inl ⟨nofun, .inr rfl⟩) h
    | .fin na ma, .fin nb mb => exact .inr (.inr ⟨rfl, rfl, not_lt.mp fun hlt => h (.inr ⟨⟨rfl, rfl⟩, hlt⟩)⟩)

/-- The one that is taken as the lesser is not above the other. -/
theorem notAbove_lessFirst (hx : SoundNum x) (hy : SoundNum y) (hxn : x.isNan = false) (hyn : y.isNan = false) :
    if lessFirst x y then NotAbove x y else NotAbove y x := by
  unfold lessFirst
  by_cases hneg : x.cmp y < 0
  · rw [decide_eq_true hneg, Bool.true_or, if_pos rfl]
    exact notAbove_of_cmp_neg hx hy hxn hyn hneg
  · by_cases heq : x.cmp y = 0
    · have hboth := notAbove_of_cmp_eq hx hy hxn hyn heq
      split
      · exact hboth.1
      · exact hboth.2
    · rw [decide_eq_false hneg, decide_eq_false heq, Bool.false_and, Bool.or_false, if_neg Bool.false_ne_true]
      exact notAbove_of_not_cmp_neg hx hy hxn hyn hneg

/-- Of two zeros the negative one is the lesser. -/
theorem lessFirst_zero (hx : SoundNum x) (hy : SoundNum y) (hxz : x.isZero = true) (hyz : y.isZero = true) : lessFirst x y = x.sign := by
  have hrat : ∀ {z : FNum}, SoundNum z → z.isZero = true → FNum.rat z = 0 := fun {z} hz h => by
    obtain ⟨neg, m, rfl, hm⟩ := isZero_fin h
    rw [rat_fin, (num_eq_zero hz.2).mp hm, neg_zero, ite_self]
  have hcmp : x.cmp y = 0 := by
    obtain ⟨na, ma, rfl, -⟩ := isZero_fin hxz
    obtain ⟨nb, mb, rfl, -⟩ := isZero_fin hyz
    exact (cmp_eq_zero hx hy rfl rfl).mpr (.inr ⟨⟨rfl, rfl⟩, (hrat hx hxz).trans (hrat hy hyz).symm⟩)
  unfold lessFirst
  rw [hcmp]
  exact Bool.false_or _

end

theorem minMax_numbers {p : IEEE} {isMax : Bool} {a b : Nat} (ha : (p.decode a).isNan = false) (hb : (p.decode b).isNan = false) :
    (p.minMax isMax a b).1 = if lessFirst (p.decode a) (p.decode b) != isMax then a else b := by
  unfold IEEE.minMax
  dsimp only
  rw [ha, hb]
  rfl

theorem minimumAndMaximum : Claims.MinimumAndMaximum := by
  intro p isMax a b _ x y r below
  have hsx : SoundNum x := soundNum_decode p a
  have hsy : SoundNum y := soundNum_decode p b
  have hr : r = p.minMax isMax a b := rfl
  refine ⟨?flags, fun hx hy => ?nans, fun hx hy => ?first, fun hx hy => ?second, fun hx hy => ?numbers⟩
  case flags =>
    rw [hr]
    unfold IEEE.minMax
    dsimp only
    split
    · rfl
    · split
      · rfl
      · split <;> rfl
  case nans =>
    have h : ((p.decode a).isNan && (p.decode b).isNan) = true := by rw [show (p.decode a).isNan = true from hx]; exact hy
    exact congrArg Prod.fst (if_pos h)
  case first =>
    rw [hr]
    unfold IEEE.minMax
    dsimp only
    rw [show (p.decode a).isNan = true from hx, show (p.decode b).isNan = false from hy]
    rfl
  case second =>
    rw [hr]
    unfold IEEE.minMax
    dsimp only
    rw [show (p.decode a).isNan = false from hx, show (p.decode b).isNan = true from hy]
    rfl
  case numbers =>
    have hfst : r.1 = if lessFirst x y != isMax then a else b := minMax_numbers hx hy
    have horder := notAbove_lessFirst hsx hsy hx hy
    have hzero : x.isZero = true → y.isZero = true → lessFirst x y = x.sign := lessFirst_zero hsx hsy
    rw [hfst]
    cases hless : lessFirst x y with
    | true =>
      rw [hless, if_pos rfl] at horder
      cases isMax with
      | false => exact ⟨.inl rfl, fun _ => ⟨notAbove_refl hx, horder⟩, nofun, fun hxz hyz _ => (hzero hxz hyz).symm.trans hless⟩
      | true =>
        refine ⟨.inr rfl, nofun, fun _ => ⟨horder, notAbove_refl hy⟩, fun hxz hyz hne => ?_⟩
        rw [(hzero hxz hyz).symm.trans hless] at hne
        exact (Bool.eq_not_of_ne (Ne.symm hne))
    | false =>
      rw [hless, if_neg Bool.false_ne_true] at horder
      cases isMax with
      | false =>
        refine ⟨.inr rfl, fun _ => ⟨horder, notAbove_refl hy⟩, nofun, fun hxz hyz hne => ?_⟩
        rw [(hzero hxz hyz).symm.trans hless] at hne
        exact Bool.eq_not_of_ne (Ne.symm hne)
      | true => exact ⟨.inl rfl, nofun, fun _ => ⟨notAbove_refl hx, horder⟩, fun hxz hyz _ => (hzero hxz hyz).symm.trans hless⟩

/-! ### Square roots (R114) -/

/-- The bits of a root, from the first down. -/
theorem isqrtFrom_spec (n : Nat) : ∀ k acc : Nat, acc * acc ≤ n → n < (acc + 2 ^ k) * (acc + 2 ^ k) →
    isqrtFrom n k acc * isqrtFrom n k acc ≤ n ∧ n < (isqrtFrom n k acc + 1) * (isqrtFrom n k acc + 1)
  | 0, acc, hlo, hhi => ⟨hlo, hhi⟩
  | k + 1, acc, hlo, hhi => by
    unfold isqrtFrom
    by_cases h : (acc + 2 ^ k) * (acc + 2 ^ k) ≤ n
    · rw [if_pos h]
      refine isqrtFrom_spec n k _ h ?_
      rwa [Nat.add_assoc, ← Nat.two_mul, ← pow_succ']
    · rw [if_neg h]
      exact isqrtFrom_spec n k _ hlo (not_le.mp h)

theorem isqrt_spec (n : Nat) : isqrt n * isqrt n ≤ n ∧ n < (isqrt n + 1) * (isqrt n + 1) := by
  refine isqrtFrom_spec n _ 0 (Nat.zero_le n) ?_
  rw [Nat.zero_add, ← pow_add]
  exact Nat.lt_log2_self.trans_le (Nat.pow_le_pow_right two_pos (by omega))

/-- An integer root with a sticky bit below it tells a real root apart from every multiple of half a unit, in units of D. -/
def StickyRoot (ρ : ℝ) (r σ : Nat) : Prop := (r : ℝ) ≤ ρ ∧ ρ < r + 1 ∧ ((σ = 0 ∧ ρ = r) ∨ (σ = 1 ∧ ρ ≠ r))

section
variable {ρ : ℝ} {r σ D : Nat}

theorem sticky_floor (h : StickyRoot ρ r σ) (hD : 0 < D) (neg : Bool) : let K := (roundNat .rtz neg (2 * r + σ) (2 * D)).1
    (K : ℝ) * D ≤ ρ ∧ ρ < (K + 1) * D := by
  obtain ⟨hlo, hhi, hσ⟩ := h
  have hdiv : (2 * r + σ) / (2 * D) = r / D := by
    rw [← Nat.div_div_eq_div_mul]
    congr 1
    omega
  rw [roundNat_rtz, hdiv]
  have h1 : r / D * D ≤ r := Nat.div_mul_le_self r D
  have h2 : r + 1 ≤ (r / D + 1) * D := Nat.lt_div_mul_add hD |>.trans_eq (by ring)
  have h1' : ((r / D : Nat) : ℝ) * D ≤ r := by exact_mod_cast h1
  have h2' : (r : ℝ) + 1 ≤ ((r / D : Nat) + 1) * D := by exact_mod_cast h2
  exact ⟨h1'.trans hlo, hhi.trans_le h2'⟩

/-- A rounding is exact where the root is that many units. -/
theorem sticky_exact (h : StickyRoot ρ r σ) {K : Nat} (hK : ρ = K * D) : 2 * r + σ = K * (2 * D) := by
  obtain ⟨hlo, hhi, hσ⟩ := h
  have hr : K * D = r := by
    rw [hK] at hlo hhi
    have h1 : r ≤ K * D := by exact_mod_cast hlo
    have h2 : K * D < r + 1 := by exact_mod_cast hhi
    omega
  have hρ : ρ = r := by rw [hK, ← hr]; push_cast; rfl
  rcases hσ with ⟨h0, -⟩ | ⟨-, hne⟩
  · rw [h0, ← hr]; ring
  · exact absurd hρ hne

theorem sticky_ceil (h : StickyRoot ρ r σ) (hD : 0 < D) : let K := (roundNat .rup false (2 * r + σ) (2 * D)).1
    ((K : ℝ) - 1) * D < ρ ∧ ρ ≤ K * D := by
  obtain ⟨hlo, hhi⟩ := sticky_floor h hD false
  rw [roundNat_rtz] at hlo hhi
  rw [roundNat_rup false (by omega), if_neg Bool.false_ne_true, ceil_eq (by omega)]
  have hDr : (0 : ℝ) < D := by exact_mod_cast hD
  by_cases h0 : (2 * r + σ) % (2 * D) = 0
  · rw [if_pos h0]
    refine ⟨by nlinarith, ?_⟩
    have hmul : (2 * r + σ) / (2 * D) * (2 * D) = 2 * r + σ := Nat.div_mul_cancel (Nat.dvd_of_mod_eq_zero h0)
    have heven : σ = 0 ∧ ρ = r := by
      rcases h.2.2 with h | ⟨h1, -⟩
      · exact h
      · rw [← Nat.mul_assoc, Nat.mul_comm _ 2, Nat.mul_assoc] at hmul
        omega
    rw [heven.2]
    have hr : r = (2 * r + σ) / (2 * D) * D := by
      rw [← Nat.mul_assoc, Nat.mul_comm _ 2, Nat.mul_assoc] at hmul
      omega
    have hr' : (r : ℝ) = ((2 * r + σ) / (2 * D) * D : Nat) := congrArg Nat.cast hr
    rw [Nat.cast_mul] at hr'
    exact hr'.le
  · rw [if_neg h0]
    push_cast
    refine ⟨?_, hhi.le⟩
    rw [add_sub_cancel_right]
    refine lt_of_le_of_ne hlo fun heq => h0 ?_
    rw [sticky_exact h heq.symm, Nat.mul_mod_left]

/-- A rounding to nearest is within half a unit of the root. -/
theorem sticky_nearest (h : StickyRoot ρ r σ) (hD : D % 2 = 0) {K : Nat}
    (h1 : 2 * K * (2 * D) ≤ 2 * (2 * r + σ) + 2 * D) (h2 : 2 * (2 * r + σ) ≤ 2 * K * (2 * D) + 2 * D) : |(K : ℝ) * D - ρ| ≤ D / 2 := by
  obtain ⟨hlo, hhi, hσ⟩ := h
  have hσ1 : σ = 0 ∨ σ = 1 := hσ.imp And.left And.left
  have hmul : 2 * K * (2 * D) = 4 * (K * D) := by ring
  rw [hmul] at h1 h2
  have hlow : 2 * (K * D) ≤ 2 * r + D := by omega
  have hlow' : 2 * ((K : ℝ) * D) ≤ 2 * r + D := by exact_mod_cast hlow
  have hhigh : 2 * ρ ≤ 2 * ((K : ℝ) * D) + D := by
    rcases hσ with ⟨h0, hρ⟩ | ⟨hσ, -⟩
    · have h : 2 * r ≤ 2 * (K * D) + D := by omega
      rw [hρ]
      exact_mod_cast h
    · have h : 2 * (r + 1) ≤ 2 * (K * D) + D := by omega
      have h' : 2 * ((r : ℝ) + 1) ≤ 2 * ((K : ℝ) * D) + D := by exact_mod_cast h
      linarith
  rw [abs_le]
  constructor <;> linarith

end

/-- A finite code's magnitude is that of a code below infinity. -/
theorem decode_fin_code {p : IEEE} {a : Nat} {neg : Bool} {q : Q} (h : p.decode a = .fin neg q) :
    ∃ c < p.infCode, ratQ q = gridVal p.mbits p.emin c := by
  have hmpos : 0 < 2 ^ p.mbits := by positivity
  have hdiv : a % (2 ^ p.mbits * 2 ^ p.ebits) / 2 ^ p.mbits = a / 2 ^ p.mbits % 2 ^ p.ebits := Nat.mod_mul_right_div_self _ _ _
  have hmod : a % (2 ^ p.mbits * 2 ^ p.ebits) % 2 ^ p.mbits = a % 2 ^ p.mbits := Nat.mod_mul_right_mod _ _ _
  have hexp : a / 2 ^ p.mbits % 2 ^ p.ebits < 2 ^ p.ebits := Nat.mod_lt _ (by positivity)
  unfold IEEE.decode at h
  dsimp only at h
  by_cases hmax : a / 2 ^ p.mbits % 2 ^ p.ebits = 2 ^ p.ebits - 1
  · rw [if_pos hmax] at h
    split at h <;> cases h
  · rw [if_neg hmax] at h
    refine ⟨a % (2 ^ p.mbits * 2 ^ p.ebits), ?_, ?_⟩
    · rw [IEEE.infCode, ← Nat.div_lt_iff_lt_mul hmpos, hdiv]
      omega
    · unfold gridVal
      rw [hdiv, hmod]
      split at h
      case isTrue h0 =>
        injection h with _ hq
        rw [if_pos h0, ← hq, ratQ_scale]
        rfl
      case isFalse h0 =>
        injection h with _ hq
        rw [if_neg h0, ← hq, ratQ_scale, Int.cast_natCast, IEEE.emin]
        congr 2
        ring

/-- The exponents of a format are wide enough for roots to be normal. -/
theorem root_exponents {p : IEEE} (h : p = ieeeF32 ∨ p = ieeeF64) : 2 ≤ p.bias ∧ (p.mbits : Int) ≤ -p.emin := by
  rcases h with rfl | rfl <;> exact ⟨by decide, by decide⟩

/-- The exponent of a positive finite number of a format. -/
theorem exponent_bounds {p : IEEE} (hp : SoundFormat p) {a : Nat} {m : Q} {L : Int} (h : p.decode a = .fin false m) (hm : 0 < ratQ m)
    (hL : (2 : ℚ) ^ L ≤ ratQ m) (hL' : ratQ m < (2 : ℚ) ^ (L + 1)) : p.emin - p.mbits ≤ L ∧ L ≤ p.bias := by
  obtain ⟨c, hc, hval⟩ := decode_fin_code h
  have hone : gridVal p.mbits p.emin 1 = (2 : ℚ) ^ (p.emin - p.mbits) := by
    have hplace := gridVal_place (b := p.mbits) (emin := p.emin) (j := 0) (K := 1) (fun _ => rfl) Nat.one_le_two_pow
    rw [Nat.zero_mul, Nat.zero_add, Nat.cast_zero, add_zero, Nat.cast_one, one_mul] at hplace
    exact hplace
  have hpos : 0 < c := by
    rw [hval, ← gridVal_zero (b := p.mbits) (emin := p.emin)] at hm
    exact (gridVal_strictMono _ _).lt_iff_lt.mp hm
  have hlow : (2 : ℚ) ^ (p.emin - p.mbits) ≤ ratQ m := by
    rw [hval, ← hone]
    exact (gridVal_strictMono _ _).monotone hpos
  have hhigh : ratQ m < (2 : ℚ) ^ (p.bias + 1) := by
    rw [hval, ← gridVal_infCode hp]
    exact gridVal_strictMono _ _ hc
  have h1 := (zpow_lt_zpow_iff_right₀ (one_lt_two (α := ℚ))).mp (hlow.trans_lt hL')
  have h2 := (zpow_lt_zpow_iff_right₀ (one_lt_two (α := ℚ))).mp (hL.trans_lt hhigh)
  omega

/-- The integer root of a fraction, with its sticky bit. -/
theorem stickyRoot_isqrt {u d : Nat} {t : ℝ} (hd : 0 < d) (ht : (u : ℝ) / d = t) :
    StickyRoot √t (isqrt (u / d)) (if decide (isqrt (u / d) * isqrt (u / d) = u / d) && decide (u % d = 0) then 0 else 1) := by
  have hd' : (0 : ℝ) < d := by exact_mod_cast hd
  obtain ⟨hlo, hhi⟩ := isqrt_spec (u / d)
  generalize hr : isqrt (u / d) = r at hlo hhi ⊢
  have htnn : 0 ≤ t := ht ▸ by positivity
  have hfloor : ((u / d : Nat) : ℝ) ≤ t := by
    rw [← ht, le_div_iff₀ hd']
    exact_mod_cast Nat.div_mul_le_self u d
  have hceil : t < ((u / d : Nat) : ℝ) + 1 := by
    rw [← ht, div_lt_iff₀ hd']
    exact_mod_cast Nat.lt_div_mul_add hd |>.trans_eq (by ring)
  have hlo' : (r : ℝ) * r ≤ (u / d : Nat) := by exact_mod_cast hlo
  have hhi' : ((u / d : Nat) : ℝ) + 1 ≤ (r + 1) * (r + 1) := by exact_mod_cast hhi
  refine ⟨Real.le_sqrt_of_sq_le (by rw [sq]; linarith), ?_, ?_⟩
  · rw [Real.sqrt_lt' (by positivity), sq]
    linarith
  · by_cases hex : (decide (r * r = u / d) && decide (u % d = 0)) = true
    · rw [if_pos hex]
      simp only [Bool.and_eq_true, decide_eq_true_eq] at hex
      refine .inl ⟨rfl, ?_⟩
      have hu : u = r * r * d := by rw [hex.1, Nat.div_mul_cancel (Nat.dvd_of_mod_eq_zero hex.2)]
      have hsq : t = (r : ℝ) ^ 2 := by
        rw [← ht, hu]
        push_cast
        field_simp
      rw [hsq, Real.sqrt_sq (Nat.cast_nonneg r)]
    · rw [if_neg hex]
      refine .inr ⟨rfl, fun heq => hex ?_⟩
      have hsq : t = r * r := by rw [← heq, Real.mul_self_sqrt htnn]
      have hu : u = r * r * d := by
        rw [← ht, div_eq_iff hd'.ne'] at hsq
        exact_mod_cast hsq
      rw [hu, Nat.mul_div_cancel _ hd, Nat.mul_mod_left, decide_eq_true rfl, decide_eq_true rfl]
      rfl

/-- What `fsqrt` rounds: the root to 2 × mbits + 6 bits below its leading one, with a sticky bit. -/
theorem sqrtOp_positive {p : IEEE} (hp : p = ieeeF32 ∨ p = ieeeF64) (mode : Rnd) {a : Nat} {m : Q} (h : p.decode a = .fin false m)
    (hm : 0 < m.num) : ∃ (e : Int) (r σ : Nat), p.emin ≤ e ∧ e < p.bias ∧ (2 : ℝ) ^ e ≤ √(ratQ m : ℝ) ∧ √(ratQ m : ℝ) < (2 : ℝ) ^ (e + 1) ∧
      StickyRoot (√(ratQ m : ℝ) / (2 : ℝ) ^ (e - (2 * p.mbits + 6))) r σ ∧
      p.sqrtOp mode a = p.round mode (.fin false (Q.scale (2 * r + σ : Nat) (e - (2 * p.mbits + 6) - 1))) := by
  have hd : 0 < m.den := by
    have hsound := soundNum_decode p a
    rw [h] at hsound
    exact hsound.2
  obtain ⟨L, hL, hL'⟩ := exists_exponent hm hd
  obtain ⟨hmin, hmax⟩ := exponent_bounds (soundFormat_mem hp) h ((num_pos hd).mp hm) hL hL'
  obtain ⟨hbias, hsub⟩ := root_exponents hp
  have hlog := floorLog2_eq hm hd hL hL'
  generalize hk : L / 2 - (2 * (p.mbits : Int) + 6) = k
  obtain ⟨hu, hunits⟩ := inUnits_spec hm.le hd (2 * k)
  have hreal : ((inUnits m (2 * k)).1 : ℝ) / (inUnits m (2 * k)).2 = (ratQ m : ℝ) / (2 : ℝ) ^ (2 * k) := by
    have hcast := congrArg (fun q : ℚ => (q : ℝ)) hunits
    push_cast at hcast
    exact hcast
  have hpow : ∀ j : Int, √((2 : ℝ) ^ (2 * j)) = (2 : ℝ) ^ j := fun j => by
    rw [mul_comm, zpow_mul, zpow_ofNat, Real.sqrt_sq (by positivity)]
  have hroot := stickyRoot_isqrt hu hreal
  rw [Real.sqrt_div' _ (by positivity), hpow] at hroot
  have hLr : (2 : ℝ) ^ L ≤ ratQ m := by
    have hcast := (Rat.cast_le (K := ℝ)).mpr hL
    push_cast at hcast
    exact hcast
  have hLr' : (ratQ m : ℝ) < (2 : ℝ) ^ (L + 1) := by
    have hcast := (Rat.cast_lt (K := ℝ)).mpr hL'
    push_cast at hcast
    exact hcast
  refine ⟨L / 2, _, _, by omega, by omega, ?_, ?_, hk.symm ▸ hroot, ?_⟩
  · rw [← hpow]
    exact Real.sqrt_le_sqrt ((zpow_le_zpow_right₀ one_le_two (by omega)).trans hLr)
  · rw [← hpow]
    exact Real.sqrt_lt_sqrt ((by positivity : (0 : ℝ) ≤ 2 ^ L).trans hLr) (hLr'.trans_le (zpow_le_zpow_right₀ one_le_two (by omega)))
  · unfold IEEE.sqrtOp
    rw [h]
    dsimp only
    rw [if_neg hm.ne', if_neg Bool.false_ne_true, hlog, hk]

/-- The code that `fsqrt` gives, by the rounded number of its units. -/
theorem sqrtOp_code {p : IEEE} (hp : p = ieeeF32 ∨ p = ieeeF64) (mode : Rnd) {a : Nat} {m : Q} (h : p.decode a = .fin false m)
    (hm : 0 < m.num) : ∃ (e : Int) (r σ : Nat), (2 : ℝ) ^ e ≤ √(ratQ m : ℝ) ∧
      StickyRoot (√(ratQ m : ℝ) / (2 : ℝ) ^ (e - p.mbits) * (2 ^ (p.mbits + 6) : Nat)) r σ ∧
      (p.sqrtOp mode a).1 < p.infCode ∧
      gridVal p.mbits p.emin (p.sqrtOp mode a).1 = (roundNat mode false (2 * r + σ) (2 * 2 ^ (p.mbits + 6))).1 * (2 : ℚ) ^ (e - p.mbits) ∧
      (p.sqrtOp mode a).2 = if (roundNat mode false (2 * r + σ) (2 * 2 ^ (p.mbits + 6))).2 then fNX else 0 := by
  obtain ⟨e, r, σ, hmin, hmax, hlow, hhigh, hroot, hop⟩ := sqrtOp_positive hp mode h hm
  generalize hS : Q.scale (2 * r + σ : Nat) (e - (2 * (p.mbits : Int) + 6) - 1) = S at hop
  have hunit : (2 : ℝ) ^ (e - (2 * p.mbits + 6)) = (2 : ℝ) ^ (e - p.mbits) / (2 ^ (p.mbits + 6) : Nat) := by
    rw [Nat.cast_pow, Nat.cast_ofNat, ← zpow_natCast, ← zpow_sub₀ two_ne_zero]
    congr 1
    push_cast
    ring
  have hSden : 0 < S.den := hS ▸ den_scale _ _
  have hSrat : ratQ S = ((2 * r + σ : Nat) : ℚ) / ((2 * 2 ^ (p.mbits + 6) : Nat) : ℚ) * (2 : ℚ) ^ (e - p.mbits) := by
    rw [← hS, ratQ_scale, Int.cast_natCast, div_mul_eq_mul_div, mul_div_assoc]
    congr 1
    rw [← pow_succ', Nat.cast_pow, Nat.cast_ofNat, ← zpow_natCast, ← zpow_sub₀ two_ne_zero]
    congr 1
    push_cast
    ring
  have hbounds : 2 ^ (2 * p.mbits + 6) ≤ r ∧ r < 2 ^ (2 * p.mbits + 7) := by
    obtain ⟨hrlo, hrhi, -⟩ := hroot
    have hk : (0 : ℝ) < 2 ^ (e - (2 * p.mbits + 6)) := by positivity
    have hexp : ∀ i j : Nat, 2 * p.mbits + 6 + i = j → (2 : ℝ) ^ (e + i) / 2 ^ (e - (2 * p.mbits + 6)) = ((2 ^ j : Nat) : ℝ) := fun i j hj => by
      rw [← zpow_sub₀ two_ne_zero, Nat.cast_pow, Nat.cast_ofNat, ← zpow_natCast, ← hj]
      congr 1
      push_cast
      ring
    have h2 := hrlo.trans_lt ((div_lt_div_of_pos_right hhigh hk).trans_eq (hexp 1 (2 * p.mbits + 7) rfl))
    have hlt : ((2 ^ (2 * p.mbits + 6) : Nat) : ℝ) < r + 1 :=
      (hexp 0 _ rfl).symm.le.trans_lt ((div_le_div_of_nonneg_right (by simpa using hlow) hk.le).trans_lt hrhi)
    have hlt' : 2 ^ (2 * p.mbits + 6) < r + 1 := by exact_mod_cast hlt
    exact ⟨by omega, by exact_mod_cast h2⟩
  have hσ : σ ≤ 1 := by rcases hroot.2.2 with ⟨h, -⟩ | ⟨h, -⟩ <;> omega
  have hSe : ∀ i : Int, ∀ j : Nat, (2 * p.mbits + 7 + i : Int) = j → (2 : ℚ) ^ (e + i) =
      ((2 ^ j : Nat) : ℚ) / ((2 * 2 ^ (p.mbits + 6) : Nat) : ℚ) * (2 : ℚ) ^ (e - p.mbits) := fun i j hj => by
    rw [← pow_succ', Nat.cast_pow, Nat.cast_pow, Nat.cast_ofNat, ← zpow_natCast, ← zpow_natCast, ← zpow_sub₀ two_ne_zero,
      ← zpow_add₀ two_ne_zero, ← hj]
    congr 1
    push_cast
    ring
  have hSlo : (2 : ℚ) ^ e ≤ ratQ S := by
    have hle : ((2 ^ (2 * p.mbits + 7) : Nat) : ℚ) ≤ (2 * r + σ : Nat) := by
      have : 2 ^ (2 * p.mbits + 7) ≤ 2 * r + σ := by rw [pow_succ]; omega
      exact_mod_cast this
    have h0 := hSe 0 (2 * p.mbits + 7) (by push_cast; ring)
    rw [add_zero] at h0
    rw [h0, hSrat]
    gcongr
  have hShi : ratQ S < (2 : ℚ) ^ (e + 1) := by
    have hlt : ((2 * r + σ : Nat) : ℚ) < (2 ^ (2 * p.mbits + 8) : Nat) := by
      have : 2 * r + σ < 2 ^ (2 * p.mbits + 8) := by rw [show 2 * p.mbits + 8 = 2 * p.mbits + 7 + 1 from rfl, pow_succ 2 (2 * p.mbits + 7)]; omega
      exact_mod_cast this
    rw [hSe 1 (2 * p.mbits + 8) (by push_cast; ring), hSrat]
    gcongr
  have hSpos : 0 < S.num := (num_pos hSden).mpr ((by positivity : (0 : ℚ) < 2 ^ e).trans_le hSlo)
  have hmaxe : max e p.emin = e := max_eq_left hmin
  have hd0 : 0 < 2 * 2 ^ (p.mbits + 6) := by positivity
  have hn : ((2 * r + σ : Nat) : ℚ) / ((2 * 2 ^ (p.mbits + 6) : Nat) : ℚ) = ratQ S / (2 : ℚ) ^ (e - p.mbits) := by
    rw [hSrat, mul_div_cancel_right₀ _ (by positivity)]
  obtain ⟨hval, hinexact⟩ := roundGrid_spec (emin := p.emin) (mode := mode) (neg := false) hSpos hSden hSlo hShi hd0 (hmaxe.symm ▸ hn)
  have htiny := (roundGrid_tiny (emin := p.emin) (mode := mode) (neg := false) hSpos hSden hSlo hShi hd0 hn).not.mpr
    fun hlt => absurd hmin (not_le.mpr hlt.1)
  rw [hmaxe] at hval
  have hcode : (roundGrid p.mbits p.emin mode false S).1 < p.infCode := by
    have hK : (roundNat mode false (2 * r + σ) (2 * 2 ^ (p.mbits + 6))).1 ≤ 2 ^ (p.mbits + 1) := by
      refine roundNat_le_of_lt hd0 ?_
      rw [hn, div_lt_iff₀ (by positivity), Nat.cast_pow, Nat.cast_ofNat, ← zpow_natCast, ← zpow_add₀ two_ne_zero]
      refine hShi.trans_eq (congrArg _ ?_)
      push_cast
      ring
    refine (gridVal_strictMono p.mbits p.emin).lt_iff_lt.mp ?_
    rw [gridVal_infCode (soundFormat_mem hp), hval]
    calc _ ≤ ((2 ^ (p.mbits + 1) : Nat) : ℚ) * (2 : ℚ) ^ (e - p.mbits) := by gcongr
      _ = (2 : ℚ) ^ (e + 1) := by
        rw [Nat.cast_pow, Nat.cast_ofNat, ← zpow_natCast, ← zpow_add₀ two_ne_zero]
        congr 1
        push_cast
        ring
      _ < (2 : ℚ) ^ (p.bias + 1) := zpow_lt_zpow_right₀ one_lt_two (by omega)
  rw [round_fin mode false hSpos.ne', if_neg (not_le.mpr hcode), if_neg Bool.false_ne_true, Nat.zero_add, hinexact,
    Bool.eq_false_of_not_eq_true htiny, Bool.and_false] at hop
  rw [hop]
  refine ⟨e, r, σ, hlow, ?_, hcode, hval, BitVec.or_zero⟩
  rw [hunit, div_div_eq_mul_div, mul_div_right_comm] at hroot
  exact hroot

/-- The value of a code below infinity. -/
theorem rat_decode_finite {p : IEEE} {c : Nat} (hc : c < p.infCode) : FNum.rat (p.decode c) = gridVal p.mbits p.emin c := by
  obtain ⟨q, hq, hval⟩ := decode_finite hc false
  rw [if_neg Bool.false_ne_true, Nat.zero_add] at hq
  rw [hq, rat_fin, if_neg Bool.false_ne_true, hval]

section
variable {p : IEEE} {mode : Rnd} {a : Nat} {m : Q}

/-- A square root is exact where its square is the operand, and inexact elsewhere. -/
theorem sqrtOp_flags (hp : p = ieeeF32 ∨ p = ieeeF64) (h : p.decode a = .fin false m) (hm : 0 < m.num) :
    (p.sqrtOp mode a).2 =
      if gridVal p.mbits p.emin (p.sqrtOp mode a).1 * gridVal p.mbits p.emin (p.sqrtOp mode a).1 = ratQ m then 0 else fNX := by
  obtain ⟨e, r, σ, hlow, hroot, -, hval, hflag⟩ := sqrtOp_code hp mode h hm
  generalize hw : √(ratQ m : ℝ) / (2 : ℝ) ^ (e - p.mbits) * (2 ^ (p.mbits + 6) : Nat) = ρ at hroot
  generalize hK : (roundNat mode false (2 * r + σ) (2 * 2 ^ (p.mbits + 6))).1 = K at hval
  have hD : 0 < 2 ^ (p.mbits + 6) := by positivity
  have hmq : (0 : ℝ) ≤ ratQ m := by
    have hnum : (0 : ℚ) ≤ m.num := by exact_mod_cast hm.le
    exact Rat.cast_nonneg.mpr (div_nonneg hnum (Nat.cast_nonneg m.den))
  have hexact : (2 * r + σ) % (2 * 2 ^ (p.mbits + 6)) = 0 ↔ ρ = K * (2 ^ (p.mbits + 6) : Nat) := by
    refine ⟨fun h0 => ?_, fun hρ => ?_⟩
    · have hmul : K * (2 * 2 ^ (p.mbits + 6)) = 2 * r + σ := by
        rcases roundNat_floor mode false (2 * r + σ) (2 * 2 ^ (p.mbits + 6)) with h | ⟨-, h⟩ | h
        · rw [← hK, h]
          exact Nat.div_mul_cancel (Nat.dvd_of_mod_eq_zero h0)
        · exact absurd h0 h
        · omega
      have hcomm : K * (2 * 2 ^ (p.mbits + 6)) = 2 * (K * 2 ^ (p.mbits + 6)) := by ring
      obtain ⟨-, -, hσ⟩ := hroot
      have hzero : σ = 0 ∧ ρ = r := hσ.resolve_right fun h1 => by omega
      have hr : r = K * 2 ^ (p.mbits + 6) := by omega
      rw [hzero.2, hr, Nat.cast_mul]
    · rw [sticky_exact hroot hρ, Nat.mul_mod_left]
  have hiff : ρ = K * (2 ^ (p.mbits + 6) : Nat) ↔ √(ratQ m : ℝ) = K * (2 : ℝ) ^ (e - p.mbits) := by
    have hD' : ((2 ^ (p.mbits + 6) : Nat) : ℝ) ≠ 0 := by exact_mod_cast hD.ne'
    rw [← hw, mul_left_inj' hD', div_eq_iff (by positivity)]
  have hsq : √(ratQ m : ℝ) = K * (2 : ℝ) ^ (e - p.mbits) ↔
      gridVal p.mbits p.emin (p.sqrtOp mode a).1 * gridVal p.mbits p.emin (p.sqrtOp mode a).1 = ratQ m := by
    rw [Real.sqrt_eq_iff_mul_self_eq hmq (by positivity), hval, ← Rat.cast_inj (α := ℝ)]
    push_cast
    exact eq_comm
  rw [hflag, roundNat_snd]
  by_cases h0 : (2 * r + σ) % (2 * 2 ^ (p.mbits + 6)) = 0
  · rw [if_neg (by simpa using h0), if_pos (hsq.mp (hiff.mp (hexact.mp h0)))]
  · rw [if_pos (by simpa using h0), if_neg fun hz => h0 (hexact.mpr (hiff.mpr (hsq.mpr hz)))]

/-- Toward zero and down the root is the greatest magnitude that does not pass it. -/
theorem sqrtOp_below (hp : p = ieeeF32 ∨ p = ieeeF64) (h : p.decode a = .fin false m) (hm : 0 < m.num) (hmode : mode = .rtz ∨ mode = .rdn) :
    ((gridVal p.mbits p.emin (p.sqrtOp mode a).1 : ℚ) : ℝ) ≤ √(ratQ m : ℝ) ∧
      ∀ c, (gridVal p.mbits p.emin c : ℝ) ≤ √(ratQ m : ℝ) → gridVal p.mbits p.emin c ≤ gridVal p.mbits p.emin (p.sqrtOp mode a).1 := by
  obtain ⟨e, r, σ, hlow, hroot, -, hval, -⟩ := sqrtOp_code hp mode h hm
  have hD : 0 < 2 ^ (p.mbits + 6) := by positivity
  have hD' : (0 : ℝ) < (2 ^ (p.mbits + 6) : Nat) := by exact_mod_cast hD
  have hunit : (0 : ℝ) < 2 ^ (e - p.mbits) := by positivity
  have hrtz : (roundNat mode false (2 * r + σ) (2 * 2 ^ (p.mbits + 6))).1 = (roundNat .rtz false (2 * r + σ) (2 * 2 ^ (p.mbits + 6))).1 := by
    rcases hmode with rfl | rfl
    · rfl
    · rw [roundNat_rdn false (by omega)]; rfl
  obtain ⟨hlo, hhi⟩ := sticky_floor hroot hD false
  rw [mul_le_mul_iff_left₀ hD', le_div_iff₀ hunit] at hlo
  rw [mul_lt_mul_iff_left₀ hD', div_lt_iff₀ hunit] at hhi
  rw [hval, hrtz]
  refine ⟨by push_cast; exact hlo, fun c hc => ?_⟩
  have hbelow := grid_below (.inr hlow) hhi c hc
  rw [← Rat.cast_le (K := ℝ)]
  push_cast
  exact hbelow

/-- Up, it is the least magnitude that reaches it. -/
theorem sqrtOp_above (hp : p = ieeeF32 ∨ p = ieeeF64) (h : p.decode a = .fin false m) (hm : 0 < m.num) :
    √(ratQ m : ℝ) ≤ ((gridVal p.mbits p.emin (p.sqrtOp .rup a).1 : ℚ) : ℝ) ∧
      ∀ c, √(ratQ m : ℝ) ≤ (gridVal p.mbits p.emin c : ℝ) → gridVal p.mbits p.emin (p.sqrtOp .rup a).1 ≤ gridVal p.mbits p.emin c := by
  obtain ⟨e, r, σ, hlow, hroot, -, hval, -⟩ := sqrtOp_code hp .rup h hm
  have hD : 0 < 2 ^ (p.mbits + 6) := by positivity
  have hD' : (0 : ℝ) < (2 ^ (p.mbits + 6) : Nat) := by exact_mod_cast hD
  have hunit : (0 : ℝ) < 2 ^ (e - p.mbits) := by positivity
  obtain ⟨hlo, hhi⟩ := sticky_ceil hroot hD
  rw [mul_lt_mul_iff_left₀ hD', lt_div_iff₀ hunit] at hlo
  rw [mul_le_mul_iff_left₀ hD', div_le_iff₀ hunit] at hhi
  rw [hval]
  refine ⟨by push_cast; exact hhi, fun c hc => ?_⟩
  have habove := grid_above (.inr hlow) hlo c hc
  rw [← Rat.cast_le (K := ℝ)]
  push_cast
  exact habove

/-- To nearest, no magnitude is nearer to the root. -/
theorem sqrtOp_nearest (hp : p = ieeeF32 ∨ p = ieeeF64) (h : p.decode a = .fin false m) (hm : 0 < m.num) (hmode : mode = .rne ∨ mode = .rna)
    (c : Nat) : |((gridVal p.mbits p.emin (p.sqrtOp mode a).1 : ℚ) : ℝ) - √(ratQ m : ℝ)| ≤ |(gridVal p.mbits p.emin c : ℝ) - √(ratQ m : ℝ)| := by
  obtain ⟨e, r, σ, hlow, hroot, -, hval, -⟩ := sqrtOp_code hp mode h hm
  have hD : 0 < 2 * 2 ^ (p.mbits + 6) := by positivity
  have heven : 2 ^ (p.mbits + 6) % 2 = 0 := by rw [show p.mbits + 6 = p.mbits + 5 + 1 from rfl, pow_succ, Nat.mul_mod_left]
  have hD' : (0 : ℝ) < (2 ^ (p.mbits + 6) : Nat) := by positivity
  have hunit : (0 : ℝ) < 2 ^ (e - p.mbits) := by positivity
  have hhalf : |((roundNat mode false (2 * r + σ) (2 * 2 ^ (p.mbits + 6))).1 : ℝ) * (2 ^ (p.mbits + 6) : Nat) -
      √(ratQ m : ℝ) / (2 : ℝ) ^ (e - p.mbits) * (2 ^ (p.mbits + 6) : Nat)| ≤ (2 ^ (p.mbits + 6) : Nat) / 2 := by
    rcases hmode with rfl | rfl
    · obtain ⟨h1, h2, -⟩ := roundNat_rne (neg := false) (n := 2 * r + σ) hD
      exact sticky_nearest hroot heven h1 h2
    · obtain ⟨h1, h2⟩ := roundNat_rna (neg := false) (n := 2 * r + σ) hD
      exact sticky_nearest hroot heven h1 h2.le
  rw [← sub_mul, abs_mul, abs_of_pos hD', div_eq_mul_inv _ (2 : ℝ), mul_comm _ (2 : ℝ)⁻¹, mul_le_mul_iff_left₀ hD'] at hhalf
  rw [hval]
  push_cast
  refine grid_nearest (.inr hlow) ?_ c
  have hscale : ((roundNat mode false (2 * r + σ) (2 * 2 ^ (p.mbits + 6))).1 : ℝ) * (2 : ℝ) ^ (e - p.mbits) - √(ratQ m : ℝ) =
      (((roundNat mode false (2 * r + σ) (2 * 2 ^ (p.mbits + 6))).1 : ℝ) - √(ratQ m : ℝ) / (2 : ℝ) ^ (e - p.mbits)) * (2 : ℝ) ^ (e - p.mbits) := by
    rw [sub_mul, div_mul_cancel₀ _ hunit.ne']
  rw [hscale, abs_mul, abs_of_pos hunit, div_eq_inv_mul _ (2 : ℝ)]
  exact mul_le_mul_of_nonneg_right hhalf hunit.le

end

theorem squareRoots : Claims.SquareRoots := by
  intro p mode a hp x r num z v
  have hsound : SoundNum x := soundNum_decode p a
  have hr : r = p.sqrtOp mode a := rfl
  have hcode : ∀ c < p.infCode, num c = gridVal p.mbits p.emin c := fun c hc => rat_decode_finite hc
  cases hx : x with
  | nan s =>
    refine ⟨fun _ => ?_, nofun, nofun, nofun, nofun⟩
    rw [hr]
    unfold IEEE.sqrtOp
    rw [show p.decode a = .nan s from hx]
    rfl
  | inf neg =>
    refine ⟨nofun, fun _ => ?_, nofun, nofun, nofun⟩
    rw [hr]
    unfold IEEE.sqrtOp
    rw [show p.decode a = .inf neg from hx]
    rfl
  | fin neg m =>
    rw [hx] at hsound
    obtain ⟨hnn, hden⟩ := hsound
    have hv : v = if neg then -ratQ m else ratQ m := by
      show FNum.rat x = _
      rw [hx, rat_fin]
    have hmnn : 0 ≤ ratQ m := (num_nonneg hden).mp hnn
    refine ⟨nofun, nofun, fun _ _ hneg => ?_, fun hz => ?_, fun _ _ hpos => ?_⟩
    · rw [hv] at hneg
      cases neg with
      | false => exact absurd hmnn (not_le.mpr hneg)
      | true =>
        have hm0 : m.num ≠ 0 := fun h0 => by
          rw [if_pos rfl, (num_eq_zero hden).mp h0, neg_zero] at hneg
          exact lt_irrefl _ hneg
        rw [hr]
        unfold IEEE.sqrtOp
        rw [show p.decode a = .fin true m from hx]
        exact (if_neg hm0).trans (if_pos rfl)
    · rw [hr]
      unfold IEEE.sqrtOp
      rw [show p.decode a = .fin neg m from hx]
      exact if_pos (of_decide_eq_true hz)
    · cases neg with
      | true =>
        rw [hv, if_pos rfl] at hpos
        linarith
      | false =>
        have hx' : p.decode a = .fin false m := hx
        rw [if_neg Bool.false_ne_true] at hv
        have hm : 0 < m.num := (num_pos hden).mpr (hv ▸ hpos)
        obtain ⟨-, -, -, -, -, hlt, -⟩ := sqrtOp_code hp mode hx' hm
        have hz : z = gridVal p.mbits p.emin (p.sqrtOp mode a).1 := hcode _ hlt
        have hvr : (0 : ℝ) ≤ ratQ m := by exact_mod_cast hmnn
        have hsq : ∀ q : ℚ, 0 ≤ q → ((q : ℝ) ≤ √(ratQ m : ℝ) ↔ q * q ≤ ratQ m) := fun q hq => by
          rw [Real.le_sqrt (Rat.cast_nonneg.mpr hq) hvr, sq]
          exact_mod_cast Iff.rfl
        have hsq' : ∀ q : ℚ, 0 ≤ q → (√(ratQ m : ℝ) ≤ (q : ℝ) ↔ ratQ m ≤ q * q) := fun q hq => by
          rw [Real.sqrt_le_left (by exact_mod_cast hq), sq]
          exact_mod_cast Iff.rfl
        rw [hv, hz]
        refine ⟨hlt, sqrtOp_flags hp hx' hm, fun hmode => ?_, fun hmode => ?_, fun hmode c hc => ?_⟩
        · obtain ⟨hle, hall⟩ := sqrtOp_below hp hx' hm hmode
          refine ⟨(hsq _ (gridVal_nonneg _)).mp hle, fun c hc hcv => ?_⟩
          rw [hcode c hc] at hcv ⊢
          exact hall c ((hsq _ (gridVal_nonneg _)).mpr hcv)
        · subst hmode
          obtain ⟨hle, hall⟩ := sqrtOp_above hp hx' hm
          refine ⟨(hsq' _ (gridVal_nonneg _)).mp hle, fun c hc hcv => ?_⟩
          rw [hcode c hc] at hcv ⊢
          exact hall c ((hsq' _ (gridVal_nonneg _)).mpr hcv)
        · rw [hcode c hc]
          exact sqrtOp_nearest hp hx' hm hmode c

/-- Settles O5: exact operations on rationals, the grid of a format's magnitudes, and the root with its sticky bit. -/
theorem floatRounding : Obligations.FloatRounding :=
  ⟨floatExactThenRounded, roundingModes, roundToFormat, minimumAndMaximum, squareRoots⟩

/-! ### What rounding on a grid gives, among its magnitudes (R56) -/

section
variable {b : Nat} {emin : Int} {mode : Rnd} {neg : Bool} {m : Q}

/-- A rounded positive magnitude as a number of units: the exponent's unit, and the fraction that is rounded. -/
theorem roundGrid_units (b : Nat) (emin : Int) (hm : 0 < m.num) (hd : 0 < m.den) : ∃ (X : Int) (n d : Nat), 0 < d ∧
    (X = emin ∨ (2 : ℝ) ^ X ≤ ratQ m) ∧ emin ≤ X ∧ (ratQ m : ℝ) < (2 : ℝ) ^ (X + 1) ∧ (n : ℝ) / d * (2 : ℝ) ^ (X - b) = ratQ m ∧
    ∀ mode neg, gridVal b emin (roundGrid b emin mode neg m).1 = (roundNat mode neg n d).1 * (2 : ℚ) ^ (X - b) ∧
      (roundGrid b emin mode neg m).2.1 = (roundNat mode neg n d).2 := by
  obtain ⟨e, he, he'⟩ := exists_exponent hm hd
  obtain ⟨hu, hunits⟩ := inUnits_spec hm.le hd (max e emin - b)
  have hunit : (2 : ℚ) ^ (max e emin - b) ≠ 0 := by positivity
  refine ⟨max e emin, _, _, hu, ?_, le_max_right _ _, ?_, ?_, fun mode neg => roundGrid_spec hm hd he he' hu hunits⟩
  · rcases le_total e emin with h | h
    · exact .inl (max_eq_right h)
    · rw [max_eq_left h]
      have hcast := (Rat.cast_le (K := ℝ)).mpr he
      push_cast at hcast
      exact .inr hcast
  · have hcast := (Rat.cast_lt (K := ℝ)).mpr (he'.trans_le (zpow_le_zpow_right₀ one_le_two (add_le_add_left (le_max_left e emin) 1)))
    push_cast at hcast
    exact_mod_cast hcast
  · have hq := congrArg (fun q : ℚ => (q : ℝ)) (div_mul_cancel₀ (ratQ m) hunit ▸ congrArg (· * (2 : ℚ) ^ (max e emin - b)) hunits)
    push_cast at hq
    exact hq

/-- A rounded fraction against the fraction: below it or above it by less than one, or within a half. -/
theorem roundNat_below {n d : Nat} (hd : 0 < d) (h : mode = .rtz ∨ (mode = .rdn ∧ neg = false) ∨ (mode = .rup ∧ neg = true)) :
    ((roundNat mode neg n d).1 : ℝ) ≤ (n : ℝ) / d ∧ (n : ℝ) / d < (roundNat mode neg n d).1 + 1 := by
  have hd' : (0 : ℝ) < d := by exact_mod_cast hd
  have hfloor : (roundNat mode neg n d).1 = n / d := by
    rcases h with rfl | ⟨rfl, rfl⟩ | ⟨rfl, rfl⟩
    · rfl
    · exact (roundNat_rdn false hd).trans (if_neg Bool.false_ne_true)
    · exact (roundNat_rup true hd).trans (if_pos rfl)
  rw [hfloor, le_div_iff₀ hd', div_lt_iff₀ hd']
  exact ⟨by exact_mod_cast Nat.div_mul_le_self n d, by exact_mod_cast (Nat.lt_div_mul_add hd).trans_eq (by ring)⟩

theorem roundNat_above {n d : Nat} (hd : 0 < d) (h : (mode = .rdn ∧ neg = true) ∨ (mode = .rup ∧ neg = false)) :
    (n : ℝ) / d ≤ (roundNat mode neg n d).1 ∧ ((roundNat mode neg n d).1 : ℝ) - 1 < (n : ℝ) / d := by
  have hd' : (0 : ℝ) < d := by exact_mod_cast hd
  have hceil : (roundNat mode neg n d).1 = (n + d - 1) / d := by
    rcases h with ⟨rfl, rfl⟩ | ⟨rfl, rfl⟩
    · exact (roundNat_rdn true hd).trans (if_pos rfl)
    · exact (roundNat_rup false hd).trans (if_neg Bool.false_ne_true)
  have hup : n ≤ (n + d - 1) / d * d := by
    have := Nat.lt_div_mul_add (a := n + d - 1) hd
    omega
  have hlow : (n + d - 1) / d * d < n + d := by
    have := Nat.div_mul_le_self (n + d - 1) d
    omega
  have hup' : (n : ℝ) ≤ ((n + d - 1) / d : Nat) * d := by exact_mod_cast hup
  have hlow' : ((n + d - 1) / d : Nat) * (d : ℝ) < n + d := by exact_mod_cast hlow
  rw [hceil, div_le_iff₀ hd', lt_div_iff₀ hd', sub_mul, one_mul]
  exact ⟨hup', by linarith⟩

theorem roundNat_half {n d : Nat} (hd : 0 < d) (h : mode = .rne ∨ mode = .rna) : |((roundNat mode neg n d).1 : ℝ) - (n : ℝ) / d| ≤ 1 / 2 := by
  have hd' : (0 : ℝ) < d := by exact_mod_cast hd
  have hboth : 2 * (roundNat mode neg n d).1 * d ≤ 2 * n + d ∧ 2 * n ≤ 2 * (roundNat mode neg n d).1 * d + d := by
    rcases h with rfl | rfl
    · exact ⟨(roundNat_rne hd).1, (roundNat_rne hd).2.1⟩
    · exact ⟨(roundNat_rna hd).1, (roundNat_rna hd).2.le⟩
  have h1 : 2 * ((roundNat mode neg n d).1 : ℝ) * d ≤ 2 * n + d := by exact_mod_cast hboth.1
  have h2 : 2 * (n : ℝ) ≤ 2 * (roundNat mode neg n d).1 * d + d := by exact_mod_cast hboth.2
  have hsub : ((roundNat mode neg n d).1 : ℝ) - (n : ℝ) / d = ((roundNat mode neg n d).1 * d - n) / d := by field_simp
  rw [hsub, abs_div, abs_of_pos hd', div_le_div_iff₀ hd' two_pos, one_mul, ← le_div_iff₀ two_pos, abs_le]
  constructor <;> linarith

theorem roundNat_exact {n d : Nat} (hd : 0 < d) : (roundNat mode neg n d).2 = false ↔ ((roundNat mode neg n d).1 : ℝ) = (n : ℝ) / d := by
  have hd' : (d : ℝ) ≠ 0 := by exact_mod_cast hd.ne'
  rw [eq_div_iff hd', roundNat_snd, decide_eq_false_iff_not, not_not]
  refine ⟨fun h0 => ?_, fun h => ?_⟩
  · rcases roundNat_floor mode neg n d with h | ⟨-, h⟩ | h
    · rw [h]
      exact_mod_cast Nat.div_mul_cancel (Nat.dvd_of_mod_eq_zero h0)
    · exact absurd h0 h
    · omega
  · have h' : (roundNat mode neg n d).1 * d = n := by exact_mod_cast h
    rw [← h', Nat.mul_mod_left]

/-- Toward zero, and toward the infinity on the other side of zero, rounding gives the greatest magnitude that does not pass the number. -/
theorem roundGrid_below (hm : 0 < m.num) (hd : 0 < m.den) (h : mode = .rtz ∨ (mode = .rdn ∧ neg = false) ∨ (mode = .rup ∧ neg = true)) :
    gridVal b emin (roundGrid b emin mode neg m).1 ≤ ratQ m ∧
      ∀ c, gridVal b emin c ≤ ratQ m → gridVal b emin c ≤ gridVal b emin (roundGrid b emin mode neg m).1 := by
  obtain ⟨X, n, d, hd0, hX, -, -, hn, hval⟩ := roundGrid_units b emin hm hd
  obtain ⟨hlo, hhi⟩ := roundNat_below (n := n) hd0 h
  have hunit : (0 : ℝ) < 2 ^ (X - b) := by positivity
  rw [(hval mode neg).1]
  refine ⟨?_, fun c hc => ?_⟩
  · rw [← Rat.cast_le (K := ℝ), ← hn]
    push_cast
    exact mul_le_mul_of_nonneg_right hlo hunit.le
  · have hbelow := grid_below (b := b) (K := (roundNat mode neg n d).1) hX (hn ▸ mul_lt_mul_of_pos_right hhi hunit) c (Rat.cast_le.mpr hc)
    rw [← Rat.cast_le (K := ℝ)]
    push_cast
    exact hbelow

/-- Toward the infinity on the number's own side, it gives the least magnitude that reaches the number. -/
theorem roundGrid_above (hm : 0 < m.num) (hd : 0 < m.den) (h : (mode = .rdn ∧ neg = true) ∨ (mode = .rup ∧ neg = false)) :
    ratQ m ≤ gridVal b emin (roundGrid b emin mode neg m).1 ∧
      ∀ c, ratQ m ≤ gridVal b emin c → gridVal b emin (roundGrid b emin mode neg m).1 ≤ gridVal b emin c := by
  obtain ⟨X, n, d, hd0, hX, -, -, hn, hval⟩ := roundGrid_units b emin hm hd
  obtain ⟨hhi, hlo⟩ := roundNat_above (n := n) hd0 h
  have hunit : (0 : ℝ) < 2 ^ (X - b) := by positivity
  rw [(hval mode neg).1]
  refine ⟨?_, fun c hc => ?_⟩
  · rw [← Rat.cast_le (K := ℝ), ← hn]
    push_cast
    exact mul_le_mul_of_nonneg_right hhi hunit.le
  · have habove := grid_above (b := b) (K := (roundNat mode neg n d).1) hX (hn ▸ mul_lt_mul_of_pos_right hlo hunit) c (Rat.cast_le.mpr hc)
    rw [← Rat.cast_le (K := ℝ)]
    push_cast
    exact habove

/-- To nearest, no magnitude is nearer to the number. -/
theorem roundGrid_nearest (hm : 0 < m.num) (hd : 0 < m.den) (h : mode = .rne ∨ mode = .rna) (c : Nat) :
    |gridVal b emin (roundGrid b emin mode neg m).1 - ratQ m| ≤ |gridVal b emin c - ratQ m| := by
  obtain ⟨X, n, d, hd0, hX, -, -, hn, hval⟩ := roundGrid_units b emin hm hd
  have hunit : (0 : ℝ) < 2 ^ (X - b) := by positivity
  have hhalf : |((roundNat mode neg n d).1 : ℝ) * 2 ^ (X - b) - ratQ m| ≤ (2 : ℝ) ^ (X - b) / 2 := by
    rw [← hn, ← sub_mul, abs_mul, abs_of_pos hunit]
    calc _ ≤ 1 / 2 * (2 : ℝ) ^ (X - b) := mul_le_mul_of_nonneg_right (roundNat_half hd0 h) hunit.le
      _ = (2 : ℝ) ^ (X - b) / 2 := by ring
  have hnear := grid_nearest hX hhalf c
  rw [(hval mode neg).1, ← Rat.cast_le (K := ℝ)]
  push_cast
  exact hnear

/-- It is exact where the number is such a magnitude. -/
theorem roundGrid_exact (hm : 0 < m.num) (hd : 0 < m.den) : (roundGrid b emin mode neg m).2.1 = false ↔
    gridVal b emin (roundGrid b emin mode neg m).1 = ratQ m := by
  obtain ⟨X, n, d, hd0, hX, -, -, hn, hval⟩ := roundGrid_units b emin hm hd
  have hunit : (2 : ℝ) ^ (X - b) ≠ 0 := by positivity
  rw [(hval mode neg).1, (hval mode neg).2, roundNat_exact hd0, ← Rat.cast_inj (α := ℝ), ← hn]
  push_cast
  rw [mul_left_inj' hunit]

/-- A number that is no greater than a magnitude of its format's units is rounded to none greater. -/
theorem roundGrid_le (hm : 0 < m.num) (hd : 0 < m.den) {X : Int} {J : Nat} (hX : emin ≤ X) (hlt : ratQ m < (2 : ℚ) ^ (X + 1))
    (hJ : ratQ m ≤ J * (2 : ℚ) ^ (X - b)) : gridVal b emin (roundGrid b emin mode neg m).1 ≤ J * (2 : ℚ) ^ (X - b) := by
  obtain ⟨e, he, he'⟩ := exists_exponent hm hd
  obtain ⟨hu, hunits⟩ := inUnits_spec hm.le hd (max e emin - b)
  obtain ⟨hval, -⟩ := roundGrid_spec (mode := mode) (neg := neg) hm hd he he' hu hunits
  have heX : e < X + 1 := (zpow_lt_zpow_iff_right₀ (one_lt_two (α := ℚ))).mp (he.trans_lt hlt)
  obtain ⟨i, hi⟩ := Int.eq_ofNat_of_zero_le (show 0 ≤ X - max e emin by omega)
  have hunit : (0 : ℚ) < 2 ^ (max e emin - b) := by positivity
  have hscale : (J : ℚ) * (2 : ℚ) ^ (X - b) = (J * 2 ^ i : Nat) * (2 : ℚ) ^ (max e emin - b) := by
    rw [show X - b = (i : Int) + (max e emin - b) by omega, zpow_add₀ two_ne_zero, zpow_natCast]
    push_cast
    ring
  rw [hval, hscale]
  rw [hscale, ← div_le_iff₀ hunit, ← hunits] at hJ
  refine mul_le_mul_of_nonneg_right ?_ hunit.le
  generalize (inUnits m (max e emin - b)).1 = n at hJ ⊢
  generalize (inUnits m (max e emin - b)).2 = d at hJ hu ⊢
  have hd' : (0 : ℚ) < d := by exact_mod_cast hu
  have hn : n ≤ J * 2 ^ i * d := by rw [div_le_iff₀ hd'] at hJ; exact_mod_cast hJ
  have hfloor : n / d ≤ J * 2 ^ i := Nat.div_le_of_le_mul (by rwa [Nat.mul_comm])
  have hle : (roundNat mode neg n d).1 ≤ J * 2 ^ i := by
    rcases roundNat_floor mode neg n d with h | ⟨h, hr⟩ | h
    · omega
    · have hdiv := Nat.div_add_mod n d
      rcases hfloor.lt_or_eq with hlt | heq
      · omega
      · rw [heq, Nat.mul_comm] at hdiv
        omega
    · omega
  exact_mod_cast hle

end

/-! ### Integer formats (R49, R58, R125) -/

theorem range_intEnds {f : Fmt} (h : f ∈ intFormats) : f.range false = intEnds f := by
  revert f; decide

theorem intEnds_zero (f : Fmt) : (intEnds f).1 ≤ 0 ∧ 0 ≤ (intEnds f).2 := by
  cases f <;> decide

/-- The lane form of an integer in its format's range. -/
theorem laneForm_codeN {f : Fmt} (hf : f ∈ intFormats) {k : Int} (hlo : (intEnds f).1 ≤ k) (hhi : k ≤ (intEnds f).2) :
    f.laneForm (codeN k f.width) = BitVec.ofNat 64 (codeN k 32) := by
  simp only [intFormats, List.mem_cons, List.not_mem_nil, or_false] at hf
  rcases hf with rfl | rfl | rfl | rfl | rfl | rfl | rfl <;> simp only [intEnds] at hlo hhi <;> refine congrArg (BitVec.ofNat 64) ?_
  case inr.inr.inr.inl =>
    obtain rfl | rfl | rfl : k = -1 ∨ k = 0 ∨ k = 1 := by omega
    all_goals decide
  all_goals
    simp only [codeN, sextN, Fmt.width]
    norm_num
    try split
    all_goals omega

theorem loWord_codeN (k : Int) : loWord (BitVec.ofNat 64 (codeN k 32)) = BitVec.ofInt 32 k := by
  apply BitVec.eq_of_toNat_eq
  have hlo : loWord (BitVec.ofNat 64 (codeN k 32)) = (BitVec.ofNat 64 (codeN k 32)).extractLsb' 0 32 := rfl
  rw [hlo, BitVec.extractLsb'_toNat, BitVec.toNat_ofNat, BitVec.toNat_ofInt, Nat.shiftRight_zero]
  unfold codeN
  norm_num
  omega

theorem laneForm_zero {f : Fmt} (hf : f ∈ intFormats) : f.laneForm (codeN 0 f.width) = 0 :=
  (laneForm_codeN hf (intEnds_zero f).1 (intEnds_zero f).2).trans rfl

/-- An integer source's value. -/
theorem intOf_eq {f : Fmt} (hf : f ∈ intFormats) (x : DWord) : f.intValue (x.toNat % 2 ^ f.width) = intOf f x := by
  simp only [intFormats, List.mem_cons, List.not_mem_nil, or_false] at hf
  rcases hf with rfl | rfl | rfl | rfl | rfl | rfl | rfl
  case inr.inr.inr.inl =>
    have hmod : (x.setWidth 2).toNat = x.toNat % 4 := BitVec.toNat_setWidth ..
    have h1 : x.setWidth 2 = 1#2 ↔ x.toNat % 4 = 1 := by rw [← BitVec.toNat_inj, hmod]; rfl
    have h3 : x.setWidth 2 = 3#2 ↔ x.toNat % 4 = 3 := by rw [← BitVec.toNat_inj, hmod]; rfl
    have hlt : x.toNat % 4 < 4 := Nat.mod_lt _ (by decide)
    show t2Value (x.toNat % 4) = if x.setWidth 2 = 1#2 then 1 else if x.setWidth 2 = 3#2 then -1 else 0
    simp only [h1, h3, t2Value, Nat.mod_mod]
    generalize x.toNat % 4 = n at hlt
    interval_cases n <;> rfl
  all_goals
    simp only [Fmt.intValue, intOf, Fmt.width, sextN, BitVec.toInt_eq_toNat_cond, BitVec.toNat_setWidth]
    norm_num
    try (split <;> split)
    all_goals omega

theorem cvtOp_int {dst src : Fmt} (hd : dst ∈ intFormats) (hs : src ∈ intFormats) (rnd : Rnd) (x : DWord) :
    cvtOp dst src rnd false x = (dst.laneForm (codeN (max (dst.range false).1 (min (dst.range false).2 (src.intValue (x.toNat % 2 ^ src.width)))) dst.width), 0) := by
  have hfloat : ∀ f ∈ intFormats, f.isFloat = false := by decide
  unfold cvtOp
  simp only [hfloat src hs, hfloat dst hd, Bool.false_and, Bool.or_self, Bool.false_eq_true, if_false]

/-- The number that a conversion converts. -/
def cvtNum (src : Fmt) (x : DWord) : FNum :=
  if src.isFloat then src.value (x.toNat % 2 ^ src.width) else FNum.ofQ (Q.ofInt (intOf src x))

theorem cvtOp_float {dst src : Fmt} (hd : dst.isFloat = true) (hs : src.isFloat = true ∨ src ∈ intFormats) (rnd : Rnd) (x : DWord) :
    cvtOp dst src rnd false x = (dst.laneForm (dst.roundFloat rnd false (cvtNum src x)).1, (dst.roundFloat rnd false (cvtNum src x)).2) := by
  unfold cvtOp cvtNum
  cases hf : src.isFloat with
  | true => simp only [Bool.false_and, Bool.or_false, Bool.false_eq_true, if_true, if_false, hd]
  | false =>
    have hint := intOf_eq (hs.resolve_left (hf ▸ Bool.false_ne_true)) x
    simp only [Bool.false_and, Bool.or_self, Bool.false_eq_true, if_true, if_false, hd, hint]

theorem cvtOp_toInt {dst src : Fmt} (hd : dst ∈ intFormats) (hs : src.isFloat = true) (rnd : Rnd) (x : DWord) :
    cvtOp dst src rnd false x = (dst.laneForm (codeN (intRound rnd (intEnds dst).1 (intEnds dst).2 (cvtNum src x)).1 dst.width),
      (intRound rnd (intEnds dst).1 (intEnds dst).2 (cvtNum src x)).2) := by
  have hfloat : ∀ f ∈ intFormats, f.isFloat = false := by decide
  unfold cvtOp cvtNum
  simp only [Bool.false_and, Bool.or_false, Bool.false_eq_true, if_true, if_false, hfloat dst hd, hs, range_intEnds hd]

theorem soundNum_f8 (c : Nat) : SoundNum (f8Decode c) := by
  unfold f8Decode
  dsimp only
  split
  · trivial
  · split <;> exact soundNum_scale _ _ _

theorem soundNum_cvtNum (src : Fmt) (x : DWord) : SoundNum (cvtNum src x) := by
  have hint : ∀ n : Int, SoundNum (FNum.ofQ (Q.ofInt n)) := fun n => ⟨Int.natCast_nonneg _, Nat.one_pos⟩
  unfold cvtNum
  split
  case isTrue h =>
    cases src <;> first | exact soundNum_f8 _ | exact soundNum_decode _ _ | cases h
  · exact hint _

/-! ### A float becomes an integer (R58, R125) -/

theorem roundNat_zero (mode : Rnd) (neg : Bool) {d : Nat} (hd : 0 < d) : roundNat mode neg 0 d = (0, false) := by
  have hup : (roundNat mode neg 0 d).1 = 0 := by
    rcases roundNat_floor mode neg 0 d with h | ⟨-, h⟩ | h
    · rw [h, Nat.zero_div]
    · exact absurd (Nat.zero_mod d) h
    · omega
  exact Prod.ext hup (by rw [roundNat_snd, Nat.zero_mod]; rfl)

/-- A number is rounded to an integer as its magnitude is. -/
theorem roundInt_eq (mode : Rnd) {neg : Bool} {m : Q} (hsound : SoundNum (.fin neg m)) {n d : Nat} (hd : 0 < d)
    (hn : (n : ℚ) / d = |FNum.rat (.fin neg m)|) : roundInt mode (FNum.fin neg m).toQ =
      (if neg then -((roundNat mode neg n d).1 : Int) else (roundNat mode neg n d).1, (roundNat mode neg n d).2) := by
  obtain ⟨hnn, hden⟩ := hsound
  have habs : |FNum.rat (.fin neg m)| = ratQ m := by
    have hpos := (num_nonneg hden).mp hnn
    rw [rat_fin]
    cases neg
    · rw [if_neg Bool.false_ne_true, abs_of_nonneg hpos]
    · rw [if_pos rfl, abs_neg, abs_of_nonneg hpos]
  rw [habs] at hn
  rcases hnn.eq_or_lt with h0 | hpos
  · have hn0 : n = 0 := by
      rw [(num_eq_zero hden).mp h0.symm, div_eq_zero_iff] at hn
      rcases hn with h | h
      · exact_mod_cast h
      · exact absurd h (by positivity)
    have hnum : (FNum.fin neg m).toQ.num = 0 := by cases neg <;> simp [FNum.toQ, Q.neg, h0.symm]
    have hq : (FNum.fin neg m).toQ.den = m.den := by cases neg <;> rfl
    unfold roundInt
    dsimp only
    rw [hnum, hq, Int.natAbs_zero, roundNat_zero _ _ hden, hn0, roundNat_zero _ _ hd]
    cases neg <;> rfl
  · have hnum : decide ((FNum.fin neg m).toQ.num < 0) = neg ∧ (FNum.fin neg m).toQ.num.natAbs = m.num.toNat := by
      cases neg
      · exact ⟨decide_eq_false (not_lt.mpr hnn), by show m.num.natAbs = _; omega⟩
      · exact ⟨decide_eq_true (by show -m.num < 0; omega), by show (-m.num).natAbs = _; omega⟩
    have hq : (FNum.fin neg m).toQ.den = m.den := by cases neg <;> rfl
    have hround : roundNat mode neg m.num.toNat m.den = roundNat mode neg n d :=
      roundNat_congr mode neg hden hd ((ratQ_pos_toNat hpos).1.symm.trans hn.symm)
    unfold roundInt
    dsimp only
    rw [hnum.1, hnum.2, hq, hround]

/-- Conversion into the integers of a range: rounded, then clamped with nv. -/
theorem intRound_fin (mode : Rnd) {lo hi : Int} (hle : lo ≤ hi) (neg : Bool) (m : Q) :
    let r := roundInt mode (FNum.fin neg m).toQ
    intRound mode lo hi (.fin neg m) = (max lo (min hi r.1), if r.1 < lo ∨ hi < r.1 then fNV else if r.2 then fNX else 0) := by
  intro r
  show (if r.1 < lo then (lo, fNV) else if hi < r.1 then (hi, fNV) else (r.1, flagIf r.2 fNX)) = _
  by_cases h1 : r.1 < lo
  · rw [if_pos h1, if_pos (.inl h1), max_eq_left (by omega)]
  · rw [if_neg h1]
    by_cases h2 : hi < r.1
    · rw [if_pos h2, if_pos (.inr h2), min_eq_left h2.le, max_eq_right hle]
    · rw [if_neg h2, if_neg (by omega), min_eq_right (by omega), max_eq_right (by omega)]
      rfl

/-! ### Conversion into f8 (R53, R58) -/

/-- The value of an f8 code: its low seven bits count magnitudes from the smallest subnormal. -/
theorem rat_f8Decode {c : Nat} (hc : c < 256) (hne : c ≠ 0x80) : FNum.rat (f8Decode c) =
    if 128 ≤ c then -gridVal 3 (-6) (c - 128) else gridVal 3 (-6) c := by
  have hbits : decide (c / 128 % 2 = 1) = decide (128 ≤ c) ∧ c / 8 % 16 = (if 128 ≤ c then c - 128 else c) / 8 ∧
      c % 8 = (if 128 ≤ c then c - 128 else c) % 8 ∧ c % 256 ≠ 0x80 := by
    refine ⟨decide_eq_decide.mpr (by omega), ?_, ?_, by omega⟩ <;> split <;> omega
  obtain ⟨hneg, he, hm, h80⟩ := hbits
  have hgrid : ∀ k : Nat, gridVal 3 (-6) k = if k / 8 = 0 then ratQ (Q.scale (k % 8 : Nat) (-9)) else ratQ (Q.scale (8 + k % 8 : Nat) ((k / 8 : Nat) - 10)) := by
    intro k
    unfold gridVal
    rw [ratQ_scale, ratQ_scale, Int.cast_natCast, Int.cast_natCast, Nat.add_comm 8]
    refine if_congr Iff.rfl rfl ?_
    congr 2
    push_cast
    ring
  unfold f8Decode
  dsimp only
  rw [if_neg h80, hneg, he, hm]
  by_cases hbig : 128 ≤ c
  · simp only [if_pos hbig, decide_eq_true hbig, hgrid]
    split <;> rw [rat_fin, if_pos rfl]
  · simp only [if_neg hbig, decide_eq_false hbig, hgrid]
    split <;> rw [rat_fin, if_neg Bool.false_ne_true]

/-- An f8 code of a sign and a magnitude below 128. -/
def f8Code (neg : Bool) (c : Nat) : Nat := if neg && decide (c ≠ 0) then c + 128 else c

theorem f8Code_ok {neg : Bool} {c : Nat} (hc : c < 128) : f8Code neg c < 256 ∧ f8Code neg c ≠ 0x80 ∧
    FNum.rat (f8Decode (f8Code neg c)) = if neg then -gridVal 3 (-6) c else gridVal 3 (-6) c := by
  unfold f8Code
  by_cases h : (neg && decide (c ≠ 0)) = true
  · rw [if_pos h]
    rw [Bool.and_eq_true, decide_eq_true_eq] at h
    rw [rat_f8Decode (by omega) (by omega), if_pos (by omega), if_pos h.1, Nat.add_sub_cancel]
    exact ⟨by omega, by omega, rfl⟩
  · rw [if_neg h, rat_f8Decode (by omega) (by omega), if_neg (by omega)]
    refine ⟨by omega, by omega, ?_⟩
    cases neg with
    | false => rw [if_neg Bool.false_ne_true]
    | true =>
      have h0 : c = 0 := by simpa using h
      rw [h0, gridVal_zero, neg_zero, ite_self]

/-- Every f8 value is a magnitude of the grid or its negative. -/
theorem f8_value {c : Nat} (hc : c < 256) (hne : c ≠ 0x80) : ∃ k, FNum.rat (f8Decode c) = gridVal 3 (-6) k ∨
    FNum.rat (f8Decode c) = -gridVal 3 (-6) k := by
  rw [rat_f8Decode hc hne]
  by_cases h : 128 ≤ c
  · exact ⟨c - 128, .inr (if_pos h)⟩
  · exact ⟨c, .inl (if_neg h)⟩

section
variable {mode : Rnd} {neg : Bool} {m : Q}

/-- A magnitude of at most 480 is rounded to one of at most 480, the greatest of f8. -/
theorem f8_small (hm : 0 < m.num) (hd : 0 < m.den) (h : ratQ m ≤ 480) : (roundGrid 3 (-6) mode neg m).1 < 128 := by
  have hle := roundGrid_le (b := 3) (emin := -6) (mode := mode) (neg := neg) hm hd (X := 8) (J := 15) (by omega)
    (h.trans_lt (by norm_num)) (h.trans (by norm_num))
  have h127 : gridVal 3 (-6) 127 = 15 * (2 : ℚ) ^ ((8 : Int) - 3) := by norm_num [gridVal]
  have hmono : gridVal 3 (-6) (roundGrid 3 (-6) mode neg m).1 ≤ gridVal 3 (-6) 127 := by
    rw [h127]
    exact_mod_cast hle
  have hcode := (gridVal_strictMono 3 (-6)).le_iff_le.mp hmono
  omega

/-- A magnitude of 512 or more is rounded past every f8 value. -/
theorem f8_large (hm : 0 < m.num) (hd : 0 < m.den) (h : 512 ≤ ratQ m) : 128 ≤ (roundGrid 3 (-6) mode neg m).1 := by
  obtain ⟨e, he, he'⟩ := exists_exponent hm hd
  have h9 : 9 < e + 1 := (zpow_lt_zpow_iff_right₀ (one_lt_two (α := ℚ))).mp
    ((by norm_num : (2 : ℚ) ^ (9 : Int) = 512).trans_le h |>.trans_lt he')
  obtain ⟨hu, hunits⟩ := inUnits_spec hm.le hd (max e (-6) - (3 : Nat))
  obtain ⟨hval, -⟩ := roundGrid_spec (b := 3) (emin := -6) (mode := mode) (neg := neg) hm hd he he' hu hunits
  have hmax : max e (-6) = e := max_eq_left (by omega)
  have hK : 2 ^ 3 ≤ (roundNat mode neg (inUnits m (max e (-6) - (3 : Nat))).1 (inUnits m (max e (-6) - (3 : Nat))).2).1 := by
    refine le_roundNat_of_le hu ?_
    rw [hunits, hmax, le_div_iff₀ (by positivity)]
    refine le_trans (le_of_eq ?_) he
    rw [Nat.cast_pow, Nat.cast_ofNat, ← zpow_natCast, ← zpow_add₀ two_ne_zero]
    congr 1
    push_cast
    ring
  have hK' : (2 ^ 3 : ℚ) ≤ ((roundNat mode neg (inUnits m (max e (-6) - (3 : Nat))).1 (inUnits m (max e (-6) - (3 : Nat))).2).1 : ℚ) := by
    exact_mod_cast hK
  have h128 : gridVal 3 (-6) 128 = 2 ^ 3 * (2 : ℚ) ^ ((9 : Int) - 3) := by norm_num [gridVal]
  refine (gridVal_strictMono 3 (-6)).le_iff_le.mp ?_
  rw [hmax] at hK'
  rw [h128, hval, hmax]
  refine mul_le_mul hK' (zpow_le_zpow_right₀ one_le_two ?_) (by positivity) (by positivity)
  push_cast
  omega

/-- Conversion of a nonzero number into f8. -/
theorem f8Round_fin (hm : m.num ≠ 0) : f8Round mode false (.fin neg m) =
    if 128 ≤ (roundGrid 3 (-6) mode neg m).1 then (if neg then 0xFF else 0x7F, fOF ||| fNX)
    else (f8Code neg (roundGrid 3 (-6) mode neg m).1,
      if (roundGrid 3 (-6) mode neg m).1 = 0 then fUF ||| fNX
      else flagIf (roundGrid 3 (-6) mode neg m).2.1 fNX ||| flagIf ((roundGrid 3 (-6) mode neg m).2.1 && (roundGrid 3 (-6) mode neg m).2.2) fUF) := by
  have hcode : ∀ r : Nat × Bool × Bool,
      (if r.1 = 0 then (0, fUF ||| fNX) else (r.1 + (if neg then 128 else 0), flagIf r.2.1 fNX ||| flagIf (r.2.1 && r.2.2) fUF)) =
      (f8Code neg r.1, if r.1 = 0 then fUF ||| fNX else flagIf r.2.1 fNX ||| flagIf (r.2.1 && r.2.2) fUF) := by
    intro r
    unfold f8Code
    by_cases h0 : r.1 = 0
    · rw [if_pos h0, if_pos h0, h0]
      cases neg <;> rfl
    · rw [if_neg h0, if_neg h0, decide_eq_true h0]
      cases neg <;> rfl
  show (if m.num = 0 then (0, 0) else _) = _
  rw [if_neg hm, ← hcode]

/-- Between the limits of f8 the result is the rounded magnitude with its sign; it is exact where no flag is raised. -/
theorem f8Round_small (hm : 0 < m.num) (hd : 0 < m.den) (h : ratQ m ≤ 480) :
    (f8Round mode false (.fin neg m)).1 = f8Code neg (roundGrid 3 (-6) mode neg m).1 ∧
      ((f8Round mode false (.fin neg m)).2 = 0 ↔ gridVal 3 (-6) (roundGrid 3 (-6) mode neg m).1 = ratQ m) := by
  have hsmall := f8_small (mode := mode) (neg := neg) hm hd h
  have hexact := roundGrid_exact (b := 3) (emin := -6) (mode := mode) (neg := neg) hm hd
  rw [f8Round_fin hm.ne', if_neg (by omega), ← hexact]
  refine ⟨rfl, ?_⟩
  dsimp only
  by_cases h0 : (roundGrid 3 (-6) mode neg m).1 = 0
  · have hval : gridVal 3 (-6) (roundGrid 3 (-6) mode neg m).1 ≠ ratQ m := by
      rw [h0, gridVal_zero]
      exact ((num_pos hd).mp hm).ne
    rw [if_pos h0, hexact]
    exact iff_of_false (by decide) hval
  · rw [if_neg h0]
    cases (roundGrid 3 (-6) mode neg m).2.1 <;> cases (roundGrid 3 (-6) mode neg m).2.2 <;> decide

end

/-! ### `cvt` (R125, R126) -/

section
variable {mode : Rnd} {neg : Bool} {m : Q}

/-- What R58 asks of a conversion of a number q into an f8 code without a NaN. -/
def f8Nearest (code : Nat) (q : ℚ) : Prop :=
  ∀ c < 256, c ≠ 0x80 → |FNum.rat (f8Decode code) - q| ≤ |FNum.rat (f8Decode c) - q|
def f8Down (code : Nat) (q : ℚ) : Prop :=
  FNum.rat (f8Decode code) ≤ q ∧ ∀ c < 256, c ≠ 0x80 → FNum.rat (f8Decode c) ≤ q → FNum.rat (f8Decode c) ≤ FNum.rat (f8Decode code)
def f8Up (code : Nat) (q : ℚ) : Prop :=
  q ≤ FNum.rat (f8Decode code) ∧ ∀ c < 256, c ≠ 0x80 → q ≤ FNum.rat (f8Decode c) → FNum.rat (f8Decode code) ≤ FNum.rat (f8Decode c)

/-- Zero is rounded to zero, in every direction. -/
theorem f8_zero : f8Nearest 0 0 ∧ f8Down 0 0 ∧ f8Up 0 0 := by
  have h0 : FNum.rat (f8Decode 0) = 0 := by rw [rat_f8Decode (by decide) (by decide), if_neg (by decide), gridVal_zero]
  unfold f8Nearest f8Down f8Up
  rw [h0]
  exact ⟨fun c _ _ => by rw [sub_self, abs_zero]; exact abs_nonneg _, ⟨le_rfl, fun c _ _ h => h⟩, le_rfl, fun c _ _ h => h⟩

section
variable {r : Nat} {v : ℚ}

theorem f8_nearest (hr : r < 128) (hv : 0 < v) (h : ∀ c, |gridVal 3 (-6) r - v| ≤ |gridVal 3 (-6) c - v|) :
    f8Nearest (f8Code neg r) (if neg then -v else v) := by
  intro c hc hne
  rw [(f8Code_ok (neg := neg) hr).2.2]
  have hneg : ∀ x y : ℚ, |-x - -y| = |x - y| := fun x y => by rw [neg_sub_neg, abs_sub_comm]
  have hopp : ∀ k, |gridVal 3 (-6) r - v| ≤ |-gridVal 3 (-6) k - v| := fun k => by
    refine (h 0).trans ?_
    have hk := gridVal_nonneg (b := 3) (emin := -6) k
    rw [gridVal_zero, abs_of_nonpos (by linarith), abs_of_nonpos (by linarith)]
    linarith
  obtain ⟨k, hk | hk⟩ := f8_value hc hne
  · rw [hk]
    cases neg
    · exact h k
    · rw [if_pos rfl, if_pos rfl, hneg, show gridVal 3 (-6) k - -v = -(-gridVal 3 (-6) k - v) by ring, abs_neg]
      exact hopp k
  · rw [hk]
    cases neg
    · exact hopp k
    · rw [if_pos rfl, if_pos rfl, hneg, hneg]
      exact h k

theorem f8_down_pos (hr : r < 128) (h : gridVal 3 (-6) r ≤ v ∧ ∀ c, gridVal 3 (-6) c ≤ v → gridVal 3 (-6) c ≤ gridVal 3 (-6) r) :
    f8Down (f8Code false r) v := by
  unfold f8Down
  rw [(f8Code_ok (neg := false) hr).2.2, if_neg Bool.false_ne_true]
  refine ⟨h.1, fun c hc hne hle => ?_⟩
  obtain ⟨k, hk | hk⟩ := f8_value hc hne
  · rw [hk] at hle ⊢
    exact h.2 k hle
  · rw [hk]
    exact (neg_nonpos.mpr (gridVal_nonneg k)).trans (gridVal_nonneg r)

theorem f8_up_pos (hr : r < 128) (hv : 0 < v) (h : v ≤ gridVal 3 (-6) r ∧ ∀ c, v ≤ gridVal 3 (-6) c → gridVal 3 (-6) r ≤ gridVal 3 (-6) c) :
    f8Up (f8Code false r) v := by
  unfold f8Up
  rw [(f8Code_ok (neg := false) hr).2.2, if_neg Bool.false_ne_true]
  refine ⟨h.1, fun c hc hne hle => ?_⟩
  obtain ⟨k, hk | hk⟩ := f8_value hc hne
  · rw [hk] at hle ⊢
    exact h.2 k hle
  · rw [hk] at hle
    have hnn := gridVal_nonneg (b := 3) (emin := -6) k
    linarith

theorem f8_down_neg (hr : r < 128) (hv : 0 < v) (h : v ≤ gridVal 3 (-6) r ∧ ∀ c, v ≤ gridVal 3 (-6) c → gridVal 3 (-6) r ≤ gridVal 3 (-6) c) :
    f8Down (f8Code true r) (-v) := by
  unfold f8Down
  rw [(f8Code_ok (neg := true) hr).2.2, if_pos rfl]
  refine ⟨neg_le_neg h.1, fun c hc hne hle => ?_⟩
  obtain ⟨k, hk | hk⟩ := f8_value hc hne
  · rw [hk] at hle
    have hnn := gridVal_nonneg (b := 3) (emin := -6) k
    linarith
  · rw [hk] at hle ⊢
    exact neg_le_neg (h.2 k (neg_le_neg_iff.mp hle))

theorem f8_up_neg (hr : r < 128) (h : gridVal 3 (-6) r ≤ v ∧ ∀ c, gridVal 3 (-6) c ≤ v → gridVal 3 (-6) c ≤ gridVal 3 (-6) r) :
    f8Up (f8Code true r) (-v) := by
  unfold f8Up
  rw [(f8Code_ok (neg := true) hr).2.2, if_pos rfl]
  refine ⟨neg_le_neg h.1, fun c hc hne hle => ?_⟩
  obtain ⟨k, hk | hk⟩ := f8_value hc hne
  · rw [hk]
    exact (neg_nonpos.mpr (gridVal_nonneg r)).trans (gridVal_nonneg k)
  · rw [hk] at hle ⊢
    exact neg_le_neg (h.2 k (neg_le_neg_iff.mp hle))

end

/-- Conversion into f8 of a number of at most 480: a code that is no NaN, no flag where it is exact, and the mode's neighbour. -/
theorem f8Round_means (hsound : SoundNum (.fin neg m)) (h : |FNum.rat (.fin neg m)| ≤ 480) :
    let q := FNum.rat (.fin neg m)
    let r := f8Round mode false (.fin neg m)
    r.1 < 256 ∧ r.1 ≠ 0x80 ∧ (r.2 = 0 ↔ FNum.rat (f8Decode r.1) = q) ∧ (mode = .rne ∨ mode = .rna → f8Nearest r.1 q) ∧
      (mode = .rdn ∨ (mode = .rtz ∧ 0 ≤ q) → f8Down r.1 q) ∧ (mode = .rup ∨ (mode = .rtz ∧ q ≤ 0) → f8Up r.1 q) := by
  obtain ⟨hnn, hd⟩ := hsound
  have hpos := (num_nonneg hd).mp hnn
  have hq : FNum.rat (.fin neg m) = if neg then -ratQ m else ratQ m := rat_fin neg m
  intro q r
  rcases hnn.eq_or_lt with h0 | hm
  · have hr : r = (0, 0) := if_pos h0.symm
    have hq0 : q = 0 := by
      refine hq.trans ?_
      rw [(num_eq_zero hd).mp h0.symm, neg_zero, ite_self]
    obtain ⟨hnear, hdown, hup⟩ := f8_zero
    have hval : FNum.rat (f8Decode 0) = 0 := le_antisymm hdown.1 hup.1
    rw [hr, hq0]
    exact ⟨by decide, by decide, iff_of_true rfl hval, fun _ => hnear, fun _ => hdown, fun _ => hup⟩
  · have hv : 0 < ratQ m := (num_pos hd).mp hm
    have hle : ratQ m ≤ 480 := by
      rw [hq] at h
      cases neg
      · rwa [if_neg Bool.false_ne_true, abs_of_pos hv] at h
      · rwa [if_pos rfl, abs_neg, abs_of_pos hv] at h
    have hsmall := f8_small (mode := mode) (neg := neg) hm hd hle
    obtain ⟨hcode, hflags⟩ := f8Round_small (mode := mode) (neg := neg) hm hd hle
    obtain ⟨h256, h80, hval⟩ := f8Code_ok (neg := neg) hsmall
    have hr1 : r.1 = _ := hcode
    have hq' : q = if neg then -ratQ m else ratQ m := hq
    rw [hr1, hq']
    refine ⟨h256, h80, ?_, fun hmode => ?_, fun hmode => ?_, fun hmode => ?_⟩
    · refine Iff.trans hflags ?_
      rw [hval]
      cases neg
      · exact Iff.rfl
      · exact neg_inj.symm
    · exact f8_nearest hsmall hv (roundGrid_nearest hm hd hmode)
    · cases neg with
      | false =>
        refine f8_down_pos hsmall (roundGrid_below hm hd ?_)
        rcases hmode with h | ⟨h, -⟩
        · exact .inr (.inl ⟨h, rfl⟩)
        · exact .inl h
      | true =>
        refine f8_down_neg hsmall hv (roundGrid_above hm hd (.inl ⟨?_, rfl⟩))
        rcases hmode with h | ⟨-, h⟩
        · exact h
        · rw [if_pos rfl] at h
          linarith
    · cases neg with
      | false =>
        refine f8_up_pos hsmall hv (roundGrid_above hm hd (.inr ⟨?_, rfl⟩))
        rcases hmode with h | ⟨-, h⟩
        · exact h
        · rw [if_neg Bool.false_ne_true] at h
          linarith
      | true =>
        refine f8_up_neg hsmall (roundGrid_below hm hd ?_)
        rcases hmode with h | ⟨h, -⟩
        · exact .inr (.inr ⟨h, rfl⟩)
        · exact .inl h

/-- A number of 512 or more goes to the greatest f8 magnitude, with overflow. -/
theorem f8Round_large (hsound : SoundNum (.fin neg m)) (h : 512 ≤ |FNum.rat (.fin neg m)|) :
    f8Round mode false (.fin neg m) = (if neg then 0xFF else 0x7F, fOF ||| fNX) := by
  obtain ⟨hnn, hd⟩ := hsound
  have hpos := (num_nonneg hd).mp hnn
  have hle : 512 ≤ ratQ m := by
    rw [rat_fin] at h
    cases neg
    · rwa [if_neg Bool.false_ne_true, abs_of_nonneg hpos] at h
    · rwa [if_pos rfl, abs_neg, abs_of_nonneg hpos] at h
  have hm : 0 < m.num := (num_pos hd).mpr (by linarith)
  rw [f8Round_fin hm.ne', if_pos (f8_large hm hd hle)]

end

/-- Every code that rounding gives is below twice the sign's weight. -/
theorem round_lt (p : IEEE) (hp : SoundFormat p) (mode : Rnd) (x : FNum) : (p.round mode x).1 < 2 * p.signBit := by
  have hinf := infCode_lt p
  have hnan : p.nanCode < p.signBit := by
    have hhalf : 2 ^ (p.mbits - 1) < 2 ^ p.mbits := Nat.pow_lt_pow_right one_lt_two (by have := hp.2.1; omega)
    rw [IEEE.nanCode]
    omega
  have hpos : 0 < 2 ^ p.mbits := by positivity
  have hsgn : ∀ neg : Bool, (if neg then p.signBit else 0) ≤ p.signBit := fun neg => by cases neg <;> simp
  match x with
  | .nan s => show p.nanCode < _; omega
  | .inf neg => show p.infCode + (if neg then p.signBit else 0) < _; have := hsgn neg; omega
  | .fin neg m =>
    have hs := hsgn neg
    by_cases hm : m.num = 0
    · have hr : p.round mode (.fin neg m) = (if neg then p.signBit else 0, 0) := if_pos hm
      rw [hr]
      show (if neg then p.signBit else 0) < _
      omega
    · rw [round_fin mode neg hm]
      split
      · show (if neg then p.signBit else 0) + (if overflowInf mode neg then p.infCode else p.infCode - 1) < _
        have : (if overflowInf mode neg then p.infCode else p.infCode - 1) ≤ p.infCode := by split <;> omega
        omega
      · show (if neg then p.signBit else 0) + (roundGrid p.mbits p.emin mode neg m).1 < _
        omega

theorem f8Round_lt (mode : Rnd) (x : FNum) : (f8Round mode false x).1 < 256 := by
  match x with
  | .nan _ => exact (by decide : 0x80 < 256)
  | .inf neg => exact (by decide : ∀ neg : Bool, (if neg then 0xFF else 0x7F) < 256) neg
  | .fin neg m =>
    by_cases hm : m.num = 0
    · rw [show f8Round mode false (.fin neg m) = (0, 0) from if_pos hm]
      decide
    · rw [f8Round_fin hm]
      split
      · cases neg <;> decide
      · exact (f8Code_ok (by omega)).1

/-- A conversion's write with no lane in it changes nothing. -/
theorem setCvt_zero (gr : Group) (f : Fmt) (d : Reg) (x : Nat → DWord) : gr.setCvt f d 0 x = gr := by
  have hz : ∀ (gr : Group) (r : Reg) (v : LaneVec), gr.setV r 0 v = gr := fun gr r v => Group.setV_zero gr r v
  unfold Group.setCvt
  rw [hz]
  cases f <;> first | rfl | exact hz _ _ _

section
variable {s : State} {g : BitVec 3} {d a : Reg} {dst src : Fmt}

/-- A conversion with no flag enabled, and the lanes of one that raise an enabled flag. -/
theorem convert_quiet (hr : Ready s (cvtRegs src a)) (he : s.cur.fpEnables = 0) (r : Nat → DWord × FFlags) :
    Host.Outcome.next (φ := Fault) (ρ := Refusal) (laneFloat 2 g (cvtRegs src a) s (fun l => (r l).2) fun m gr => gr.setCvt dst d m fun l => (r l).1) =
      cvtTo s g dst d r :=
  congrArg Host.Outcome.next (laneFloat_quiet (write := fun m gr => gr.setCvt dst d m fun l => (r l).1) hr he fun _ => setCvt_zero _ _ _ _)

theorem convert_traps (hr : Ready s (cvtRegs src a)) (r : Nat → DWord × FFlags) :
    cvtTraps s g dst d r (.next (laneFloat 2 g (cvtRegs src a) s (fun l => (r l).2) fun m gr => gr.setCvt dst d m fun l => (r l).1)) :=
  laneFloat_traps (write := fun m gr => gr.setCvt dst d m fun l => (r l).1) hr

end

section
variable {dst src : Fmt} {rnd : Rnd} {x : DWord}

theorem convert_ints (hd : dst ∈ intFormats) (hs : src ∈ intFormats) :
    loWord (cvtOp dst src rnd false x).1 = BitVec.ofInt 32 (max (intEnds dst).1 (min (intEnds dst).2 (intOf src x))) ∧
      (cvtOp dst src rnd false x).2 = 0 := by
  obtain ⟨hlo, hhi⟩ := intEnds_zero dst
  rw [cvtOp_int hd hs, range_intEnds hd, intOf_eq hs]
  refine ⟨?_, rfl⟩
  rw [laneForm_codeN hd (le_max_left _ _) (by omega), loWord_codeN]

theorem convert_ieee (hs : src.isFloat = true ∨ src ∈ intFormats) {p : IEEE}
    (hp : (dst, p) ∈ [(Fmt.bf16, ieeeBf16), (.h16, ieeeH16), (.f32, ieeeF32), (.f64, ieeeF64)]) :
    cvtOp dst src rnd false x = (BitVec.ofNat 64 (p.round rnd (cvtNum src x)).1, (p.round rnd (cvtNum src x)).2) := by
  have hsound : SoundFormat p ∧ 2 * p.signBit = 2 ^ dst.width ∧ dst.isFloat = true ∧
      (∀ v, dst.roundFloat rnd false v = p.round rnd v) ∧ ∀ c, dst.laneForm c = BitVec.ofNat 64 (c % 2 ^ dst.width) := by
    simp only [List.mem_cons, List.not_mem_nil, or_false, Prod.mk.injEq] at hp
    rcases hp with ⟨rfl, rfl⟩ | ⟨rfl, rfl⟩ | ⟨rfl, rfl⟩ | ⟨rfl, rfl⟩ <;>
      exact ⟨⟨by decide, by decide, by decide⟩, by decide, rfl, fun _ => rfl, fun _ => rfl⟩
  obtain ⟨hformat, hwidth, hfloat, hround, hform⟩ := hsound
  rw [cvtOp_float hfloat hs, hround, hform, Nat.mod_eq_of_lt (hwidth ▸ round_lt p hformat rnd _)]

theorem convert_f8 (hs : src.isFloat = true ∨ src ∈ intFormats) : cvtOp .f8 src rnd false x =
    (BitVec.ofNat 64 (f8Round rnd false (cvtNum src x)).1, (f8Round rnd false (cvtNum src x)).2) := by
  have hround : Fmt.f8.roundFloat rnd false (cvtNum src x) = f8Round rnd false (cvtNum src x) := rfl
  have hform : ∀ c, Fmt.f8.laneForm c = BitVec.ofNat 64 (c % 256) := fun _ => rfl
  rw [cvtOp_float rfl hs, hround, hform, Nat.mod_eq_of_lt (f8Round_lt rnd _)]

theorem convert_toInt (hd : dst ∈ intFormats) (hs : src.isFloat = true) :
    loWord (cvtOp dst src rnd false x).1 = BitVec.ofInt 32 (intRound rnd (intEnds dst).1 (intEnds dst).2 (cvtNum src x)).1 ∧
      (cvtOp dst src rnd false x).2 = (intRound rnd (intEnds dst).1 (intEnds dst).2 (cvtNum src x)).2 := by
  have hle : (intEnds dst).1 ≤ (intEnds dst).2 := (intEnds_zero dst).1.trans (intEnds_zero dst).2
  have hin : (intEnds dst).1 ≤ (intRound rnd (intEnds dst).1 (intEnds dst).2 (cvtNum src x)).1 ∧
      (intRound rnd (intEnds dst).1 (intEnds dst).2 (cvtNum src x)).1 ≤ (intEnds dst).2 := by
    cases cvtNum src x with
    | nan _ => exact intEnds_zero dst
    | inf neg => cases neg <;> [exact ⟨hle, le_rfl⟩; exact ⟨le_rfl, hle⟩]
    | fin neg m =>
      rw [intRound_fin rnd hle]
      exact ⟨le_max_left _ _, by omega⟩
  rw [cvtOp_toInt hd hs]
  exact ⟨(congrArg loWord (laneForm_codeN hd hin.1 hin.2)).trans (loWord_codeN _), rfl⟩

end

theorem conversions : Claims.Conversions := by
  intro s g d a dst src rnd hr conv
  refine ⟨fun he => ⟨convert_quiet hr he _, convert_quiet hr he _⟩, convert_traps hr _, convert_traps hr _, fun x hd hs => convert_ints hd hs,
    fun x hs => ?_⟩
  intro v r fin
  have hv : v = cvtNum src x := rfl
  have hsound : SoundNum v := soundNum_cvtNum src x
  refine ⟨fun p hp => convert_ieee hs hp, fun hd => ?f8, fun hd hs => ?int⟩
  case f8 =>
    subst hd
    have hcvt : r = (BitVec.ofNat 64 (f8Round rnd false v).1, (f8Round rnd false v).2) := convert_f8 hs
    intro num code q most down up
    have hlt := f8Round_lt rnd v
    have hcode : code = (f8Round rnd false v).1 := by
      show r.1.toNat = _
      rw [hcvt, BitVec.toNat_ofNat, Nat.mod_eq_of_lt (by omega)]
    refine ⟨hcode ▸ hlt, fun hn => ?_, fun h => ?_, fun hfin hq => ?_⟩
    · rw [hcvt]
      clear_value v
      cases v with
      | nan s => rfl
      | inf | fin => cases hn
    · rw [hcvt]
      have hmost : f8Round rnd false v = (most, fOF ||| fNX) := by
        rcases h with h | ⟨h, hq⟩
        · obtain ⟨neg, hvi⟩ := isInf_iff.mp h
          show f8Round rnd false v = (if v.sign then 0xFF else 0x7F, _)
          rw [hvi]
          rfl
        · obtain ⟨neg, m, hvf⟩ := fin_iff.mp h
          show f8Round rnd false v = (if v.sign then 0xFF else 0x7F, _)
          rw [hvf]
          exact f8Round_large (hvf ▸ hsound) (hvf ▸ hq)
      rw [hmost]
    · obtain ⟨neg, m, hvf⟩ := fin_iff.mp hfin
      obtain ⟨-, h80, hflag, hnear, hdown, hup⟩ := f8Round_means (mode := rnd) (hvf ▸ hsound) (hvf ▸ hq)
      rw [← hvf] at h80 hflag hnear hdown hup
      have hr2 : r.2 = (f8Round rnd false v).2 := congrArg Prod.snd hcvt
      rw [← hcode] at h80 hflag hnear hdown hup
      exact ⟨h80, hr2 ▸ hflag, hnear, hdown, hup⟩
  case int =>
    obtain ⟨hword, hflag⟩ := convert_toInt (rnd := rnd) (x := x) hd hs
    have hle : (intEnds dst).1 ≤ (intEnds dst).2 := (intEnds_zero dst).1.trans (intEnds_zero dst).2
    intro lo hi
    refine ⟨fun hn => ?_, fun hinf => ?_, fun hfin n d hd0 hn => ?_⟩
    · have hnan : intRound rnd (intEnds dst).1 (intEnds dst).2 (cvtNum src x) = (0, fNV) := by
        rw [← hv]
        clear_value v
        cases v with
        | nan s => rfl
        | inf | fin => cases hn
      have hr : r = _ := cvtOp_toInt hd hs rnd x
      rw [hr, hnan]
      exact congrArg (·, fNV) (laneForm_zero hd)
    · obtain ⟨neg, hvi⟩ := isInf_iff.mp hinf
      rw [← hv, hvi] at hword hflag
      rw [hvi]
      exact ⟨hword, hflag⟩
    · obtain ⟨neg, m, hvf⟩ := fin_iff.mp hfin
      rw [← hv, hvf, intRound_fin rnd hle, roundInt_eq rnd (hvf ▸ hsound) hd0 (hvf ▸ hn)] at hword hflag
      rw [hvf]
      exact ⟨hword, hflag⟩

/-! ### A stream that is read from a copy (R201) -/

/-- A live group of eight lanes with one line of the Stage. -/
def streamGroup : Group := { Group.idle with key := 1, live := true, s0 := ⟨true, 0, 0xFF#64, 0⟩, stgLines := 1 }

/-- The first line of the Stage as the group's own copy of it holds it: a one in every byte. -/
def staleLine : Replica := ⟨stageBase / 128, .own 1, List.replicate 128 1, 0, 0, 1000, [], []⟩

/-- An issue opportunity of the group at which copies may serve its plain reads: it holds one of a line that reads zero by now. -/
def servedStream : State := { State.reset with cur := streamGroup, serve := true, replicas := [staleLine] }

theorem servedStream_ready : Ready servedStream (pairRegs 96 ++ [98]) ∧ servedStream.cur.unfinished = none ∧
    servedStream.cur.acting 7 ≠ 0 := by
  and_intros <;> decide +kernel

/-- Bit 0 of the stream comes from the copy; the Stage's byte has another. -/
theorem servedStream_bit : let A := (pair (servedStream.cur.greg 96) (servedStream.cur.greg 97)).toNat
    (servedStream.stageBits A (laneCount (servedStream.cur.acting 7) * (32#7).toNat)).testBit 0 = true ∧
    (SMap.get 0 servedStream.stage (servedStream.cur.stgFirst * 128 + (A + 0) / 8)).getLsbD ((A + 0) % 8) = false := by
  decide +kernel

/-- Refutes O9: the conversions are as stated (`conversions`), but a stream decoder reads the Stage as plain loads of its group do, and where
the group still holds a copy of a line that has been written since (R201, R204) the stream's bits are the copy's, not the Stage's. -/
theorem not_laneDecoding : ¬ Obligations.LaneDecoding := by
  rintro ⟨-, hstream⟩
  obtain ⟨hready, hfresh, hacting⟩ := servedStream_ready
  obtain ⟨hbits, -⟩ := hstream servedStream 7 0 96 98 32 hready hfresh hacting (by decide) (by decide)
  obtain ⟨hcopy, hbyte⟩ := servedStream_bit
  have hcount : 0 < laneCount (servedStream.cur.acting 7) * (32#7).toNat := by decide +kernel
  have hbit := hbits 0 hcount
  exact Bool.noConfusion (hcopy.symm.trans (hbit.trans hbyte))

/-! ### Lane float forms (R60, R112 to R115) -/

/-- A write of float results with no lane in it changes nothing. -/
theorem setF_zero (gr : Group) (ff : FFmt) (d : Reg) (f : Nat → Nat) : gr.setF ff d 0 f = gr := by
  have hz : ∀ (gr : Group) (r : Reg) (v : LaneVec), gr.setV r 0 v = gr := fun gr r v => Group.setV_zero gr r v
  unfold Group.setF
  cases ff with
  | f32 => exact hz _ _ _
  | f64 =>
    dsimp only
    rw [hz, hz]

/-- Fewer registers pend less. -/
theorem ready_subset {s : State} {rs ss : List Reg} (h : Ready s rs) (hsub : ∀ r ∈ ss, r ∈ rs) : Ready s ss := by
  unfold Ready Group.pendingOn at h ⊢
  rw [List.any_eq_false] at h ⊢
  exact fun r hr => h r (hsub r hr)

section
variable {s : State} {len : Nat} {g : BitVec 3} {ff : FFmt} {d : Reg} {rs srcs : List Reg} {f : Group → Nat → Nat × FFlags}

theorem floatExec_quiet (h : Ready s rs) (hsub : ∀ r ∈ srcs, r ∈ rs) (he : s.cur.fpEnables = 0) :
    Host.Outcome.next (φ := Fault) (ρ := Refusal) (floatExec len g ff d srcs s f) = floatTo s len g ff d (f s.cur) :=
  congrArg Host.Outcome.next (laneFloat_quiet (write := fun m gr => gr.setF ff d m fun l => (f s.cur l).1) (ready_subset h hsub) he
    fun _ => setF_zero _ _ _ _)

theorem floatExec_traps (h : Ready s rs) (hsub : ∀ r ∈ srcs, r ∈ rs) :
    floatTraps s len g ff d (f s.cur) (.next (floatExec len g ff d srcs s f)) :=
  laneFloat_traps (write := fun m gr => gr.setF ff d m fun l => (f s.cur l).1) (ready_subset h hsub)

end

section
variable {a b c d : Reg} {ff : FFmt}

theorem mem_one : ∀ r ∈ [a], r ∈ [a, b, d] := by simp
theorem mem_two : ∀ r ∈ [a, b], r ∈ [a, b, d] := by
  intro r hr
  rw [List.mem_cons, List.mem_singleton] at hr
  rcases hr with rfl | rfl <;> simp
theorem mem_three : ∀ r ∈ [a, b, d], r ∈ [a, b, d] := fun _ h => h

theorem mem_wide_one : ∀ r ∈ fregs ff a, r ∈ fregs ff a ++ fregs ff b ++ fregs ff c := fun _ h =>
  List.mem_append_left _ (List.mem_append_left _ h)
theorem mem_wide_two : ∀ r ∈ fregs ff a ++ fregs ff b, r ∈ fregs ff a ++ fregs ff b ++ fregs ff c := fun _ h => List.mem_append_left _ h
theorem mem_wide_three : ∀ r ∈ fregs ff a ++ fregs ff b ++ fregs ff c, r ∈ fregs ff a ++ fregs ff b ++ fregs ff c := fun _ h => h

end

theorem floatShortForms : Claims.FloatShortForms := by
  intro s g d a b h he x y
  exact ⟨floatExec_quiet (f := fun gr l => ieeeF32.addOp .rne (gr.fsrc .f32 a l) (gr.fsrc .f32 b l)) h mem_two he,
    floatExec_quiet (f := fun gr l => ieeeF32.subOp .rne (gr.fsrc .f32 a l) (gr.fsrc .f32 b l)) h mem_two he,
    floatExec_quiet (f := fun gr l => ieeeF32.mulOp .rne (gr.fsrc .f32 a l) (gr.fsrc .f32 b l)) h mem_two he,
    floatExec_quiet (f := fun gr l => ieeeF32.fmaOp .rne (gr.fsrc .f32 a l) (gr.fsrc .f32 b l) (gr.fsrc .f32 d l)) h mem_three he,
    floatExec_quiet (f := fun gr l => ieeeF32.minMax false (gr.fsrc .f32 a l) (gr.fsrc .f32 b l)) h mem_two he,
    floatExec_quiet (f := fun gr l => ieeeF32.minMax true (gr.fsrc .f32 a l) (gr.fsrc .f32 b l)) h mem_two he,
    floatExec_quiet (f := fun gr l => frcpOp (lane (gr.src a) l)) h mem_one he,
    floatExec_quiet (f := fun gr l => frsqOp (lane (gr.src a) l)) h mem_one he,
    floatExec_quiet (f := fun gr l => fexp2Op (lane (gr.src a) l)) h mem_one he,
    floatExec_quiet (f := fun gr l => flog2Op (lane (gr.src a) l)) h mem_one he,
    floatExec_quiet (f := fun gr l => fsinOp (lane (gr.src a) l)) h mem_one he,
    floatExec_quiet (f := fun gr l => fcosOp (lane (gr.src a) l)) h mem_one he⟩

theorem floatShortTrap : Claims.FloatShortTrap := by
  intro s g d a b h traps x y
  exact ⟨floatExec_traps (f := fun gr l => ieeeF32.addOp .rne (gr.fsrc .f32 a l) (gr.fsrc .f32 b l)) h mem_two,
    floatExec_traps (f := fun gr l => ieeeF32.subOp .rne (gr.fsrc .f32 a l) (gr.fsrc .f32 b l)) h mem_two,
    floatExec_traps (f := fun gr l => ieeeF32.mulOp .rne (gr.fsrc .f32 a l) (gr.fsrc .f32 b l)) h mem_two,
    floatExec_traps (f := fun gr l => ieeeF32.fmaOp .rne (gr.fsrc .f32 a l) (gr.fsrc .f32 b l) (gr.fsrc .f32 d l)) h mem_three,
    floatExec_traps (f := fun gr l => ieeeF32.minMax false (gr.fsrc .f32 a l) (gr.fsrc .f32 b l)) h mem_two,
    floatExec_traps (f := fun gr l => ieeeF32.minMax true (gr.fsrc .f32 a l) (gr.fsrc .f32 b l)) h mem_two,
    floatExec_traps (f := fun gr l => frcpOp (lane (gr.src a) l)) h mem_one,
    floatExec_traps (f := fun gr l => frsqOp (lane (gr.src a) l)) h mem_one,
    floatExec_traps (f := fun gr l => fexp2Op (lane (gr.src a) l)) h mem_one,
    floatExec_traps (f := fun gr l => flog2Op (lane (gr.src a) l)) h mem_one,
    floatExec_traps (f := fun gr l => fsinOp (lane (gr.src a) l)) h mem_one,
    floatExec_traps (f := fun gr l => fcosOp (lane (gr.src a) l)) h mem_one⟩

theorem floatWideTrap : Claims.FloatWideTrap := by
  intro s g d a b c ff rnd h traps p x y
  exact ⟨floatExec_traps (f := fun gr l => (ieeeOf ff).addOp rnd (gr.fsrc ff a l) (gr.fsrc ff b l)) h mem_wide_two,
    floatExec_traps (f := fun gr l => (ieeeOf ff).subOp rnd (gr.fsrc ff a l) (gr.fsrc ff b l)) h mem_wide_two,
    floatExec_traps (f := fun gr l => (ieeeOf ff).mulOp rnd (gr.fsrc ff a l) (gr.fsrc ff b l)) h mem_wide_two,
    floatExec_traps (f := fun gr l => (ieeeOf ff).fmaOp rnd (gr.fsrc ff a l) (gr.fsrc ff b l) (gr.fsrc ff c l)) h mem_wide_three,
    floatExec_traps (f := fun gr l => (ieeeOf ff).minMax false (gr.fsrc ff a l) (gr.fsrc ff b l)) h mem_wide_two,
    floatExec_traps (f := fun gr l => (ieeeOf ff).minMax true (gr.fsrc ff a l) (gr.fsrc ff b l)) h mem_wide_two,
    floatExec_traps (f := fun gr l => (ieeeOf ff).sqrtOp rnd (gr.fsrc ff a l)) h mem_wide_one⟩

/-- A subnormal's or a zero's mantissa is its magnitude's numerator. -/
theorem scale_num_eq_zero {m : Nat} {e : Int} : (Q.scale m e).num = 0 ↔ m = 0 := by
  unfold Q.scale
  split
  · simp
  · simp

/-- The class of a code, as the mask that `fclass` writes (R115). -/
theorem classBit_means (p : IEEE) (c : Nat) : 2 ^ classBit p c =
    let e := c / 2 ^ p.mbits % 2 ^ p.ebits
    let m := c % 2 ^ p.mbits
    let neg := c / 2 ^ (p.ebits + p.mbits) % 2 = 1
    if e = 2 ^ p.ebits - 1 then
      (if m = 0 then (if neg then 4 else 512) else if m < 2 ^ (p.mbits - 1) then 1 else 2)
    else if e = 0 then
      (if m = 0 then (if neg then 32 else 64) else if neg then 16 else 128)
    else if neg then 8 else 256 := by
  have hsign : p.signBit = 2 ^ (p.ebits + p.mbits) := rfl
  have hpos : c % 2 ^ p.mbits + 2 ^ p.mbits ≠ 0 := (Nat.add_pos_right _ (by positivity)).ne'
  unfold classBit IEEE.decode
  dsimp only
  rw [hsign]
  by_cases hneg : c / 2 ^ (p.ebits + p.mbits) % 2 = 1
  · simp only [hneg, decide_true, if_true]
    by_cases hmax : c / 2 ^ p.mbits % 2 ^ p.ebits = 2 ^ p.ebits - 1
    · rw [if_pos hmax, if_pos hmax]
      by_cases hm : c % 2 ^ p.mbits = 0
      · rw [if_pos hm, if_pos hm]; rfl
      · rw [if_neg hm, if_neg hm]
        by_cases hq : c % 2 ^ p.mbits < 2 ^ (p.mbits - 1)
        · rw [decide_eq_true hq, if_pos hq]; rfl
        · rw [decide_eq_false hq, if_neg hq]; rfl
    · rw [if_neg hmax, if_neg hmax]
      by_cases h0 : c / 2 ^ p.mbits % 2 ^ p.ebits = 0
      · simp only [h0, if_true, decide_true, scale_num_eq_zero]
        split <;> rfl
      · simp only [h0, if_false, decide_false, scale_num_eq_zero, hpos, Bool.false_eq_true]
        rfl
  · simp only [hneg, decide_false, if_false]
    by_cases hmax : c / 2 ^ p.mbits % 2 ^ p.ebits = 2 ^ p.ebits - 1
    · rw [if_pos hmax, if_pos hmax]
      by_cases hm : c % 2 ^ p.mbits = 0
      · rw [if_pos hm, if_pos hm]; rfl
      · rw [if_neg hm, if_neg hm]
        by_cases hq : c % 2 ^ p.mbits < 2 ^ (p.mbits - 1)
        · rw [decide_eq_true hq, if_pos hq]; rfl
        · rw [decide_eq_false hq, if_neg hq]; rfl
    · rw [if_neg hmax, if_neg hmax]
      by_cases h0 : c / 2 ^ p.mbits % 2 ^ p.ebits = 0
      · simp only [h0, if_true, decide_true, scale_num_eq_zero]
        split <;> rfl
      · simp only [h0, if_false, decide_false, scale_num_eq_zero, hpos, Bool.false_eq_true]
        rfl

theorem floatWideForms : Claims.FloatWideForms := by
  intro s g d a b c ff rnd h he p x y
  refine ⟨floatExec_quiet (f := fun gr l => (ieeeOf ff).addOp rnd (gr.fsrc ff a l) (gr.fsrc ff b l)) h mem_wide_two he,
    floatExec_quiet (f := fun gr l => (ieeeOf ff).subOp rnd (gr.fsrc ff a l) (gr.fsrc ff b l)) h mem_wide_two he,
    floatExec_quiet (f := fun gr l => (ieeeOf ff).mulOp rnd (gr.fsrc ff a l) (gr.fsrc ff b l)) h mem_wide_two he,
    floatExec_quiet (f := fun gr l => (ieeeOf ff).fmaOp rnd (gr.fsrc ff a l) (gr.fsrc ff b l) (gr.fsrc ff c l)) h mem_wide_three he,
    floatExec_quiet (f := fun gr l => (ieeeOf ff).minMax false (gr.fsrc ff a l) (gr.fsrc ff b l)) h mem_wide_two he,
    floatExec_quiet (f := fun gr l => (ieeeOf ff).minMax true (gr.fsrc ff a l) (gr.fsrc ff b l)) h mem_wide_two he,
    floatExec_quiet (f := fun gr l => (ieeeOf ff).sqrtOp rnd (gr.fsrc ff a l)) h mem_wide_one he, ?_⟩
  refine (floatExec_quiet (f := fun gr l => (2 ^ classBit (ieeeOf ff) (gr.fsrc ff a l), 0)) h mem_wide_one he).trans
    (congrArg (floatTo s 2 g .f32 d) (funext fun l => ?_))
  exact congrArg (·, 0) (classBit_means p (x l))

/-! ### The device's choice of an approximation (R114) -/

/-- The magnitudes of f32. -/
abbrev f32Grid (c : Nat) : ℚ := gridVal 23 (-126) c

/-- The largest finite f32. -/
theorem f32Grid_max : f32Grid 0x7F7FFFFF = (2 : ℚ) ^ (128 : Int) - (2 : ℚ) ^ (104 : Int) := by
  have h := gridVal_place (b := 23) (emin := -126) (j := 253) (K := 2 ^ 24 - 1) (by norm_num) (by norm_num)
  norm_num at h ⊢
  exact h

section
variable {x : Q} {c : Nat}

/-- What lies at or below a positive magnitude. -/
theorem le_f32Below_iff (hd : 0 < x.den) (hx : 0 < ratQ x) (hc : c ≤ 0x7F7FFFFF) : c ≤ f32Below x ↔ f32Grid c ≤ ratQ x := by
  have hnum : 0 < x.num := (num_pos hd).mpr hx
  obtain ⟨hle, hmax⟩ := roundGrid_below (b := 23) (emin := -126) (mode := .rtz) (neg := false) hnum hd (.inl rfl)
  have hmono := gridVal_strictMono 23 (-126)
  rw [f32Below, if_neg (not_le.mpr hnum), le_min_iff, and_iff_left hc]
  exact ⟨fun h => (hmono.monotone h).trans hle, fun h => hmono.le_iff_le.mp (hmax c h)⟩

/-- What lies at or above a magnitude. -/
theorem f32Above_le_iff (hd : 0 < x.den) (hx : ratQ x ≤ f32Grid 0x7F7FFFFF) :
    f32Above x ≤ c ↔ ratQ x ≤ f32Grid c := by
  have hmono := gridVal_strictMono 23 (-126)
  unfold f32Above
  by_cases hnum : x.num ≤ 0
  · rw [if_pos hnum]
    have hneg : ratQ x ≤ 0 := not_lt.mp fun h => absurd ((num_pos hd).mpr h) (not_lt.mpr hnum)
    exact iff_of_true (Nat.zero_le c) (hneg.trans (gridVal_nonneg c))
  · obtain ⟨hle, hmin⟩ := roundGrid_above (b := 23) (emin := -126) (mode := .rup) (neg := false) (not_le.mp hnum) hd (.inr ⟨rfl, rfl⟩)
    rw [if_neg hnum, min_eq_left (hmono.le_iff_le.mp (hmin _ hx))]
    exact ⟨fun h => hle.trans (hmono.monotone h), fun h => hmono.le_iff_le.mp (hmin c h)⟩

end

section
variable {i : Q × Q} {e : Int} {off : ℚ}

/-- Within a unit of the last place of a positive magnitude there is a value. -/
theorem exists_f32_near (hlo : 0 < i.1.num) (hd : 0 < i.1.den) (he : ratQ i.1 < (2 : ℚ) ^ (e + 1))
    (hunit : (2 : ℚ) ^ (max e (-126) - 23) ≤ off) (hwidth : ratQ i.2 - ratQ i.1 ≤ off)
    (hmax : ratQ i.2 - off ≤ f32Grid 0x7F7FFFFF) :
    ∃ c ≤ 0x7F7FFFFF, ratQ i.2 - off ≤ f32Grid c ∧ f32Grid c ≤ ratQ i.1 + off := by
  have hunit0 : (0 : ℚ) < (2 : ℚ) ^ (max e (-126) - 23) := zpow_pos two_pos _
  rcases le_total (f32Grid 0x7F7FFFFF) (ratQ i.1) with htop | htop
  · exact ⟨_, le_rfl, hmax, by linarith⟩
  · obtain ⟨habove, hleast⟩ := roundGrid_above (b := 23) (emin := -126) (mode := .rup) (neg := false) hlo hd (.inr ⟨rfl, rfl⟩)
    refine ⟨_, (gridVal_strictMono 23 (-126)).le_iff_le.mp (hleast _ htop), by linarith, ?_⟩
    have hpos : 0 < ratQ i.1 := (num_pos hd).mp hlo
    have hceil : ratQ i.1 ≤ (⌈ratQ i.1 / (2 : ℚ) ^ (max e (-126) - 23)⌉₊ : ℚ) * (2 : ℚ) ^ (max e (-126) - (23 : Nat)) :=
      (div_le_iff₀ hunit0).mp (Nat.le_ceil _)
    have hbound : ratQ i.1 < (2 : ℚ) ^ (max e (-126) + 1) := he.trans_le (zpow_le_zpow_right₀ one_le_two (by omega))
    have hround := roundGrid_le (mode := .rup) (neg := false) hlo hd (le_max_right e (-126)) hbound hceil
    have hlt : (⌈ratQ i.1 / (2 : ℚ) ^ (max e (-126) - 23)⌉₊ : ℚ) * (2 : ℚ) ^ (max e (-126) - (23 : Nat)) <
        (ratQ i.1 / (2 : ℚ) ^ (max e (-126) - 23) + 1) * (2 : ℚ) ^ (max e (-126) - (23 : Nat)) :=
      mul_lt_mul_of_pos_right (Nat.ceil_lt_add_one (by positivity)) hunit0
    have hsum : (ratQ i.1 / (2 : ℚ) ^ (max e (-126) - 23) + 1) * (2 : ℚ) ^ (max e (-126) - (23 : Nat)) =
        ratQ i.1 + (2 : ℚ) ^ (max e (-126) - 23) := by
      push_cast
      rw [add_mul, div_mul_cancel₀ _ hunit0.ne', one_mul]
    linarith

/-- The device's value for a positive exact result in a narrow interval: a code whose value is within the bound of both ends. -/
theorem approxPos_spec (op : Nat) (arg : Word) {bound : Nat} (hb : 0 < bound) (hlo : 0 < i.1.num) (hd : 0 < i.1.den) (hd2 : 0 < i.2.den)
    (he : (2 : ℚ) ^ e ≤ ratQ i.1) (he' : ratQ i.1 < (2 : ℚ) ^ (e + 1)) (htop : e ≤ 127)
    (hoff : off = bound * (2 : ℚ) ^ (max e (-126) - 23)) (hwidth : ratQ i.2 - ratQ i.1 ≤ off)
    (hmax : ratQ i.2 - off ≤ f32Grid 0x7F7FFFFF) :
    ∃ c ≤ 0x7F7FFFFF, approxPos op arg bound i = (c, fNX ||| if c < 0x00800000 then fUF else 0) ∧
      ratQ i.2 - off ≤ f32Grid c ∧ f32Grid c ≤ ratQ i.1 + off := by
  have hunit : (2 : ℚ) ^ (max e (-126) - 23) ≤ off :=
    hoff ▸ le_mul_of_one_le_left (zpow_pos two_pos _).le (by exact_mod_cast hb)
  have hoff0 : 0 < off := (zpow_pos two_pos _).trans_le hunit
  have hscale : ratQ (Q.scale bound (max e (-126) - 23)) = off := by rw [ratQ_scale, Int.cast_natCast, hoff]
  have hpos : 0 < ratQ i.1 := (num_pos hd).mp hlo
  have hsub : ratQ (i.2.sub (Q.scale bound (max e (-126) - 23))) = ratQ i.2 - off := by rw [ratQ_sub hd2 (den_scale _ _), hscale]
  have hadd : ratQ (i.1.add (Q.scale bound (max e (-126) - 23))) = ratQ i.1 + off := by rw [ratQ_add hd (den_scale _ _), hscale]
  have habove : ∀ c, (f32Above (i.2.sub (Q.scale bound (max e (-126) - 23))) ≤ c ↔ ratQ i.2 - off ≤ f32Grid c) := fun c => by
    rw [f32Above_le_iff (den_sub hd2 (den_scale _ _)) (hsub.trans_le hmax), hsub]
  have hbelow : ∀ c ≤ 0x7F7FFFFF, (c ≤ f32Below (i.1.add (Q.scale bound (max e (-126) - 23))) ↔ f32Grid c ≤ ratQ i.1 + off) :=
    fun c hc => by rw [le_f32Below_iff (den_add hd (den_scale _ _)) (by rw [hadd]; linarith) hc, hadd]
  have hbelowMax : f32Below (i.1.add (Q.scale bound (max e (-126) - 23))) ≤ 0x7F7FFFFF := by
    unfold f32Below
    split
    · exact Nat.zero_le _
    · exact min_le_right _ _
  obtain ⟨k, hk, hkabove, hkbelow⟩ := exists_f32_near hlo hd he' hunit hwidth hmax
  have h1 := (habove k).mpr hkabove
  have h2 := (hbelow k hk).mpr hkbelow
  generalize hA : f32Above (i.2.sub (Q.scale bound (max e (-126) - 23))) = A at h1 habove
  generalize hB : f32Below (i.1.add (Q.scale bound (max e (-126) - 23))) = B at h2 hbelow hbelowMax
  have hpick : Config.approxPick op arg % (B + 1 - A) < B + 1 - A := Nat.mod_lt _ (by omega)
  have hc : A + Config.approxPick op arg % (B + 1 - A) ≤ 0x7F7FFFFF := by omega
  refine ⟨A + Config.approxPick op arg % (B + 1 - A), hc, ?_, (habove _).mp (by omega), (hbelow _ hc).mp (by omega)⟩
  unfold approxPos
  rw [floorLog2_eq hlo hd he he']
  dsimp only
  rw [if_neg (by omega), hA, hB]
  simp only [flagIf, decide_eq_true_eq]

end

/-- An exact result of 2^128 or more overflows. -/
theorem approxPos_overflow (op : Nat) (arg : Word) (bound : Nat) {x : Q} (hx : 0 < x.num) (hd : 0 < x.den) (h : (2 : ℚ) ^ (128 : Int) ≤ ratQ x) :
    approxPos op arg bound (x, x) = (0x7F800000, fOF ||| fNX) := by
  obtain ⟨e, he, he'⟩ := exists_exponent hx hd
  have hlt : (128 : Int) < e + 1 := (zpow_lt_zpow_iff_right₀ one_lt_two).mp (h.trans_lt he')
  unfold approxPos
  rw [floorLog2_eq hx hd he he', if_pos (by omega)]

/-! ### Results that f32 holds exactly -/

/-- Rounding what f32 holds is exact. -/
theorem round_exact (neg : Bool) {m : Q} {c : Nat} (hm : 0 < m.num) (hd : 0 < m.den) (hc : c < 0x7F800000)
    (h : ratQ m = f32Grid c) : ieeeF32.round .rne (.fin neg m) = ((if neg then 0x80000000 else 0) + c, 0) := by
  have hnear := roundGrid_nearest (b := 23) (emin := -126) (neg := neg) hm hd (.inl rfl : (.rne : Rnd) = .rne ∨ _) c
  rw [h, sub_self, abs_zero] at hnear
  have hval := sub_eq_zero.mp (abs_nonpos_iff.mp hnear)
  have hcode : (roundGrid 23 (-126) .rne neg m).1 = c := (gridVal_strictMono 23 (-126)).injective hval
  have hexact : (roundGrid 23 (-126) .rne neg m).2.1 = false := (roundGrid_exact hm hd).mpr (hval.trans h.symm)
  have hround := round_fin (p := ieeeF32) .rne neg hm.ne'
  have hg : roundGrid ieeeF32.mbits ieeeF32.emin .rne neg m = roundGrid 23 (-126) .rne neg m := rfl
  have hinf : ¬ ieeeF32.infCode ≤ c := not_le.mpr hc
  rw [hg, hcode, hexact, if_neg hinf, Bool.false_and] at hround
  exact hround.trans (congrArg (Prod.mk _) (by decide))

/-- A value that f32 holds is the device's own. -/
theorem approxRational_exact (op : Nat) (arg : Word) (bound : Nat) {m : Q} {c : Nat} (hm : 0 < m.num) (hd : 0 < m.den) (hc : c < 0x7F800000)
    (h : ratQ m = f32Grid c) : approxRational op arg bound m = (c, 0) := by
  unfold approxRational
  rw [round_exact false hm hd hc h, if_neg Bool.false_ne_true, Nat.zero_add]
  dsimp only
  rw [if_neg (by decide)]

/-- A positive exact rational result is f32's own value, or it is chosen as one that f32 does not hold. -/
theorem approxRational_cases (op : Nat) (arg : Word) (bound : Nat) {m : Q} (hm : 0 < m.num) (hd : 0 < m.den) :
    (∃ c < 0x7F800000, ratQ m = f32Grid c ∧ approxRational op arg bound m = (c, 0)) ∨
      approxRational op arg bound m = approxPos op arg bound (m, m) := by
  have hround := round_fin (p := ieeeF32) .rne false hm.ne'
  have hg : roundGrid ieeeF32.mbits ieeeF32.emin .rne false m = roundGrid 23 (-126) .rne false m := rfl
  rw [hg] at hround
  by_cases hover : ieeeF32.infCode ≤ (roundGrid 23 (-126) .rne false m).1
  · right
    rw [if_pos hover] at hround
    unfold approxRational
    rw [hround]
    rfl
  · rw [if_neg hover] at hround
    cases hexact : (roundGrid 23 (-126) .rne false m).2.1 with
    | false =>
      left
      have hval := ((roundGrid_exact hm hd).mp hexact).symm
      exact ⟨_, not_le.mp hover, hval, approxRational_exact op arg bound hm hd (not_le.mp hover) hval⟩
    | true =>
      right
      have hnx : (ieeeF32.round .rne (.fin false m)).2.getLsbD 4 = true := by
        rw [hround, hexact]
        have hbit : ∀ b : Bool, (flagIf true fNX ||| flagIf (true && b) fUF).getLsbD 4 = true := by decide
        exact hbit _
      unfold approxRational
      rw [if_pos hnx]

/-! ### The approximations on a finite number (R114) -/

section
variable {a : Word} {n : Bool} {m : Q}

theorem frcpOp_fin (h : ieeeF32.decode a.toNat = .fin n m) : frcpOp a =
    withSign n (if m.num = 0 then (0x7F800000, fDZ) else approxRational 6 a 1 ((Q.ofInt 1).div m)) := by
  unfold frcpOp; rw [h]

theorem frsqOp_fin (h : ieeeF32.decode a.toNat = .fin n m) : frsqOp a =
    if m.num = 0 then withSign n (0x7F800000, fDZ)
    else if n then (nanF32, fNV)
    else if (((rsqrtInterval m).1.mul (rsqrtInterval m).1).mul m).eqv (Q.ofInt 1) then approxRational 7 a 1 (rsqrtInterval m).1
    else approxPos 7 a 1 (rsqrtInterval m) := by
  unfold frsqOp; rw [h]

theorem fexp2Op_fin (h : ieeeF32.decode a.toNat = .fin n m) : fexp2Op a =
    let x := (FNum.fin n m).toQ
    if Q.le (Q.ofInt 128) x then (0x7F800000, fOF ||| fNX)
    else if Q.lt x (Q.ofInt (-150)) then (0, fUF ||| fNX)
    else if (x.sub (Q.ofInt x.floor)).num = 0 then approxRational 9 a 2 (Q.scale 1 x.floor)
    else approxPos 9 a 2 (scaleInterval (exp2Frac (x.sub (Q.ofInt x.floor))) x.floor) := by
  unfold fexp2Op; rw [h]

theorem flog2Op_fin (h : ieeeF32.decode a.toNat = .fin n m) : flog2Op a =
    if m.num = 0 then (0xFF800000, fDZ)
    else if n then (nanF32, fNV)
    else
      let e := floorLog2 m.num.toNat m.den
      let f := m.mul (Q.scale 1 (-e))
      if f.eqv (Q.ofInt 1) then ieeeF32.round .rne (FNum.ofQ (Q.ofInt e))
      else if 0 ≤ e then approxPos 10 a 2 (fixInterval (e.toNat * 2 ^ fixBits + log2Frac f))
      else withSign true (approxPos 10 a 2 (fixInterval ((-e).toNat * 2 ^ fixBits - log2Frac f))) := by
  unfold flog2Op; rw [h]

theorem fsinOp_fin (h : ieeeF32.decode a.toNat = .fin n m) : fsinOp a =
    let r := m.sub (Q.ofInt m.floor)
    if r.num = 0 then withSign n (0, 0) else withSign (n != decide (m.floor % 2 = 1)) (sinReduced 11 a r) := by
  unfold fsinOp; rw [h]

theorem fcosOp_fin (h : ieeeF32.decode a.toNat = .fin n m) : fcosOp a =
    let x := m.add ⟨1, 2⟩
    let r := x.sub (Q.ofInt x.floor)
    if r.num = 0 then (0, 0) else withSign (decide (x.floor % 2 = 1)) (sinReduced 12 a r) := by
  unfold fcosOp; rw [h]

end

/-! ### Special operands -/

theorem approximations_nan {a : Word} (h : (f32Num a).isNan = true) : ∀ f ∈ [frcpOp, frsqOp, fexp2Op, flog2Op, fsinOp, fcosOp],
    f a = (ieeeF32.nanCode, if (f32Num a).isSnan then fNV else 0) := by
  unfold f32Num at h ⊢
  cases hx : ieeeF32.decode a.toNat with
  | inf | fin => rw [hx] at h; cases h
  | nan s =>
    simp only [List.forall_mem_cons, List.not_mem_nil, false_imp_iff, implies_true, and_true]
    unfold frcpOp frsqOp fexp2Op flog2Op fsinOp fcosOp
    rw [hx]
    exact ⟨rfl, rfl, rfl, rfl, rfl, rfl⟩

theorem approximations_inf {a : Word} {n : Bool} (hx : ieeeF32.decode a.toNat = .inf n) :
    frcpOp a = (0 + (if n then 0x80000000 else 0), 0) ∧ frsqOp a = (if n then (ieeeF32.nanCode, fNV) else (0, 0)) ∧
      fexp2Op a = (if n then (0, 0) else (0x7F800000, 0)) ∧ flog2Op a = (if n then (ieeeF32.nanCode, fNV) else (0x7F800000, 0)) ∧
      fsinOp a = (ieeeF32.nanCode, fNV) ∧ fcosOp a = (ieeeF32.nanCode, fNV) := by
  unfold frcpOp frsqOp fexp2Op flog2Op fsinOp fcosOp
  rw [hx]
  exact ⟨rfl, rfl, rfl, rfl, rfl, rfl⟩

/-! ### Values that f32 holds -/

/-- f32 holds a whole number of at most 24 bits at a place of its own. -/
theorem exists_code_scaled {k : Nat} {L X : Int} (hlo : (2 : ℚ) ^ L ≤ k) (hhi : (k : ℚ) < (2 : ℚ) ^ (L + 1)) (hL0 : 0 ≤ L) (hL : L ≤ 23)
    (hX : -149 ≤ X) (htop : L + X ≤ 127) : ∃ c < 0x7F800000, f32Grid c = k * (2 : ℚ) ^ X := by
  obtain ⟨l, rfl⟩ := Int.eq_ofNat_of_zero_le hL0
  have hklo : 2 ^ l ≤ k := by exact_mod_cast hlo
  have hkhi : k < 2 ^ (l + 1) := by exact_mod_cast hhi
  rcases lt_or_ge ((l : Int) + X) (-126) with hsub | hnormal
  · obtain ⟨s, hs⟩ := Int.eq_ofNat_of_zero_le (show 0 ≤ X + 149 by omega)
    have hK : k * 2 ^ s < 2 ^ 23 := by
      calc k * 2 ^ s < 2 ^ (l + 1) * 2 ^ s := Nat.mul_lt_mul_of_pos_right hkhi (by positivity)
        _ = 2 ^ (l + 1 + s) := (pow_add _ _ _).symm
        _ ≤ 2 ^ 23 := Nat.pow_le_pow_right two_pos (by omega)
    have hval := gridVal_place (b := 23) (emin := -126) (j := 0) (K := k * 2 ^ s) (fun _ => rfl)
      (hK.le.trans (Nat.pow_le_pow_right two_pos (by omega)))
    refine ⟨0 * 2 ^ 23 + k * 2 ^ s, ?_, hval.trans ?_⟩
    · rw [Nat.zero_mul, Nat.zero_add]
      exact hK.trans (by norm_num)
    push_cast
    rw [mul_assoc, ← zpow_natCast, ← zpow_add₀ two_ne_zero]
    congr 2
    omega
  · obtain ⟨j, hj⟩ := Int.eq_ofNat_of_zero_le (show 0 ≤ (l : Int) + X + 126 by omega)
    have hpow : 2 ^ l * 2 ^ (23 - l) = 2 ^ 23 := by rw [← pow_add]; congr 1; omega
    have hKlo : 2 ^ 23 ≤ k * 2 ^ (23 - l) := hpow ▸ Nat.mul_le_mul_right _ hklo
    have hKhi : k * 2 ^ (23 - l) < 2 ^ 24 := by
      calc k * 2 ^ (23 - l) < 2 ^ (l + 1) * 2 ^ (23 - l) := Nat.mul_lt_mul_of_pos_right hkhi (by positivity)
        _ = 2 ^ 24 := by rw [pow_succ, Nat.mul_right_comm, hpow]; norm_num
    have hval := gridVal_place (b := 23) (emin := -126) (j := j) (fun h => absurd hKlo (not_le.mpr h)) hKhi.le
    refine ⟨j * 2 ^ 23 + k * 2 ^ (23 - l), by omega, hval.trans ?_⟩
    push_cast
    rw [mul_assoc, ← zpow_natCast, ← zpow_add₀ two_ne_zero]
    congr 2
    omega

theorem exists_code_pow {n : Int} (hlo : -149 ≤ n) (hhi : n ≤ 127) : ∃ c < 0x7F800000, f32Grid c = (2 : ℚ) ^ n := by
  obtain ⟨c, hc, hval⟩ := exists_code_scaled (k := 1) (L := 0) (X := n) (by norm_num) (by norm_num) le_rfl (by norm_num) hlo (by omega)
  exact ⟨c, hc, by rw [hval, Nat.cast_one, one_mul]⟩

theorem exists_code_natCast {k : Nat} (hk : 0 < k) (h : k < 2 ^ 24) : ∃ c < 0x7F800000, f32Grid c = k := by
  have hlog : Nat.log 2 k < 24 := Nat.log_lt_of_lt_pow hk.ne' h
  obtain ⟨c, hc, hval⟩ := exists_code_scaled (k := k) (L := Nat.log 2 k) (X := 0) (by exact_mod_cast Nat.pow_log_le_self 2 hk.ne')
    (by exact_mod_cast Nat.lt_pow_succ_log_self one_lt_two k) (by omega) (by omega) (by norm_num) (by omega)
  exact ⟨c, hc, by rw [hval, zpow_zero, mul_one]⟩

/-- The magnitude of a finite number is a value of f32. -/
theorem f32_bounds {c : Nat} (h0 : f32Grid c ≠ 0) (hc : c < 0x7F800000) : (2 : ℚ) ^ (-149 : Int) ≤ f32Grid c ∧ f32Grid c < (2 : ℚ) ^ (128 : Int) := by
  have hmono := gridVal_strictMono 23 (-126)
  have hpos : 1 ≤ c := Nat.one_le_iff_ne_zero.mpr fun h => h0 (h ▸ gridVal_zero)
  have hone : f32Grid 1 = (2 : ℚ) ^ (-149 : Int) := by
    have h := gridVal_place (b := 23) (emin := -126) (j := 0) (K := 1) (by norm_num) (by norm_num)
    norm_num at h ⊢
    exact h
  have hmax : f32Grid c ≤ f32Grid 0x7F7FFFFF := hmono.monotone (by omega)
  rw [f32Grid_max] at hmax
  exact ⟨hone ▸ hmono.monotone hpos, hmax.trans_lt (sub_lt_self _ (zpow_pos two_pos _))⟩

/-- The value of a signed magnitude code. -/
theorem value_withSign {c : Nat} (hc : c < 0x7F800000) (neg : Bool) (f : FFlags) :
    FNum.rat (ieeeF32.decode (withSign neg (c, f)).1) = if neg then -f32Grid c else f32Grid c := by
  obtain ⟨q, hq, hval⟩ := decode_finite (p := ieeeF32) hc neg
  have hcomm : (withSign neg (c, f)).1 = (if neg then ieeeF32.signBit else 0) + c := Nat.add_comm _ _
  rw [hcomm, hq, rat_fin, hval]
  rfl

/-! ### The reciprocal root's interval (R114) -/

section
variable {m : Q}

/-- The interval of the reciprocal root: two neighbours on a grid of 200 bits below its exponent, the root between them. -/
theorem rsqrtInterval_spec (hm : 0 < m.num) (hd : 0 < m.den) : ∃ (e : Int) (r : Nat),
    rsqrtInterval m = (Q.scale r (e - 200), Q.scale (r + 1 : Nat) (e - 200)) ∧ (2 : ℚ) ^ (2 * e) ≤ 1 / ratQ m ∧
      1 / ratQ m < (2 : ℚ) ^ (2 * e + 2) ∧ (r : ℚ) * r ≤ 1 / ratQ m / (2 : ℚ) ^ (2 * (e - 200)) ∧
      1 / ratQ m / (2 : ℚ) ^ (2 * (e - 200)) < (r + 1) * (r + 1) ∧ r = isqrt ⌊1 / ratQ m / (2 : ℚ) ^ (2 * (e - 200))⌋₊ := by
  obtain ⟨hratio, hpos⟩ := ratQ_pos_toNat hm
  obtain ⟨hlog, hlog'⟩ := floorLog2_spec hd hpos
  have hinv : ((m.den : ℚ) / m.num.toNat) = 1 / ratQ m := by rw [hratio, one_div_div]
  rw [hinv] at hlog hlog'
  generalize he : floorLog2 m.den m.num.toNat / 2 = e
  obtain ⟨hden, hunits⟩ := inUnits_spec (m := ⟨m.den, m.num.toNat⟩) (Int.natCast_nonneg _) hpos (2 * (e - 200))
  have hval : ratQ ⟨m.den, m.num.toNat⟩ = 1 / ratQ m := by rw [← hinv]; rfl
  rw [hval] at hunits
  have hfloor : (inUnits ⟨m.den, m.num.toNat⟩ (2 * (e - 200))).1 / (inUnits ⟨m.den, m.num.toNat⟩ (2 * (e - 200))).2 =
      ⌊1 / ratQ m / (2 : ℚ) ^ (2 * (e - 200))⌋₊ := by rw [← hunits, Nat.floor_div_eq_div]
  have hT : 0 ≤ 1 / ratQ m / (2 : ℚ) ^ (2 * (e - 200)) := hunits ▸ by positivity
  obtain ⟨hlow, hhigh⟩ := isqrt_spec ⌊1 / ratQ m / (2 : ℚ) ^ (2 * (e - 200))⌋₊
  refine ⟨e, isqrt ⌊1 / ratQ m / (2 : ℚ) ^ (2 * (e - 200))⌋₊, ?_, ?_, ?_, ?_, ?_, rfl⟩
  · unfold rsqrtInterval
    rw [he]
    dsimp only
    rw [hfloor]
  · exact (zpow_le_zpow_right₀ one_le_two (by omega)).trans hlog
  · exact hlog'.trans_le (zpow_le_zpow_right₀ one_le_two (by omega))
  · calc ((isqrt ⌊1 / ratQ m / (2 : ℚ) ^ (2 * (e - 200))⌋₊ : Nat) : ℚ) * (isqrt ⌊1 / ratQ m / (2 : ℚ) ^ (2 * (e - 200))⌋₊ : Nat)
        ≤ (⌊1 / ratQ m / (2 : ℚ) ^ (2 * (e - 200))⌋₊ : ℚ) := by exact_mod_cast hlow
      _ ≤ _ := Nat.floor_le hT
  · calc 1 / ratQ m / (2 : ℚ) ^ (2 * (e - 200)) < (⌊1 / ratQ m / (2 : ℚ) ^ (2 * (e - 200))⌋₊ : ℚ) + 1 := Nat.lt_floor_add_one _
      _ ≤ _ := by exact_mod_cast hhigh

/-- A square of a power of two. -/
theorem zpow_two_mul (e : Int) : (2 : ℚ) ^ (2 * e) = (2 : ℚ) ^ e * (2 : ℚ) ^ e := by rw [two_mul, zpow_add₀ two_ne_zero]

/-- The interval's ends, below and above the root. -/
theorem rsqrtInterval_bounds (hm : 0 < m.num) (hd : 0 < m.den) :
    0 < ratQ (rsqrtInterval m).1 ∧ ratQ (rsqrtInterval m).1 * ratQ (rsqrtInterval m).1 * ratQ m ≤ 1 ∧
      1 < ratQ (rsqrtInterval m).2 * ratQ (rsqrtInterval m).2 * ratQ m := by
  obtain ⟨e, r, hi, hlog, -, hlow, hhigh, -⟩ := rsqrtInterval_spec hm hd
  have hv : 0 < ratQ m := (num_pos hd).mp hm
  have hk : (0 : ℚ) < (2 : ℚ) ^ (e - 200) := zpow_pos two_pos _
  have hkk : (2 : ℚ) ^ (2 * (e - 200)) = (2 : ℚ) ^ (e - 200) * (2 : ℚ) ^ (e - 200) := zpow_two_mul _
  rw [hkk, div_div, le_div_iff₀ (by positivity)] at hlow
  have hhigh' := hhigh
  rw [hkk, div_div, div_lt_iff₀ (by positivity)] at hhigh'
  have hone : 1 < (r + 1 : ℚ) * (r + 1) := by
    refine lt_of_le_of_lt ?_ hhigh
    rw [le_div_iff₀ (by positivity), one_mul]
    exact (zpow_le_zpow_right₀ one_le_two (by omega)).trans hlog
  have hr : 0 < r := by
    rcases Nat.eq_zero_or_pos r with rfl | h
    · norm_num at hone
    · exact h
  have hr' : (0 : ℚ) < r := by exact_mod_cast hr
  rw [hi]
  dsimp only
  rw [ratQ_scale, ratQ_scale]
  push_cast
  refine ⟨mul_pos hr' hk, by linarith, by linarith⟩

/-- An exact root that f32 holds is the interval's lower end. -/
theorem rsqrtInterval_exact (hm : 0 < m.num) (hd : 0 < m.den) {c : Nat} (h : ratQ m * f32Grid c * f32Grid c = 1) :
    ratQ (rsqrtInterval m).1 = f32Grid c := by
  obtain ⟨e, r, hi, hlog, hlog', -, -, hr⟩ := rsqrtInterval_spec hm hd
  have hv : 0 < ratQ m := (num_pos hd).mp hm
  have hsq : 1 / ratQ m = f32Grid c * f32Grid c := by
    rw [div_eq_iff hv.ne', ← h]; ring
  have hc : (0 : ℚ) ≤ f32Grid c := gridVal_nonneg c
  have hlow : (2 : ℚ) ^ e ≤ f32Grid c := by
    rw [hsq, zpow_two_mul] at hlog
    exact abs_le_of_sq_le_sq' (by rwa [sq, sq]) hc |>.2
  obtain ⟨N, hN⟩ : ∃ N : Nat, f32Grid c = N * (2 : ℚ) ^ (e - 200) := by
    rcases gridVal_units (b := 23) (emin := -126) c e with ⟨-, hlt⟩ | ⟨J, hJ⟩
    · exact absurd hlow (not_le.mpr hlt)
    · have hunit : (2 : ℚ) ^ (e - 23) = (2 : ℚ) ^ 177 * (2 : ℚ) ^ (e - 200) := by
        rw [← zpow_natCast, ← zpow_add₀ two_ne_zero]
        congr 1
        push_cast
        ring
      refine ⟨J * 2 ^ 177, hJ.trans ?_⟩
      push_cast
      rw [hunit]
      ring
  have hT : 1 / ratQ m / (2 : ℚ) ^ (2 * (e - 200)) = ((N * N : Nat) : ℚ) := by
    have hk : (2 : ℚ) ^ (e - 200) ≠ 0 := (zpow_pos two_pos _).ne'
    rw [hsq, hN, zpow_two_mul]
    push_cast
    field_simp
  rw [hT, Nat.floor_natCast] at hr
  have hroot : r = N := by
    obtain ⟨h1, h2⟩ := isqrt_spec (N * N)
    rw [← hr] at h1 h2
    have h3 : r ≤ N := Nat.mul_self_le_mul_self_iff.mp h1
    have h4 : N < r + 1 := Nat.mul_self_lt_mul_self_iff.mp h2
    omega
  rw [hi]
  dsimp only
  rw [ratQ_scale, hroot, hN, Int.cast_natCast]

end

/-! ### The results that must be exact (R114) -/

section
variable {a : Word} {n : Bool} {m : Q} {c : Nat}

/-- A reciprocal that f32 holds. -/
theorem frcpOp_exact (h : ieeeF32.decode a.toNat = .fin n m) (hd : 0 < m.den) (hm : 0 < m.num) (hc : c < 0x7F800000)
    (hval : ratQ m * f32Grid c = 1) : frcpOp a = withSign n (c, 0) := by
  have hv : 0 < ratQ m := (num_pos hd).mp hm
  have hquot : ratQ ((Q.ofInt 1).div m) = f32Grid c := by
    rw [ratQ_div, ratQ_ofInt, Int.cast_one, div_eq_iff hv.ne', mul_comm, hval]
  have hden : 0 < ((Q.ofInt 1).div m).den := den_div Nat.one_pos hm.ne'
  have hpos : 0 < ratQ ((Q.ofInt 1).div m) := by
    rw [ratQ_div, ratQ_ofInt, Int.cast_one]
    positivity
  rw [frcpOp_fin h, if_neg hm.ne', approxRational_exact 6 a 1 ((num_pos hden).mpr hpos) hden hc hquot]

/-- A reciprocal root that f32 holds. -/
theorem frsqOp_exact (h : ieeeF32.decode a.toNat = .fin false m) (hd : 0 < m.den) (hm : 0 < m.num) (hc : c < 0x7F800000)
    (hval : ratQ m * f32Grid c * f32Grid c = 1) : frsqOp a = (c, 0) := by
  have hroot := rsqrtInterval_exact hm hd hval
  obtain ⟨e, r, hi, -⟩ := rsqrtInterval_spec hm hd
  have hden : 0 < (rsqrtInterval m).1.den := by rw [hi]; exact den_scale _ _
  have hpos : 0 < ratQ (rsqrtInterval m).1 := (rsqrtInterval_bounds hm hd).1
  have heqv : (((rsqrtInterval m).1.mul (rsqrtInterval m).1).mul m).eqv (Q.ofInt 1) = true := by
    rw [eqv_iff (den_mul (den_mul hden hden) hd) Nat.one_pos, ratQ_mul, ratQ_mul, ratQ_ofInt, Int.cast_one, hroot, ← hval]
    ring
  rw [frsqOp_fin h, if_neg hm.ne', if_neg Bool.false_ne_true, if_pos heqv,
    approxRational_exact 7 a 1 ((num_pos hden).mpr hpos) hden hc hroot]

end

/-! ### Whole and fractional parts -/

section
variable {x : Q}

theorem den_frac (hd : 0 < x.den) : 0 < (x.sub (Q.ofInt x.floor)).den := den_sub hd Nat.one_pos

theorem ratQ_frac (hd : 0 < x.den) : ratQ (x.sub (Q.ofInt x.floor)) = Int.fract (ratQ x) := by
  rw [ratQ_sub hd Nat.one_pos, ratQ_ofInt, floor_eq, Int.self_sub_floor]

theorem frac_num_eq_zero (hd : 0 < x.den) : (x.sub (Q.ofInt x.floor)).num = 0 ↔ Int.fract (ratQ x) = 0 := by
  rw [num_eq_zero (den_frac hd), ratQ_frac hd]

end

theorem sinReduced_half (op : Nat) (a : Word) {r : Q} (hd : 0 < r.den) (h : ratQ r = 1 / 2) : sinReduced op a r = (0x3F800000, 0) := by
  have hnum : r.num ≠ 0 := fun h0 => by
    rw [(num_eq_zero hd).mp h0] at h
    norm_num at h
  have heqv : r.eqv ⟨1, 2⟩ = true := (eqv_iff hd Nat.two_pos).mpr (h.trans (by norm_num [ratQ]))
  rw [sinReduced, if_neg hnum, if_pos heqv]

theorem fract_intCast_add_half (k : Int) : Int.fract ((k : ℚ) + 1 / 2) = 1 / 2 := by
  rw [Int.fract_intCast_add]
  exact Int.fract_eq_self.mpr ⟨by norm_num, by norm_num⟩

theorem floor_intCast_add_half (k : Int) : ⌊(k : ℚ) + 1 / 2⌋ = k := by
  rw [Int.floor_intCast_add, show ⌊(1 / 2 : ℚ)⌋ = 0 from Int.floor_eq_zero_iff.mpr ⟨by norm_num, by norm_num⟩, add_zero]

/-- The sign of one at a parity. -/
theorem withSign_one (k : Int) {neg : Bool} (h : neg = decide (k % 2 = 1)) :
    withSign neg (0x3F800000, 0) = (if k % 2 = 0 then 0x3F800000 else 0xBF800000, 0) := by
  rcases Int.emod_two_eq_zero_or_one k with h0 | h1
  · rw [if_pos h0, h, decide_eq_false (by omega)]
    rfl
  · rw [if_neg (by omega), h, decide_eq_true h1]
    rfl

section
variable {a : Word} {n : Bool} {m : Q} {k : Int}

/-- The magnitude and the sign of a finite operand. -/
theorem value_fin (n : Bool) (m : Q) : FNum.rat (.fin n m) = if n then -ratQ m else ratQ m := rat_fin n m

theorem fexp2Op_range (h : ieeeF32.decode a.toNat = .fin n m) (hd : 0 < (FNum.fin n m).toQ.den) :
    (128 ≤ FNum.rat (.fin n m) → fexp2Op a = (0x7F800000, fOF ||| fNX)) ∧
    (FNum.rat (.fin n m) < -150 → fexp2Op a = (0, fUF ||| fNX)) ∧
    (-150 ≤ FNum.rat (.fin n m) → FNum.rat (.fin n m) < 128 → fexp2Op a =
      let x := (FNum.fin n m).toQ
      if Int.fract (ratQ x) = 0 then approxRational 9 a 2 (Q.scale 1 x.floor)
      else approxPos 9 a 2 (scaleInterval (exp2Frac (x.sub (Q.ofInt x.floor))) x.floor)) := by
  rw [fexp2Op_fin h, rat_eq]
  have hhi : Q.le (Q.ofInt 128) (FNum.fin n m).toQ = true ↔ 128 ≤ ratQ (FNum.fin n m).toQ := by
    rw [le_iff Nat.one_pos hd, ratQ_ofInt]; norm_num
  have hlo : Q.lt (FNum.fin n m).toQ (Q.ofInt (-150)) = true ↔ ratQ (FNum.fin n m).toQ < -150 := by
    rw [lt_iff hd Nat.one_pos, ratQ_ofInt]; norm_num
  dsimp only
  simp only [hhi, hlo, frac_num_eq_zero hd]
  refine ⟨fun h1 => if_pos h1, fun h1 => ?_, fun h1 h2 => ?_⟩
  · rw [if_neg (by linarith), if_pos h1]
  · rw [if_neg (not_le.mpr h2), if_neg (not_lt.mpr h1)]

theorem fexp2Op_int (h : ieeeF32.decode a.toNat = .fin n m) (hd : 0 < (FNum.fin n m).toQ.den) (hlo : -149 ≤ k) (hhi : k ≤ 127)
    (hv : FNum.rat (.fin n m) = k) : ∃ c < 0x7F800000, f32Grid c = (2 : ℚ) ^ k ∧ fexp2Op a = (c, 0) := by
  obtain ⟨c, hc, hval⟩ := exists_code_pow hlo hhi
  have hlo' : (-149 : ℚ) ≤ k := by exact_mod_cast hlo
  have hhi' : (k : ℚ) ≤ 127 := by exact_mod_cast hhi
  have hscale : ratQ (Q.scale 1 k) = (2 : ℚ) ^ k := by rw [ratQ_scale, Int.cast_one, one_mul]
  have hop := (fexp2Op_range h hd).2.2 (by linarith) (by linarith)
  rw [rat_eq] at hv
  dsimp only at hop
  rw [floor_eq, hv, Int.fract_intCast, if_pos rfl, Int.floor_intCast, approxRational_exact 9 a 2
    ((num_pos (den_scale 1 k)).mpr (hscale ▸ zpow_pos two_pos k)) (den_scale 1 k) hc (hscale.trans hval.symm)] at hop
  exact ⟨c, hc, hval, hop⟩

/-- The logarithm of a power of two, as a code. -/
theorem flog2Op_pow_code (h : ieeeF32.decode a.toNat = .fin false m) (hd : 0 < m.den) (hm : 0 < m.num) (hv : ratQ m = (2 : ℚ) ^ k) :
    ∃ c < 0x7F800000, f32Grid c = |(k : ℚ)| ∧ flog2Op a = withSign (decide (k < 0)) (c, 0) := by
  have hlog : floorLog2 m.num.toNat m.den = k := floorLog2_eq hm hd hv.ge (hv ▸ zpow_lt_zpow_right₀ one_lt_two (lt_add_one k))
  have hone : (m.mul (Q.scale 1 (-k))).eqv (Q.ofInt 1) = true := by
    rw [eqv_iff (den_mul hd (den_scale _ _)) Nat.one_pos, ratQ_mul, ratQ_scale, hv, ratQ_ofInt, Int.cast_one, one_mul,
      ← zpow_add₀ two_ne_zero, add_neg_cancel, zpow_zero]
  have hop := flog2Op_fin h
  dsimp only at hop
  rw [if_neg hm.ne', if_neg Bool.false_ne_true, hlog, if_pos hone] at hop
  rw [hop]
  obtain ⟨c, hc, hcode⟩ := decode_fin_code h
  have hpos : (0 : ℚ) < ratQ m := (num_pos hd).mp hm
  obtain ⟨hlo, hhi⟩ := f32_bounds (c := c) (fun h0 => hpos.ne' (hcode.trans h0)) hc
  have hcv : f32Grid c = (2 : ℚ) ^ k := hcode.symm.trans hv
  rw [hcv] at hlo hhi
  have hlo' : -149 ≤ k := (zpow_le_zpow_iff_right₀ one_lt_two).mp hlo
  have hhi' : k < 128 := (zpow_lt_zpow_iff_right₀ one_lt_two).mp hhi
  rcases eq_or_ne k 0 with rfl | hk
  · exact ⟨0, by norm_num, by rw [Int.cast_zero, abs_zero]; exact gridVal_zero, by decide +kernel⟩
  · obtain ⟨c', hc', hval'⟩ := exists_code_natCast (k := k.natAbs) (by omega) (by omega)
    have hround : ieeeF32.round .rne (FNum.ofQ (Q.ofInt k)) = _ := round_exact (decide (k < 0)) (m := ⟨(k.natAbs : Int), 1⟩)
      (by dsimp only; omega) Nat.one_pos hc' (by rw [hval']; simp [ratQ])
    have hcomm : withSign (decide (k < 0)) (c', 0) = ((if decide (k < 0) then 0x80000000 else 0) + c', 0) :=
      congrArg (·, (0 : FFlags)) (Nat.add_comm _ _)
    exact ⟨c', hc', by rw [hval', Nat.cast_natAbs, Int.cast_abs], hround.trans hcomm.symm⟩

/-- The logarithm of a power of two. -/
theorem flog2Op_pow (h : ieeeF32.decode a.toNat = .fin false m) (hd : 0 < m.den) (hm : 0 < m.num) (hv : ratQ m = (2 : ℚ) ^ k) :
    FNum.rat (ieeeF32.decode (flog2Op a).1) = k ∧ (flog2Op a).2 = 0 := by
  obtain ⟨c, hc, hval, hop⟩ := flog2Op_pow_code h hd hm hv
  rw [hop]
  refine ⟨(value_withSign hc _ 0).trans ?_, rfl⟩
  rw [hval]
  rcases lt_or_ge k 0 with hneg | hpos
  · rw [decide_eq_true hneg, if_pos rfl, abs_of_neg (by exact_mod_cast hneg), neg_neg]
  · rw [decide_eq_false (not_lt.mpr hpos), if_neg Bool.false_ne_true, abs_of_nonneg (by exact_mod_cast hpos)]

/-- The magnitude of a whole number, and of one between two. -/
theorem magnitude_int (hv : FNum.rat (.fin n m) = k) : ratQ m = ((if n then -k else k : Int) : ℚ) := by
  rw [rat_fin] at hv
  cases n
  · simpa using hv
  · have := neg_eq_iff_eq_neg.mp (by simpa using hv)
    simpa using this

theorem magnitude_half (hv : FNum.rat (.fin n m) = k + 1 / 2) : ratQ m = ((if n then -k - 1 else k : Int) : ℚ) + 1 / 2 := by
  rw [rat_fin] at hv
  cases n
  · simpa using hv
  · rw [if_pos rfl, neg_eq_iff_eq_neg] at hv
    rw [hv, if_pos rfl]
    push_cast
    ring

theorem fsinOp_int (h : ieeeF32.decode a.toNat = .fin n m) (hd : 0 < m.den) (hv : FNum.rat (.fin n m) = k) : fsinOp a = withSign n (0, 0) := by
  have hop := fsinOp_fin h
  dsimp only at hop
  rw [if_pos ((frac_num_eq_zero hd).mpr (by rw [magnitude_int hv, Int.fract_intCast]))] at hop
  exact hop

theorem fsinOp_half (h : ieeeF32.decode a.toNat = .fin n m) (hd : 0 < m.den) (hv : FNum.rat (.fin n m) = k + 1 / 2) :
    fsinOp a = (if k % 2 = 0 then 0x3F800000 else 0xBF800000, 0) := by
  have hmag := magnitude_half hv
  have hfract : Int.fract (ratQ m) = 1 / 2 := by rw [hmag, fract_intCast_add_half]
  have hop := fsinOp_fin h
  dsimp only at hop
  rw [if_neg (by rw [frac_num_eq_zero hd, hfract]; norm_num), sinReduced_half 11 a (den_frac hd) ((ratQ_frac hd).trans hfract),
    floor_eq, hmag, floor_intCast_add_half] at hop
  rw [hop]
  refine withSign_one k ?_
  cases n
  · exact Bool.false_xor _
  · rw [if_pos rfl, show (true != decide ((-k - 1) % 2 = 1)) = !decide ((-k - 1) % 2 = 1) from Bool.true_xor _, ← decide_not]
    exact decide_eq_decide.mpr (by omega)

/-- The cosine's operand, a half further on. -/
theorem ratQ_add_half (hd : 0 < m.den) : ratQ (m.add ⟨1, 2⟩) = ratQ m + 1 / 2 := by
  rw [ratQ_add hd Nat.two_pos]
  norm_num [ratQ]

theorem fcosOp_half (h : ieeeF32.decode a.toNat = .fin n m) (hd : 0 < m.den) (hv : FNum.rat (.fin n m) = k + 1 / 2) : fcosOp a = (0, 0) := by
  have hfract : Int.fract (ratQ (m.add ⟨1, 2⟩)) = 0 := by
    rw [ratQ_add_half hd, magnitude_half hv, add_assoc, add_halves, Int.fract_add_one, Int.fract_intCast]
  have hop := fcosOp_fin h
  dsimp only at hop
  rw [if_pos ((frac_num_eq_zero (den_add hd Nat.two_pos)).mpr hfract)] at hop
  exact hop

theorem fcosOp_int (h : ieeeF32.decode a.toNat = .fin n m) (hd : 0 < m.den) (hv : FNum.rat (.fin n m) = k) :
    fcosOp a = (if k % 2 = 0 then 0x3F800000 else 0xBF800000, 0) := by
  have hdx : 0 < (m.add ⟨1, 2⟩).den := den_add hd Nat.two_pos
  have hmag : ratQ (m.add ⟨1, 2⟩) = ((if n then -k else k : Int) : ℚ) + 1 / 2 := by rw [ratQ_add_half hd, magnitude_int hv]
  have hfract : Int.fract (ratQ (m.add ⟨1, 2⟩)) = 1 / 2 := by rw [hmag, fract_intCast_add_half]
  have hop := fcosOp_fin h
  dsimp only at hop
  rw [if_neg (by rw [frac_num_eq_zero hdx, hfract]; norm_num), sinReduced_half 12 a (den_frac hdx) ((ratQ_frac hdx).trans hfract),
    floor_eq, hmag, floor_intCast_add_half] at hop
  rw [hop]
  refine withSign_one k (decide_eq_decide.mpr ?_)
  split <;> omega

end

/-! ### The approximations' special values, exact results and choices (R114) -/

/-- The value of a code of f32 below infinity. -/
theorem rat_decode_f32 {c : Nat} (hc : c < 0x7F800000) : FNum.rat (ieeeF32.decode c) = f32Grid c := rat_decode_finite (p := ieeeF32) hc

section
variable {a : Word} {n : Bool} {m : Q}

theorem approximations_zero (h : ieeeF32.decode a.toNat = .fin n m) (hd : 0 < m.den) (hm : m.num = 0) :
    frcpOp a = (0x7F800000 + (if n then 0x80000000 else 0), fDZ) ∧ frsqOp a = (0x7F800000 + (if n then 0x80000000 else 0), fDZ) ∧
      fexp2Op a = (0x3F800000, 0) ∧ flog2Op a = (0xFF800000, fDZ) ∧ fsinOp a = (0 + (if n then 0x80000000 else 0), 0) ∧
      fcosOp a = (0x3F800000, 0) := by
  have hv : ratQ m = 0 := (num_eq_zero hd).mp hm
  have hval : FNum.rat (.fin n m) = ((0 : Int) : ℚ) := by rw [rat_fin, hv, neg_zero, ite_self, Int.cast_zero]
  have hdx : 0 < (FNum.fin n m).toQ.den := by cases n <;> exact hd
  refine ⟨?_, ?_, ?_, ?_, fsinOp_int h hd hval, fcosOp_int h hd hval⟩
  · rw [frcpOp_fin h, if_pos hm]; rfl
  · rw [frsqOp_fin h, if_pos hm]; rfl
  · obtain ⟨c, hc, hcv, hop⟩ := fexp2Op_int h hdx (by norm_num) (by norm_num) hval
    have hone : f32Grid 0x3F800000 = (2 : ℚ) ^ (0 : Int) := by
      have hplace := gridVal_place (b := 23) (emin := -126) (j := 126) (K := 2 ^ 23) (by norm_num) (by norm_num)
      norm_num at hplace ⊢
      exact hplace
    rw [hop, (gridVal_strictMono 23 (-126)).injective (hcv.trans hone.symm)]
  · rw [flog2Op_fin h, if_pos hm]

/-- What a negative operand gives. -/
theorem roots_neg (h : ieeeF32.decode a.toNat = .fin n m) (hd : 0 < m.den) (hm : 0 ≤ ratQ m) (hv : FNum.rat (.fin n m) < 0) :
    frsqOp a = (ieeeF32.nanCode, fNV) ∧ flog2Op a = (ieeeF32.nanCode, fNV) := by
  rw [rat_fin] at hv
  cases n with
  | false => exact absurd hm (not_le.mpr hv)
  | true =>
    have hnum : m.num ≠ 0 := fun h0 => by
      rw [(num_eq_zero hd).mp h0] at hv
      norm_num at hv
    rw [frsqOp_fin h, flog2Op_fin h, if_neg hnum, if_neg hnum]
    exact ⟨rfl, rfl⟩

/-- A finite operand's product with a finite number of f32 that is positive. -/
theorem product_one {c : Nat} (hc : 0 ≤ f32Grid c) (hm : 0 ≤ ratQ m) {n' : Bool} {k : ℚ} (hk : 0 ≤ k)
    (h : (if n then -ratQ m else ratQ m) * (if n' then -f32Grid c else f32Grid c) * k = 1) : n' = n ∧ ratQ m * f32Grid c * k = 1 := by
  have hprod : 0 ≤ ratQ m * f32Grid c * k := by positivity
  cases n <;> cases n' <;> simp only [if_true, if_false, Bool.false_eq_true, neg_mul, mul_neg, neg_neg] at h
  case false.false => exact ⟨rfl, h⟩
  case true.true => exact ⟨rfl, h⟩
  all_goals linarith

theorem approximations_exact (h : ieeeF32.decode a.toNat = .fin n m) (hd : 0 < m.den) (hm : 0 ≤ ratQ m) (c : Word)
    (hc : (f32Num c).isNan = false) (hc' : (f32Num c).isInf = false) :
    (FNum.rat (.fin n m) * ratOf c = 1 → FNum.rat (ieeeF32.decode (frcpOp a).1) = ratOf c ∧ (frcpOp a).2 = 0) ∧
      (0 < ratOf c → FNum.rat (.fin n m) * ratOf c * ratOf c = 1 → FNum.rat (ieeeF32.decode (frsqOp a).1) = ratOf c ∧ (frsqOp a).2 = 0) := by
  obtain ⟨n', q, hq⟩ := fin_iff.mp ⟨hc, hc'⟩
  obtain ⟨w, hw, hval⟩ := decode_fin_code hq
  have hgrid : ratQ q = f32Grid w := hval
  have hg : 0 ≤ f32Grid w := gridVal_nonneg w
  have hof : ratOf c = if n' then -f32Grid w else f32Grid w := by
    unfold ratOf
    rw [hq, rat_fin, hgrid]
  rw [hof, rat_fin]
  refine ⟨fun h1 => ?_, fun hpos h1 => ?_⟩
  · obtain ⟨rfl, hone⟩ := product_one (k := 1) hg hm zero_le_one (by rw [mul_one]; exact h1)
    rw [mul_one] at hone
    have hnum : 0 < m.num := (num_pos hd).mpr (hm.lt_of_ne fun h0 => by rw [← h0, zero_mul] at hone; norm_num at hone)
    have hop := frcpOp_exact h hd hnum hw hone
    exact ⟨hop ▸ value_withSign hw n' 0, hop ▸ rfl⟩
  · cases n' with
    | true => exact absurd hg (not_le.mpr (neg_pos.mp hpos))
    | false =>
      obtain ⟨rfl, hone⟩ := product_one (n' := false) (k := f32Grid w) hg hm hg h1
      have hnum : 0 < m.num := (num_pos hd).mpr (hm.lt_of_ne fun h0 => by rw [← h0, zero_mul, zero_mul] at hone; norm_num at hone)
      have hop := frsqOp_exact h hd hnum hw hone
      exact ⟨hop ▸ rat_decode_f32 hw, hop ▸ rfl⟩

end

theorem approximations : Claims.Approximations := by
  refine ⟨?_, ?_, fun m hm hd => rsqrtInterval_bounds hm hd⟩
  · intro a x v fin signed nan value
    refine ⟨approximations_nan, fun hz => ?_, fun hi => ?_, ?_⟩
    · obtain ⟨n, m, hx, hm⟩ := isZero_fin hz
      have hsound : SoundNum (.fin n m) := hx ▸ soundNum_decode ieeeF32 a.toNat
      have hsign : x.sign = n := by rw [hx]; rfl
      dsimp only [signed]
      rw [hsign]
      exact approximations_zero hx hsound.2 hm
    · obtain ⟨n, hx⟩ := isInf_iff.mp hi
      have hsign : x.sign = n := by rw [hx]; rfl
      dsimp only [signed]
      rw [hsign]
      exact approximations_inf hx
    · by_cases hfin : fin
      · obtain ⟨n, m, hx⟩ := fin_iff.mp hfin
        have hdec : ieeeF32.decode a.toNat = .fin n m := hx
        have hsound : SoundNum (.fin n m) := hx ▸ soundNum_decode ieeeF32 a.toNat
        have hsign : x.sign = n := by rw [hx]; rfl
        have hv : v = FNum.rat (.fin n m) := congrArg FNum.rat hx
        have hm : 0 ≤ ratQ m := (num_nonneg hsound.2).mp hsound.1
        have hdx : 0 < (FNum.fin n m).toQ.den := den_toQ hsound
        dsimp only [signed, value]
        rw [hsign, hv]
        refine ⟨fun _ => roots_neg hdec hsound.2 hm, fun _ => (fexp2Op_range hdec hdx).1, fun _ => (fexp2Op_range hdec hdx).2.1,
          fun _ k => fsinOp_int hdec hsound.2, fun _ k => fcosOp_half hdec hsound.2, fun _ k => fsinOp_half hdec hsound.2,
          fun _ k => fcosOp_int hdec hsound.2, fun _ k hlo hhi hk => ?_, fun _ k hk => ?_,
          fun _ c hc hc' => approximations_exact hdec hsound.2 hm c hc hc'⟩
        · obtain ⟨c, hc, hcv, hop⟩ := fexp2Op_int hdec hdx hlo hhi hk
          rw [hop]
          exact ⟨(rat_decode_f32 hc).trans hcv, rfl⟩
        · have hpos : (0 : ℚ) < (2 : ℚ) ^ k := zpow_pos two_pos k
          rw [rat_fin] at hk
          cases n with
          | true => exact absurd hm (not_le.mpr (neg_pos.mp (hpos.trans_eq hk.symm)))
          | false => exact flog2Op_pow hdec hsound.2 ((num_pos hsound.2).mpr (hpos.trans_eq hk.symm)) hk
      · exact ⟨fun h => absurd h hfin, fun h => absurd h hfin, fun h => absurd h hfin, fun h => absurd h hfin, fun h => absurd h hfin,
          fun h => absurd h hfin, fun h => absurd h hfin, fun h => absurd h hfin, fun h => absurd h hfin, fun h => absurd h hfin⟩
  · intro op arg bound i e hb lo hi off hlo hd hd2 hle hwidth he he' hmax r y
    have hgrid : FNum.rat (ieeeF32.decode 0x7F7FFFFF) = f32Grid 0x7F7FFFFF := rat_decode_f32 (by norm_num)
    rw [hgrid] at hmax
    have hoff : 0 ≤ off := by positivity
    have htop : e < 128 := (zpow_lt_zpow_iff_right₀ (one_lt_two (α := ℚ))).mp
      ((he.trans (hle.trans hmax)).trans_lt (f32Grid_max ▸ sub_lt_self _ (zpow_pos two_pos _)))
    obtain ⟨c, hc, hop, habove, hbelow⟩ := approxPos_spec op arg hb hlo hd hd2 he he' (by omega) rfl hwidth
      ((sub_le_self _ hoff).trans hmax)
    have hy : y = f32Grid c := by
      dsimp only [y, r]
      rw [hop, rat_decode_f32 (by omega)]
    have hr : r = (c, fNX ||| if c < 0x00800000 then fUF else 0) := hop
    rw [hy]
    simp only [hr, and_true]
    exact ⟨by omega, habove, hbelow⟩

/-! ### What is within the bound of an exact result (R114) -/

/-- A result is finite and within so many units of the last place of an exact result, with its flags. -/
def NearUlps (bound y : ℝ) (r : Nat × FFlags) : Prop :=
  ∀ e : Int, (2 : ℝ) ^ e ≤ |y| → |y| < (2 : ℝ) ^ (e + 1) →
    let z : ℝ := FNum.rat (ieeeF32.decode r.1)
    r.1 % 2 ^ 31 < 0x7F800000 ∧ |z - y| ≤ bound * (2 : ℝ) ^ (max e (-126) - 23) ∧
      (z ≠ y → r.2 = fNX ||| (if r.1 % 2 ^ 31 < 0x00800000 then fUF else 0))

/-- A number with a sign. -/
def signed (neg : Bool) (y : ℝ) : ℝ := if neg then -y else y

theorem abs_signed (neg : Bool) (y : ℝ) : |signed neg y| = |y| := by
  cases neg
  · rfl
  · exact abs_neg y

theorem signed_sub (neg : Bool) (y z : ℝ) : signed neg y - signed neg z = signed neg (y - z) := by
  cases neg
  · rfl
  · exact (neg_sub' y z).symm

/-- A magnitude near an exact magnitude, both with a sign. -/
theorem nearUlps_code {bound y : ℝ} {c : Nat} {f : FFlags} (neg : Bool) (hy : 0 < y) (hc : c < 0x7F800000)
    (hnear : ∀ e : Int, (2 : ℝ) ^ e ≤ y → y < (2 : ℝ) ^ (e + 1) → |(f32Grid c : ℝ) - y| ≤ bound * (2 : ℝ) ^ (max e (-126) - 23))
    (hflag : (f32Grid c : ℝ) ≠ y → f = fNX ||| (if c < 0x00800000 then fUF else 0)) :
    NearUlps bound (signed neg y) (withSign neg (c, f)) := by
  intro e he he' z
  rw [abs_signed, abs_of_pos hy] at he he'
  have hz : z = signed neg (f32Grid c) := by
    dsimp only [z]
    rw [value_withSign hc]
    cases neg
    · rfl
    · exact Rat.cast_neg _
  have hmod : (withSign neg (c, f)).1 % 2 ^ 31 = c := by
    unfold withSign
    cases neg <;> simp <;> omega
  rw [hmod, hz, signed_sub, abs_signed]
  exact ⟨hc, hnear e he he', fun hne => hflag fun heq => hne (congrArg (signed neg) heq)⟩

section
variable {i : Q × Q} {e : Int} {y : ℝ} {bound : Nat}

/-- The device's value is within the bound of every number of the interval. -/
theorem nearUlps_approxPos (op : Nat) (arg : Word) (neg : Bool) (hb : 0 < bound) (hlo : 0 < i.1.num) (hd : 0 < i.1.den) (hd2 : 0 < i.2.den)
    (he : (2 : ℚ) ^ e ≤ ratQ i.1) (he' : ratQ i.1 < (2 : ℚ) ^ (e + 1)) (htop : e ≤ 127)
    (hwidth : ratQ i.2 - ratQ i.1 ≤ bound * (2 : ℚ) ^ (max e (-126) - 23))
    (hmax : ratQ i.2 - bound * (2 : ℚ) ^ (max e (-126) - 23) ≤ f32Grid 0x7F7FFFFF) (hy : (ratQ i.1 : ℝ) ≤ y) (hy' : y ≤ ratQ i.2) :
    NearUlps bound (signed neg y) (withSign neg (approxPos op arg bound i)) := by
  obtain ⟨c, hc, hop, habove, hbelow⟩ := approxPos_spec op arg hb hlo hd hd2 he he' htop rfl hwidth hmax
  have hlow := (Rat.cast_le (K := ℝ)).mpr he
  rw [Rat.cast_zpow, Rat.cast_ofNat] at hlow
  have hpos : 0 < y := (zpow_pos two_pos e).trans_le (hlow.trans hy)
  rw [hop]
  refine nearUlps_code neg hpos (by omega) (fun f hf hf' => ?_) fun _ => rfl
  have habove' := (Rat.cast_le (K := ℝ)).mpr habove
  have hbelow' := (Rat.cast_le (K := ℝ)).mpr hbelow
  rw [Rat.cast_sub, Rat.cast_mul, Rat.cast_natCast, Rat.cast_zpow, Rat.cast_ofNat] at habove'
  rw [Rat.cast_add, Rat.cast_mul, Rat.cast_natCast, Rat.cast_zpow, Rat.cast_ofNat] at hbelow'
  have hef : e < f + 1 := (zpow_lt_zpow_iff_right₀ (one_lt_two (α := ℝ))).mp ((hlow.trans hy).trans_lt hf')
  have hunit : (bound : ℝ) * (2 : ℝ) ^ (max e (-126) - 23) ≤ bound * (2 : ℝ) ^ (max f (-126) - 23) :=
    mul_le_mul_of_nonneg_left (zpow_le_zpow_right₀ one_le_two (by omega)) (Nat.cast_nonneg _)
  exact abs_le.mpr ⟨by linarith, by linarith⟩

/-- Two units past the largest finite number there is none: a bound that an end below 2^128 keeps. -/
theorem sub_off_le_max {q : ℚ} (hb : 0 < bound) (hq : q < (2 : ℚ) ^ (e + 1)) (htop : e ≤ 127) :
    q - bound * (2 : ℚ) ^ (max e (-126) - 23) ≤ f32Grid 0x7F7FFFFF := by
  have hoff : (2 : ℚ) ^ (max e (-126) - 23) ≤ bound * (2 : ℚ) ^ (max e (-126) - 23) :=
    le_mul_of_one_le_left (zpow_pos two_pos _).le (by exact_mod_cast hb)
  rw [f32Grid_max]
  rcases htop.lt_or_eq with hlt | rfl
  · have h127 : (2 : ℚ) ^ (e + 1) ≤ (2 : ℚ) ^ (127 : Int) := zpow_le_zpow_right₀ one_le_two (by omega)
    have h104 : (2 : ℚ) ^ (127 : Int) ≤ (2 : ℚ) ^ (128 : Int) - (2 : ℚ) ^ (104 : Int) := by norm_num
    have hpos : (0 : ℚ) < (2 : ℚ) ^ (max e (-126) - 23) := zpow_pos two_pos _
    linarith
  · have h104 : (2 : ℚ) ^ (max 127 (-126) - 23 : Int) = (2 : ℚ) ^ (104 : Int) := rfl
    rw [h104] at hoff ⊢
    have h128 : (2 : ℚ) ^ (127 + 1 : Int) = (2 : ℚ) ^ (128 : Int) := rfl
    linarith

/-- A positive exact rational result below 2^128. -/
theorem nearUlps_approxRational (op : Nat) (arg : Word) (neg : Bool) (hb : 0 < bound) {m : Q} (hm : 0 < m.num) (hd : 0 < m.den)
    (htop : ratQ m < (2 : ℚ) ^ (128 : Int)) :
    NearUlps bound (signed neg (ratQ m)) (withSign neg (approxRational op arg bound m)) := by
  have hpos : (0 : ℝ) < ratQ m := by exact_mod_cast (num_pos hd).mp hm
  rcases approxRational_cases op arg bound hm hd with ⟨c, hc, hval, hop⟩ | hop
  · rw [hop]
    have heq : (f32Grid c : ℝ) = ratQ m := congrArg _ hval.symm
    refine nearUlps_code neg hpos hc (fun e _ _ => ?_) fun hne => absurd heq hne
    rw [heq, sub_self, abs_zero]
    positivity
  · obtain ⟨e, he, he'⟩ := exists_exponent hm hd
    have hlt : e < 128 := (zpow_lt_zpow_iff_right₀ (one_lt_two (α := ℚ))).mp (he.trans_lt htop)
    rw [hop]
    exact nearUlps_approxPos op arg neg hb hm hd hd he he' (by omega) (by rw [sub_self]; positivity)
      (sub_off_le_max hb he' (by omega)) le_rfl le_rfl

end

/-! ### The reciprocal and the reciprocal root within their bound (R114) -/

theorem withSign_false (r : Nat × FFlags) : withSign false r = r := rfl

section
variable {a : Word} {n : Bool} {m : Q}

theorem ratQ_recip (m : Q) : ratQ ((Q.ofInt 1).div m) = 1 / ratQ m := by rw [ratQ_div, ratQ_ofInt, Int.cast_one]

/-- The reciprocal of a number with a sign. -/
theorem recip_signed (n : Bool) (m : Q) : (1 / (FNum.rat (.fin n m) : ℝ)) = signed n (1 / ratQ m : ℚ) := by
  rw [rat_fin]
  cases n
  · exact (by push_cast; rfl : (1 / ((ratQ m : ℚ) : ℝ)) = ((1 / ratQ m : ℚ) : ℝ))
  · rw [if_pos rfl, signed, if_pos rfl]
    push_cast
    exact div_neg _

theorem abs_recip (n : Bool) (hm : 0 ≤ ratQ m) : |1 / FNum.rat (.fin n m)| = 1 / ratQ m := by
  rw [abs_div, abs_one, rat_fin]
  cases n
  · exact congrArg _ (abs_of_nonneg hm)
  · exact congrArg _ ((abs_neg _).trans (abs_of_nonneg hm))

theorem frcpOp_near (h : ieeeF32.decode a.toNat = .fin n m) (hd : 0 < m.den) (hm : 0 < m.num) (htop : 1 / ratQ m < (2 : ℚ) ^ 128) :
    NearUlps 1 (1 / (FNum.rat (.fin n m) : ℝ)) (frcpOp a) := by
  have hv : 0 < ratQ m := (num_pos hd).mp hm
  have hden : 0 < ((Q.ofInt 1).div m).den := den_div Nat.one_pos hm.ne'
  have hnum : 0 < ((Q.ofInt 1).div m).num := (num_pos hden).mpr (ratQ_recip m ▸ one_div_pos.mpr hv)
  have hnear := nearUlps_approxRational 6 a n Nat.one_pos hnum hden (by rw [ratQ_recip]; exact_mod_cast htop)
  rw [frcpOp_fin h, if_neg hm.ne', recip_signed, ← ratQ_recip]
  rwa [Nat.cast_one] at hnear

theorem frcpOp_overflow (h : ieeeF32.decode a.toNat = .fin n m) (hd : 0 < m.den) (hm : 0 < m.num) (htop : (2 : ℚ) ^ 128 ≤ 1 / ratQ m) :
    frcpOp a = withSign n (0x7F800000, fOF ||| fNX) := by
  have hv : 0 < ratQ m := (num_pos hd).mp hm
  have hden : 0 < ((Q.ofInt 1).div m).den := den_div Nat.one_pos hm.ne'
  have hnum : 0 < ((Q.ofInt 1).div m).num := (num_pos hden).mpr (ratQ_recip m ▸ one_div_pos.mpr hv)
  have hbig : (2 : ℚ) ^ (128 : Int) ≤ ratQ ((Q.ofInt 1).div m) := by rw [ratQ_recip]; exact_mod_cast htop
  rw [frcpOp_fin h, if_neg hm.ne']
  rcases approxRational_cases 6 a 1 hnum hden with ⟨c, hc, hval, -⟩ | hop
  · have hpos : (0 : ℚ) < (2 : ℚ) ^ (128 : Int) := zpow_pos two_pos _
    rw [hval] at hbig
    exact absurd hbig (not_le.mpr (f32_bounds (hpos.trans_le hbig).ne' hc).2)
  · rw [hop, approxPos_overflow 6 a 1 hnum hden hbig]

/-- The interval of the reciprocal root, narrow at its place. -/
theorem rsqrtInterval_place (hm : 0 < m.num) (hd : 0 < m.den) : ∃ e : Int, (2 : ℚ) ^ (2 * e) ≤ 1 / ratQ m ∧
    (2 : ℚ) ^ e ≤ ratQ (rsqrtInterval m).1 ∧ ratQ (rsqrtInterval m).1 < (2 : ℚ) ^ (e + 1) ∧ 0 < (rsqrtInterval m).1.den ∧
      0 < (rsqrtInterval m).2.den ∧ ratQ (rsqrtInterval m).2 = ratQ (rsqrtInterval m).1 + (2 : ℚ) ^ (e - 200) := by
  obtain ⟨e, r, hi, hlog, hlog', hlow, hhigh, -⟩ := rsqrtInterval_spec hm hd
  have hk : (0 : ℚ) < (2 : ℚ) ^ (e - 200) := zpow_pos two_pos _
  have hkk : (2 : ℚ) ^ (2 * (e - 200)) = (2 : ℚ) ^ (e - 200) * (2 : ℚ) ^ (e - 200) := zpow_two_mul _
  have hee : (2 : ℚ) ^ (2 * e + 2) = (2 : ℚ) ^ (e + 1) * (2 : ℚ) ^ (e + 1) := by rw [← zpow_two_mul]; congr 1; ring
  have hunits : (2 : ℚ) ^ e = (2 : ℚ) ^ 200 * (2 : ℚ) ^ (e - 200) := by
    rw [← zpow_natCast, ← zpow_add₀ two_ne_zero]
    congr 1
    push_cast
    ring
  have hr : 2 ^ 200 ≤ r := by
    have hT : ((2 : ℚ) ^ 200) * (2 : ℚ) ^ 200 < (r + 1) * (r + 1) := by
      refine lt_of_le_of_lt ?_ hhigh
      rw [le_div_iff₀ (by positivity), hkk]
      rw [zpow_two_mul, hunits] at hlog
      linarith
    have hlt : (2 : ℚ) ^ 200 < r + 1 := by
      rw [← sq, ← sq] at hT
      exact lt_of_pow_lt_pow_left₀ 2 (by positivity) hT
    have hlt' : 2 ^ 200 < r + 1 := by exact_mod_cast hlt
    exact Nat.lt_succ_iff.mp hlt'
  have hr' : (2 : ℚ) ^ 200 ≤ r := by exact_mod_cast hr
  rw [hi]
  dsimp only
  rw [ratQ_scale, ratQ_scale, Int.cast_natCast]
  refine ⟨e, hlog, ?_, ?_, den_scale _ _, den_scale _ _, ?_⟩
  · rw [hunits]
    exact mul_le_mul_of_nonneg_right hr' hk.le
  · rw [le_div_iff₀ (by positivity), hkk] at hlow
    have hsq : (r * (2 : ℚ) ^ (e - 200)) ^ 2 < ((2 : ℚ) ^ (e + 1)) ^ 2 := by
      rw [sq, sq, ← hee]
      linarith
    exact lt_of_pow_lt_pow_left₀ 2 (zpow_pos two_pos _).le hsq
  · push_cast
    ring

/-- A bound on a square root of a reciprocal from its square. -/
theorem le_recip_sqrt {w v : ℝ} (hv : 0 < v) (h : w * w * v ≤ 1) : w ≤ 1 / √v := by
  rw [le_div_iff₀ (Real.sqrt_pos.mpr hv)]
  have hsq : (w * √v) ^ 2 ≤ 1 ^ 2 := by
    rw [mul_pow, Real.sq_sqrt hv.le, sq, one_pow]
    exact h
  exact (abs_le_of_sq_le_sq' hsq zero_le_one).2

theorem recip_sqrt_le {w v : ℝ} (hw : 0 ≤ w) (hv : 0 < v) (h : 1 ≤ w * w * v) : 1 / √v ≤ w := by
  rw [div_le_iff₀ (Real.sqrt_pos.mpr hv)]
  have hsq : (1 : ℝ) ^ 2 ≤ (w * √v) ^ 2 := by
    rw [mul_pow, Real.sq_sqrt hv.le, sq w, one_pow]
    exact h
  exact (abs_le_of_sq_le_sq' hsq (by positivity)).2

theorem frsqOp_near (h : ieeeF32.decode a.toNat = .fin false m) (hd : 0 < m.den) (hm : 0 < m.num) :
    NearUlps 1 (1 / √(ratQ m : ℝ)) (frsqOp a) := by
  obtain ⟨hlo, hlow, hhigh⟩ := rsqrtInterval_bounds hm hd
  obtain ⟨e, hlog, he, he', hden, hden2, hhi⟩ := rsqrtInterval_place hm hd
  have hv : 0 < ratQ m := (num_pos hd).mp hm
  have hvr : (0 : ℝ) < ratQ m := by exact_mod_cast hv
  have hhi0 : 0 < ratQ (rsqrtInterval m).2 := by rw [hhi]; positivity
  have hlo' : (0 : ℝ) < ratQ (rsqrtInterval m).1 := by exact_mod_cast hlo
  have hhi' : (0 : ℝ) < ratQ (rsqrtInterval m).2 := by exact_mod_cast hhi0
  have hy : (ratQ (rsqrtInterval m).1 : ℝ) ≤ 1 / √(ratQ m : ℝ) := le_recip_sqrt hvr (by exact_mod_cast hlow)
  have hy' : 1 / √(ratQ m : ℝ) ≤ ratQ (rsqrtInterval m).2 := recip_sqrt_le hhi'.le hvr (by exact_mod_cast hhigh.le)
  have htop : e ≤ 74 := by
    obtain ⟨c, hc, hval⟩ := decode_fin_code h
    have hgrid : ratQ m = f32Grid c := hval
    have hmin := (f32_bounds (c := c) (fun h0 => hv.ne' (hgrid.trans h0)) hc).1
    rw [← hgrid] at hmin
    have hinv : 1 / ratQ m ≤ (2 : ℚ) ^ (149 : Int) := by
      rw [div_le_iff₀ hv]
      calc (1 : ℚ) = (2 : ℚ) ^ (149 : Int) * (2 : ℚ) ^ (-149 : Int) := by norm_num
        _ ≤ _ := mul_le_mul_of_nonneg_left hmin (zpow_pos two_pos _).le
    have := (zpow_le_zpow_iff_right₀ (one_lt_two (α := ℚ))).mp (hlog.trans hinv)
    omega
  have hpow : (2 : ℚ) ^ (e + 1) ≤ (2 : ℚ) ^ (127 : Int) := zpow_le_zpow_right₀ one_le_two (by omega)
  have h127 : (2 : ℚ) ^ (127 : Int) + (2 : ℚ) ^ (104 : Int) ≤ f32Grid 0x7F7FFFFF := by rw [f32Grid_max]; norm_num
  have hwide : (2 : ℚ) ^ (e - 200) ≤ (2 : ℚ) ^ (104 : Int) := zpow_le_zpow_right₀ one_le_two (by omega)
  have hnarrow : (2 : ℚ) ^ (e - 200) ≤ (2 : ℚ) ^ (max e (-126) - 23) := zpow_le_zpow_right₀ one_le_two (by omega)
  have hpos : (0 : ℚ) < (2 : ℚ) ^ (max e (-126) - 23) := zpow_pos two_pos _
  rw [frsqOp_fin h, if_neg hm.ne', if_neg Bool.false_ne_true]
  have hnum : 0 < (rsqrtInterval m).1.num := (num_pos hden).mpr hlo
  split
  case isTrue heqv =>
    rw [eqv_iff (den_mul (den_mul hden hden) hd) Nat.one_pos, ratQ_mul, ratQ_mul, ratQ_ofInt, Int.cast_one] at heqv
    have hroot : 1 / √(ratQ m : ℝ) = ratQ (rsqrtInterval m).1 :=
      le_antisymm (recip_sqrt_le hlo'.le hvr (by exact_mod_cast heqv.ge)) hy
    have hnear := nearUlps_approxRational 7 a false Nat.one_pos hnum hden
      (he'.trans_le (zpow_le_zpow_right₀ one_le_two (by omega)))
    rw [hroot]
    rwa [Nat.cast_one] at hnear
  case isFalse =>
    have hnear := nearUlps_approxPos 7 a false Nat.one_pos hnum hden hden2 he he' (by omega)
      (by rw [hhi, Nat.cast_one, one_mul]; linarith) (by rw [hhi, Nat.cast_one, one_mul]; linarith) hy hy'
    rwa [Nat.cast_one] at hnear

end

section
open Finset

/-! ### Fixed-point sums against their series (R114)

Each sum truncates its terms; what the truncations can add up to is far below the allowance `fixSlack`. -/

/-- One in fixed point. -/
def fixOne : ℝ := (2 : ℝ) ^ fixBits

theorem fixOne_pos : 0 < fixOne := by unfold fixOne; positivity

theorem fixOne_cast : ((2 ^ fixBits : Nat) : ℝ) = fixOne := by rw [Nat.cast_pow, Nat.cast_ofNat]; rfl

/-- A truncated quotient. -/
theorem natDiv_bounds (n d : Nat) : ((n / d : Nat) : ℝ) ≤ (n : ℝ) / d ∧ (n : ℝ) / d < (n / d : Nat) + 1 := by
  refine ⟨Nat.cast_div_le, ?_⟩
  rw [← Nat.floor_div_eq_div (K := ℝ)]
  exact Nat.lt_floor_add_one _

theorem fixMul_bounds (a b : Nat) : (fixMul a b : ℝ) ≤ a * b / fixOne ∧ a * b / fixOne < fixMul a b + 1 := by
  have h := natDiv_bounds (a * b) (2 ^ fixBits)
  rw [fixOne_cast, Nat.cast_mul] at h
  exact h

theorem fixMulDiv_bounds (a b k : Nat) :
    ((fixMul a b / k : Nat) : ℝ) ≤ a * b / fixOne / k ∧ a * b / fixOne / k < (fixMul a b / k : Nat) + 1 := by
  have h := natDiv_bounds (a * b) (2 ^ fixBits * k)
  rw [Nat.cast_mul (2 ^ fixBits), fixOne_cast, Nat.cast_mul, ← div_div] at h
  unfold fixMul
  rw [Nat.div_div_eq_div_mul]
  exact h

/-- The truncation of a scaled product: a term within δ of t, times a factor within ε of one no larger than one. -/
theorem truncated_product {T t X x δ ε : ℝ} (ht : 0 ≤ t) (hT : t ≤ T) (hδ : T - t ≤ δ) (ht1 : t ≤ fixOne) (hx : 0 ≤ x)
    (hX : x ≤ X * fixOne) (hε : X * fixOne - x ≤ ε) (hX1 : X ≤ 1) : t * x / fixOne ≤ T * X ∧ T * X - t * x / fixOne ≤ δ + ε := by
  have hS := fixOne_pos
  have hX0 : 0 ≤ X := nonneg_of_mul_nonneg_left (hx.trans hX) hS
  have hx' : x / fixOne ≤ X := (div_le_iff₀ hS).mpr hX
  have hsplit : T * X - t * x / fixOne = (T - t) * X + t / fixOne * (X * fixOne - x) := by field_simp; ring
  have h1 : (T - t) * X ≤ δ := (mul_le_of_le_one_right (sub_nonneg.mpr hT) hX1).trans hδ
  have h2 : t / fixOne * (X * fixOne - x) ≤ ε :=
    (mul_le_of_le_one_left (sub_nonneg.mpr hX) ((div_le_one hS).mpr ht1)).trans hε
  refine ⟨?_, by linarith⟩
  rw [mul_div_assoc]
  exact mul_le_mul hT hx' (by positivity) (ht.trans hT)

/-! #### The exponential -/

theorem expTerm_succ (X : ℝ) (j : Nat) : X ^ (j + 1) / (j + 1).factorial = X ^ j / j.factorial * X / (j + 1 : Nat) := by
  have h := Nat.factorial_ne_zero j
  rw [Nat.factorial_succ, Nat.cast_mul, pow_succ]
  field_simp

/-- The truncations of the exponential sum. -/
theorem expSum_error {x : Nat} (hx : (x : ℝ) ≤ fixOne) (n : Nat) : ∀ (j t : Nat) (δ : ℝ),
    (t : ℝ) ≤ fixOne * ((x / fixOne) ^ j / j.factorial) → fixOne * ((x / fixOne) ^ j / j.factorial) - t ≤ δ →
    (expSum n x (j + 1) t : ℝ) ≤ fixOne * ∑ i ∈ range n, (x / fixOne) ^ (j + i) / (j + i).factorial ∧
      fixOne * ∑ i ∈ range n, (x / fixOne) ^ (j + i) / (j + i).factorial - expSum n x (j + 1) t ≤ n * (δ + n) := by
  have hS := fixOne_pos
  induction n with
  | zero => intro j t δ _ _; simp [expSum]
  | succ n ih =>
    intro j t δ hlow herr
    obtain ⟨hfloor, hceil⟩ := fixMulDiv_bounds t x (j + 1)
    have hX : (x : ℝ) / fixOne ≤ 1 := (div_le_one hS).mpr hx
    have hX0 : 0 ≤ (x : ℝ) / fixOne := by positivity
    have hj : (1 : ℝ) ≤ (j + 1 : Nat) := by exact_mod_cast Nat.succ_pos j
    have hnext : fixOne * ((x / fixOne) ^ (j + 1) / (j + 1).factorial) =
        fixOne * ((x / fixOne) ^ j / j.factorial) * (x / fixOne) / (j + 1 : Nat) := by rw [expTerm_succ]; ring
    generalize hT : fixOne * ((x / fixOne) ^ j / j.factorial) = T at hlow herr hnext
    have hstep : T * (x / fixOne) / (j + 1 : Nat) - t * x / fixOne / (j + 1 : Nat) ≤ δ := by
      have hdiff : T * (x / fixOne) / (j + 1 : Nat) - t * x / fixOne / (j + 1 : Nat) = (T - t) * (x / fixOne) / (j + 1 : Nat) := by ring
      rw [hdiff]
      exact ((div_le_self (by have := sub_nonneg.mpr hlow; positivity) hj).trans
        (mul_le_of_le_one_right (sub_nonneg.mpr hlow) hX)).trans herr
    have hstep0 : t * x / fixOne / (j + 1 : Nat) ≤ T * (x / fixOne) / (j + 1 : Nat) := by
      rw [mul_div_assoc]
      gcongr
    obtain ⟨h1, h2⟩ := ih (j + 1) (fixMul t x / (j + 1)) (δ + 1) (by rw [hnext]; linarith) (by rw [hnext]; linarith)
    have hsum : ∑ i ∈ range (n + 1), ((x : ℝ) / fixOne) ^ (j + i) / (j + i).factorial =
        (∑ i ∈ range n, (x / fixOne) ^ (j + 1 + i) / (j + 1 + i).factorial) + (x / fixOne) ^ j / j.factorial := by
      rw [sum_range_succ']
      simp only [add_zero, add_assoc, add_comm 1]
    rw [hsum, mul_add, hT, expSum]
    push_cast
    constructor
    · linarith
    · linarith

end

section
open Finset

/-! #### The sine and the cosine -/

/-- The terms of the two series: a power over the factorial, of an odd or of an even exponent. -/
theorem trigTerm_succ (X : ℝ) (q : Nat) : X ^ (q + 2) / (q + 2).factorial =
    X ^ q / q.factorial * (X * X) / ((q + 1) * (q + 1 + 1) : Nat) := by
  rw [expTerm_succ, expTerm_succ]
  push_cast
  field_simp

theorem pow_div_factorial_le_one {X : ℝ} (h0 : 0 ≤ X) (h1 : X ≤ 1) (q : Nat) : X ^ q / q.factorial ≤ 1 :=
  div_le_one_of_le₀ ((pow_le_one₀ h0 h1).trans (by exact_mod_cast Nat.factorial_pos q)) (Nat.cast_nonneg _)

/-- The alternating sum of the terms from an exponent on. -/
noncomputable def trigSeries (n q : Nat) (X : ℝ) : ℝ := ∑ i ∈ range n, (-1) ^ i * (X ^ (q + 2 * i) / (q + 2 * i).factorial)

theorem trigSeries_succ (n q : Nat) (X : ℝ) : trigSeries (n + 1) q X = X ^ q / q.factorial - trigSeries n (q + 2) X := by
  unfold trigSeries
  rw [sum_range_succ', sub_eq_add_neg, ← sum_neg_distrib, add_comm]
  congr 1
  · simp
  · refine sum_congr rfl fun i _ => ?_
    rw [show q + 2 * (i + 1) = q + 2 + 2 * i by ring, pow_succ]
    ring

/-- The truncations of the sine's and the cosine's sum. -/
theorem trigSum_error {x : Nat} (hx : (x : ℝ) ≤ fixOne) (n : Nat) : ∀ (q t : Nat) (δ : ℝ) (neg : Bool),
    (t : ℝ) ≤ fixOne * ((x / fixOne) ^ q / q.factorial) → fixOne * ((x / fixOne) ^ q / q.factorial) - t ≤ δ →
    |(trigSum n (fixMul x x) (q + 1) t neg : ℝ) - signed neg (fixOne * trigSeries n q (x / fixOne))| ≤ n * (δ + 2 * n) := by
  have hS := fixOne_pos
  induction n with
  | zero => intro q t δ neg _ _; cases neg <;> simp [trigSum, trigSeries, signed]
  | succ n ih =>
    intro q t δ neg hlow herr
    have hX : (x : ℝ) / fixOne ≤ 1 := (div_le_one hS).mpr hx
    have hX0 : 0 ≤ (x : ℝ) / fixOne := by positivity
    have hk : (1 : ℝ) ≤ ((q + 1) * (q + 1 + 1) : Nat) := by exact_mod_cast Nat.succ_le_of_lt (by positivity)
    obtain ⟨hfloor, hceil⟩ := fixMulDiv_bounds t (fixMul x x) ((q + 1) * (q + 1 + 1))
    obtain ⟨hsq, hsq'⟩ := fixMul_bounds x x
    have hXX : (x : ℝ) * x / fixOne = x / fixOne * (x / fixOne) * fixOne := by field_simp
    rw [hXX] at hsq hsq'
    have ht1 : (t : ℝ) ≤ fixOne := hlow.trans (mul_le_of_le_one_right hS.le (pow_div_factorial_le_one hX0 hX q))
    have hnext : fixOne * ((x / fixOne) ^ (q + 2) / (q + 2).factorial) =
        fixOne * ((x / fixOne) ^ q / q.factorial) * (x / fixOne * (x / fixOne)) / ((q + 1) * (q + 1 + 1) : Nat) := by
      rw [trigTerm_succ]; ring
    rw [trigSeries_succ, mul_sub]
    generalize hT : fixOne * ((x / fixOne) ^ q / q.factorial) = T at hlow herr hnext
    obtain ⟨hprod, hprod'⟩ := truncated_product (Nat.cast_nonneg t) hlow herr ht1 (Nat.cast_nonneg _) hsq (ε := 1) (by linarith)
      (mul_le_one₀ hX hX0 hX)
    have hstep0 : t * (fixMul x x) / fixOne / ((q + 1) * (q + 1 + 1) : Nat) ≤ T * (x / fixOne * (x / fixOne)) / ((q + 1) * (q + 1 + 1) : Nat) :=
      div_le_div_of_nonneg_right hprod (by positivity)
    have hstep : T * (x / fixOne * (x / fixOne)) / ((q + 1) * (q + 1 + 1) : Nat) -
        t * (fixMul x x) / fixOne / ((q + 1) * (q + 1 + 1) : Nat) ≤ δ + 1 := by
      rw [← sub_div]
      exact (div_le_self (sub_nonneg.mpr hprod) hk).trans hprod'
    have hrec := ih (q + 2) (fixMul t (fixMul x x) / ((q + 1) * (q + 1 + 1))) (δ + 2) (!neg) (by rw [hnext]; linarith)
      (by rw [hnext]; linarith)
    rw [trigSum]
    generalize (trigSum n (fixMul x x) (q + 1 + 2) (fixMul t (fixMul x x) / ((q + 1) * (q + 1 + 1))) !neg) = R at hrec ⊢
    generalize fixOne * trigSeries n (q + 2) (x / fixOne) = V at hrec ⊢
    have hn : (0 : ℝ) ≤ n := Nat.cast_nonneg n
    push_cast
    rw [abs_le] at hrec ⊢
    cases neg with
    | false =>
      simp only [signed, Bool.not_false, if_true, if_false, Bool.false_eq_true] at hrec ⊢
      constructor <;> linarith
    | true =>
      simp only [signed, Bool.not_true, if_true, if_false, Bool.false_eq_true] at hrec ⊢
      constructor <;> linarith

end

section
open Finset

/-! #### The inverse hyperbolic tangent -/

/-- The sum of the terms from an exponent on. -/
noncomputable def atanhSeries (n j : Nat) (Z : ℝ) : ℝ := ∑ i ∈ range n, Z ^ (2 * (j + i) + 1) / (2 * (j + i : Nat) + 1)

theorem atanhSeries_succ (n j : Nat) (Z : ℝ) :
    atanhSeries (n + 1) j Z = Z ^ (2 * j + 1) / (2 * j + 1 : Nat) + atanhSeries n (j + 1) Z := by
  unfold atanhSeries
  rw [sum_range_succ', add_comm]
  congr 1
  · push_cast
    rw [add_zero, add_zero]
  · refine sum_congr rfl fun i _ => ?_
    rw [show j + 1 + i = j + (i + 1) by ring]

/-- The truncations of the sum of the inverse hyperbolic tangent. -/
theorem atanhSum_error {Z : ℝ} {z2 : Nat} (h0 : 0 ≤ Z) (h1 : Z ≤ 1) (hz : (z2 : ℝ) ≤ Z * Z * fixOne) (hz' : Z * Z * fixOne - z2 ≤ 3)
    (n : Nat) : ∀ (j t : Nat) (δ : ℝ), (t : ℝ) ≤ fixOne * Z ^ (2 * j + 1) → fixOne * Z ^ (2 * j + 1) - t ≤ δ →
    (atanhSum n z2 (2 * j + 1) t : ℝ) ≤ fixOne * atanhSeries n j Z ∧
      fixOne * atanhSeries n j Z - atanhSum n z2 (2 * j + 1) t ≤ n * (δ + 4 * n) := by
  have hS := fixOne_pos
  induction n with
  | zero => intro j t δ _ _; simp [atanhSum, atanhSeries]
  | succ n ih =>
    intro j t δ hlow herr
    have hk : (1 : ℝ) ≤ (2 * j + 1 : Nat) := by exact_mod_cast Nat.succ_pos _
    obtain ⟨hfloor, hceil⟩ := fixMul_bounds t z2
    obtain ⟨hdiv, hdiv'⟩ := natDiv_bounds t (2 * j + 1)
    have ht1 : (t : ℝ) ≤ fixOne := hlow.trans (mul_le_of_le_one_right hS.le (pow_le_one₀ h0 h1))
    have hnext : fixOne * Z ^ (2 * (j + 1) + 1) = fixOne * Z ^ (2 * j + 1) * (Z * Z) := by ring
    rw [atanhSeries_succ, mul_add, ← mul_div_assoc]
    generalize hT : fixOne * Z ^ (2 * j + 1) = T at hlow herr hnext
    obtain ⟨hprod, hprod'⟩ := truncated_product (Nat.cast_nonneg t) hlow herr ht1 (Nat.cast_nonneg z2) hz hz' (mul_le_one₀ h1 h0 h1)
    have hterm : (t : ℝ) / (2 * j + 1 : Nat) ≤ T / (2 * j + 1 : Nat) := div_le_div_of_nonneg_right hlow (by positivity)
    have hterm' : T / (2 * j + 1 : Nat) - t / (2 * j + 1 : Nat) ≤ δ := by
      rw [← sub_div]
      exact (div_le_self (sub_nonneg.mpr hlow) hk).trans herr
    obtain ⟨hr, hr'⟩ := ih (j + 1) (fixMul t z2) (δ + 4) (by rw [hnext]; linarith) (by rw [hnext]; linarith)
    have hn : (0 : ℝ) ≤ n := Nat.cast_nonneg n
    rw [atanhSum]
    push_cast at hdiv hdiv' hterm hterm' ⊢
    rw [show 2 * (j + 1) + 1 = 2 * j + 1 + 2 by ring] at hr hr'
    constructor <;> linarith

/-! ### The series against the functions -/

/-- Far more than the tails of the series leave out. -/
theorem factorial_120 : (fixOne * 2) ≤ (Nat.factorial 120 : ℝ) := by
  have h : 2 ^ 448 * 2 ≤ Nat.factorial 120 := by decide +kernel
  unfold fixOne fixBits
  exact_mod_cast h

theorem exp_sub_series {X : ℝ} (h0 : 0 ≤ X) (h1 : X ≤ 1) : ∑ i ∈ range 120, X ^ i / i.factorial ≤ Real.exp X ∧
    fixOne * (Real.exp X - ∑ i ∈ range 120, X ^ i / i.factorial) ≤ 1 := by
  refine ⟨Real.sum_le_exp_of_nonneg h0 120, ?_⟩
  have h := Real.exp_bound' h0 h1 (n := 120) (by norm_num)
  have hS := fixOne_pos
  have hfac := factorial_120
  have htail : X ^ 120 * ((120 : Nat) + 1) / ((Nat.factorial 120 : ℝ) * (120 : Nat)) ≤ 1 / fixOne := by
    rw [div_le_div_iff₀ (by positivity) hS]
    have hX : X ^ 120 ≤ 1 := pow_le_one₀ h0 h1
    have hX0 : 0 ≤ X ^ 120 := pow_nonneg h0 _
    push_cast
    nlinarith
  have hle : Real.exp X - ∑ i ∈ range 120, X ^ i / i.factorial ≤ 1 / fixOne := by linarith
  calc _ ≤ fixOne * (1 / fixOne) := mul_le_mul_of_nonneg_left hle hS.le
    _ = 1 := mul_one_div_cancel hS.ne'

/-- The powers of an imaginary number are the two series. -/
theorem exp_imaginary_series (X : ℝ) (n : Nat) : ∑ m ∈ range (2 * n), (X * Complex.I) ^ m / (m.factorial : ℂ) =
    (trigSeries n 0 X : ℂ) + (trigSeries n 1 X : ℂ) * Complex.I := by
  induction n with
  | zero => simp [trigSeries]
  | succ n ih =>
    have heven : (X * Complex.I) ^ (2 * n) = (-1) ^ n * (X : ℂ) ^ (2 * n) := by
      rw [mul_pow, pow_mul Complex.I, Complex.I_sq, mul_comm]
    rw [show 2 * (n + 1) = 2 * n + 1 + 1 by ring, sum_range_succ, sum_range_succ, ih, pow_succ (X * Complex.I), heven]
    unfold trigSeries
    rw [sum_range_succ, sum_range_succ, zero_add, add_comm 1 (2 * n), pow_succ X]
    push_cast
    ring

/-- The sine and the cosine of a number no larger than one. -/
theorem trigSeries_near {X : ℝ} (h0 : 0 ≤ X) (h1 : X ≤ 1) : fixOne * |trigSeries 60 0 X - Real.cos X| ≤ 1 ∧
    fixOne * |trigSeries 60 1 X - Real.sin X| ≤ 1 := by
  have hS := fixOne_pos
  have hnorm : ‖(X * Complex.I : ℂ)‖ = X := by rw [norm_mul, Complex.norm_I, mul_one, Complex.norm_of_nonneg h0]
  have h := Complex.exp_bound (x := X * Complex.I) (hnorm.trans_le h1) (n := 2 * 60) (by norm_num)
  rw [exp_imaginary_series, Complex.exp_mul_I, hnorm] at h
  have hfac := factorial_120
  have htail : X ^ (2 * 60) * (((2 * 60 : Nat).succ : ℝ) * ((Nat.factorial (2 * 60) : ℝ) * (2 * 60 : Nat))⁻¹) ≤ 1 / fixOne := by
    have hX : X ^ 120 ≤ 1 := pow_le_one₀ h0 h1
    have hX0 : 0 ≤ X ^ 120 := pow_nonneg h0 _
    rw [← div_eq_mul_inv, ← mul_div_assoc, div_le_div_iff₀ (by positivity) hS]
    push_cast
    nlinarith
  have hall := h.trans htail
  have hdiff : Complex.cos X + Complex.sin X * Complex.I - ((trigSeries 60 0 X : ℂ) + (trigSeries 60 1 X : ℂ) * Complex.I) =
      ((Real.cos X - trigSeries 60 0 X : ℝ) : ℂ) + ((Real.sin X - trigSeries 60 1 X : ℝ) : ℂ) * Complex.I := by
    push_cast
    ring
  rw [hdiff] at hall
  have hre := (Complex.abs_re_le_norm _).trans hall
  have him := (Complex.abs_im_le_norm _).trans hall
  simp only [Complex.add_re, Complex.add_im, Complex.ofReal_re, Complex.ofReal_im, Complex.mul_re, Complex.mul_im, Complex.I_re,
    Complex.I_im, mul_zero, mul_one, sub_zero, add_zero, zero_add] at hre him
  rw [abs_sub_comm] at hre him
  exact ⟨(le_div_iff₀' hS).mp hre, (le_div_iff₀' hS).mp him⟩

/-- The inverse hyperbolic tangent of a number no larger than a third. -/
theorem atanhSeries_near {Z : ℝ} (h0 : 0 ≤ Z) (h1 : Z ≤ 1 / 3) : atanhSeries 160 0 Z ≤ 1 / 2 * Real.log ((1 + Z) / (1 - Z)) ∧
    fixOne * (1 / 2 * Real.log ((1 + Z) / (1 - Z)) - atanhSeries 160 0 Z) ≤ 1 := by
  have hS := fixOne_pos
  have hseries : atanhSeries 160 0 Z = ∑ i ∈ range 160, Z ^ (2 * i + 1) / (2 * i + 1) := by
    unfold atanhSeries
    exact sum_congr rfl fun i _ => by rw [zero_add]
  have hlt : Z < 1 := h1.trans_lt (by norm_num)
  rw [hseries]
  refine ⟨Real.sum_range_le_log_div h0 hlt 160, ?_⟩
  have h := Real.log_div_le_sum_range_add h0 hlt 160
  have hpow : Z ^ (2 * 160 + 1) ≤ (1 / 3) ^ (2 * 160 + 1) := pow_le_pow_left₀ h0 h1 _
  have hsmall : fixOne * 2 * (1 / 3) ^ (2 * 160 + 1) ≤ 1 := by
    have hnat : 2 ^ 448 * 2 ≤ 3 ^ (2 * 160 + 1) := by decide +kernel
    have hreal : fixOne * 2 ≤ 3 ^ (2 * 160 + 1) := by
      unfold fixOne fixBits
      exact_mod_cast hnat
    rw [one_div, inv_pow, ← div_eq_mul_inv, div_le_one (by positivity)]
    exact hreal
  have htail : Z ^ (2 * 160 + 1) / (1 - Z ^ 2) ≤ 2 * (1 / 3) ^ (2 * 160 + 1) := by
    have hsq : Z ^ 2 ≤ 1 / 2 := by nlinarith
    have hp : (0 : ℝ) < (1 / 3) ^ (2 * 160 + 1) := by positivity
    rw [div_le_iff₀ (by linarith)]
    generalize ((1 : ℝ) / 3) ^ (2 * 160 + 1) = p at hpow hp ⊢
    generalize Z ^ (2 * 160 + 1) = w at hpow ⊢
    nlinarith
  calc _ ≤ fixOne * (Z ^ (2 * 160 + 1) / (1 - Z ^ 2)) := mul_le_mul_of_nonneg_left (by linarith) hS.le
    _ ≤ fixOne * (2 * (1 / 3) ^ (2 * 160 + 1)) := mul_le_mul_of_nonneg_left htail hS.le
    _ = fixOne * 2 * (1 / 3) ^ (2 * 160 + 1) := (mul_assoc _ _ _).symm
    _ ≤ 1 := hsmall

end

/-! ### The fixed-point functions and constants (R114) -/

theorem expSum_near {x : Nat} (hx : (x : ℝ) ≤ fixOne) :
    |(expSum 120 x 1 (2 ^ fixBits) : ℝ) - fixOne * Real.exp (x / fixOne)| ≤ 2 ^ 14 := by
  have hS := fixOne_pos
  have hT : fixOne * ((x / fixOne) ^ 0 / (Nat.factorial 0 : ℝ)) = (2 ^ fixBits : Nat) := by rw [fixOne_cast]; simp
  obtain ⟨hlow, hhigh⟩ := expSum_error hx 120 0 (2 ^ fixBits) 0 hT.ge (by rw [hT, sub_self])
  obtain ⟨hexp, hexp'⟩ := exp_sub_series (X := x / fixOne) (by positivity) ((div_le_one hS).mpr hx)
  have hexp0 := mul_le_mul_of_nonneg_left hexp hS.le
  simp only [zero_add] at hlow hhigh
  push_cast at hlow hhigh ⊢
  exact abs_le.mpr ⟨by linarith, by linarith⟩

theorem sinSum_near {x : Nat} (hx : (x : ℝ) ≤ fixOne) :
    |(trigSum 60 (fixMul x x) 2 x false : ℝ) - fixOne * Real.sin (x / fixOne)| ≤ 2 ^ 13 := by
  have hS := fixOne_pos
  have hT : fixOne * ((x / fixOne) ^ 1 / (Nat.factorial 1 : ℝ)) = x := by
    rw [pow_one, Nat.factorial_one, Nat.cast_one, div_one, mul_div_cancel₀ _ hS.ne']
  have herr := trigSum_error hx 60 1 x 0 false hT.ge (by rw [hT, sub_self])
  obtain ⟨-, hser⟩ := trigSeries_near (X := x / fixOne) (by positivity) ((div_le_one hS).mpr hx)
  have hser' : |fixOne * trigSeries 60 1 (x / fixOne) - fixOne * Real.sin (x / fixOne)| ≤ 1 := by
    rwa [← mul_sub, abs_mul, abs_of_pos hS]
  have h := (abs_sub_le _ _ _).trans (add_le_add herr hser')
  exact h.trans (by norm_num)

theorem cosSum_near {x : Nat} (hx : (x : ℝ) ≤ fixOne) :
    |(trigSum 60 (fixMul x x) 1 (2 ^ fixBits) false : ℝ) - fixOne * Real.cos (x / fixOne)| ≤ 2 ^ 13 := by
  have hS := fixOne_pos
  have hT : fixOne * ((x / fixOne) ^ 0 / (Nat.factorial 0 : ℝ)) = (2 ^ fixBits : Nat) := by rw [fixOne_cast]; simp
  have herr := trigSum_error hx 60 0 (2 ^ fixBits) 0 false hT.ge (by rw [hT, sub_self])
  obtain ⟨hser, -⟩ := trigSeries_near (X := x / fixOne) (by positivity) ((div_le_one hS).mpr hx)
  have hser' : |fixOne * trigSeries 60 0 (x / fixOne) - fixOne * Real.cos (x / fixOne)| ≤ 1 := by
    rwa [← mul_sub, abs_mul, abs_of_pos hS]
  have h := (abs_sub_le _ _ _).trans (add_le_add herr hser')
  exact h.trans (by norm_num)

theorem atanhSum_near {Z : ℝ} {z : Nat} (h0 : 0 ≤ Z) (h1 : Z ≤ 1 / 3) (hz : (z : ℝ) ≤ Z * fixOne) (hz' : Z * fixOne - z ≤ 1) :
    |(atanhSum 160 (fixMul z z) 1 z : ℝ) - fixOne * (1 / 2 * Real.log ((1 + Z) / (1 - Z)))| ≤ 2 ^ 17 := by
  have hS := fixOne_pos
  have hone : Z ≤ 1 := h1.trans (by norm_num)
  obtain ⟨hsq, hsq'⟩ := fixMul_bounds z z
  have hz1 : (z : ℝ) ≤ fixOne := hz.trans (mul_le_of_le_one_left hS.le hone)
  obtain ⟨hprod, hprod'⟩ := truncated_product (Nat.cast_nonneg z) hz hz' hz1 (Nat.cast_nonneg z) hz hz' hone
  have hcomm : Z * fixOne * Z = Z * Z * fixOne := by ring
  rw [hcomm] at hprod hprod'
  obtain ⟨hlow, hhigh⟩ := atanhSum_error h0 hone (hsq.trans hprod) (by linarith) 160 0 z 1
    (by rw [Nat.mul_zero, zero_add, pow_one, mul_comm]; exact hz) (by rw [Nat.mul_zero, zero_add, pow_one, mul_comm]; exact hz')
  obtain ⟨hser, hser'⟩ := atanhSeries_near h0 h1
  have hser0 := mul_le_mul_of_nonneg_left hser hS.le
  simp only [Nat.mul_zero, zero_add] at hlow hhigh
  push_cast at hhigh
  rw [mul_sub] at hser'
  exact abs_le.mpr ⟨by linarith, by linarith⟩

/-- The logarithm of two is good to its last twenty bits. -/
theorem fixLn2_near : |(fixLn2 : ℝ) - fixOne * Real.log 2| ≤ 2 ^ 19 := by
  have hdiv := natDiv_bounds (2 ^ fixBits) 3
  rw [fixOne_cast] at hdiv
  push_cast at hdiv
  have hnear := atanhSum_near (Z := 1 / 3) (z := 2 ^ fixBits / 3) (by norm_num) le_rfl (by linarith) (by linarith)
  rw [show ((1 : ℝ) + 1 / 3) / (1 - 1 / 3) = 2 by norm_num] at hnear
  have hval : (2 * atanhSum 160 (fixMul (2 ^ fixBits / 3) (2 ^ fixBits / 3)) 1 (2 ^ fixBits / 3) ≤ fixLn2 + 2 ^ 17) ∧
      fixLn2 ≤ 2 * atanhSum 160 (fixMul (2 ^ fixBits / 3) (2 ^ fixBits / 3)) 1 (2 ^ fixBits / 3) + 2 ^ 17 := by decide +kernel
  generalize atanhSum 160 (fixMul (2 ^ fixBits / 3) (2 ^ fixBits / 3)) 1 (2 ^ fixBits / 3) = A at hnear hval
  have h1 : (2 * A : ℝ) ≤ fixLn2 + 2 ^ 17 := by exact_mod_cast hval.1
  have h2 : (fixLn2 : ℝ) ≤ 2 * A + 2 ^ 17 := by exact_mod_cast hval.2
  rw [abs_le] at hnear ⊢
  constructor <;> linarith

theorem half_pow_succ (n : Nat) : (2 : ℝ) ^ (n + 1) * (1 / 2) = 2 ^ n := by
  rw [pow_succ, mul_assoc, mul_one_div_cancel two_ne_zero, mul_one]

/-- A number whose sixths, a little less and a little more, have sines on either side of a half, is near π. -/
theorem near_pi {p u w : Nat} {H : Int} (hH : (H : ℝ) = fixOne * (1 / 2)) (hw : (w : ℝ) ≤ fixOne) (hle : (u : ℝ) ≤ w)
    (hu : trigSum 60 (fixMul u u) 2 u false + 2 ^ 14 < H) (hw' : H + 2 ^ 14 < trigSum 60 (fixMul w w) 2 w false)
    (hp : p ≤ 6 * u + 2 ^ 24) (hp' : 6 * w ≤ p + 2 ^ 24) : |(p : ℝ) - fixOne * Real.pi| ≤ 2 ^ 24 := by
  have hS := fixOne_pos
  have hlow := sinSum_near (hle.trans hw)
  have hhigh := sinSum_near hw
  generalize trigSum 60 (fixMul u u) 2 u false = N at hlow hu
  generalize trigSum 60 (fixMul w w) 2 w false = M at hhigh hw'
  have hN : (N : ℝ) + 2 ^ 14 < fixOne * (1 / 2) := by rw [← hH]; exact_mod_cast hu
  have hM : fixOne * (1 / 2) + 2 ^ 14 < M := by rw [← hH]; exact_mod_cast hw'
  have hgt3 := Real.pi_gt_three
  have hu1 : (u : ℝ) / fixOne ≤ 1 := (div_le_one hS).mpr (hle.trans hw)
  have hw0 : 0 ≤ (w : ℝ) / fixOne := div_nonneg (Nat.cast_nonneg w) hS.le
  rw [abs_le] at hlow hhigh
  have hsinu : Real.sin (u / fixOne) < 1 / 2 := (mul_lt_mul_iff_right₀ hS).mp (by linarith)
  have hsinw : 1 / 2 < Real.sin (w / fixOne) := (mul_lt_mul_iff_right₀ hS).mp (by linarith)
  have hult : (u : ℝ) / fixOne < Real.pi / 6 := by
    refine not_le.mp fun h => absurd (Real.sin_le_sin_of_le_of_le_pi_div_two (by linarith) (by linarith) h) (not_le.mpr ?_)
    rwa [Real.sin_pi_div_six]
  have hltw : Real.pi / 6 < (w : ℝ) / fixOne := by
    refine not_le.mp fun h => absurd (Real.sin_le_sin_of_le_of_le_pi_div_two (by linarith) (by linarith) h) (not_le.mpr ?_)
    rwa [Real.sin_pi_div_six]
  rw [div_lt_iff₀ hS] at hult
  rw [lt_div_iff₀ hS] at hltw
  have hm1 : (p : ℝ) ≤ 6 * u + 2 ^ 24 := by exact_mod_cast hp
  have hm2 : (6 * w : ℝ) ≤ p + 2 ^ 24 := by exact_mod_cast hp'
  exact abs_le.mpr ⟨by linarith, by linarith⟩

/-- The number π is good to its last twenty-four bits. -/
theorem fixPi_near : |(fixPi : ℝ) - fixOne * Real.pi| ≤ 2 ^ 24 := by
  have hbound : fixPi / 6 + 2 ^ 20 ≤ 2 ^ fixBits := by decide +kernel
  have hboundR : ((fixPi / 6 + 2 ^ 20 : Nat) : ℝ) ≤ fixOne := fixOne_cast ▸ Nat.cast_le.mpr hbound
  have hle : ((fixPi / 6 - 2 ^ 20 : Nat) : ℝ) ≤ (fixPi / 6 + 2 ^ 20 : Nat) :=
    Nat.cast_le.mpr ((Nat.sub_le _ _).trans (Nat.le_add_right _ _))
  have hhalf : ((2 ^ 447 : Int) : ℝ) = fixOne * (1 / 2) := by
    rw [Int.cast_pow, Int.cast_ofNat]
    exact (half_pow_succ 447).symm
  exact near_pi hhalf hboundR hle (by decide +kernel) (by decide +kernel) (by decide +kernel) (by decide +kernel)

/-! ### Fixed-point values of the reduced functions (R114) -/

/-- A fixed-point value of a number, well inside the allowance. -/
def FixNear (x : Nat) (y : ℝ) : Prop := |(x : ℝ) - fixOne * y| ≤ 2 ^ 39

/-- The fixed point is far finer than the errors of the sums. -/
theorem fixOne_ge : (2 : ℝ) ^ 60 ≤ fixOne := pow_le_pow_right₀ one_le_two (by decide)

section
variable {q : Q}

theorem fixOfQ_bounds (hd : 0 < q.den) (hq : 0 ≤ ratQ q) : (fixOfQ q : ℝ) ≤ ratQ q * fixOne ∧ ratQ q * fixOne < fixOfQ q + 1 := by
  have h := natDiv_bounds (q.num.toNat * 2 ^ fixBits) q.den
  have hnum : ((q.num.toNat : Nat) : ℝ) = q.num := by
    have := Int.toNat_of_nonneg ((num_nonneg hd).mpr hq)
    exact_mod_cast this
  have hval : (q.num.toNat * 2 ^ fixBits : Nat) / (q.den : ℝ) = ratQ q * fixOne := by
    rw [Nat.cast_mul, fixOne_cast, hnum, ratQ]
    push_cast
    ring
  rw [hval] at h
  exact h

/-- A reduced argument times a constant. -/
theorem fixArg_near {c : Nat} {κ : ℝ} (hd : 0 < q.den) (hq : 0 ≤ ratQ q) (hq1 : ratQ q ≤ 1) (hκ : 0 ≤ κ) (hκ4 : κ ≤ 4)
    (hc : |(c : ℝ) - fixOne * κ| ≤ 2 ^ 24) : |(fixMul (fixOfQ q) c : ℝ) - fixOne * (ratQ q * κ)| ≤ 2 ^ 25 := by
  have hS := fixOne_pos
  obtain ⟨hf, hf'⟩ := fixOfQ_bounds hd hq
  obtain ⟨hm, hm'⟩ := fixMul_bounds (fixOfQ q) c
  have hq1' : (ratQ q : ℝ) ≤ 1 := by exact_mod_cast hq1
  have hfS : (fixOfQ q : ℝ) / fixOne ≤ 1 := (div_le_one hS).mpr (hf.trans (mul_le_of_le_one_left hS.le hq1'))
  have hf0 : 0 ≤ (fixOfQ q : ℝ) / fixOne := by positivity
  have hsplit : (fixOfQ q : ℝ) * c / fixOne - fixOne * (ratQ q * κ) =
      fixOfQ q / fixOne * (c - fixOne * κ) + κ * (fixOfQ q - ratQ q * fixOne) := by field_simp; ring
  have h1 : |(fixOfQ q : ℝ) / fixOne * (c - fixOne * κ)| ≤ 2 ^ 24 := by
    rw [abs_mul, abs_of_nonneg hf0]
    exact (mul_le_of_le_one_left (abs_nonneg _) hfS).trans hc
  have h2 : |κ * (fixOfQ q - ratQ q * fixOne)| ≤ 4 := by
    rw [abs_mul, abs_of_nonneg hκ]
    calc κ * |(fixOfQ q : ℝ) - ratQ q * fixOne| ≤ κ * 1 :=
          mul_le_mul_of_nonneg_left (abs_le.mpr ⟨by linarith, by linarith⟩) hκ
      _ ≤ 4 := by linarith
  rw [abs_le] at h1 h2 ⊢
  constructor <;> linarith

/-- Two to a fraction. -/
theorem exp2Frac_near (hd : 0 < q.den) (hq : 0 ≤ ratQ q) (hq1 : ratQ q < 1) :
    ∃ N, exp2Frac q = fixInterval N ∧ FixNear N ((2 : ℝ) ^ (ratQ q : ℝ)) := by
  have hS := fixOne_pos
  have hS60 := fixOne_ge
  have hlog := Real.log_two_lt_d9
  have hlog0 := (Real.log_pos one_lt_two).le
  have harg := fixArg_near (c := fixLn2) hd hq hq1.le hlog0 (by linarith) (fixLn2_near.trans (by norm_num))
  have hq0 : (0 : ℝ) ≤ ratQ q := by exact_mod_cast hq
  have hq1' : (ratQ q : ℝ) ≤ 1 := by exact_mod_cast hq1.le
  refine ⟨_, rfl, ?_⟩
  generalize fixMul (fixOfQ q) fixLn2 = x at harg ⊢
  have hmul : (ratQ q : ℝ) * Real.log 2 ≤ 0.7 := (mul_le_of_le_one_left hlog0 hq1').trans (by linarith)
  have hmulS := mul_le_mul_of_nonneg_left hmul hS.le
  rw [abs_le] at harg
  have hx : (x : ℝ) ≤ fixOne := by linarith
  have hpow : (2 : ℝ) ^ (ratQ q : ℝ) = Real.exp (ratQ q * Real.log 2) := by rw [mul_comm, Real.rpow_def_of_pos two_pos]
  have hpow2 : (2 : ℝ) ^ (ratQ q : ℝ) ≤ 2 := (Real.rpow_le_rpow_of_exponent_le one_le_two hq1').trans (Real.rpow_one 2).le
  have hdiff : |(x : ℝ) / fixOne - ratQ q * Real.log 2| ≤ 2 ^ 25 / fixOne := by
    rw [le_div_iff₀ hS, ← abs_of_pos hS, ← abs_mul, abs_of_pos hS, sub_mul, div_mul_cancel₀ _ hS.ne', abs_le]
    constructor <;> linarith
  have hsmall : (2 : ℝ) ^ 25 / fixOne ≤ 1 := (div_le_one hS).mpr (by linarith)
  have hexp := Real.abs_exp_sub_one_le (hdiff.trans hsmall)
  have hlip : |fixOne * Real.exp (x / fixOne) - fixOne * (2 : ℝ) ^ (ratQ q : ℝ)| ≤ 2 ^ 27 := by
    have hfactor : fixOne * Real.exp (x / fixOne) - fixOne * (2 : ℝ) ^ (ratQ q : ℝ) =
        fixOne * (2 : ℝ) ^ (ratQ q : ℝ) * (Real.exp (x / fixOne - ratQ q * Real.log 2) - 1) := by
      rw [Real.exp_sub, ← hpow]
      have := (Real.rpow_pos_of_pos two_pos (ratQ q : ℝ)).ne'
      field_simp
    rw [hfactor, abs_mul, abs_of_pos (by positivity)]
    calc fixOne * (2 : ℝ) ^ (ratQ q : ℝ) * |Real.exp (x / fixOne - ratQ q * Real.log 2) - 1|
        ≤ fixOne * 2 * (2 * (2 ^ 25 / fixOne)) := by
          gcongr
          exact hexp.trans (by linarith)
      _ = 2 ^ 27 := by field_simp
  exact ((abs_sub_le _ _ _).trans (add_le_add (expSum_near hx) hlip)).trans (by norm_num)

/-- An argument no larger than a quarter of a half-turn. -/
theorem quarter_near (hd : 0 < q.den) (hq : 0 ≤ ratQ q) (hq1 : ratQ q ≤ 1 / 4) :
    (fixMul (fixOfQ q) fixPi : ℝ) ≤ fixOne ∧ fixOne * |(fixMul (fixOfQ q) fixPi : ℝ) / fixOne - Real.pi * ratQ q| ≤ 2 ^ 25 := by
  have hS := fixOne_pos
  have hS60 := fixOne_ge
  have hpi := Real.pi_lt_d2
  have hpi0 := Real.pi_pos.le
  have harg := fixArg_near (c := fixPi) hd hq (hq1.trans (by norm_num)) hpi0 (by linarith) fixPi_near
  have hq1' : (ratQ q : ℝ) ≤ 1 / 4 := by
    have := (Rat.cast_le (K := ℝ)).mpr hq1
    push_cast at this
    exact this
  generalize fixMul (fixOfQ q) fixPi = x at harg ⊢
  have hmul : (ratQ q : ℝ) * Real.pi ≤ 0.8 := (mul_le_mul_of_nonneg_right hq1' hpi0).trans (by linarith)
  have hmulS := mul_le_mul_of_nonneg_left hmul hS.le
  constructor
  · rw [abs_le] at harg
    linarith
  · rw [← abs_of_pos hS, ← abs_mul, abs_of_pos hS, mul_sub, mul_div_cancel₀ _ hS.ne', mul_comm Real.pi]
    exact harg

/-- Cutting a value off at zero brings it no further from a number that is not negative. -/
theorem toNat_near {t : Int} {y ε : ℝ} (hy : 0 ≤ y) (h : |(t : ℝ) - y| ≤ ε) : |(t.toNat : ℝ) - y| ≤ ε := by
  rcases le_total 0 t with ht | ht
  · have hcast : ((t.toNat : Nat) : ℝ) = t := by exact_mod_cast Int.toNat_of_nonneg ht
    rwa [hcast]
  · rw [Int.toNat_of_nonpos ht, Nat.cast_zero, zero_sub, abs_neg, abs_of_nonneg hy]
    have ht' : (t : ℝ) ≤ 0 := by exact_mod_cast ht
    rw [abs_le] at h
    linarith

theorem sinSmall_near (hd : 0 < q.den) (hq : 0 ≤ ratQ q) (hq1 : ratQ q ≤ 1 / 4) :
    ∃ N, sinSmall q = fixInterval N ∧ FixNear N (Real.sin (Real.pi * ratQ q)) := by
  have hS := fixOne_pos
  obtain ⟨hx, harg⟩ := quarter_near hd hq hq1
  have hsin0 : 0 ≤ Real.sin (Real.pi * ratQ q) := by
    have hq0 : (0 : ℝ) ≤ ratQ q := by exact_mod_cast hq
    have hq1' : (ratQ q : ℝ) ≤ 1 := by exact_mod_cast hq1.trans (by norm_num)
    exact Real.sin_nonneg_of_nonneg_of_le_pi (by positivity) (mul_le_of_le_one_right Real.pi_pos.le hq1')
  refine ⟨_, rfl, toNat_near (mul_nonneg hS.le hsin0) ?_⟩
  generalize fixMul (fixOfQ q) fixPi = x at hx harg ⊢
  have hlip : |fixOne * Real.sin (x / fixOne) - fixOne * Real.sin (Real.pi * ratQ q)| ≤ 2 ^ 25 := by
    rw [← mul_sub, abs_mul, abs_of_pos hS]
    exact (mul_le_mul_of_nonneg_left (Real.abs_sin_sub_sin_le _ _) hS.le).trans harg
  exact ((abs_sub_le _ _ _).trans (add_le_add (sinSum_near hx) hlip)).trans (by norm_num)

theorem cosSmall_near (hd : 0 < q.den) (hq : 0 ≤ ratQ q) (hq1 : ratQ q ≤ 1 / 4) :
    ∃ N, cosSmall q = fixInterval N ∧ FixNear N (Real.cos (Real.pi * ratQ q)) := by
  have hS := fixOne_pos
  obtain ⟨hx, harg⟩ := quarter_near hd hq hq1
  have hcos0 : 0 ≤ Real.cos (Real.pi * ratQ q) := by
    have hq0 : (0 : ℝ) ≤ ratQ q := by exact_mod_cast hq
    have hq1' : (ratQ q : ℝ) ≤ 1 / 2 := by
      have := (Rat.cast_le (K := ℝ)).mpr (hq1.trans (by norm_num : (1 / 4 : ℚ) ≤ 1 / 2))
      push_cast at this
      exact this
    have hpi := Real.pi_pos
    exact Real.cos_nonneg_of_neg_pi_div_two_le_of_le (by nlinarith) (by nlinarith)
  refine ⟨_, rfl, toNat_near (mul_nonneg hS.le hcos0) ?_⟩
  generalize fixMul (fixOfQ q) fixPi = x at hx harg ⊢
  have hlip : |fixOne * Real.cos (x / fixOne) - fixOne * Real.cos (Real.pi * ratQ q)| ≤ 2 ^ 25 := by
    rw [← mul_sub, abs_mul, abs_of_pos hS]
    exact (mul_le_mul_of_nonneg_left (Real.abs_cos_sub_cos_le _ _) hS.le).trans harg
  exact ((abs_sub_le _ _ _).trans (add_le_add (cosSum_near hx) hlip)).trans (by norm_num)

/-- The sine of a fraction of a half-turn up to a half. -/
theorem sinHalf_near (hd : 0 < q.den) (hq : 0 ≤ ratQ q) (hq1 : ratQ q ≤ 1 / 2) :
    ∃ N, sinHalf q = fixInterval N ∧ FixNear N (Real.sin (Real.pi * ratQ q)) := by
  have hquarter : ratQ ⟨1, 4⟩ = 1 / 4 := by norm_num [ratQ]
  have hhalf : ratQ ⟨1, 2⟩ = 1 / 2 := by norm_num [ratQ]
  unfold sinHalf
  split
  case isTrue h =>
    rw [le_iff hd (by norm_num), hquarter] at h
    exact sinSmall_near hd hq h
  case isFalse h =>
    rw [le_iff hd (by norm_num), hquarter, not_le] at h
    have hval : ratQ ((⟨1, 2⟩ : Q).sub q) = 1 / 2 - ratQ q := by rw [ratQ_sub Nat.two_pos hd, hhalf]
    obtain ⟨N, hN, hnear⟩ := cosSmall_near (q := (⟨1, 2⟩ : Q).sub q) (den_sub Nat.two_pos hd) (by rw [hval]; linarith)
      (by rw [hval]; linarith)
    refine ⟨N, hN, ?_⟩
    have hcos : Real.cos (Real.pi * (ratQ ((⟨1, 2⟩ : Q).sub q) : ℚ)) = Real.sin (Real.pi * ratQ q) := by
      rw [hval, ← Real.cos_pi_div_two_sub]
      congr 1
      push_cast
      ring
    rwa [hcos] at hnear

end

/-! ### The binary logarithm in fixed point (R114) -/

/-- A quotient of two values near their fixed points. -/
theorem log_quotient {S A L q lam ell : ℝ} (hS : (2 : ℝ) ^ 60 ≤ S) (hA : |A - S * (1 / 2 * lam)| ≤ 2 ^ 17) (hL : |L - S * ell| ≤ 2 ^ 19)
    (hell : 1 / 2 ≤ ell) (hell1 : ell ≤ 1) (hlam : lam ≤ ell) (hq0 : 0 ≤ q) (hq : q ≤ 2 * A * S / L) (hq' : 2 * A * S / L < q + 1) :
    |q - S * (lam / ell)| ≤ 2 ^ 39 := by
  have hell0 : 0 < ell := by linarith
  have hSpos : 0 < S := by linarith
  rw [abs_le] at hA hL
  have hSell : S * (1 / 2) ≤ S * ell := mul_le_mul_of_nonneg_left hell hSpos.le
  have hSell1 : S * ell ≤ S := mul_le_of_le_one_right hSpos.le hell1
  have hSlam : S * lam ≤ S * ell := mul_le_mul_of_nonneg_left hlam hSpos.le
  have hLpos : 0 < L := by linarith
  rw [le_div_iff₀ hLpos] at hq
  rw [div_lt_iff₀ hLpos] at hq'
  have hAL : 2 * A ≤ 2 * L := by linarith
  have hqS : q ≤ 2 * S := by
    have h : q * L ≤ 2 * S * L := hq.trans (by nlinarith)
    exact le_of_mul_le_mul_right h hLpos
  have hρ : S * (lam / ell) * ell = S * lam := by field_simp
  have hqL : q * (S * ell) - 2 ^ 20 * S ≤ q * L := by nlinarith
  have hqL' : q * L ≤ q * (S * ell) + 2 ^ 20 * S := by nlinarith
  have hAS : 2 * A * S ≤ (S * lam + 2 ^ 18) * S := mul_le_mul_of_nonneg_right (by linarith) hSpos.le
  have hAS' : (S * lam - 2 ^ 18) * S ≤ 2 * A * S := mul_le_mul_of_nonneg_right (by linarith) hSpos.le
  have hup : (q * ell) * S ≤ (S * lam + 2 ^ 18 + 2 ^ 20) * S := by linarith
  have hdown : (S * lam - 2 ^ 18) * S ≤ (q * ell + 2 ^ 20 + 2) * S := by linarith
  have hup' := le_of_mul_le_mul_right hup hSpos
  have hdown' := le_of_mul_le_mul_right hdown hSpos
  rw [← hρ] at hup' hdown'
  generalize S * (lam / ell) = ρ at hup' hdown'
  rw [abs_le]
  constructor
  · nlinarith
  · nlinarith

section
variable {m : Q}

theorem log2Frac_near (hd : 0 < m.den) (h1 : 1 ≤ ratQ m) (h2 : ratQ m < 2) : FixNear (log2Frac m) (Real.logb 2 (ratQ m)) := by
  have hadd : 0 < (m.add (Q.ofInt 1)).num := by
    rw [num_pos (den_add hd Nat.one_pos), ratQ_add hd Nat.one_pos, ratQ_ofInt]
    push_cast
    linarith
  have hdz : 0 < ((m.sub (Q.ofInt 1)).div (m.add (Q.ofInt 1))).den := den_div (den_sub hd Nat.one_pos) hadd.ne'
  have hz : ratQ ((m.sub (Q.ofInt 1)).div (m.add (Q.ofInt 1))) = (ratQ m - 1) / (ratQ m + 1) := by
    rw [ratQ_div, ratQ_sub hd Nat.one_pos, ratQ_add hd Nat.one_pos, ratQ_ofInt, Int.cast_one]
  unfold FixNear log2Frac
  generalize (m.sub (Q.ofInt 1)).div (m.add (Q.ofInt 1)) = w at hdz hz ⊢
  have hz0 : 0 ≤ (ratQ m - 1) / (ratQ m + 1) := div_nonneg (by linarith) (by linarith)
  have hz1 : (ratQ m - 1) / (ratQ m + 1) ≤ 1 / 3 := by
    rw [div_le_div_iff₀ (by linarith) (by norm_num)]
    linarith
  obtain ⟨hf, hf'⟩ := fixOfQ_bounds hdz (by rw [hz]; exact hz0)
  rw [hz] at hf hf'
  have hz0' : (0 : ℝ) ≤ ((ratQ m - 1) / (ratQ m + 1) : ℚ) := by exact_mod_cast hz0
  have hz1' : (((ratQ m - 1) / (ratQ m + 1) : ℚ) : ℝ) ≤ 1 / 3 := by
    have := (Rat.cast_le (K := ℝ)).mpr hz1
    rwa [Rat.cast_div 1 3, Rat.cast_one, Rat.cast_ofNat] at this
  have hnear := atanhSum_near hz0' hz1' hf (by linarith)
  have hv1 : (1 : ℝ) ≤ ratQ m := by exact_mod_cast h1
  have hv2 : (ratQ m : ℝ) < 2 := by exact_mod_cast h2
  have hratio : (1 + (((ratQ m - 1) / (ratQ m + 1) : ℚ) : ℝ)) / (1 - (((ratQ m - 1) / (ratQ m + 1) : ℚ) : ℝ)) = ratQ m := by
    push_cast
    have : (ratQ m : ℝ) + 1 ≠ 0 := by linarith
    field_simp
    ring
  rw [hratio] at hnear
  have hdiv := natDiv_bounds (2 * atanhSum 160 (fixMul (fixOfQ w) (fixOfQ w)) 1 (fixOfQ w) * 2 ^ fixBits) fixLn2
  have hlog := Real.log_two_gt_d9
  have hlog1 := Real.log_two_lt_d9
  have hlam : Real.log (ratQ m) ≤ Real.log 2 := Real.log_le_log (by linarith) hv2.le
  rw [Nat.cast_mul, fixOne_cast, Nat.cast_mul, Nat.cast_ofNat] at hdiv
  exact log_quotient fixOne_ge hnear fixLn2_near (by linarith) (by linarith) hlam (Nat.cast_nonneg _) hdiv.1 hdiv.2

end

/-! ### Narrow intervals -/

section
variable {i : Q × Q} {y : ℝ}

/-- A value in an interval narrower than any unit of the last place. -/
theorem nearUlps_narrow (op : Nat) (arg : Word) (neg : Bool) (hd : 0 < i.1.den) (hd2 : 0 < i.2.den) (hlo : 0 < ratQ i.1)
    (hwidth : ratQ i.2 - ratQ i.1 ≤ (2 : ℚ) ^ (-149 : Int)) (htop : ratQ i.1 < (2 : ℚ) ^ (128 : Int)) (hy : (ratQ i.1 : ℝ) ≤ y)
    (hy' : y ≤ ratQ i.2) : NearUlps 2 (signed neg y) (withSign neg (approxPos op arg 2 i)) := by
  have hnum : 0 < i.1.num := (num_pos hd).mpr hlo
  obtain ⟨e, he, he'⟩ := exists_exponent hnum hd
  have hlt : e < 128 := (zpow_lt_zpow_iff_right₀ (one_lt_two (α := ℚ))).mp (he.trans_lt htop)
  have hunit : (2 : ℚ) ^ (-149 : Int) ≤ (2 : ℚ) ^ (max e (-126) - 23) := zpow_le_zpow_right₀ one_le_two (by omega)
  have hunit0 : (0 : ℚ) < (2 : ℚ) ^ (max e (-126) - 23) := zpow_pos two_pos _
  have hmax := sub_off_le_max Nat.one_pos he' (by omega)
  rw [Nat.cast_one, one_mul] at hmax
  have hnear := nearUlps_approxPos op arg neg two_pos hnum hd hd2 he he' (by omega)
    (by push_cast; linarith) (by push_cast; linarith) hy hy'
  rwa [Nat.cast_ofNat] at hnear

/-- The interval around a fixed-point value holds the number. -/
theorem fixInterval_spec {N : Nat} (h : FixNear N y) (hy : (2 : ℝ) ^ (-149 : Int) ≤ y) :
    0 < ratQ (fixInterval N).1 ∧ ratQ (fixInterval N).2 - ratQ (fixInterval N).1 ≤ (2 : ℚ) ^ (-400 : Int) ∧
      (ratQ (fixInterval N).1 : ℝ) ≤ y ∧ y ≤ ratQ (fixInterval N).2 := by
  have hS := fixOne_pos
  have hbig : (2 : ℝ) ^ 60 ≤ fixOne * y := by
    have hprod : fixOne * (2 : ℝ) ^ (-149 : Int) = (2 : ℝ) ^ (299 : Int) := by
      unfold fixOne
      rw [← zpow_natCast, ← zpow_add₀ two_ne_zero]
      rfl
    calc (2 : ℝ) ^ 60 = (2 : ℝ) ^ (60 : Int) := rfl
      _ ≤ (2 : ℝ) ^ (299 : Int) := zpow_le_zpow_right₀ one_le_two (by norm_num)
      _ = fixOne * (2 : ℝ) ^ (-149 : Int) := hprod.symm
      _ ≤ _ := mul_le_mul_of_nonneg_left hy hS.le
  unfold FixNear at h
  rw [abs_le] at h
  have hN : fixSlack < N := by
    have hreal : ((2 : ℝ) ^ 40) < N := by linarith
    unfold fixSlack
    exact_mod_cast hreal
  have hslack : ((fixSlack : Nat) : ℝ) = 2 ^ 40 := by unfold fixSlack; norm_num
  have hlow : ratQ (fixInterval N).1 = ((N - fixSlack : Nat) : ℚ) / (2 ^ fixBits : Nat) :=
    congrArg (· / ((2 ^ fixBits : Nat) : ℚ)) (Int.cast_natCast _)
  have hhigh : ratQ (fixInterval N).2 = ((N + fixSlack : Nat) : ℚ) / (2 ^ fixBits : Nat) :=
    congrArg (· / ((2 ^ fixBits : Nat) : ℚ)) (Int.cast_natCast _)
  have hlowR : (ratQ (fixInterval N).1 : ℝ) = (N - 2 ^ 40) / fixOne := by
    rw [hlow, Rat.cast_div, Rat.cast_natCast, Rat.cast_natCast, fixOne_cast, Nat.cast_sub hN.le, hslack]
  have hhighR : (ratQ (fixInterval N).2 : ℝ) = (N + 2 ^ 40) / fixOne := by
    rw [hhigh, Rat.cast_div, Rat.cast_natCast, Rat.cast_natCast, fixOne_cast, Nat.cast_add, hslack]
  refine ⟨?_, ?_, ?_, ?_⟩
  · rw [hlow]
    exact div_pos (by exact_mod_cast Nat.sub_pos_of_lt hN) (by positivity)
  · have hdiff : ratQ (fixInterval N).2 - ratQ (fixInterval N).1 = (2 : ℚ) ^ (41 : Int) / (2 : ℚ) ^ (448 : Int) := by
      rw [hlow, hhigh, ← sub_div, Nat.cast_add, Nat.cast_sub hN.le, Nat.cast_pow, Nat.cast_ofNat]
      have hden : (2 : ℚ) ^ fixBits = (2 : ℚ) ^ (448 : Int) := rfl
      have hnum : (N : ℚ) + fixSlack - (N - fixSlack) = (2 : ℚ) ^ (41 : Int) := by
        unfold fixSlack
        push_cast
        ring
      rw [hden, hnum]
    rw [hdiff, ← zpow_sub₀ two_ne_zero]
    exact zpow_le_zpow_right₀ one_le_two (by norm_num)
  · rw [hlowR, div_le_iff₀ hS]
    linarith
  · rw [hhighR, le_div_iff₀ hS]
    linarith

theorem den_fixInterval (N : Nat) : 0 < (fixInterval N).1.den ∧ 0 < (fixInterval N).2.den := by
  have h : 0 < 2 ^ fixBits := by positivity
  exact ⟨h, h⟩

/-- A value chosen around a fixed-point value. -/
theorem nearUlps_fix (op : Nat) (arg : Word) (neg : Bool) {N : Nat} (h : FixNear N y) (hy : (2 : ℝ) ^ (-149 : Int) ≤ y)
    (htop : y < (2 : ℝ) ^ (128 : Int)) : NearUlps 2 (signed neg y) (withSign neg (approxPos op arg 2 (fixInterval N))) := by
  obtain ⟨hpos, hwidth, hlow, hhigh⟩ := fixInterval_spec h hy
  have hlt : ratQ (fixInterval N).1 < (2 : ℚ) ^ (128 : Int) := by
    have := hlow.trans_lt htop
    exact_mod_cast this
  exact nearUlps_narrow op arg neg (den_fixInterval N).1 (den_fixInterval N).2 hpos
    (hwidth.trans (zpow_le_zpow_right₀ one_le_two (by norm_num))) hlt hlow hhigh

/-- A value chosen around a fixed-point value times a power of two. -/
theorem nearUlps_scaled (op : Nat) (arg : Word) (neg : Bool) {N : Nat} {X : Int} (h : FixNear N y) (hy : (2 : ℝ) ^ (-149 : Int) ≤ y)
    (hX : X ≤ 127) (htop : y * (2 : ℝ) ^ X < (2 : ℝ) ^ (128 : Int)) :
    NearUlps 2 (signed neg (y * (2 : ℝ) ^ X)) (withSign neg (approxPos op arg 2 (scaleInterval (fixInterval N) X))) := by
  obtain ⟨hpos, hwidth, hlow, hhigh⟩ := fixInterval_spec h hy
  have hpow : (0 : ℚ) < (2 : ℚ) ^ X := zpow_pos two_pos X
  have hpowR : (0 : ℝ) < (2 : ℝ) ^ X := zpow_pos two_pos X
  have hval1 : ratQ (scaleInterval (fixInterval N) X).1 = ratQ (fixInterval N).1 * (2 : ℚ) ^ X := by
    unfold scaleInterval
    rw [ratQ_mul, ratQ_scale, Int.cast_one, one_mul]
  have hval2 : ratQ (scaleInterval (fixInterval N) X).2 = ratQ (fixInterval N).2 * (2 : ℚ) ^ X := by
    unfold scaleInterval
    rw [ratQ_mul, ratQ_scale, Int.cast_one, one_mul]
  have hlowR : (ratQ (scaleInterval (fixInterval N) X).1 : ℝ) ≤ y * (2 : ℝ) ^ X := by
    rw [hval1]
    push_cast
    exact mul_le_mul_of_nonneg_right hlow hpowR.le
  have hhighR : y * (2 : ℝ) ^ X ≤ ratQ (scaleInterval (fixInterval N) X).2 := by
    rw [hval2]
    push_cast
    exact mul_le_mul_of_nonneg_right hhigh hpowR.le
  have hlt : ratQ (scaleInterval (fixInterval N) X).1 < (2 : ℚ) ^ (128 : Int) := by
    have := hlowR.trans_lt htop
    exact_mod_cast this
  have hwide : ratQ (scaleInterval (fixInterval N) X).2 - ratQ (scaleInterval (fixInterval N) X).1 ≤ (2 : ℚ) ^ (-149 : Int) := by
    rw [hval1, hval2, ← sub_mul]
    calc _ ≤ (2 : ℚ) ^ (-400 : Int) * (2 : ℚ) ^ X := mul_le_mul_of_nonneg_right hwidth hpow.le
      _ = (2 : ℚ) ^ (-400 + X) := (zpow_add₀ two_ne_zero _ _).symm
      _ ≤ _ := zpow_le_zpow_right₀ one_le_two (by omega)
  exact nearUlps_narrow op arg neg (den_mul (den_fixInterval N).1 (den_scale _ _)) (den_mul (den_fixInterval N).2 (den_scale _ _))
    (hval1 ▸ mul_pos hpos hpow) hwide hlt hlowR hhighR

end

/-! ### The approximations within their bound (R114) -/

theorem signed_false (y : ℝ) : signed false y = y := rfl

/-- No number lies within the bound of a zero: its magnitude has no place. -/
theorem nearUlps_zero (bound : ℝ) (r : Nat × FFlags) : NearUlps bound 0 r := by
  intro e he
  rw [abs_zero] at he
  exact absurd he (not_le.mpr (zpow_pos two_pos e))

/-- A value that f32 holds is within any bound of itself. -/
theorem nearUlps_exact {c : Nat} (neg : Bool) (hc : c < 0x7F800000) : NearUlps 2 (signed neg (f32Grid c)) (withSign neg (c, 0)) := by
  have h0 : (0 : ℝ) ≤ f32Grid c := by exact_mod_cast gridVal_nonneg (b := 23) (emin := -126) c
  rcases h0.eq_or_lt with hz | hpos
  · have hsigned : signed neg (f32Grid c) = 0 := by
      rw [← hz]
      cases neg
      · rfl
      · exact neg_zero
    rw [hsigned]
    exact nearUlps_zero _ _
  · refine nearUlps_code neg hpos hc (fun e _ _ => ?_) fun hne => absurd rfl hne
    rw [sub_self, abs_zero]
    positivity

section
variable {a : Word} {n : Bool} {m : Q}

/-! #### The power of two -/

theorem fexp2Op_near (h : ieeeF32.decode a.toNat = .fin n m) (hd : 0 < (FNum.fin n m).toQ.den) (hlo : -150 ≤ FNum.rat (.fin n m))
    (hhi : FNum.rat (.fin n m) < 128) : NearUlps 2 ((2 : ℝ) ^ (FNum.rat (.fin n m) : ℝ)) (fexp2Op a) := by
  have hop := (fexp2Op_range h hd).2.2 hlo hhi
  rw [rat_eq] at hlo hhi ⊢
  dsimp only at hop
  rw [hop]
  generalize (FNum.fin n m).toQ = x at hd hlo hhi ⊢
  rw [floor_eq]
  have hfloor : ⌊ratQ x⌋ ≤ 127 := by
    have : ⌊ratQ x⌋ < 128 := Int.floor_lt.mpr (by exact_mod_cast hhi)
    omega
  have hsplit : (2 : ℝ) ^ (ratQ x : ℝ) = (2 : ℝ) ^ ((Int.fract (ratQ x) : ℚ) : ℝ) * (2 : ℝ) ^ ⌊ratQ x⌋ := by
    rw [← Real.rpow_intCast, ← Real.rpow_add two_pos]
    congr 1
    exact_mod_cast (Int.fract_add_floor (ratQ x)).symm
  have htop : (2 : ℝ) ^ (ratQ x : ℝ) < (2 : ℝ) ^ (128 : Int) := by
    rw [← Real.rpow_intCast]
    exact Real.rpow_lt_rpow_of_exponent_lt one_lt_two (by exact_mod_cast hhi)
  split
  case isTrue hz =>
    have hscale : ratQ (Q.scale 1 ⌊ratQ x⌋) = (2 : ℚ) ^ ⌊ratQ x⌋ := by rw [ratQ_scale, Int.cast_one, one_mul]
    have hnear := nearUlps_approxRational 9 a false two_pos ((num_pos (den_scale 1 ⌊ratQ x⌋)).mpr (hscale ▸ zpow_pos two_pos _))
      (den_scale 1 ⌊ratQ x⌋) (by rw [hscale]; exact zpow_lt_zpow_right₀ one_lt_two (by omega))
    rw [hscale, Rat.cast_zpow, Rat.cast_ofNat] at hnear
    rw [hsplit, hz, Rat.cast_zero, Real.rpow_zero, one_mul]
    exact hnear
  case isFalse hz =>
    obtain ⟨N, hN, hnear⟩ := exp2Frac_near (den_frac hd) (by rw [ratQ_frac hd]; exact Int.fract_nonneg _)
      (by rw [ratQ_frac hd]; exact Int.fract_lt_one _)
    rw [floor_eq] at hN hnear
    rw [hN]
    have hfrac := ratQ_frac hd
    rw [floor_eq] at hfrac
    rw [hfrac] at hnear
    have hone : (1 : ℝ) ≤ (2 : ℝ) ^ ((Int.fract (ratQ x) : ℚ) : ℝ) :=
      Real.one_le_rpow one_le_two (by exact_mod_cast Int.fract_nonneg (ratQ x))
    rw [hsplit] at htop ⊢
    exact nearUlps_scaled 9 a false hnear ((zpow_le_one_of_nonpos₀ one_le_two (by norm_num)).trans hone) hfloor htop

/-! #### The binary logarithm -/

theorem logb_two_zpow (e : Int) : Real.logb 2 ((2 : ℝ) ^ e) = e := by
  rw [← Real.rpow_intCast, Real.logb_rpow two_pos (by norm_num)]

/-- The values of f32 next to one. -/
theorem f32_next_one : f32Grid 0x3F800000 = 1 ∧ f32Grid 0x3F800001 = 1 + 1 / 2 ^ 23 ∧ f32Grid 0x3F7FFFFF = 1 - 1 / 2 ^ 24 := by
  have h0 := gridVal_place (b := 23) (emin := -126) (j := 126) (K := 2 ^ 23) (by norm_num) (by norm_num)
  have h1 := gridVal_place (b := 23) (emin := -126) (j := 126) (K := 2 ^ 23 + 1) (by norm_num) (by norm_num)
  have h2 := gridVal_place (b := 23) (emin := -126) (j := 125) (K := 2 ^ 24 - 1) (by norm_num) (by norm_num)
  norm_num at h0 h1 h2 ⊢
  exact ⟨h0, h1, h2⟩

/-- A logarithm to base two is no less than the natural one in magnitude. -/
theorem abs_log_le_abs_logb (v : ℝ) : |Real.log v| ≤ |Real.logb 2 v| := by
  have h1 := Real.log_two_lt_d9
  have h0 := Real.log_pos one_lt_two
  rw [Real.logb, abs_div, abs_of_pos h0, le_div_iff₀ h0]
  exact mul_le_of_le_one_right (abs_nonneg _) (by linarith)

/-- The logarithm of a number of f32 that is not one is not tiny. -/
theorem logb_f32_bounds {c : Nat} (hc : c < 0x7F800000) (hpos : 0 < f32Grid c) (hne : f32Grid c ≠ 1) :
    (2 : ℝ) ^ (-149 : Int) ≤ |Real.logb 2 (f32Grid c)| ∧ |Real.logb 2 (f32Grid c)| < (2 : ℝ) ^ (128 : Int) := by
  obtain ⟨hone, hnext, hprev⟩ := f32_next_one
  have hmono := gridVal_strictMono 23 (-126)
  have hposR : (0 : ℝ) < f32Grid c := by exact_mod_cast hpos
  constructor
  · have h24 : (2 : ℝ) ^ (-149 : Int) ≤ 1 / 2 ^ 24 := by norm_num
    refine h24.trans (le_trans ?_ (abs_log_le_abs_logb _))
    rcases lt_or_gt_of_ne hne with hlt | hgt
    · have hcode : c ≤ 0x3F7FFFFF := by
        have := hmono.lt_iff_lt.mp (hlt.trans_eq hone.symm)
        omega
      have hle : f32Grid c ≤ 1 - 1 / 2 ^ 24 := hprev ▸ hmono.monotone hcode
      have hleR := (Rat.cast_le (K := ℝ)).mpr hle
      push_cast at hleR
      have hlog := Real.log_le_sub_one_of_pos hposR
      exact le_trans (by linarith) (neg_le_abs _)
    · have hcode : 0x3F800001 ≤ c := by
        have := hmono.lt_iff_lt.mp (hone.trans_lt hgt)
        omega
      have hge : 1 + 1 / 2 ^ 23 ≤ f32Grid c := hnext ▸ hmono.monotone hcode
      have hgeR := (Rat.cast_le (K := ℝ)).mpr hge
      push_cast at hgeR
      have hlog := Real.one_sub_inv_le_log_of_pos hposR
      have hinv : (f32Grid c : ℝ)⁻¹ ≤ 1 - 1 / 2 ^ 24 := by
        rw [inv_le_iff_one_le_mul₀ hposR]
        nlinarith
      exact le_trans (by linarith) (le_abs_self _)
  · obtain ⟨hlo, hhi⟩ := f32_bounds hpos.ne' hc
    have hloR := (Rat.cast_le (K := ℝ)).mpr hlo
    have hhiR := (Rat.cast_lt (K := ℝ)).mpr hhi
    rw [Rat.cast_zpow, Rat.cast_ofNat] at hloR hhiR
    have h1 := Real.logb_le_logb_of_le one_lt_two (zpow_pos two_pos _) hloR
    have h2 := Real.logb_lt_logb one_lt_two hposR hhiR
    rw [logb_two_zpow] at h1 h2
    push_cast at h1 h2
    have h128 : (149 : ℝ) < (2 : ℝ) ^ (128 : Int) := by norm_num
    exact (abs_le.mpr ⟨by linarith, by linarith⟩ : |Real.logb 2 (f32Grid c)| ≤ 149).trans_lt h128

/-- The binary logarithm of a number at its place. -/
theorem logb_place {v : ℚ} {e : Int} (he : (2 : ℚ) ^ e ≤ v) (he' : v < (2 : ℚ) ^ (e + 1)) :
    (e : ℝ) ≤ Real.logb 2 v ∧ Real.logb 2 v < e + 1 := by
  have hv : (0 : ℝ) < v := by exact_mod_cast (zpow_pos two_pos e).trans_le he
  have hlow := (Rat.cast_le (K := ℝ)).mpr he
  have hhigh := (Rat.cast_lt (K := ℝ)).mpr he'
  rw [Rat.cast_zpow, Rat.cast_ofNat] at hlow hhigh
  have hge := Real.logb_le_logb_of_le one_lt_two (zpow_pos two_pos e) hlow
  have hlt := Real.logb_lt_logb one_lt_two hv hhigh
  rw [logb_two_zpow] at hge hlt
  push_cast at hlt
  exact ⟨hge, hlt⟩

section
variable {e : Int} {L : Nat} {y : ℝ}

/-- A whole number and a fixed-point fraction. -/
theorem fixNear_sum (h : FixNear L (y - e)) (he : 0 ≤ e) : FixNear (e.toNat * 2 ^ fixBits + L) y := by
  have hcast : ((e.toNat : Nat) : ℝ) = e := by exact_mod_cast Int.toNat_of_nonneg he
  obtain ⟨h1, h2⟩ := abs_le.mp h
  unfold FixNear
  rw [Nat.cast_add, Nat.cast_mul, fixOne_cast, hcast]
  exact abs_le.mpr ⟨by linarith only [h1], by linarith only [h2]⟩

/-- A negative number's magnitude, a whole number less a fixed-point fraction. -/
theorem fixNear_difference (h : FixNear L (y - e)) (he : e ≤ 0) (hy : y ≤ 0) : FixNear ((-e).toNat * 2 ^ fixBits - L) (-y) := by
  have hcast : (((-e).toNat : Nat) : ℝ) = -e := by exact_mod_cast Int.toNat_of_nonneg (neg_nonneg.mpr he)
  obtain ⟨h1, h2⟩ := abs_le.mp h
  unfold FixNear
  rw [← Int.toNat_sub]
  refine toNat_near (mul_nonneg fixOne_pos.le (neg_nonneg.mpr hy)) ?_
  rw [Int.cast_sub, Int.cast_natCast, Int.cast_natCast, Nat.cast_mul, fixOne_cast, hcast]
  exact abs_le.mpr ⟨by linarith only [h2], by linarith only [h1]⟩

/-- The logarithm of a power of two, which f32 holds. -/
theorem flog2Op_pow_near (h : ieeeF32.decode a.toNat = .fin false m) (hd : 0 < m.den) (hm : 0 < m.num) (hv : ratQ m = (2 : ℚ) ^ e) :
    NearUlps 2 (Real.logb 2 (ratQ m)) (flog2Op a) := by
  obtain ⟨c, hc, hval, hop⟩ := flog2Op_pow_code h hd hm hv
  have hlogb : Real.logb 2 (ratQ m) = signed (decide (e < 0)) (f32Grid c) := by
    rw [hv, hval, Rat.cast_zpow, Rat.cast_ofNat, logb_two_zpow]
    rcases lt_or_ge e 0 with hneg | hpos
    · rw [signed, decide_eq_true hneg, if_pos rfl, abs_of_neg (by exact_mod_cast hneg), Rat.cast_neg, neg_neg, Rat.cast_intCast]
    · rw [signed, decide_eq_false (not_lt.mpr hpos), if_neg Bool.false_ne_true, abs_of_nonneg (by exact_mod_cast hpos),
        Rat.cast_intCast]
  rw [hop, hlogb]
  exact nearUlps_exact _ hc

/-- The fraction of a number at its place, and its logarithm in fixed point. -/
theorem fraction_spec (hd : 0 < m.den) (he : (2 : ℚ) ^ e ≤ ratQ m) (he' : ratQ m < (2 : ℚ) ^ (e + 1)) :
    ((m.mul (Q.scale 1 (-e))).eqv (Q.ofInt 1) = true ↔ ratQ m = (2 : ℚ) ^ e) ∧
      FixNear (log2Frac (m.mul (Q.scale 1 (-e)))) (Real.logb 2 (ratQ m) - e) := by
  have hpow : (0 : ℚ) < (2 : ℚ) ^ e := zpow_pos two_pos e
  have hvR : (0 : ℝ) < ratQ m := by exact_mod_cast hpow.trans_le he
  have hdf : 0 < (m.mul (Q.scale 1 (-e))).den := den_mul hd (den_scale _ _)
  have hf : ratQ (m.mul (Q.scale 1 (-e))) = ratQ m / (2 : ℚ) ^ e := by
    rw [ratQ_mul, ratQ_scale, Int.cast_one, one_mul, zpow_neg, div_eq_mul_inv]
  constructor
  · rw [eqv_iff hdf Nat.one_pos, ratQ_ofInt, Int.cast_one, hf, div_eq_one_iff_eq hpow.ne']
  · have hf1 : 1 ≤ ratQ m / (2 : ℚ) ^ e := by rwa [le_div_iff₀ hpow, one_mul]
    have hf2 : ratQ m / (2 : ℚ) ^ e < 2 := by
      rw [div_lt_iff₀ hpow]
      rwa [zpow_add_one₀ two_ne_zero, mul_comm] at he'
    have hnear := log2Frac_near hdf (hf ▸ hf1) (hf ▸ hf2)
    rwa [hf, Rat.cast_div, Rat.cast_zpow, Rat.cast_ofNat, Real.logb_div hvR.ne' (zpow_pos two_pos e).ne', logb_two_zpow] at hnear

end

theorem flog2Op_near (h : ieeeF32.decode a.toNat = .fin false m) (hd : 0 < m.den) (hm : 0 < m.num) :
    NearUlps 2 (Real.logb 2 (ratQ m)) (flog2Op a) := by
  obtain ⟨e, he, he'⟩ := exists_exponent hm hd
  by_cases hone : ratQ m = (2 : ℚ) ^ e
  · exact flog2Op_pow_near h hd hm hone
  · obtain ⟨heqv, hnear⟩ := fraction_spec hd he he'
    obtain ⟨hge, hlt⟩ := logb_place he he'
    obtain ⟨c, hc, hcode⟩ := decode_fin_code h
    have hgrid : ratQ m = f32Grid c := hcode
    have hne1 : ratQ m ≠ 1 := fun h1 => by
      rw [h1] at he he' hone
      have hzero : e = 0 := log2_unique he he' (by norm_num) (by norm_num)
      exact hone (by rw [hzero, zpow_zero])
    obtain ⟨hsmall, hlarge⟩ := logb_f32_bounds hc (hgrid ▸ (num_pos hd).mp hm) (hgrid ▸ hne1)
    rw [← hgrid] at hsmall hlarge
    have hop := flog2Op_fin h
    dsimp only at hop
    rw [if_neg hm.ne', if_neg Bool.false_ne_true, floorLog2_eq hm hd he he', if_neg (mt heqv.mp hone)] at hop
    rw [hop]
    split
    case isTrue hpos =>
      have he0 : (0 : ℝ) ≤ e := by exact_mod_cast hpos
      rw [abs_of_nonneg (he0.trans hge)] at hsmall hlarge
      have hresult := nearUlps_fix 10 a false (fixNear_sum hnear hpos) hsmall hlarge
      rwa [withSign_false, signed_false] at hresult
    case isFalse hneg =>
      have he0 : (e : ℝ) + 1 ≤ 0 := by exact_mod_cast (by omega : e + 1 ≤ 0)
      have hlog0 := hlt.trans_le he0
      rw [abs_of_neg hlog0] at hsmall hlarge
      have hresult := nearUlps_fix 10 a true (fixNear_difference hnear (by omega) hlog0.le) hsmall hlarge
      rwa [show signed true (-Real.logb 2 (ratQ m)) = Real.logb 2 (ratQ m) from neg_neg _] at hresult

end

/-! #### The sine and the cosine of half-turns -/

/-- The sine of a fraction past a whole number of half-turns. -/
theorem sin_floor_add {t : ℝ} (k : Int) (r : ℝ) (h : t = k + r) :
    Real.sin (Real.pi * t) = signed (decide (k % 2 = 1)) (Real.sin (Real.pi * r)) := by
  have harg : Real.pi * t = Real.pi * r + k * Real.pi := by rw [h]; ring
  rw [harg, Real.sin_add_int_mul_pi]
  rcases Int.emod_two_eq_zero_or_one k with h0 | h1
  · rw [decide_eq_false (by omega), (Int.even_iff.mpr h0).neg_one_zpow, one_mul]
    rfl
  · rw [decide_eq_true h1, (Int.odd_iff.mpr h1).neg_one_zpow, neg_one_mul]
    rfl

/-- The sine of a fraction of a half-turn that is no smaller than the smallest operand is not tiny. -/
theorem sin_ge {r : ℝ} (h0 : (2 : ℝ) ^ (-149 : Int) ≤ r) (h1 : r ≤ 1 / 2) : (2 : ℝ) ^ (-149 : Int) ≤ Real.sin (Real.pi * r) := by
  have hpi := Real.pi_pos
  have hpos : 0 < r := (zpow_pos two_pos _).trans_le h0
  have hjordan := Real.mul_le_sin (x := Real.pi * r) (by positivity) (by nlinarith)
  have hval : 2 / Real.pi * (Real.pi * r) = 2 * r := by field_simp
  rw [hval] at hjordan
  linarith

section
variable {a : Word} {n : Bool} {m r : Q}

/-- A fraction of a half-turn folded to its first half has the same sine. -/
theorem folded_fraction (hd : 0 < r.den) (h0 : 0 < ratQ r) (h1 : ratQ r < 1) {K : Int} (hK : ratQ r = K * (2 : ℚ) ^ (-149 : Int)) :
    ∃ (q : Q) (J : Int), (if r.le ⟨1, 2⟩ then r else (Q.ofInt 1).sub r) = q ∧ 0 < q.den ∧ 0 < ratQ q ∧ ratQ q ≤ 1 / 2 ∧
      ratQ q = J * (2 : ℚ) ^ (-149 : Int) ∧ Real.sin (Real.pi * ratQ q) = Real.sin (Real.pi * ratQ r) := by
  have hhalf : ratQ ⟨1, 2⟩ = 1 / 2 := by norm_num [ratQ]
  split
  case isTrue h =>
    rw [le_iff hd Nat.two_pos, hhalf] at h
    exact ⟨r, K, rfl, hd, h0, h, hK, rfl⟩
  case isFalse h =>
    rw [le_iff hd Nat.two_pos, hhalf, not_le] at h
    have hval : ratQ ((Q.ofInt 1).sub r) = 1 - ratQ r := by rw [ratQ_sub Nat.one_pos hd, ratQ_ofInt, Int.cast_one]
    refine ⟨(Q.ofInt 1).sub r, 2 ^ 149 - K, rfl, den_sub Nat.one_pos hd, by rw [hval]; linarith, by rw [hval]; linarith, ?_, ?_⟩
    · have hone : (2 : ℚ) ^ 149 * (2 : ℚ) ^ (-149 : Int) = 1 := by norm_num
      rw [hval, hK, Int.cast_sub, Int.cast_pow, Int.cast_ofNat, sub_mul, hone]
    · rw [hval, ← Real.sin_pi_sub]
      congr 1
      push_cast
      ring

/-- A positive number on the grid of the smallest operand is no smaller. -/
theorem grid_ge {q : ℚ} {J : Int} (hq : q = J * (2 : ℚ) ^ (-149 : Int)) (hq0 : 0 < q) : (2 : ℝ) ^ (-149 : Int) ≤ q := by
  have hunit : (0 : ℚ) < (2 : ℚ) ^ (-149 : Int) := zpow_pos two_pos _
  have hJ : 0 < J := by
    rw [hq] at hq0
    exact_mod_cast (mul_pos_iff_of_pos_right hunit).mp hq0
  have hle : (2 : ℚ) ^ (-149 : Int) ≤ q := hq ▸ le_mul_of_one_le_left hunit.le (by exact_mod_cast hJ)
  have hleR := (Rat.cast_le (K := ℝ)).mpr hle
  rwa [Rat.cast_zpow, Rat.cast_ofNat] at hleR

/-- The reduced sine within its bound, for an operand on the grid of the smallest one. -/
theorem sinReduced_near (op : Nat) (neg : Bool) (hd : 0 < r.den) (h0 : 0 ≤ ratQ r) (h1 : ratQ r < 1) {K : Int}
    (hK : ratQ r = K * (2 : ℚ) ^ (-149 : Int)) :
    NearUlps 2 (signed neg (Real.sin (Real.pi * ratQ r))) (withSign neg (sinReduced op a r)) := by
  have hhalf : ratQ ⟨1, 2⟩ = 1 / 2 := by norm_num [ratQ]
  unfold sinReduced
  split
  case isTrue hz =>
    rw [(num_eq_zero hd).mp hz, Rat.cast_zero, mul_zero, Real.sin_zero]
    have hzero := nearUlps_exact neg (c := 0) (by norm_num)
    rwa [show f32Grid 0 = 0 from gridVal_zero, Rat.cast_zero] at hzero
  case isFalse hz =>
    have hpos : 0 < ratQ r := h0.lt_of_ne fun h => hz ((num_eq_zero hd).mpr h.symm)
    split
    case isTrue heqv =>
      rw [eqv_iff hd Nat.two_pos, hhalf] at heqv
      have hone : Real.sin (Real.pi * (ratQ r : ℚ)) = (f32Grid 0x3F800000 : ℚ) := by
        rw [heqv, f32_next_one.1]
        push_cast
        rw [mul_one_div, Real.sin_pi_div_two]
      rw [hone]
      exact nearUlps_exact neg (by norm_num)
    case isFalse hne =>

      obtain ⟨q, J, hq, hdq, hq0, hq1, hJ, hsin⟩ := folded_fraction hd hpos h1 hK
      obtain ⟨N, hN, hnear⟩ := sinHalf_near hdq hq0.le hq1
      have hq1' := (Rat.cast_le (K := ℝ)).mpr hq1
      rw [Rat.cast_div, Rat.cast_one, Rat.cast_ofNat] at hq1'
      have hlarge : Real.sin (Real.pi * (ratQ q : ℚ)) < (2 : ℝ) ^ (128 : Int) :=
        (Real.sin_le_one _).trans_lt (one_lt_zpow₀ one_lt_two (by norm_num))
      rw [hq, hN, ← hsin]
      exact nearUlps_fix op a neg hnear (sin_ge (grid_ge hJ hq0) hq1') hlarge

/-- A fractional part of a number on the grid is on the grid. -/
theorem fract_grid {x : ℚ} {J : Int} (hx : x = J * (2 : ℚ) ^ (-149 : Int)) :
    Int.fract x = ((J - ⌊x⌋ * 2 ^ 149 : Int) : ℚ) * (2 : ℚ) ^ (-149 : Int) := by
  have hone : (2 : ℚ) ^ 149 * (2 : ℚ) ^ (-149 : Int) = 1 := by norm_num
  rw [Int.cast_sub, Int.cast_mul, Int.cast_pow, Int.cast_ofNat, sub_mul, mul_assoc, hone, mul_one, ← hx]
  rfl

/-- The magnitude of a finite operand is on the grid of the smallest one. -/
theorem magnitude_grid (h : ieeeF32.decode a.toNat = .fin n m) : ∃ J : Int, ratQ m = J * (2 : ℚ) ^ (-149 : Int) := by
  obtain ⟨c, -, hval⟩ := decode_fin_code h
  have hgrid : ratQ m = f32Grid c := hval
  rcases gridVal_units (b := 23) (emin := -126) c (-126) with ⟨hne, -⟩ | ⟨J, hJ⟩
  · exact absurd rfl hne
  · exact ⟨J, hgrid.trans (hJ.trans (by push_cast; rfl))⟩

/-- A whole number of half-turns has a sine of zero. -/
theorem signed_sin_zero (neg : Bool) {t : ℚ} (h : t = 0) : signed neg (Real.sin (Real.pi * t)) = 0 := by
  rw [h, Rat.cast_zero, mul_zero, Real.sin_zero]
  cases neg
  · rfl
  · exact neg_zero

/-- The reduced sine of a number's fractional part. -/
theorem sinReduced_fract_near (op : Nat) (neg : Bool) (hd : 0 < m.den) {J : Int} (hJ : ratQ m = J * (2 : ℚ) ^ (-149 : Int)) :
    NearUlps 2 (signed neg (Real.sin (Real.pi * (Int.fract (ratQ m) : ℚ)))) (withSign neg (sinReduced op a (m.sub (Q.ofInt m.floor)))) := by
  have hfrac := ratQ_frac hd
  rw [← hfrac]
  exact sinReduced_near op neg (den_frac hd) (hfrac ▸ Int.fract_nonneg _) (hfrac ▸ Int.fract_lt_one _) (hfrac.trans (fract_grid hJ))

theorem fsinOp_near (h : ieeeF32.decode a.toNat = .fin n m) (hd : 0 < m.den) :
    NearUlps 2 (Real.sin (Real.pi * FNum.rat (.fin n m))) (fsinOp a) := by
  have hop := fsinOp_fin h
  obtain ⟨J, hJ⟩ := magnitude_grid h
  have hmag : (ratQ m : ℝ) = ⌊ratQ m⌋ + (Int.fract (ratQ m) : ℚ) := by exact_mod_cast (Int.floor_add_fract (ratQ m)).symm
  have hsin := sin_floor_add _ _ hmag
  have hval : Real.sin (Real.pi * FNum.rat (.fin n m)) =
      signed (n != decide (⌊ratQ m⌋ % 2 = 1)) (Real.sin (Real.pi * (Int.fract (ratQ m) : ℚ))) := by
    rw [rat_fin]
    cases n with
    | false => exact hsin.trans (by rw [Bool.false_bne])
    | true =>
      rw [if_pos rfl, Rat.cast_neg, mul_neg, Real.sin_neg, hsin, Bool.true_bne]
      cases decide (⌊ratQ m⌋ % 2 = 1)
      · rfl
      · exact neg_neg _
  dsimp only at hop
  rw [hop, hval]
  split
  case isTrue hz =>
    rw [signed_sin_zero _ ((frac_num_eq_zero hd).mp hz)]
    exact nearUlps_zero _ _
  case isFalse =>
    rw [← floor_eq]
    exact sinReduced_fract_near 11 _ hd hJ

theorem fcosOp_near (h : ieeeF32.decode a.toNat = .fin n m) (hd : 0 < m.den) :
    NearUlps 2 (Real.cos (Real.pi * FNum.rat (.fin n m))) (fcosOp a) := by
  have hop := fcosOp_fin h
  obtain ⟨J, hJ⟩ := magnitude_grid h
  have hdx : 0 < (m.add ⟨1, 2⟩).den := den_add hd Nat.two_pos
  have hadd := ratQ_add_half hd
  have hgrid : ratQ (m.add ⟨1, 2⟩) = ((J + 2 ^ 148 : Int) : ℚ) * (2 : ℚ) ^ (-149 : Int) := by
    have hone : (2 : ℚ) ^ 148 * (2 : ℚ) ^ (-149 : Int) = 1 / 2 := by norm_num
    rw [hadd, hJ, Int.cast_add, Int.cast_pow, Int.cast_ofNat, add_mul, hone]
  have hmag : (ratQ (m.add ⟨1, 2⟩) : ℝ) = ⌊ratQ (m.add ⟨1, 2⟩)⌋ + (Int.fract (ratQ (m.add ⟨1, 2⟩)) : ℚ) := by
    exact_mod_cast (Int.floor_add_fract (ratQ (m.add ⟨1, 2⟩))).symm
  have hcos : Real.cos (Real.pi * FNum.rat (.fin n m)) = Real.sin (Real.pi * (ratQ (m.add ⟨1, 2⟩) : ℚ)) := by
    have hshift : Real.pi * ((ratQ m + 1 / 2 : ℚ) : ℝ) = Real.pi * ratQ m + Real.pi / 2 := by
      push_cast
      ring
    rw [hadd, hshift, Real.sin_add_pi_div_two, rat_fin]
    cases n with
    | false => rfl
    | true => rw [if_pos rfl, Rat.cast_neg, mul_neg, Real.cos_neg]
  dsimp only at hop
  rw [hop, hcos, sin_floor_add _ _ hmag]
  split
  case isTrue hz =>
    rw [signed_sin_zero _ ((frac_num_eq_zero hdx).mp hz)]
    exact nearUlps_zero _ _
  case isFalse =>
    rw [← floor_eq]
    exact sinReduced_fract_near 12 _ hdx hgrid

end

/-- A positive operand has no sign. -/
theorem positive_fin {n : Bool} {m : Q} (hm : 0 ≤ ratQ m) (h : 0 < FNum.rat (.fin n m)) : n = false ∧ 0 < ratQ m := by
  rw [rat_fin] at h
  cases n with
  | false => exact ⟨rfl, h⟩
  | true => exact absurd hm (not_le.mpr (neg_pos.mp h))

theorem approximationBounds : Claims.ApproximationBounds := by
  intro a x v near hnan hinf
  obtain ⟨n, m, hx⟩ := fin_iff.mp ⟨hnan, hinf⟩
  have hdec : ieeeF32.decode a.toNat = .fin n m := hx
  have hsound : SoundNum (.fin n m) := hx ▸ soundNum_decode ieeeF32 a.toNat
  have hsign : x.sign = n := by rw [hx]; rfl
  have hv : v = FNum.rat (.fin n m) := congrArg FNum.rat hx
  have hm : 0 ≤ ratQ m := (num_nonneg hsound.2).mp hsound.1
  have hdx : 0 < (FNum.fin n m).toQ.den := den_toQ hsound
  have hd : 0 < m.den := hsound.2
  have hpos : ratQ m ≠ 0 → 0 < m.num := fun h => (num_pos hd).mpr (hm.lt_of_ne h.symm)
  rw [hsign, hv]
  refine ⟨fun h0 h1 => ?_, fun h1 => ?_, fun h0 => ?_, fexp2Op_near hdec hdx, fun h0 => ?_, fsinOp_near hdec hd, fcosOp_near hdec hd⟩
  · rw [abs_recip n hm] at h1
    have hne : ratQ m ≠ 0 := fun hz => h0 (by rw [rat_fin, hz, neg_zero, ite_self])
    exact frcpOp_near hdec hd (hpos hne) h1
  · rw [abs_recip n hm] at h1
    have hne : ratQ m ≠ 0 := fun hz => by
      rw [hz, div_zero] at h1
      exact absurd h1 (by norm_num)
    rw [frcpOp_overflow hdec hd (hpos hne) h1]
    exact congrArg (·, fOF ||| fNX) (Nat.add_comm _ _)
  · obtain ⟨rfl, hmpos⟩ := positive_fin hm h0
    exact frsqOp_near hdec hd ((num_pos hd).mpr hmpos)
  · obtain ⟨rfl, hmpos⟩ := positive_fin hm h0
    exact flog2Op_near hdec hd ((num_pos hd).mpr hmpos)

/-- Settles O4: with no flag enabled each form writes what its operation gives, and where acting lanes raise an enabled flag they trap, by
the rules of a float form (`floatExec_quiet`, `floatExec_traps`); each special value and exact result is the operation's own case, an exact
result being one that f32 holds (`approxRational_exact`); and a value chosen in the window of an interval is within the bound of every
number of the interval (`nearUlps_approxPos`), which for the fixed-point sums holds the exact result, their truncations and the tails of
their series being far below the allowance (`exp2Frac_near`, `log2Frac_near`, `sinHalf_near`). -/
theorem laneFloatForms : Obligations.LaneFloatForms := by
  unfold Obligations.LaneFloatForms
  exact ⟨floatShortForms, floatWideForms, floatShortTrap, floatWideTrap, approximations, approximationBounds⟩

end Sys2Proof.Numbers
end

section

/-!
PROOFS. The instruction words (R89 to R99): decoding undoes encoding, the short and immediate integer forms of lanes, and the hint space.
-/

namespace Sys2Proof.Laws.RoundTrip

/-- Every instruction reads back from its words: the lemma of its constructor, in the order of the constructors. -/
theorem readsBack (i : Instr) : ReadsBack i :=
  Instr.casesOn (motive := Statement) i
    add addImm addImmLong sub mullo and andImm andImmLong or orImm orImmLong xor shlImm shlImmLong shrImm shrImmLong sarImm sarImmLong
    movi moviLong mov movPopPort movPushPort addX addN32 subX subN32 addc subb neg abs min minN32 max maxN32 mulloX mulhi mulhiN32 mad
    madN32 sad sadN32 shl shr sar rot andX orX xorX andn not bfx bfi popc clz brev lea fadd fsub fmul ffma fmin fmax faddX fsubX fmulX
    ffmaX fminX fmaxX frcp frsq fsqrt fexp2 flog2 fsin fcos fclass cmp cmpImm fcmp tst pand por pxor pmov sel vperm vshfl vbcast vscan
    vred vvoteAny vvoteAll vvoteMask vfirst cvt cvtEsc vdecGap vdecVarint vdecBitplane ld st atom pref xld xldLong xst xstLong cins crem
    cnext wlpush wlpop wlins qcall qret qretTrap gadd gaddImm gaddImmLong gsub gmul gand gandImm gandImmLong gor gorImm gorImmLong gxor
    gshlImm gshlImmLong gshrImm gshrImmLong gsarImm gsarImmLong gmovi gmoviLong gmov gaddX gsubX gmulX gshl gshr gsar gandX gorX gxorX
    gmovX glea gsel gaddD gsubD gmulD gshlD gshrD gsarD gandD gorD gxorD gmovD gleaD gselD gcmp gcmpImm bra jmp jmpAbs braV brx call ret
    rvpop rvpush yield sleep sleepLong bar spawn role exit mfc mtc mtcRvsp xmset trap sys brk nop prefc tcfg tcfgImm tzero tld tsv tcvt
    tmvV tmvT mma mmat mmag mmx quant ctld acp acp2 acpg afill wload clvInit clvArm clvWait hwait htst hcan hmov apGo apStop qtst gld gst
    gatom fence copen cclose ccount wlclr wlcnt qtok tsecEnter tsecExit glaunch illegalPattern fetchFault pathJoin pathSwitch
    slotIssueCycle groupAged trapEntry faultRecord parkedReplay pageFaultResolve pageMigrationStart pageMigrationEnd hotUpdate lineMigrate
    lineEvict leaseExpiry eccCorrectable eccUncorrectable engineChunkComplete claveCredit engineCommandComplete cinsApply wloadRecord
    streamLoadElement streamStoreElement queueSpillRefill coprocRecord fragmentTurn consumerWaitExpiry sectionTimeout barrierPhaseComplete
    sleepDeadline sysReply launchDispatch launchRefused preconditionRead cohortReserved preempt restore islandFrequencyChange debugHalt
    debugResume debugStep debugRead debugWrite debugDrain debugDrainTimeout debugWatch debugTrapmode gong deviceReset powerUpBoot ping
    launch status quote hot reload monitor migrate quota partitionCreate partitionResize partitionDestroy partitionHalt partitionResume
    partitionQuery consumers debug fwupd peers exportList hostLinkTrain hostAccess peerAccess partFence partFailure powerLoss
    peerTransportFailure monitorWindowEnd

end Sys2Proof.Laws.RoundTrip

namespace Sys2Proof.Encoding
open Sys2Proof Sys2Proof.Machine Sys2Proof.Claims
-- One theorem at a time: fewer threads hold memory while the whole text compiles.
set_option Elab.async false

/-! ### Words and the instructions they decode to (R89 to R98) -/

/-- Settles O58, by the round trip of each constructor. -/
theorem decodeOfEncode : Obligations.DecodeOfEncode := Laws.RoundTrip.readsBack

/-- Words decode to the well-formed instruction whose encoding they are. -/
theorem decode_of_encode {w0 w1 : Word} {i : Instr} (he : encode i = if w0.getLsbD 30 then [w0, w1] else [w0])
    (h1 : w0.getLsbD 30 = false → w1 = 0) (hw : i.wellFormed = true) : decode w0 w1 = .ok i := by
  have h := decodeOfEncode i (by rw [he]; split <;> simp) hw
  rw [he] at h
  cases hL : w0.getLsbD 30
  · rw [hL] at h; rw [h1 hL]; exact h
  · rw [hL] at h; exact h

/-- Settles O57: the words are the encodings of the instructions. -/
theorem decodedWords : Obligations.DecodedWords := by
  unfold Obligations.DecodedWords
  refine ⟨?_, ?_, ?_, ?_, ?_, ?_, ?_, ?_⟩ <;> exact decode_of_encode (by decide) (by decide) (by decide)

/-! ### Short and immediate integer forms of lanes (R105, R111) -/

theorem add_eq_ofInt (x y : Word) : x + y = BitVec.ofInt 32 (x.toInt + y.toInt) := by
  rw [BitVec.ofInt_add, BitVec.ofInt_toInt, BitVec.ofInt_toInt]

theorem mul_eq_ofInt (x y : Word) : x * y = BitVec.ofInt 32 (x.toInt * y.toInt) := by
  rw [BitVec.ofInt_mul, BitVec.ofInt_toInt, BitVec.ofInt_toInt]

theorem sub_eq_ofInt (x y : Word) : x - y = BitVec.ofInt 32 (x.toInt - y.toInt) :=
  BitVec.eq_of_toInt_eq (by rw [BitVec.toInt_sub, BitVec.toInt_ofInt])

theorem shiftLeft_eq_ofNat (x : Word) (k : Nat) : x <<< k = BitVec.ofNat 32 (x.toNat * 2 ^ k) :=
  BitVec.eq_of_toNat_eq (by rw [BitVec.toNat_shiftLeft, Nat.shiftLeft_eq, BitVec.toNat_ofNat])

theorem ushiftRight_eq_ofNat (x : Word) (k : Nat) : x >>> k = BitVec.ofNat 32 (x.toNat / 2 ^ k) := by
  rw [← Nat.shiftRight_eq_div_pow, ← BitVec.toNat_ushiftRight, BitVec.ofNat_toNat, BitVec.setWidth_eq]

theorem sshiftRight_eq_ofInt (x : Word) (k : Nat) : x.sshiftRight k = BitVec.ofInt 32 (x.toInt / 2 ^ k) := by
  rw [BitVec.sshiftRight_eq, Int.shiftRight_eq_div_pow]
  push_cast
  rfl

theorem add_imm7_eq_ofInt (x : Word) (i : BitVec 7) : x + imm7 i = BitVec.ofInt 32 (x.toInt + i.toInt) := by
  rw [add_eq_ofInt, imm7, BitVec.toInt_signExtend_of_le (by decide)]

section
variable {s : State} {len : Nat} {g : BitVec 3} {d a b : Reg}

/-- A lane form of one source that is not pending writes what its operation gives in each lane. -/
theorem laneTo_lane1 {f : Word → Word} {v : Nat → Word} (h : Ready s [a]) (hv : ∀ l, f (val s a l) = v l) :
    Host.Outcome.next (laneExec len g [a] s (lane1 f d a)) = laneTo s len g d v :=
  congrArg Host.Outcome.next (laneExec_lane1 len g [a] s d a f v h fun l _ => hv l)

/-- A lane form of two sources that are not pending writes what its operation gives in each lane. -/
theorem laneTo_lane2 {f : Word → Word → Word} {v : Nat → Word} (h : Ready s [a, b]) (hv : ∀ l, f (val s a l) (val s b l) = v l) :
    Host.Outcome.next (laneExec len g [a, b] s (lane2 f d a b)) = laneTo s len g d v :=
  congrArg Host.Outcome.next (laneExec_lane2 len g [a, b] s d a b f v h fun l _ => hv l)

/-- A lane form without sources writes its word in each lane. -/
theorem laneTo_replicate (w : Word) :
    Host.Outcome.next (laneExec len g [] s fun m gr => gr.setV d m (Vector.replicate 64 w)) = laneTo s len g d fun _ => w :=
  congrArg Host.Outcome.next <| laneExec_setV len g [] s d _ _ (Group.pendingOn_nil _) fun m =>
    congrArg (s.cur.setV d m) <| lanes_ext fun l hl => by rw [lane_replicate, lane_lanesFrom]

end

theorem laneShortForms : Claims.LaneShortForms := by
  intro s g d a b h
  have ha : Ready s [a] := by
    simp only [Ready, Group.pendingOn, List.any_cons, List.any_nil, Bool.or_false, Bool.or_eq_false_iff] at h ⊢
    exact h.1
  refine ⟨?_, ?_, ?_, ?_, ?_, ?_, ?_⟩
  · exact laneTo_lane2 h fun l => add_eq_ofInt _ _
  · exact laneTo_lane2 h fun l => sub_eq_ofInt _ _
  · exact laneTo_lane2 h fun l => mul_eq_ofInt _ _
  · exact laneTo_lane2 h fun l => rfl
  · exact laneTo_lane2 h fun l => rfl
  · exact laneTo_lane2 h fun l => rfl
  · exact laneTo_lane1 ha fun l => rfl

theorem laneImmediateForms : Claims.LaneImmediateForms := by
  intro s g d a i w h
  refine ⟨?_, ?_, ?_, ?_, ?_, ?_, ?_, ?_, ?_, ?_, ?_, fun _ => ⟨?_, ?_, ?_⟩⟩
  · exact laneTo_lane1 h fun l => add_imm7_eq_ofInt _ i
  · exact laneTo_lane1 h fun l => add_eq_ofInt _ w
  · exact laneTo_lane1 h fun l => rfl
  · exact laneTo_lane1 h fun l => rfl
  · exact laneTo_lane1 h fun l => rfl
  · exact laneTo_lane1 h fun l => rfl
  · exact laneTo_replicate (imm7 i)
  · exact laneTo_replicate w
  · exact laneTo_lane1 h fun l => shiftLeft_eq_ofNat _ i.toNat
  · exact laneTo_lane1 h fun l => ushiftRight_eq_ofNat _ i.toNat
  · exact laneTo_lane1 h fun l => sshiftRight_eq_ofInt _ i.toNat
  · exact laneTo_lane1 h fun l => shiftLeft_eq_ofNat _ w.toNat
  · exact laneTo_lane1 h fun l => ushiftRight_eq_ofNat _ w.toNat
  · exact laneTo_lane1 h fun l => sshiftRight_eq_ofInt _ w.toNat

/-- Settles O1: each form writes its operation's word lane by lane, and the operations are the exact ones modulo 2^32. -/
theorem laneIntegerForms : Obligations.LaneIntegerForms := ⟨laneShortForms, laneImmediateForms⟩

/-! ### The hint space (R99) and `pref` (R181) -/

/-- A word is made of its fields (R90). -/
theorem toWord_ofWord (w : Word) : (Head.ofWord w).toWord = w := by
  have hbit : ∀ k, BitVec.ofBool (w.getLsbD k) = w.extractLsb' k 1 := fun k => by
    apply BitVec.eq_of_getLsbD_eq; intro i hi; simp [show i = 0 by omega]
  have hjoin : ∀ n k l : Nat, w.extractLsb' (n + k) l ++ w.extractLsb' n k = w.extractLsb' n (l + k) := fun n k l =>
    BitVec.extractLsb'_append_extractLsb'_eq_extractLsb' rfl
  simp only [Head.toWord, Head.ofWord, hbit]
  rw [hjoin 30 1 1, hjoin 24 6, hjoin 21 3, hjoin 14 7, hjoin 7 7, hjoin 0 7]
  exact BitVec.extractLsb'_eq_self

/-- The hint that the fields of a first word and a second word are (R99). -/
def hintOf (h : Head) (w1 : Word) : Instr :=
  if h.b = 1 then .prefc h.g h.d h.a (if h.ext then some w1 else none) else .nop h.g h.d h.a h.b (if h.ext then some w1 else none)

/-- Every pattern of the hint space decodes (R99): its guard, d and a fields and its second word are taken as they are. -/
theorem decode_hint {w0 : Word} (w1 : Word) (huni : w0.getLsbD 31 = true) (hprim : w0.extractLsb' 24 6 = 0x1F) :
    decode w0 w1 = .ok (hintOf (Head.ofWord w0) w1) := by
  obtain ⟨h, rfl⟩ : ∃ h : Head, w0 = h.toWord := ⟨_, (toWord_ofWord w0).symm⟩
  replace huni : h.uni = true := (congrArg Head.uni h.ofWord_toWord).symm.trans huni
  replace hprim : h.prim = 0x1F := (congrArg Head.prim h.ofWord_toWord).symm.trans hprim
  rw [Head.ofWord_toWord]
  obtain ⟨uni, ext, prim, g, d, a, b⟩ := h
  dsimp only at huni hprim
  subst huni hprim
  by_cases hb : b = 1
  · subst hb
    cases ext <;> exact decode_of_form _ _ _ rfl rfl rfl
  · have hne : (b == 1#7) = false := beq_false_of_ne hb
    have hform : ∀ ext, Head.form ⟨true, ext, 0x1F, g, d, a, b⟩ w1 = some (.nop g d a b (if ext then some w1 else none)) := by
      rintro (_ | _) <;> exact (rfl : _ = ite _ _ _).trans (by rw [hne]; rfl)
    have hwf : ∀ x, (Instr.nop g d a b x).wellFormed = true := fun _ => bne_iff_ne.mpr hb
    rw [show hintOf ⟨true, ext, 0x1F, g, d, a, b⟩ w1 = .nop g d a b (if ext then some w1 else none) from if_neg hb]
    cases ext <;> exact decode_of_form _ _ _ (hform _) (hwf _) rfl

/-- A hint only retires, by its length (R99). -/
theorem exec_hintOf (h : Head) (w1 : Word) (s : State) : exec (hintOf h w1) s = .next (s.retire (if h.ext then 2 else 1)) := by
  obtain ⟨uni, ext, prim, g, d, a, b⟩ := h
  unfold hintOf
  split <;> cases ext <;> rfl

theorem hintOf_cases (h : Head) (w1 : Word) :
    (∃ g d a b x, hintOf h w1 = .nop g d a b x) ∨ ∃ g d a x, hintOf h w1 = .prefc g d a x := by
  unfold hintOf
  split
  · exact .inr ⟨_, _, _, _, rfl⟩
  · exact .inl ⟨_, _, _, _, _, rfl⟩

/-- Settles O21: a pattern of the hint space is the hint of its fields, whose meaning retires whatever they are. -/
theorem hints : Obligations.Hints := by
  intro s g w0 w1 mem off x y z
  refine ⟨⟨rfl, rfl, rfl, rfl⟩, fun huni hprim => ?_, decode_of_encode (by decide) (by decide) (by decide),
    decode_of_encode (by decide) (by decide) (by decide), fun h => ?_⟩
  · exact ⟨_, decode_hint w1 huni hprim, exec_hintOf (Head.ofWord w0) w1 s, hintOf_cases _ w1⟩
  · exact congrArg Host.Outcome.next (laneExec_eq 2 g (memRegs mem) s _ h rfl)

end Sys2Proof.Encoding
end

section

/-!
PROOFS. The step of an issue opportunity (R89, R100, R226, R306): the words that are executed, and the state on which they are.
-/

namespace Sys2Proof.Encoding
open Sys2Proof Sys2Proof.Machine Sys2Proof.Claims Sys2Proof.Execution
-- One theorem at a time: fewer threads hold memory while the whole text compiles.
set_option Elab.async false

/-! ### The words that an issue opportunity executes (R89, R100, R226) -/

theorem instrOf_ok {bs : List Byte} {i : Instr} (h : decodeBytes bs = .ok i) : instrOf bs = i := by
  rw [instrOf, h]

section
variable {s : State} {bs : List Byte} {i : Instr}

/-- A group that holds no words fetches at its PC. -/
theorem fetchNext_fresh (hheld : s.cur.held = []) : s.fetchNext = s.fetch s.cur.path.pc := if_pos (by rw [hheld]; rfl)

/-- One word that stands at the PC is the instruction it decodes to. -/
theorem fetchNext_one (hheld : s.cur.held = []) (hword : s.fetchWord s.cur.path.pc = .ok bs) (hone : (bs.getD 3 0).getLsbD 6 = false)
    (hdec : decodeBytes bs = .ok i) : s.fetchNext = .ok i bs := by
  rw [fetchNext_fresh hheld, State.fetch, hword, ← instrOf_ok hdec]
  exact if_neg (by rw [hone]; decide)

/-- Two words that stand at the PC are the instruction they decode to. -/
theorem fetchNext_two {bs2 : List Byte} (hheld : s.cur.held = []) (hword : s.fetchWord s.cur.path.pc = .ok bs)
    (htwo : (bs.getD 3 0).getLsbD 6 = true) (hnext : s.fetchWord (s.cur.path.pc + 1) = .ok bs2)
    (hdec : decodeBytes (bs ++ bs2) = .ok i) : s.fetchNext = .ok i (bs ++ bs2) := by
  rw [fetchNext_fresh hheld, State.fetch, hword, ← instrOf_ok hdec]
  exact (if_pos htwo).trans (by rw [hnext])

/-- The words that a group holds are the instruction they decode to. -/
theorem fetchNext_held (hheld : s.cur.held ≠ []) (hdec : decodeBytes s.cur.held = .ok i) : s.fetchNext = .ok i s.cur.held := by
  rw [State.fetchNext, if_neg (by simpa using hheld), instrOf_ok hdec]

end

/-- Fetching its words changes the words that the group holds, and what reads leave. -/
theorem fetched_kept (s : State) (bs : List Byte) : ∃ t, ReadKept s t ∧ s.fetched bs = t.setCur { t.cur with held := bs } := by
  unfold State.fetched
  refine ⟨_, ?_, rfl⟩
  split
  · exact ReadKept.refl s
  · refine foldl_kept ReadKept.refl ReadKept.trans (fun s k => ?_) _ s
    split
    · exact readAs_kept _ _ _ _ _ _ _
    · exact ReadKept.refl s

theorem afterPushes_idle {s : State} (hpushes : s.cur.pushes = []) (hlate : s.cur.late = []) : s.afterPushes = s := by
  have hw : s.writePushed = s := by rw [State.writePushed, hpushes]; rfl
  rw [State.afterPushes, hw, State.flushLate, hlate]
  rfl

/-! ### The issue opportunity (R35, R37, R306) -/

/-- The group of a key comes into focus as it is. -/
theorem focus_cur {s : State} {key : Nat} {gr : Group} (h : s.group? key = some gr) : (s.focus key).cur = gr := by
  unfold State.group? at h
  unfold State.focus
  split
  · rename_i hc; rw [if_pos hc] at h; exact Option.some.inj h
  · rename_i hc; rw [if_neg hc] at h; rw [h]

/-- An issue opportunity of a group that may issue, at no join and keeping its turn, runs what it fetches. -/
theorem issueStep_runs {s kept : State} {key : Nat} {other replica : Bool} {gr : Group} (hgr : s.group? key = some gr)
    (hissuable : gr.issuable = true) (hjoin : gr.atJoin = none) (hswitch : gr.switchDue other = false) :
    issueStep s kept key other replica = runFetched key (s.prepare key other replica).fetchNext (s.prepare key other replica) := by
  unfold issueStep
  rw [hgr]
  simp [hissuable, hjoin, hswitch]

/-- A step of a running device takes the oldest item of its agenda. -/
theorem step_sched {s : State} {x : Sched} {rest : List Sched} (h : s.agenda = x :: rest) (hfrozen : s.frozen = false)
    (hpowered : s.powered = true) : step s = runSched x { s with agenda := rest } s := by
  rw [step, runNext, h]
  simp [hfrozen, hpowered]

/-- Where no Stage line is absent, an instruction that has been executed leaves but the group's own copies to drop (R201). -/
theorem endIssue_cases {t : State} (key : Nat) (habsent : t.absent = []) :
    t.endIssue key = t ∨ t.endIssue key = { t with replicas := t.replicas.filter fun r => r.holder != .own key } := by
  unfold State.endIssue State.dropOwn State.settleAbsent
  dsimp only
  split
  · exact .inl (by rw [habsent]; rfl)
  · exact .inr (by simp [habsent])

/-- Settles O56: the step prepares the group, and what the prepared group fetches is the instruction that its words decode to. -/
theorem stepRunsDecoded : Obligations.StepRunsDecoded := by
  intro s key other replica rest gr i hagenda hfrozen hpowered s0 hgr hissuable hjoin hswitch s1
  have hcur : s1.cur = { gr with issuing := gr.pickPath other } :=
    congrArg (fun g : Group => { g with issuing := g.pickPath other }) (focus_cur hgr)
  have hheld : s1.cur.held = gr.held := by rw [hcur]
  have hstep : ∀ bs, s1.fetchNext = .ok i bs → step s = afterIssue key (exec i (s1.fetched bs).afterPushes) := by
    intro bs hf
    rw [step_sched hagenda hfrozen hpowered]
    exact (issueStep_runs hgr hissuable hjoin hswitch).trans (congrArg (runFetched key · s1) hf)
  refine ⟨hcur, fun h bs hword hone hdec => ?_, fun h bs bs2 hword htwo hnext hdec => ?_, fun h hdec => ?_, fun t habsent => ?_,
    fun _ => rfl, fun _ => rfl, fun bs => ?_⟩
  · exact hstep bs (fetchNext_one (hheld.trans h) hword hone hdec)
  · exact hstep _ (fetchNext_two (hheld.trans h) hword htwo hnext hdec)
  · rw [← hheld] at h hdec ⊢
    exact hstep _ (fetchNext_held h hdec)
  · exact (endIssue_cases key habsent).imp (congrArg Host.Outcome.next) (congrArg Host.Outcome.next)
  · obtain ⟨u, hu, hfetched⟩ := fetched_kept s1 bs
    intro t
    have ht : t = u.setCur { u.cur with held := bs } := hfetched
    have htcur : t.cur = { s1.cur with held := bs } := by rw [ht, ← hu.cur]; rfl
    refine ⟨htcur, ?_, ?_, ?_, fun hpushes hlate => afterPushes_idle ?_ ?_⟩
    · rw [ht]; exact hu.mem
    · rw [ht]; exact hu.stage
    · rw [ht]; exact hu.write.others
    · rw [htcur]; exact hpushes
    · rw [htcur]; exact hlate

end Sys2Proof.Encoding
end

section

/-!
PROOFS. Traps: what a store of the group depends on, the entry of a trap (R216 to R222), and the forms and events whose effect is one (R98,
R100, R154, R175, R218, R219).
-/

namespace Sys2Proof.Encoding
open Sys2Proof Sys2Proof.Machine Sys2Proof.Claims Sys2Proof.Execution
-- One theorem at a time: fewer threads hold memory while the whole text compiles.
set_option Elab.async false

/-! ### What the bytes of memory and the fates of accesses depend on -/

/-- A state without what no byte of memory or of the Stage, no stack entry and no fate of an access of the group in focus depends on: the
L2, cached copies and completion times, what has gone outside, the issue cycles charged, and the group's notes of its issues. -/
def sight (s : State) : State :=
  { s with
    l2 := [], hotPending := [], moved := [], replicas := [], snaps := [], lineTimes := [], peerBytes := [], hostBytes := [], out := []
    charged := [], cycles := []
    cur := { s.cur with horizon := Vector.replicate 6 0, lastIssue := none, agedAt := none } }

theorem sight_of_l2Kept {s t : State} (h : L2Kept s t) : sight t = sight s := by
  rw [h]; rfl

theorem pagedFates_sight (s : State) (part : Nat) (go : Dest) : ∀ ias, (sight s).pagedFates part go ias = s.pagedFates part go ias
  | [] => rfl
  | ia :: ias => by
    rw [State.pagedFates, State.pagedFates, pagedFates_sight s part go ias]
    rfl

theorem fate_sight (s : State) : (sight s).fate = s.fate := by
  funext part d wr n
  cases d with
  | aperture q base off desc =>
    show (sight s).apertureFate part q base off desc n = s.apertureFate part q base off desc n
    unfold State.apertureFate
    simp only [pagedFates_sight]
    rfl
  | _ => rfl

theorem fateVirt_sight (s : State) : (sight s).fateVirt = s.fateVirt := by
  funext part ranges va rd wr ex atom n
  rw [State.fateVirt, State.fateVirt, fate_sight]
  rfl

theorem pushDest_sight (s : State) : (sight s).pushDest = s.pushDest := by
  have hshare : (sight s).fateShare = s.fateShare := by
    funext first lines off n
    rw [State.fateShare, State.fateShare, fate_sight]
  have hstream : (sight s).streamFate = s.streamFate := by
    funext gr p a rd wr
    rw [State.streamFate, State.streamFate, hshare, fateVirt_sight]
  funext gr j
  rw [State.pushDest, State.pushDest, hstream]

theorem curFate_sight (s : State) : (sight s).curFate = s.curFate := by
  have hmeets : (sight s).pushMeets (sight s).cur = s.pushMeets s.cur := by
    funext j d n
    rw [State.pushMeets, State.pushMeets, pushDest_sight]
    rfl
  have hpushed : (sight s).afterPushed = s.afterPushed := by
    funext n f
    cases f with
    | go d =>
      show (if !s.cur.pushes.isEmpty && (sight s).pushMeets (sight s).cur s.cur.pushes.length d n then Fate.absent else .go d) = _
      rw [hmeets]
      rfl
    | _ => rfl
  funext va rd wr ex atom n
  rw [State.curFate, State.curFate, fateVirt_sight, hpushed]
  rfl

theorem healByte_sight (s : State) (stage : Bool) (a : Nat) : (sight s).healByte stage a = sight (s.healByte stage a) := by
  unfold State.healByte
  rw [show (sight s).poisoned = s.poisoned from rfl]
  dsimp only
  split <;> rfl

theorem healBytes_sight (stage : Bool) : ∀ (n : Nat) (s : State) (a : Nat),
    (sight s).healBytes stage a n = sight (s.healBytes stage a n)
  | 0, _, _ => rfl
  | n + 1, s, a => by
    rw [State.healBytes, healByte_sight]
    exact healBytes_sight stage n _ (a + 1)

/-- The state in which a write has healed the poison of its bytes, where there is any (R165). -/
def healed (s : State) (stage : Bool) (a n : Nat) : State :=
  if s.poison.isEmpty && (stage || s.failed.isEmpty) then s else s.healBytes stage a n

theorem healed_sight (s : State) (stage : Bool) (a n : Nat) : healed (sight s) stage a n = sight (healed s stage a n) := by
  unfold healed
  rw [show (sight s).poison = s.poison from rfl, show (sight s).failed = s.failed from rfl]
  split
  · rfl
  · exact healBytes_sight stage n s a

/-- The bytes of a write and the poison it heals, without what else a write leaves. -/
def bytesWritten (s : State) (part : Nat) (d : Dest) (bs : List Byte) : State :=
  match d with
  | .paged ia =>
    match s.walk part ia with
    | .resident pa _ _ _ _ => { healed s false pa bs.length with mem := writeBytes (healed s false pa bs.length).mem pa bs }
    | _ => s
  | .stage b => { healed s true b bs.length with stage := writeBytes (healed s true b bs.length).stage b bs }
  | _ => s

theorem bytesWritten_sight (s : State) (part : Nat) (d : Dest) (bs : List Byte) :
    bytesWritten (sight s) part d bs = sight (bytesWritten s part d bs) := by
  cases d with
  | paged ia =>
    simp only [bytesWritten]
    rw [show (sight s).walk part ia = s.walk part ia from rfl]
    cases s.walk part ia with
    | resident pa wp home size leaf => dsimp only; rw [healed_sight]; rfl
    | _ => rfl
  | stage b => simp only [bytesWritten]; rw [healed_sight]; rfl
  | _ => rfl

/-- Beside the bytes and their poison a write changes nothing that is in sight. -/
theorem sight_writeDest (s : State) (part : Nat) (d : Dest) (bs : List Byte) (writer : Nat) :
    sight (s.writeDest part d bs writer) = sight (bytesWritten s part d bs) := by
  cases d with
  | paged ia =>
    simp only [State.writeDest, bytesWritten]
    cases s.walk part ia with
    | resident pa wp home size leaf =>
      dsimp only
      rw [show (if (s.poison.isEmpty && s.failed.isEmpty) = true then s else s.healBytes false pa bs.length) =
        healed s false pa bs.length from rfl]
      generalize healed s false pa bs.length = s1
      have htouch := sight_of_l2Kept (touch_kept { s1 with mem := writeBytes s1.mem pa bs } part (.paged ia) bs.length true)
      split
      · exact htouch
      · split <;> exact htouch
    | _ => rfl
  | stage b =>
    simp only [State.writeDest, bytesWritten]
    rw [show (if s.poison.isEmpty = true then s else s.healBytes true b bs.length) = healed s true b bs.length by simp [healed]]
    split <;> rfl
  | _ => rfl

/-- States of one sight have one sight after a store of the group. -/
theorem groupWrite_sight {s t : State} (h : sight s = sight t) (d : Dest) (bs : List Byte) :
    sight (s.groupWrite d bs) = sight (t.groupWrite d bs) := by
  have hw : ∀ s : State, sight (s.groupWrite d bs) = bytesWritten (sight s) (sight s).cur.part d bs := fun s =>
    (sight_writeDest s s.cur.part d bs s.cur.key).trans (bytesWritten_sight s s.cur.part d bs).symm
  rw [hw, hw, h]

/-- States of one sight have one sight after a write of stack entries. -/
theorem pushWrite_sight : ∀ (es : List (BitVec 128)) {s t : State} (k : Nat), sight s = sight t →
    sight (s.pushWrite k es) = sight (t.pushWrite k es)
  | [], _, _, _, h => h
  | e :: es, s, t, k, h => by
    have hcap : s.cur.rvcap = t.cur.rvcap := congrArg (fun s => s.cur.rvcap) h
    have haddr : s.cur.stackAddr k = t.cur.stackAddr k := congrArg (fun s => s.cur.stackAddr k) h
    have hfate : s.curFate (s.cur.stackAddr k) false true false none 16 = t.curFate (t.cur.stackAddr k) false true false none 16 := by
      rw [haddr, ← curFate_sight, h, curFate_sight]
    rw [State.pushWrite, State.pushWrite, hcap, hfate]
    split
    · exact pushWrite_sight es (k + 1)
        (congrArg (fun s => { s with cur := { s.cur with reserve := SMap.set 0 s.cur.reserve k e } }) h)
    · split
      · exact pushWrite_sight es (k + 1) (groupWrite_sight h _ _)
      · exact pushWrite_sight es (k + 1) h

theorem push_sight {s t : State} (h : sight s = sight t) (es : List (BitVec 128)) : sight (s.push es) = sight (t.push es) := by
  have hdepth : s.cur.rvdepth = t.cur.rvdepth := congrArg (fun s => s.cur.rvdepth) h
  have hpush := pushWrite_sight es s.cur.rvdepth.toNat h
  rw [hdepth] at hpush
  unfold State.push
  rw [hdepth]
  exact congrArg (fun s => { s with cur := { s.cur with rvdepth := s.cur.rvdepth + BitVec.ofNat 16 es.length } }) hpush

/-- States of one sight have room for the same stack entries. -/
theorem pushFate_sight {s t : State} (h : sight s = sight t) (k : Nat) (es : List (BitVec 128)) : s.pushFate k es = t.pushFate k es := by
  have hs : ∀ s : State, (sight s).pushFate k es = s.pushFate k es := fun s => by
    induction es generalizing k with
    | nil => rfl
    | cons e es ih => rw [State.pushFate, State.pushFate, ih, curFate_sight]; rfl
  rw [← hs, h, hs]

/-! ### Taking a trap (R216 to R222) -/

/-- The companion and the TRAP entry that a trap pushes (R217, R219). -/
def trapEntries (p : PathSlot) (t : TrapInfo) : List (BitVec 128) :=
  let next := p.pc + BitVec.ofNat 30 t.len
  let whole := t.lanes == p.mask
  [stackEntry .join p.join next (if whole then 0 else p.mask),
    stackEntry .trap (if whole then p.join else next) (if t.replay then p.pc else next) t.lanes]

/-- What `trapc` records of a trap at a level of nesting (R218). -/
def trapcOf (nest : BitVec 4) (t : TrapInfo) : Word :=
  nest ++ 0#10 ++ BitVec.ofNat 1 (t.len - 1) ++ BitVec.ofBool t.replay ++ BitVec.ofNat 8 t.info ++ BitVec.ofNat 8 t.cause

theorem trapcOf_fields (nest : BitVec 4) (t : TrapInfo) (hlen : t.len = 1 ∨ t.len = 2) :
    let w := trapcOf nest t
    w.extractLsb' 0 8 = BitVec.ofNat 8 t.cause ∧ w.extractLsb' 8 8 = BitVec.ofNat 8 t.info ∧ w.getLsbD 16 = t.replay ∧
      w.getLsbD 17 = decide (t.len = 2) ∧ w.extractLsb' 28 4 = nest := by
  have hlong : (BitVec.ofNat 1 (t.len - 1)).getLsbD 0 = decide (t.len = 2) := by rcases hlen with h | h <;> rw [h] <;> rfl
  refine ⟨ext_lo _ _, (ext_hi _ (BitVec.ofNat 8 t.cause) 0 8).trans (ext_lo _ _), ?_, ?_, ?_⟩
  · exact (bit_hi _ (BitVec.ofNat 8 t.cause) 8).trans <| (bit_hi _ (BitVec.ofNat 8 t.info) 0).trans <|
      (bit_lo _ _ 0 (by decide)).trans (by simp)
  · exact (bit_hi _ (BitVec.ofNat 8 t.cause) 9).trans <| (bit_hi _ (BitVec.ofNat 8 t.info) 1).trans <|
      (bit_hi _ (BitVec.ofBool t.replay) 0).trans <| (bit_lo _ _ 0 (by decide)).trans hlong
  · exact (ext_hi _ (BitVec.ofNat 8 t.cause) 20 4).trans <| (ext_hi _ (BitVec.ofNat 8 t.info) 12 4).trans <|
      (ext_hi _ (BitVec.ofBool t.replay) 11 4).trans <| (ext_hi _ (BitVec.ofNat 1 (t.len - 1)) 10 4).trans <|
      (ext_hi _ 0#10 0 4).trans (ext_all nest)

/-- A group that goes on at its handler, with its horizons and `trapc` as given (R216, R218, R224). -/
def inHandler (gr : Group) (horizon : Vector Nat 6) (trapc : Word) (t : TrapInfo) : Group :=
  let g1 := { gr with horizon := horizon }
  let g2 := (g1.setSlot g1.issuing ⟨true, g1.trapv, t.lanes, 0x3FFFFFFF⟩).makeCurrent g1.issuing
  { g2 with
    trapc := trapc, trapa := t.addr, trapm := t.lanes, wait := .none, unfinished := none, held := [], watched := []
    pendingTrap := none, halted := g2.halted || g2.stepping, stepping := false, yielded := false }

/-- What going on at the handler changes of a group. -/
theorem inHandler_frame (gr : Group) (horizon : Vector Nat 6) (trapc : Word) (t : TrapInfo) :
    let h := inHandler gr horizon trapc t
    h = { gr with
      s0 := h.s0, s1 := h.s1, quantum := h.quantum, halted := h.halted, horizon := horizon, current := gr.issuing, count := 0
      trapc := trapc, trapa := t.addr, trapm := t.lanes, wait := .none, unfinished := none, held := [], watched := []
      pendingTrap := none, stepping := false, yielded := false } := by
  unfold inHandler Group.makeCurrent Group.setSlot
  cases gr.issuing <;> rfl

theorem inHandler_paths (gr : Group) (horizon : Vector Nat 6) (trapc : Word) (t : TrapInfo) :
    (inHandler gr horizon trapc t).path = ⟨true, gr.trapv, t.lanes, 0x3FFFFFFF⟩ ∧
      (inHandler gr horizon trapc t).otherPath = gr.otherPath := by
  obtain ⟨i, hi⟩ : ∃ i, gr.issuing = i := ⟨_, rfl⟩
  unfold inHandler Group.makeCurrent Group.setSlot Group.path Group.otherPath Group.slotAt
  dsimp only
  rw [hi]
  cases i <;> exact ⟨rfl, rfl⟩

/-- A trap whose entries find room pushes them and goes on at the handler (R216 to R222). -/
theorem enterTrap_room {s : State} (hroom : TrapRoom s) (t : TrapInfo) :
    let u := s.push (trapEntries s.cur.path t)
    s.enterTrap t = u.setCur (inHandler u.cur s.cur.horizon (trapcOf (s.cur.trapc.extractLsb' 28 4 + 1) t) t) := by
  obtain ⟨hnest, hcap, hdepth, hfate⟩ := hroom
  have hgo : ¬(s.cur.trapc.extractLsb' 28 4 = 15 ∨ s.cur.rvcap.toNat + 2 ≤ s.cur.rvdepth.toNat + 1 ∨
      2 ^ 16 ≤ s.cur.rvdepth.toNat + 2) := by
    rintro (h | h | h)
    · exact hnest h
    · omega
    · omega
  unfold State.enterTrap
  dsimp only
  rw [if_neg hgo, hfate]
  rfl

/-- A group whose stack has room for the two entries takes its trap. -/
theorem enterTrap_trapped {s : State} (hroom : TrapRoom s) (t : TrapInfo) (hlen : t.len = 1 ∨ t.len = 2) :
    Trapped s t.cause t.info t.addr t.lanes t.len t.replay (s.enterTrap t) := by
  obtain ⟨hcause, hinfo, hreplay, hlong, hlevel⟩ := trapcOf_fields (s.cur.trapc.extractLsb' 28 4 + 1) t hlen
  obtain ⟨hpath, hother⟩ := inHandler_paths (s.push (trapEntries s.cur.path t)).cur s.cur.horizon
    (trapcOf (s.cur.trapc.extractLsb' 28 4 + 1) t) t
  have hframe := inHandler_frame (s.push (trapEntries s.cur.path t)).cur s.cur.horizon
    (trapcOf (s.cur.trapc.extractLsb' 28 4 + 1) t) t
  have hpush := push_cur s (trapEntries s.cur.path t)
  rw [enterTrap_room hroom t]
  generalize inHandler _ _ _ t = gr at hpath hother hframe
  refine ⟨hpath.trans (by rw [hpush]), hother.trans (by rw [hpush]; rfl), ?_⟩
  dsimp only at hframe
  rw [show (State.setCur (s.push (trapEntries s.cur.path t)) gr).cur = gr from rfl, hframe]
  refine ⟨rfl, rfl, hcause, hinfo, hreplay, hlong, hlevel, ?_⟩
  rw [hpush]
  exact ⟨rfl, rfl, rfl, rfl, rfl, rfl, rfl, rfl, rfl, rfl, rfl, rfl, rfl, rfl, rfl⟩

/-- The state in which a trap is entered: the instruction has issued, and its cycle is charged (R303). -/
def issuedNow (s : State) : State :=
  State.chargeCycle { s with cur := { s.cur with lastIssue := some s.cycle, agedAt := none } }

theorem sight_issuedNow (s : State) : sight (issuedNow s) = sight s := by
  unfold issuedNow
  rw [chargeCycle_eq]
  rfl

/-- An issued instruction takes its trap: the charge of its cycle changes nothing of it. -/
theorem takeTrap_trapped {s : State} (hroom : TrapRoom s) (t : TrapInfo) (hlen : t.len = 1 ∨ t.len = 2) :
    Trapped s t.cause t.info t.addr t.lanes t.len t.replay (s.takeTrap t) := by
  have hsight := sight_issuedNow s
  have hcur : (issuedNow s).cur = { s.cur with lastIssue := some s.cycle, agedAt := none } := State.chargeCycle_cur _
  have hpush := fun es => push_sight hsight es
  have hmem : ∀ es, ((issuedNow s).push es).mem = (s.push es).mem := fun es => (congrArg State.mem (hpush es) :)
  have hstage : ∀ es, ((issuedNow s).push es).stage = (s.push es).stage := fun es => (congrArg State.stage (hpush es) :)
  have hreserve : ∀ es, ((issuedNow s).push es).cur.reserve = (s.push es).cur.reserve := fun es =>
    congrArg (fun s => s.cur.reserve) (hpush es)
  have hroom' : TrapRoom (issuedNow s) := by
    unfold TrapRoom
    rw [hcur]
    obtain ⟨hnest, hcap, hdepth, hfate⟩ := hroom
    exact ⟨hnest, hcap, hdepth, fun e e' => (pushFate_sight hsight _ _).trans (hfate e e')⟩
  have h := enterTrap_trapped hroom' t hlen
  unfold Trapped at h
  simp only [hmem, hstage, hreserve] at h
  rw [hcur] at h
  exact h

theorem wordLen_cases (w0 : Word) : wordLen w0 = 1 ∨ wordLen w0 = 2 := by
  unfold wordLen
  split
  · exact .inr rfl
  · exact .inl rfl

/-- A trap of the whole issuing path (R218). -/
theorem trapPath_trapped {s : State} (hroom : TrapRoom s) (cause info : Nat) (addr : DWord) {len : Nat} (replay : Bool)
    (hlen : len = 1 ∨ len = 2) : Trapped s cause info addr s.cur.path.mask len replay (s.trapPath cause info addr len replay) :=
  takeTrap_trapped hroom ⟨cause, info, addr, s.cur.path.mask, len, replay⟩ hlen

theorem trapInstructions : Claims.TrapInstructions := by
  intro s g n w0 w1 hroom len words
  have hill : exec (.illegalPattern w0 w1) s = .next (s.illegal w0 w1) := rfl
  refine ⟨fun hg => ⟨_, ?_, trapPath_trapped hroom 17 n.toNat 0 false (.inr rfl)⟩,
    fun hg hport => ⟨_, ?_, trapPath_trapped hroom 16 n.toNat 0 false (.inr rfl)⟩,
    fun huni => ⟨_, ?_, trapPath_trapped hroom 1 0 words false (wordLen_cases w0)⟩,
    fun hlane hm => ⟨_, ?_, takeTrap_trapped hroom ⟨1, 0, words, s.cur.emask, len, false⟩ (wordLen_cases w0)⟩, fun hlane hm => ?_⟩
  · exact congrArg Host.Outcome.next (uniDo_eq 2 g [] s _ hg (Group.pendingOn_nil _))
  · have hhalt : (s.debugOn && s.haltBrk) = false := by rcases hport with h | h <;> simp [h]
    refine congrArg Host.Outcome.next ((uniDo_eq 2 g [] s _ hg (Group.pendingOn_nil _)).trans ?_)
    rw [hhalt]
    rfl
  · rw [hill, State.illegal, huni]; rfl
  · rw [hill, State.illegal, hlane, if_neg hm]; rfl
  · rw [hill, State.illegal, hlane, if_pos hm]; rfl

theorem trapEvents : Claims.TrapEvents := by
  intro s fatal second addr hroom hlive
  have hfocus := focus_self hlive
  refine ⟨fun hissuable => ⟨_, ?_, enterTrap_trapped hroom
    ⟨if fatal then 5 else 4, 0, addr, s.cur.path.mask, if second then 2 else 1, true⟩ (by cases second <;> simp)⟩,
    fun i hpending hlen => ⟨_, ?_, enterTrap_trapped hroom i hlen⟩⟩
  · show execFetchFault s.cur.key fatal second addr s = _
    unfold execFetchFault
    rw [hfocus]
    simp [hlive, hissuable]
  · have hgroup : s.group? s.cur.key = some s.cur := by simp [State.group?, hlive]
    show execTrapEntry s.cur.key s = _
    unfold execTrapEntry
    rw [hgroup, hfocus]
    simp [hpending]

/-- Settles O19: each form and event enters its trap with the cause, info, address and lanes of its row of R218. -/
theorem raisingTraps : Obligations.RaisingTraps := ⟨trapInstructions, trapEvents⟩

/-! ### A uniform access that is done but for its watchpoint's trap (R178, R218, R225) -/

/-- A group that has performed its uniform access and has only the trap of watchpoint 0 left; its range table holds no address by now, and
its trap entries go into the reserve. -/
def watchLeft : State :=
  { State.reset with
    cur := { Group.idle with
      live := true, s0 := ⟨true, 0, 1, 0x3FFFFFFF⟩, rvcap := 0, unfinished := some 0, watched := [(0, 0, 0)] } }

theorem trapRoom_watchLeft : TrapRoom watchLeft := ⟨by decide, by decide, by decide, fun _ _ => rfl⟩

/-- An access to the address of its load would trap PERM. -/
theorem accessFate_watchLeft :
    watchLeft.accessFate false (watchLeft.cur.addrOf (.base 0) 0 false watchLeft.cur.leader) 4 true false none = .trap 4 := by
  decide +kernel

/-- Executed again, the load takes the watchpoint's trap alone (R225). -/
theorem exec_watchLeft : exec (.gld 7 0 (.base 0) 0 .plain false .w 0) watchLeft = .next (watchLeft.trapPath 18 0 0 2 false) := rfl

/-- Refutes O22: a uniform access that has been performed but for its watchpoint's trap has only that trap left when it is executed again
(R218, R225), whatever has become of its address, and the statement speaks of a group in any state, so also of one whose address traps PERM
by then. -/
theorem not_accesses : ¬ Obligations.Accesses := by
  rintro ⟨-, -, hchecks⟩
  obtain ⟨hload, -⟩ := hchecks watchLeft 7 0 (.base 0) 0 .plain false false .w .add 0 0
  obtain ⟨hstops, -⟩ := hload ⟨rfl, by decide +kernel⟩
  have hsame := Host.Outcome.next.inj ((hstops 4 accessFate_watchLeft).symm.trans exec_watchLeft)
  obtain ⟨-, -, -, -, hperm, -⟩ := trapPath_trapped trapRoom_watchLeft 4 0
    (BitVec.ofInt 64 (watchLeft.cur.addrOf (.base 0) 0 false watchLeft.cur.leader)) false (.inr rfl : (2 : Nat) = 1 ∨ 2 = 2)
  obtain ⟨-, -, -, -, hwatch, -⟩ := trapPath_trapped trapRoom_watchLeft 18 0 0 false (.inr rfl : (2 : Nat) = 1 ∨ 2 = 2)
  have hcause : (BitVec.ofNat 8 4) = BitVec.ofNat 8 18 :=
    hperm.symm.trans ((congrArg (fun t : State => t.cur.trapc.extractLsb' 0 8) hsame).trans hwatch)
  exact absurd hcause (by decide)

end Sys2Proof.Encoding
end
